-- ==== Sys2Proof/Word.lean ====
section
/-!
DEFINITION. The word types of the KDX-512 model and the shape of its sparse tables.
A register is a 32-bit word, a memory cell is a byte, and a table that the device indexes by a number
is a list of (index, value) pairs with strictly rising indices.
-/
namespace Sys2Proof

/-- A byte of memory. -/
abbrev Byte := BitVec 8
/-- A 32-bit register. -/
abbrev W32 := BitVec 32
/-- A 64-bit quantity NAME, the pair NAME_LO and NAME_HI. -/
abbrev W64 := BitVec 64
/-- A table indexed by a number: pairs with strictly rising indices. What an unlisted index holds is
said where the table is read. -/
abbrev Sparse (α : Type) := List (Nat × α)

end Sys2Proof
end

