-- ==== Sys2Proof/Types.lean ====
section
/-!
DEFINITION. The operand types of the commands: everything a command of the block can carry beside a
plain number. A physical event the spec does not derive from the device's own state (a soft error, a
sensor reading, what host memory answers, the verdict on a signature) is an operand.
-/
namespace Sys2Proof

/-- What the physical world did to the logic one step used: nothing, a single-bit error that ECC
corrects, an error ECC cannot correct, a residue mismatch (R63), a parity error (R61, R130), a detection-code mismatch
on a C word (R157), or an error of the deck cache's SECDED, corrected or not (R75). -/
inductive Upset | none | ce | ue | residue | parity | detect | deckCe | deckUe
  deriving DecidableEq, Repr

/-- The unit or units a command packet is addressed to (R126): one unit, or unit group `ugrp` of a stack. -/
inductive UTarget | one (u : Nat) | group (stk ugrp : Nat)
  deriving DecidableEq, Repr

/-- Who makes a memory request, with the function it acts for (R173): 0x100 is the device itself. -/
inductive Requester | host (f : Nat) | core (f : Nat) | engine (f : Nat) | dealer | walker (f : Nat)
    | fabric (f : Nat)
  deriving DecidableEq, Repr

/-- What a physical read meets in the DRAM (Table 6-8): no error, one the code corrects, one it corrects whose symbol
lies on through-silicon lane `lane` (R383), one it cannot correct. -/
inductive MemErr | none | corrected | correctedLane (lane : Nat) | uncorrectable
  deriving DecidableEq, Repr

/-- The block types of Table 13-5. -/
inductive Blk | hub | clk | pwr | thm | ras | jrn | sec | pcie | deal | svc | att | fab | clu | stk | llc
    | lpd | opt | mbx | ch | que | nbu
  deriving DecidableEq, Repr

/-- The atomic operations of R177. -/
inductive AtomOp | add | smin | smax | umin | umax | cas
  deriving DecidableEq, Repr

/-- What the board controller asks for over MCTP (R12): the coolant temperatures (R31), the serial
number (Table 16-4), or the cause of a trip (R370). -/
inductive MctpReq | coolant | serial | trip
  deriving DecidableEq, Repr

/-- A request to configuration space: identity (R425), Bus Master Enable (R330), the power state
(R329), VF Enable, the PASID and ATS capabilities (R316), the sizes of the resizable BARs (Table 12-2). -/
inductive CfgReq | readId | bme (on : Bool) | power (d3hot : Bool) | vfEnable (on : Bool)
    | pasid (on : Bool) | ats (on : Bool) | pfBar (log2 : Nat) | vfBar (log2 : Nat)
  deriving DecidableEq, Repr

/-- The clocks and references of R356 and R359: the references, and the outputs of the PLLs. -/
inductive ClkSrc | crystal | refclk | fref | cclk (d : Nat) | nclk (d : Nat) | hclk | bclk (s : Nat)
    | mclk (s : Nat) | lclk | oclk (n : Nat) | sclk
  deriving DecidableEq, Repr

/-- IDE_KM requests (R336): program a stream's keys, and set or stop its use. Stream 0 is the link
stream, streams 1 to 8 are the selective ones. -/
inductive IdeReq | keyProg (stream : Nat) | setGo (stream : Nat) | setStop (stream : Nat)
  deriving DecidableEq, Repr

/-- TDISP requests for a VF (R337). -/
inductive TdispReq | lock | start | stop | getState
  deriving DecidableEq, Repr

/-- SPDM requests over DOE (R335, R417): a certificate chain, a measurement, the start and the end of a secure session. -/
inductive SpdmReq | getCertificate (slot : Nat) | getMeasurement (idx : Nat) | openSession | endSession
  deriving DecidableEq, Repr

/-- A signed command object as the security engine reads it (R426): its action, the key slot it names,
and whether the signature verifies. The object's layout is the Perzu toolchain's and is not in the spec. -/
inductive SecAct | program (slot : Nat) (hash : BitVec 512) | revoke (slot : Nat) | openCerts
  deriving DecidableEq, Repr
structure SecObj where
  act : SecAct
  keySlot : Nat
  sigOk : Bool
  deriving DecidableEq, Repr

/-- One reading of every sensor of Table 14-8, in degrees Celsius. -/
structure Sensors where
  compute : List Nat := []
  hub : List Nat := []
  optical : List Nat := []
  board : List Nat := []
  inlet : Nat := 0
  outlet : Nat := 0
  deriving DecidableEq, Repr

/-- A 64-byte request descriptor (Table 8-1), byte 0 in the low bits. -/
abbrev Desc := BitVec 512

/-- The host's answer to the stop table read of R235: none was needed, it could not be read, or its bytes. -/
inductive StopRead | notNeeded | unreadable | bytes (bs : List Byte)
  deriving DecidableEq, Repr

/-- The host's answer to one prompt read of R234, for sequence `gid`: its tokens, or a failed read. -/
structure PromptRead where
  gid : Nat
  toks : Option (List Nat)
  deriving DecidableEq, Repr

/-- What bring-up measures (Table 16-7): the stacks' die temperature, and the links that fail their margin: physical
channels (stack × 34 + channel), LPDDR channels, optical receive lanes (engine × 9 + lane), domains whose start fails
(R361), and the image slots whose header or payload cannot be read from flash (R411, failure 7). -/
structure Bring where
  temp : Nat := 40
  badHdr : List Nat := []
  badPay : List Nat := []
  badCh : List Nat := []
  badLpd : List Nat := []
  badOpt : List Nat := []
  badDom : List Nat := []
  deriving DecidableEq, Repr

/-- One candidate of a sampling row (R251): a token and its logit in extended form, mantissa and exponent. -/
structure Cand where
  tok : Nat
  m : Int
  e : Int
  deriving DecidableEq, Repr

/-- An Idlum packet (R297): the 128-bit header and the payload. -/
structure Packet where
  hdr : BitVec 128
  payload : List Byte
  deriving DecidableEq, Repr

/-- What a received frame brings beside its header, payload and the other fields of its trailer: the trailer's CRC (R296), the
lanes of the symbols its FEC corrected and how many of its codewords the FEC could not correct (R293, Table 11-12). -/
structure FrameRx where
  crc : Nat
  syms : List Nat
  uncorr : Nat := 0
  deriving DecidableEq, Repr

/-- What a model bundle gives the dealer at MODEL_LOAD (R191, R252, R265, R274). The bundle's format is the Perzu
toolchain's and is not in the spec (log entry 27). `vocab` is MODEL_VOCAB, `owner` the function whose ways and
scratchpad the model's requests use, `thin` says that a thin image exists, `ugrp` its unit group. The coefficients of
R274 are whole picoseconds. `tpb` is the 1 KiB pattern of the trick-parameter block (decks, tensor descriptors,
semaphores, counts), written at `tpbAt` and up; `tabAt` is where the model's section of the length table is written,
`cplAt` and `cplUnits` where its core page lists are, in 256-byte units each; `loops` are the CNT fields of the block that
its decks use as loop counts (R85); `stagedAt` is where the blocks of a ring prefill arrive in scratchpad (R223); `shards` are
the channels, stack × 34 + logical channel, that hold its C shards (Table 8-11); `dirAt`, `dirStep`, `lstAt`, `lstStep`,
`l2At`, `l2Step` where the dealer keeps the page tables of its sequences. `exps` is the exponential table of R71, BASE and
SLOPE by segment, empty for the standard one. `stks` are the stacks that hold its weights. -/
structure Bundle where
  vocab : Nat := 1
  owner : Nat := 0
  thin : Bool := false
  ugrp : Nat := 0
  dLA : Nat := 0
  dLB : Nat := 0
  dHA : Nat := 0
  dHB : Nat := 0
  tLA : Nat := 0
  tLB : Nat := 0
  tHA : Nat := 0
  tHB : Nat := 0
  tpb : List Byte := []
  tpbAt : Nat := 0
  tabAt : Nat := 0
  cplAt : Nat := 0
  cplUnits : Nat := 8
  dirAt : Nat := 0
  dirStep : Nat := 0
  lstAt : Nat := 0
  lstStep : Nat := 0
  l2At : Nat := 0
  l2Step : Nat := 0
  exps : List (Int × Int) := []
  stks : List Nat := []
  loops : List Nat := []
  shards : List Nat := []
  stagedAt : Nat := 0
  deriving DecidableEq, Repr

end Sys2Proof
end

