-- ==== Sys2Proof/Syntax.lean ====
section
/-!
DEFINITION. The commands of the KDX-512 block: one constructor per row of spec/opcode_table.json, in the
table's order, with the operands the row's rule gives it. Each docstring names the rule and says what the
command is.
-/
namespace Sys2Proof

inductive Instr
  /-- POWER_UP (R20). P54V comes to lie between the start threshold and 57.0 V while the module is powered down, and the module sequencer brings up its rails in the order and times of Table 1-6. -/
  | powerUp
  /-- HUB_POWER_GOOD (R11). The hub rails become good: MOD_ID is latched, FAULT_N is asserted and the boot ROM starts. -/
  | hubPowerGood (straps : Nat) (stages : Nat) (br : Bring)
  /-- MODID_CHANGED (R11). MOD_ID changes while the module is powered; the change is reported over MCTP and ALERT_N is asserted, with no other effect until the next power-up. -/
  | modidChanged (straps : Nat)
  /-- MCTP_REQUEST (R12). The board controller sends an MCTP request over SMBus, for example asking for the coolant temperatures, and the SMBus target answers it. -/
  | mctpRequest (rq : MctpReq)
  /-- MCTP_EVENT_READ (R13). The board controller reads a pending management event over MCTP; ALERT_N is released once every pending event has been read. -/
  | mctpEventRead
  /-- INPUT_LOW (R17). P54V has stayed below 46.0 V but above the stop threshold for 10 ms; INPUT_LOW is set, the throttle floor is applied and the event is reported. -/
  | inputLow
  /-- INPUT_LOW_CLEAR (R17). P54V has stayed at or above 46.5 V for 100 ms; INPUT_LOW is cleared and the floor is lifted. -/
  | inputLowClear
  /-- POWER_DOWN (R22). P54V falls through the stop threshold or rises through the overvoltage stop, and the module runs its power-down sequence, which is never aborted. -/
  | powerDown
  /-- RESET_ENTRY (R405). PERST# is asserted after hub power-good, and the device performs a fundamental reset: dealer stopped, lasers dark, journal flushed, domains 0-93 off, hub reset and locks cleared. -/
  | resetEntry (stages : Nat) (br : Bring)
  /-- PERST_RELEASE (R407). PERST# is released; this sets the readiness reference, and the link enters Detect within 20 ms. -/
  | perstRelease (stages : Nat) (br : Bring)
  /-- DATA_FIBRE_DISCONNECT (R295). A data fibre is disconnected while the module is powered, and the affected engine returns to TRAINING. -/
  | dataFibreDisconnect (n : Nat)
  /-- LASER_INPUT_LOST (R295). The laser input falls below +14 dBm on more than one wavelength, and the engines it feeds become DARK. -/
  | laserInputLost (conn : Nat)
  /-- RUN (R91). A RUN descriptor-network command makes a cluster fetch the trick-parameter block and any missing deck, initialise every sequencer and start, once the previous run has reached END. -/
  | run (c : Nat) (tpb : Nat)
  /-- DROP (R91). A DROP command ORs a sequence-slot mask into DROP_MASK, which each sequencer samples at its next LOOP with LAYER. -/
  | drop (c : Nat) (trick : Nat) (mask : Nat)
  /-- ABORT (R91). An ABORT command stops every sequencer of the cluster within 2 µs, discards in-flight reads and open slots, and returns the sequencers to idle. -/
  | abort (c : Nat) (trick : Nat)
  /-- EVENT (R91). An EVENT command over the descriptor network increments the named event counter. -/
  | event (c : Nat) (dest : Nat) (ctr : Nat) (inc : Nat)
  /-- PING (R91). A PING command makes the cluster return the sequence number it carries and the cluster's running trick number. -/
  | ping (c : Nat) (seqno : Nat)
  /-- LOAD (R80). A LOAD step with RAW = 0 reads tensor rows and groups and writes them in block form into operand memory or a tile buffer. -/
  | load (c : Nat) (q : Nat) (up : Upset)
  /-- LOAD_RAW (R80). A LOAD step with RAW = 1 copies raw 16-byte units from the tensor into operand memory or a tile buffer. -/
  | loadRaw (c : Nat) (q : Nat) (up : Upset)
  /-- STREAM (R81). A STREAM step sets up the core's feed ring and fills it with decoded weight groups, in group order and then column order. -/
  | stream (c : Nat) (q : Nat)
  /-- STREAM_PAGE (R202). A STREAM step with PAGE = 1 cuts a head entry's CPL records into key and value groups and delivers its blocks, each with a tag for the row-statistics unit. -/
  | streamPage (c : Nat) (q : Nat)
  /-- RING_GROUP_WRITE (R69). Once the feed ring has room, the loader checks and writes the next decoded group into the ring, or raises FORMAT if the group fails its checks. -/
  | ringGroupWrite (c : Nat) (q : Nat) (up : Upset)
  /-- MAC (R82). A MAC step runs its groups in order, serving each named slot with the group's 256 positions from the ring. -/
  | mac (c : Nat) (q : Nat) (up : Upset)
  /-- DRAIN (R83). A DRAIN step to a tile buffer or to operand memory checks each slot's residue, delivers the slot and closes it; to a tile buffer it first waits for EMPTY rows. -/
  | drain (c : Nat) (q : Nat) (up : Upset)
  /-- DRAIN_SCORE (R206). A DRAIN with RSOP SCORE updates each row's running maximum, sum and accumulators, and writes A8 probability codes into the probability window. -/
  | drainScore (c : Nat) (q : Nat) (up : Upset)
  /-- DRAIN_VALUE (R207). A DRAIN with RSOP VALUE adds the slots, scaled by sp[r], into the value accumulators. -/
  | drainValue (c : Nat) (q : Nat) (up : Upset)
  /-- DRAIN_FINAL (R208). A DRAIN with RSOP FINAL writes o = a × recip(l) into a tile buffer and writes m and l into the statistics window. -/
  | drainFinal (c : Nat) (q : Nat) (up : Upset)
  /-- VEC (R109). A VEC step checks its vector operation and runs its stages over its rows in one pass, including any reduction and QUANT. -/
  | vec (c : Nat) (up : Upset)
  /-- XR_COMBINE (R120). The combined result rows of a die-wide or device-wide reduction arrive at every participant from the combine network. -/
  | xrCombine (c : Nat)
  /-- XR_TIMEOUT (R122). A cross-cluster combine is not complete after XR_TMO cycles, and HANG is raised. -/
  | xrTimeout (c : Nat)
  /-- WAIT_EVENT (R88). A WAIT step on an event counter holds issue until the counter reaches its target. -/
  | waitEvent (c : Nat) (q : Nat)
  /-- WAIT_RELEASE (R88). The counter of a pending WAIT reaches its target, and issue continues. -/
  | waitRelease (c : Nat) (q : Nat)
  /-- ACQUIRE (R89). A WAIT step that acquires a semaphore waits until the value is at least N and then subtracts N. -/
  | acquire (c : Nat) (q : Nat)
  /-- ACQUIRE_GRANT (R89). A waiting ACQUIRE is granted in arrival order once the semaphore value allows it, and N is subtracted indivisibly. -/
  | acquireGrant (die : Nat) (sem : Nat)
  /-- WAIT_BARRIER (R90). A WAIT step arrives at the barrier of its scope and group. -/
  | waitBarrier (c : Nat) (q : Nat)
  /-- BARRIER_RELEASE (R90). Every member of a barrier group has arrived, and all members are released within the bound of their scope. -/
  | barrierRelease (scope : Nat) (idx : Nat) (grp : Nat)
  /-- SIGNAL_EVENT (R88). A SIGNAL step increments an event counter of a sequencer in the same cluster. -/
  | signalEvent (c : Nat) (q : Nat)
  /-- POST (R89). A SIGNAL step posts N to a semaphore on its own die or on the other die; an overflow raises SEM. -/
  | post (c : Nat) (q : Nat)
  /-- DEALER_NOTICE (R91). A SIGNAL step sends a dealer notice code over the descriptor network's return path. -/
  | dealerNotice (c : Nat) (q : Nat)
  /-- MOVE_CORE (R84). A MOVE step with DIR 00b copies units into another core's operand memory over the cluster network. -/
  | moveCore (c : Nat) (q : Nat) (up : Upset)
  /-- MOVE_ROWS (R84). A MOVE step with DIR 01b writes operand-memory data to tensor rows in block form, under the region rules. -/
  | moveRows (c : Nat) (q : Nat) (up : Upset)
  /-- MOVE_RAW (R84). A MOVE step with DIR 10b writes operand-memory units to raw device units. -/
  | moveRaw (c : Nat) (q : Nat) (up : Upset)
  /-- LOOP (R85). A LOOP step activates or advances its loop counter and branches back, or ends the loop; with LAYER it also samples the drop mask. -/
  | loop (c : Nat) (q : Nat)
  /-- END (R79). An END step waits until every earlier step has completed and then reports the sequencer finished. -/
  | endStep (c : Nat) (q : Nat)
  /-- STEP_COMPLETE (R79). An outstanding asynchronous step completes, and with CEN set it increments its event counter. -/
  | stepComplete (c : Nat) (q : Nat) (k : Nat)
  /-- HANG (R93). No step completes and no ring group is consumed for STEP_TMO cycles, and the watchdog raises HANG. -/
  | hang (c : Nat) (q : Nat)
  /-- DCACHE_INV (R75). A write of 1 to DCACHE_INV invalidates the deck cache, at the end of the current run if a run is in progress. -/
  | dcacheInv (mid : Nat) (c : Nat) (v : W32)
  /-- CLU_CFG (R96). A write to CLU_CFG sets the cluster's logical index; during a run the write is staged until the next RUN. -/
  | cluCfg (mid : Nat) (c : Nat) (v : W32)
  /-- CORE_MAP (R92). A write to CORE_MAP maps logical cores to physical cores; during a run the write is staged until the next RUN. -/
  | coreMap (mid : Nat) (c : Nat) (m : Nat) (v : W32)
  /-- CORE_RET (R94). A write of 1 to a bit of CORE_RET marks that physical core retired. -/
  | coreRet (mid : Nat) (c : Nat) (m : Nat) (v : W32)
  /-- UNIT_RUN (R131). A RUN command to an idle near-bank unit clears BEV and G1-G15 and starts the unit's micro-program at ENTRY. -/
  | unitRun (tgt : UTarget) (entry : Nat) (tag : Nat)
  /-- UNIT_ABORT (R137). An ABORT command stops a unit's issue, finishes or drops in-flight accesses and returns the unit to IDLE within 1 µs. -/
  | unitAbort (tgt : UTarget) (tag : Nat)
  /-- FENCE_CMD (R151). A FENCE command completes once every earlier WRL has reached the DRAM cells. -/
  | fenceCmd (tgt : UTarget) (tag : Nat)
  /-- CLEAR (R131). A CLEAR command zeroes the unit's LB, ACCF, table store, record FIFO, G registers and BEV within 20 µs. -/
  | clear (tgt : UTarget) (tag : Nat)
  /-- SELFTEST (R131). A SELFTEST command tests the unit's lanes, LB, ACCF and table store; a failure leaves the unit FAULTED with code 0xF. -/
  | selftest (tgt : UTarget) (tag : Nat)
  /-- COMMAND_PARAMETER_WRITE (R130). A write to CR[4..63] while the unit is not IDLE is discarded and sets MP_BUSY. -/
  | commandParameterWrite (mid : Nat) (u : Nat) (n : Nat) (v : W32)
  /-- MP_WINDOW (R133). A write to the micro-program window stores an instruction while the unit is IDLE, otherwise it is discarded with MP_BUSY; NBU_MPCRC is updated within 4 µs. -/
  | mpWindow (mid : Nat) (u : Nat) (n : Nat) (v : W32)
  /-- NBU_CFG (R129). A write to NBU_CFG sets LUNIT and UGRP; while the unit is not IDLE the write is staged to the next RUN. -/
  | nbuCfg (mid : Nat) (u : Nat) (v : W32)
  /-- NOP (R134). The NOP micro-instruction does nothing for one cycle. -/
  | nop (u : Nat) (up : Upset)
  /-- MP_END (R134). The END micro-instruction waits for every outstanding instruction, sets DONE and returns the unit to IDLE. -/
  | mpEnd (u : Nat) (up : Upset)
  /-- YIELD (R150). The YIELD micro-instruction is a yield point, at which a pending refresh may run. -/
  | yieldPoint (u : Nat) (up : Upset)
  /-- FENCE (R151). The FENCE micro-instruction holds issue until every earlier WRL is visible in the DRAM cells. -/
  | fence (u : Nat) (up : Upset)
  /-- MOVI (R135). MOVI loads a zero-extended immediate into a general register. -/
  | movi (u : Nat) (up : Upset)
  /-- MOVH (R135). MOVH loads an immediate into the upper half of a general register. -/
  | movh (u : Nat) (up : Upset)
  /-- ADDI (R135). ADDI adds a signed immediate to a general register, modulo 2^32. -/
  | addi (u : Nat) (up : Upset)
  /-- LDC (R135). LDC loads a command register into a general register. -/
  | ldc (u : Nat) (up : Upset)
  /-- BNZ (R135). BNZ decrements a register and branches back while the register is not zero. -/
  | bnz (u : Nat) (up : Upset)
  /-- WAITB (R134). WAITB waits until the bus event counter reaches the target held in a register. -/
  | waitb (u : Nat) (up : Upset)
  /-- RDL (R134). RDL reads bank-pair words into LB, after the region tag and detection-code checks. -/
  | rdl (u : Nat) (up : Upset)
  /-- WRL (R134). WRL writes LB words to the bank pair and generates the C detection code. -/
  | wrl (u : Nat) (up : Upset)
  /-- TBLD (R139). TBLD builds product tables from activation groups into table slots. -/
  | tbld (u : Nat) (up : Upset)
  /-- LMAC (R138). LMAC defines the lane tasks of a plan and starts fetching their records. -/
  | lmac (u : Nat) (up : Upset)
  /-- RECORD_FETCH (R140). The read engine fetches an LMAC's records into the record FIFO, stalling only while the FIFO is full. -/
  | recordFetch (u : Nat) (up : Upset)
  /-- LMAC_WAVE (R138). A wave of up to 32 lane tasks starts once all its records are present, and the BEV condition when BW is set, and then accumulates into ACCF. -/
  | lmacWave (u : Nat) (up : Upset)
  /-- ACCZ (R134). ACCZ zeroes a range of ACCF entries. -/
  | accz (u : Nat) (up : Upset)
  /-- EOP_CVT (R143). EOP CVT converts ACCF entries into TX32 rows. -/
  | eopCvt (u : Nat) (up : Upset)
  /-- EOP_RESC (R143). EOP RESC rescales rows with per-lane MULT and SHIFT words. -/
  | eopResc (u : Nat) (up : Upset)
  /-- EOP_ADD (R143). EOP ADD adds the operand to the rows. -/
  | eopAdd (u : Nat) (up : Upset)
  /-- EOP_SUB (R143). EOP SUB subtracts the operand from the rows. -/
  | eopSub (u : Nat) (up : Upset)
  /-- EOP_MUL (R143). EOP MUL multiplies the rows by the operand. -/
  | eopMul (u : Nat) (up : Upset)
  /-- EOP_TABLE (R143). EOP TABLE applies a piecewise-linear table to the rows. -/
  | eopTable (u : Nat) (up : Upset)
  /-- EOP_SSQ (R143). EOP SSQ writes the exact sum of squares of all unmasked lanes as a scalar word. -/
  | eopSsq (u : Nat) (up : Upset)
  /-- EOP_AMAX (R143). EOP AMAX writes the largest absolute value over all unmasked lanes as a scalar word. -/
  | eopAmax (u : Nat) (up : Upset)
  /-- EOP_QNT (R143). EOP QNT quantises the rows under a given scale into packed codes and counts clipped values. -/
  | eopQnt (u : Nat) (up : Upset)
  /-- BSEND_GATHER (R145). BSEND with BOP GATHER sends the unit's words to the bus port, where contributions are concatenated in LUNIT order. -/
  | bsendGather (u : Nat) (up : Upset)
  /-- BSEND_SUM (R145). BSEND with BOP SUM sends scalar words that the port sums by the fixed tree. -/
  | bsendSum (u : Nat) (up : Upset)
  /-- BSEND_MAX (R145). BSEND with BOP MAX sends scalar words that the port combines by maximum with the fixed tree. -/
  | bsendMax (u : Nat) (up : Upset)
  /-- BUS_BROADCAST (R144). A broadcast from the bus port writes its words into LB of every unit of the named group and adds 1 to each unit's BEV. -/
  | busBroadcast (stk : Nat) (ugrp : Nat) (word : Nat) (data : List (BitVec 256))
  /-- BUS_COMBINE (R146). Once every participant of a tag has sent, the combined result is delivered to the scratchpad or broadcast back to the group. -/
  | busCombine (stk : Nat) (tag : Nat)
  /-- REFRESH_DUE (R150). The base die needs to refresh a bank pair that the unit is using, and raises REFRESH_DUE to the unit. -/
  | refreshDue (u : Nat)
  /-- PREEMPTION (R150). NBU_HOLD_MAX cycles pass without a yield point, and the unit is pre-empted: its open rows are saved, the refresh runs and the rows are reopened. -/
  | preemption (u : Nat)
  /-- REFRESH_DONE (R150). The pair's per-bank refresh completes, and the saved rows are reactivated or access resumes. -/
  | refreshDone (u : Nat)
  /-- UNIT_HANG (R154). No instruction completes for NBU_TMO cycles, and the unit raises HANG. -/
  | unitHang (u : Nat)
  /-- MEMORY_READ (R169). A read of a device address is decoded, translated and remapped, then served from the home slice or from memory, with correction or detection. -/
  | memoryRead (rq : Requester) (a : Nat) (len : Nat) (err : MemErr)
  /-- MEMORY_WRITE (R169). A write to a device address completes once its home slice, or the stack or LPDDR controller, has accepted it. -/
  | memoryWrite (rq : Requester) (a : Nat) (data : List Byte) (err : MemErr)
  /-- GOLDEN_RELOAD_DONE (R181). The golden copy has been written and its CRC checked; the region returns to C, or becomes OFFLINE if the check failed. -/
  | goldenReloadDone (stk : Nat) (rgn : Nat) (err : MemErr)
  /-- ATOMIC_ADD (R177). An atomic ADD at the home slice adds the operand and returns the old value. -/
  | atomicAdd (rq : Requester) (a : Nat) (size : Nat) (x : Nat)
  /-- ATOMIC_SMIN (R177). An atomic SMIN stores the signed minimum and returns the old value. -/
  | atomicSmin (rq : Requester) (a : Nat) (size : Nat) (x : Nat)
  /-- ATOMIC_SMAX (R177). An atomic SMAX stores the signed maximum and returns the old value. -/
  | atomicSmax (rq : Requester) (a : Nat) (size : Nat) (x : Nat)
  /-- ATOMIC_UMIN (R177). An atomic UMIN stores the unsigned minimum and returns the old value. -/
  | atomicUmin (rq : Requester) (a : Nat) (size : Nat) (x : Nat)
  /-- ATOMIC_UMAX (R177). An atomic UMAX stores the unsigned maximum and returns the old value. -/
  | atomicUmax (rq : Requester) (a : Nat) (size : Nat) (x : Nat)
  /-- ATOMIC_CAS (R177). An atomic CAS stores the swap value if memory equals the compare value, and returns the old value. -/
  | atomicCas (rq : Requester) (a : Nat) (size : Nat) (x : Nat) (swap : Nat)
  /-- GATHER_READ (R178). A 32-byte gather read is served from the home slice on a hit, or from one 64-byte burst without allocating. -/
  | gatherRead (rq : Requester) (a : Nat) (err : MemErr)
  /-- RETAG_C (R165). An RT_CMD write with TARGET C is checked and, if accepted, starts a retag of the region or set to C. -/
  | retagC (mid : Nat) (stk : Nat) (rgn : Nat)
  /-- RETAG_E (R165). An RT_CMD write with TARGET E is checked and, if accepted, starts a retag of the whole set to E in the given mode. -/
  | retagE (mid : Nat) (stk : Nat) (rgn : Nat) (mode : Nat)
  /-- RETAG_OFFLINE (R165). An RT_CMD write with TARGET OFFLINE is checked and, if accepted, changes the tag of the region or set to OFFLINE. -/
  | retagOffline (mid : Nat) (stk : Nat) (rgn : Nat)
  /-- RETAG_DONE (R166). A retag completes, and the regions in scope leave TRANSIT under their new class. -/
  | retagDone (stk : Nat)
  /-- REMAP (R158). A write to a REMAP entry applies to the requests the stack controller accepts after the write. -/
  | remap (mid : Nat) (stk : Nat) (n : Nat) (v : W32)
  /-- RGN_ENT (R176). A write to a region table entry updates its CACHE, GOLD and GIDX fields; clearing CACHE first drops the region's cached lines. -/
  | rgnEnt (mid : Nat) (stk : Nat) (v : W32)
  /-- WAY_CFG (R175). A write to WAY_CFG that changes MODE or OWNER sets PENDING and starts a write-back or a zeroing of the way. -/
  | wayCfg (mid : Nat) (k : Nat) (v : W32)
  /-- WAY_CFG_DONE (R175). The way's flush or zeroing completes, the new configuration takes effect, PENDING clears and waiting accesses proceed. -/
  | wayCfgDone (k : Nat) (way : Nat)
  /-- INV_CMD (R176). A write of 1 to INV_CMD starts an invalidation of the address range in every slice. -/
  | invCmd (mid : Nat) (k : Nat) (v : W32)
  /-- INV_CMD_DONE (R176). The range invalidation completes, and INV_STS busy clears. -/
  | invCmdDone
  /-- STACK_TEMP_READ (R183). Every 32 µs the stack controller reads the DRAM die temperatures and sets the stack's class and refresh interval. -/
  | stackTempRead (stk : Nat) (temps : List Nat)
  /-- KV_INVAL (R200). A write to KV_INVAL requests invalidation of the translation cache for one model slot or for all slots. -/
  | kvInval (mid : Nat) (v : W32)
  /-- APPEND_COPY (R212). After a layer's append rows are complete, the append engine copies them into their pages. -/
  | appendCopy (layer : Nat)
  /-- SPILL (R218). Free stack frames fall below SPILL_LOW, and the dealer moves full pages to LPDDR frames and frees their stack frames. -/
  | spill (slot : Nat)
  /-- TTL_EXPIRY (R240). The time to live of a host pause runs out; the request ends EXPIRED and its pages are freed. -/
  | ttlExpiry (gid : Nat)
  /-- DEFERRED_FREE (R214). Ring 18 regains room, and the dealer makes the frees it had deferred, in the order they fell due. -/
  | deferredFree (slot : Nat)
  /-- RING_PREFILL_STEP (R223). A ring member computes its queries against the block that has arrived and forwards the block to the next member. -/
  | ringPrefillStep (k : Nat) (src : Nat) (len : Nat) (dst : Nat) (die : Nat) (sem : Nat)
  /-- GENERATE (R237). A GENERATE descriptor is checked and either creates a request on a FREE or FREEING slot or is refused. -/
  | generate (q : Nat) (rd : StopRead)
  /-- APPEND (R232). An APPEND descriptor creates a request that continues a RETAINED sequence. -/
  | append (q : Nat) (rd : StopRead)
  /-- CANCEL (R261). A CANCEL is accepted and resolved by Table 8-15; the dealer sends DROP within 2 µs when the sequence is in a running trick. -/
  | cancel (q : Nat)
  /-- PAUSE (R237). A PAUSE adds a host pause, at once or at the commit of the running trick. -/
  | pause (q : Nat)
  /-- RESUME (R238). A RESUME clears the host pause and stops its time to live. -/
  | resume (q : Nat)
  /-- RELEASE (R228). A RELEASE moves a RETAINED slot to FREEING. -/
  | release (q : Nat)
  /-- DRAFT (R253). A DRAFT supplies draft tokens, truncated as the rule gives, for the next trick that includes the sequence. -/
  | draft (q : Nat)
  /-- TRICK_BUILD (R242). The dealer builds the next trick's length table, takes the page snapshot, and writes the parameter blocks and sends the RUNs. -/
  | trickBuild (prompts : List PromptRead)
  /-- COMMIT (R245). After every run of the trick has ended, the dealer samples, checks stops, charges accounts and writes COMMIT_TRICK. -/
  | commit (cands : List (List Cand))
  /-- TRICK_END (R245). A trick's last append copy and last completion entry are done; pages are freed and KV_RETIRE_EPOCH advances. -/
  | trickEnd
  /-- COMPLETION_WRITE (R260). The dealer writes held or new completion entries to a completion queue once there is room. -/
  | completionWrite (q : Nat) (ok : Bool)
  /-- FAULT_REPORT (R263). The dealer acts on a reported fault: it aborts the trick and either replays it or fails the requests concerned. -/
  | faultReport (tests : List Bool)
  /-- FN_SET (R268). The FN_SET service command sets a function's sequence range. -/
  | fnSet
  /-- ACCT_SET (R273). The ACCT_SET service command sets an account's fields, each taking effect in its own part. -/
  | acctSet
  /-- ACCT_GET (R268). The ACCT_GET service command returns an account's balance, charged count and breach count. -/
  | acctGet
  /-- MODEL_ADM (R269). The MODEL_ADM service command sets a model's admission parameters, or is refused ADMIT. -/
  | modelAdm
  /-- ADM_GET (R268). The ADM_GET service command returns the admission quantities of a model. -/
  | admGet
  /-- SVC_SET (R271). The SVC_SET service command sets REP_PERIOD, PAUSE_AGE_MAX and CQ_STALL_MAX. -/
  | svcSet
  /-- REPLENISH (R271). At a replenish period boundary every enabled account's balance is refilled and budget pauses clear where the balance allows. -/
  | replenish
  /-- CQ_STALL (R285). A completion queue has stayed full for CQ_STALL_MAX, and its queue pair is paused. -/
  | cqStall (q : Nat)
  /-- FRAME_TRANSMIT (R298). A frame is sent once a credit for its virtual channel and dateline class is held. -/
  | frameTransmit (n : Nat) (pkt : Packet)
  /-- FRAME_RECEIVE (R296). A received frame is checked by CRC and sequence number, and is accepted or discarded with a NAK. -/
  | frameReceive (n : Nat) (seq : Nat) (ack : Nat) (crv : Nat) (crdl : Bool) (crcnt : Nat) (rx : FrameRx) (pkt : Packet)
  /-- NAK (R296). A received NAK makes the sender resend its unacknowledged frames; a second failure sends the engine to TRAINING. -/
  | nak (n : Nat) (seq : Nat) (syms : List Nat)
  /-- WR (R305). An arriving WR packet is performed through a remote window, or refused. -/
  | wr (n : Nat)
  /-- RD (R305). An arriving RD packet is performed through a remote window and answered with RDRSP. -/
  | rd (n : Nat)
  /-- RDRSP (R304). A read response arrives and completes the requester's read. -/
  | rdrsp (n : Nat)
  /-- WRRSP (R304). A write response arrives and completes the requester's write. -/
  | wrrsp (n : Nat)
  /-- NOTIFY (R306). A NOTIFY arrives and is held until the WR bytes it counts have completed. -/
  | notify (n : Nat)
  /-- NOTIFY_POST (R306). The counted bytes have completed, and the NOTIFY posts N to its semaphore. -/
  | notifyPost (src : Nat) (vc : Nat)
  /-- RED (R307). A RED partial arrives, and the member combines it at its tree level or passes the result on. -/
  | red (n : Nat)
  /-- DMSG (R310). A ring attention DMSG makes the member run attention over its own pages and contribute a partial. -/
  | dmsg (n : Nat)
  /-- LANE_SWAP (R294). A LANE_SWAP control packet makes both ends move a lane to the joker lane at the same alignment-marker boundary. -/
  | laneSwap (n : Nat) (tx : Bool) (lane : Nat)
  /-- LANE_RETIRE (R294). A lane crosses its error threshold, or its wavelength has stayed low for 1 ms, and it is retired, or its engine is retired if no joker is left. -/
  | laneRetire (n : Nat) (tx : Bool) (lane : Nat)
  /-- FAB_TIMEOUT (R304). A request has no response after FAB_TMO, and completes locally with TIMEOUT. -/
  | fabTimeout (tag : Nat)
  /-- TRAINING_UP (R295). An engine completes training and reaches UP. -/
  | trainingUp (n : Nat) (ver : Nat) (topo : Nat) (ring : Nat) (pos : Nat)
  /-- TRAINING_TIMEOUT (R295). Training has not reached UP within 20 ms, and it returns to TRAINING. -/
  | trainingTimeout (n : Nat)
  /-- SQ_TAIL (R325). An SQ_TAIL doorbell is checked and sets the queue's fetch limit. -/
  | sqTail (mid : Nat) (q : Nat) (v : W32)
  /-- CQ_HEAD (R325). A CQ_HEAD doorbell is checked and frees completion slots. -/
  | cqHead (mid : Nat) (q : Nat) (v : W32)
  /-- DESCRIPTOR_FETCH (R325). Descriptors are read from SQ_HEAD up to the last tail received, within Q_LIMIT. -/
  | descriptorFetch (q : Nat) (descs : List Desc) (ok : Bool)
  /-- QUEUE_ENABLE (R324). EN written 1 enables a valid DISABLED queue, or latches PENDING_ON during a drain. -/
  | queueEnable (mid : Nat) (q : Nat)
  /-- QUEUE_DISABLE (R324). EN written 0 starts the queue's drain. -/
  | queueDisable (mid : Nat) (q : Nat)
  /-- QUEUE_DRAIN_COMPLETE (R324). A draining queue has nothing outstanding or held, and becomes DISABLED, or ENABLED if PENDING_ON. -/
  | queueDrainComplete (q : Nat)
  /-- MSI_X_INTERRUPT (R328). The coalescing count is reached and an MSI-X message is sent, or set pending if the vector is masked. -/
  | msiXInterrupt (q : Nat)
  /-- COALESCE_TIMEOUT (R328). TIME µs have passed since the first unsignalled entry, and the interrupt is sent. -/
  | coalesceTimeout (q : Nat)
  /-- VECTOR_UNMASK (R328). An unmasked vector with its pending bit set sends its held interrupt. -/
  | vectorUnmask (f : Nat) (v : Nat)
  /-- FUNCTION_RESET (R329). A function-level reset, a D3hot-to-D0 transition or VF Enable cleared resets the function's requests, slots, ways, queues and MSI-X. -/
  | functionReset (f : Nat)
  /-- FUNCTION_RESET_COMPLETE (R329). The function reset completes, and a pending further reset then runs. -/
  | functionResetComplete (f : Nat)
  /-- FN_Q (R318). A write to FN_Q changes a function's queue range, or is refused with FN_ERR. -/
  | fnQ (mid : Nat) (v : W32)
  /-- HOST_ATOMICOP (R321). A PCIe AtomicOp through a window is performed at the home slice, or refused. -/
  | hostAtomicop (f : Nat) (a : Nat) (size : Nat) (op : AtomOp) (x : Nat) (swap : Nat)
  /-- BUS_MASTER_ENABLE (R330). Bus Master Enable is set while the link is up, and the function's held host-memory accesses proceed. -/
  | busMasterEnable (f : Nat)
  /-- LINK_UP (R330). The PCIe link comes up again, and held host-memory accesses proceed. -/
  | linkUp (speed : Nat) (width : Nat) (flit : Bool)
  /-- CONFIG_REQUEST (R407). A configuration request completes with RRS before CFG_READY and normally after it. -/
  | configRequest (f : Nat) (rq : CfgReq) (stages : Nat) (br : Bring)
  /-- MB_LOCK (R333). A read of MB_LOCK takes the channel's lock if it is free, or returns the MID of the owner or sender. -/
  | mbLock (mid : Nat) (ch : Nat)
  /-- GO (R333). GO by the owner stamps MB_HDR, sets FULL, clears the owner and signals the recipient. -/
  | go (mid : Nat) (ch : Nat)
  /-- ACK (R333). ACK by the recipient clears FULL and signals the sender. -/
  | ack (mid : Nat) (ch : Nat)
  /-- MB_RELEASE (R333). RELEASE by the owner gives up the lock without sending. -/
  | mbRelease (mid : Nat) (ch : Nat)
  /-- SEC_CMD (R426). A SEC_CMD message makes the security engine verify and perform a signed command object. -/
  | secCmd (obj : SecObj)
  /-- GET_BOOT (R426). A GET_BOOT message returns the boot and key status registers. -/
  | getBoot
  /-- GET_SERIAL (R426). A GET_SERIAL message returns the serial number. -/
  | getSerial
  /-- GET_HEALTH (R426). A GET_HEALTH message returns RAS, thermal, dealer, power and commit status. -/
  | getHealth
  /-- SPDM_REQUEST (R417). An SPDM request over DOE is answered with certificates, measurements or a session. -/
  | spdmRequest (rq : SpdmReq)
  /-- DOE_DISCOVERY (R335). A DOE Discovery request returns the supported data object protocols. -/
  | doeDiscovery (idx : Nat)
  /-- IDE_KM (R336). An IDE_KM message programs or activates keys of an IDE stream. -/
  | ideKm (rq : IdeReq)
  /-- TDISP (R337). A TDISP message moves a VF's TDI between its states. -/
  | tdisp (f : Nat) (rq : TdispReq)
  /-- BLK_CTL_EN_ON (R343). EN written 1 starts the block, or latches PENDING_ON while it stops. -/
  | blkCtlEnOn (mid : Nat) (b : Blk) (i : Nat)
  /-- BLK_CTL_EN_OFF (R343). EN written 0 stops the block, unless the stop is refused. -/
  | blkCtlEnOff (mid : Nat) (b : Blk) (i : Nat)
  /-- SRST (R343). SRST written 1 requests a soft reset, which is held while BUSY. -/
  | srst (mid : Nat) (b : Blk) (i : Nat)
  /-- SOFT_RESET_DONE (R343). A held soft reset runs once BUSY clears and clears the block's internal state. -/
  | softResetDone (b : Blk) (i : Nat)
  /-- DOMAIN_START_DONE (R361). A domain start finishes its steps, and its members reach ON or FAILED with their kept configuration rewritten. -/
  | domainStartDone (d : Nat) (ok : Bool) (br : Bring)
  /-- DOMAIN_STOP_DONE (R361). A domain stop finishes; the switch opens, the members reach OFF, and any pending start runs. -/
  | domainStopDone (d : Nat)
  /-- BLK_ISET (R342). A write to BLK_ISET sets the written bits of BLK_ISR. -/
  | blkIset (mid : Nat) (b : Blk) (i : Nat) (v : W32)
  /-- BLK_LOCK (R346). A write of 1 to BLK_LOCK locks the page's RWL fields until the next device reset. -/
  | blkLock (mid : Nat) (b : Blk) (i : Nat) (v : W32)
  /-- NAME_HI_WRITE (R347). A write to the _HI half of a pair stores into the writer's staging copy only. -/
  | nameHiWrite (mid : Nat) (a : Nat) (v : W32)
  /-- NAME_LO_WRITE (R347). A write to the _LO half commits the pair with the writer's staged _HI. -/
  | nameLoWrite (mid : Nat) (a : Nat) (v : W32)
  /-- NAME_LO_READ (R347). A read of the _LO half captures the upper half for the reader. -/
  | nameLoRead (mid : Nat) (a : Nat)
  /-- NAME_HI_READ (R347). A read of the _HI half returns the captured half, or the current upper half if no capture is pending. -/
  | nameHiRead (mid : Nat) (a : Nat)
  /-- READ_TO_CLEAR (R5). A read of an RC register returns its value and clears it in the same access. -/
  | readToClear (mid : Nat) (a : Nat) (event : W32)
  /-- REGISTER_WRITE (R5). A write to a register that has no row of its own acts by its access type. -/
  | registerWrite (mid : Nat) (a : Nat) (bs : List Byte)
  /-- CLOCK_GATE (R357). CLK_GATE_CMD gates a node, or the request is refused with CLKGATE_BUSY or BADNODE. -/
  | clockGate (mid : Nat) (node : Nat)
  /-- CLOCK_UNGATE (R357). CLK_GATE_CMD ungates a node. -/
  | clockUngate (mid : Nat) (node : Nat)
  /-- CLOCK_LOSS (R359). A dead-clock or reference detector fires and forces the affected outputs into their safe states. -/
  | clockLoss (src : ClkSrc)
  /-- CLOCK_RETURN (R359). A lost source has run for 100 µs without a missing edge; the PLLs relock and the device resumes. -/
  | clockReturn (src : ClkSrc) (stages : Nat) (br : Bring)
  /-- DOMAIN_FAULT (R365). A domain switch detects overcurrent or undervoltage and opens, which makes its members FAILED. -/
  | domainFault (d : Nat)
  /-- LEVEL_FALL (R367). Every demand has stayed below the level for 10 ms, and the level falls one step. -/
  | levelFall
  /-- POWER_MEASURE (R368). Every 10 µs the limiter measures input power and demands, or lapses, a higher level. -/
  | powerMeasure (now : Nat) (avg1 : Nat) (avg100 : Nat)
  /-- THERMAL_READ (R369). Every 100 µs the controller reads all sensors and adjusts its demand. -/
  | thermalRead (rd : Sensors)
  /-- PWRBRK (R371). A new PWRBRK# level is accepted after the filter, and L4 is demanded or released. -/
  | pwrbrk (asserted : Bool)
  /-- THROTTLE_N (R371). A new THROTTLE_N level is accepted after the filter, and THR_EXT is demanded or released. -/
  | throttleN (asserted : Bool)
  /-- THROTTLE_HELD (R371). An input has been asserted for 1 s, and THROTTLE_HELD is set. -/
  | throttleHeld (inp : Nat)
  /-- STORM_END (R371). An input has had no edge for 1 s, which ends TOGGLE_STORM. -/
  | stormEnd (inp : Nat)
  /-- THR_CAP (R367). A write to THR_CAP sets software's demanded level. -/
  | thrCap (mid : Nat) (v : W32)
  /-- MIG_CMD (R384). A migration request, from MIG_CMD or a trigger, is decided by Table 15-4. -/
  | migCmd (mid : Nat) (v : W32)
  /-- MIGRATION_START (R386). A migration begins with dense models and MIRROR set, including a queued migration once the running one ends. -/
  | migrationStart (stk : Nat)
  /-- MIGRATION_COPY_DONE (R386). The channel copy completes; unit state is copied and REMAP flips. -/
  | migrationCopyDone (stk : Nat)
  /-- RETRAIN_DONE (R388). The old channel's retraining ends, and it becomes a joker or is retired. -/
  | retrainDone (stk : Nat) (timing : Nat) (voltage : Nat)
  /-- MARGIN_PROBE (R392). Every 100 ms a channel's margins are probed, and a failure starts a migration. -/
  | marginProbe (stk : Nat) (ch : Nat) (timing : Nat) (voltage : Nat) (lanes : List Nat)
  /-- RAS_POP (R402). A write of 1 to RAS_POP drops the head record. -/
  | rasPop (mid : Nat) (v : W32)
  /-- JOURNAL_PROGRAM (R397). A queued journal record is programmed and becomes durable. -/
  | journalProgram (ok : Bool)
  /-- JRN_COMPACT (R399). The active segment reaches 75 %, or JRN_COMPACT is written, and compaction into the other segment starts. -/
  | jrnCompact (mid : Nat) (v : W32)
  /-- COMPACTION_COMMIT (R399). COMMIT is programmed, and appends move to the new segment. -/
  | compactionCommit
  /-- SEGMENT_ERASE_DONE (R399). The old segment's erase completes. -/
  | segmentEraseDone (ok : Bool)
  /-- SVN_COMMIT (R415). SVN_COMMIT with a valid target journals and burns the fused SVN. -/
  | svnCommit (mid : Nat) (v : W32)
  /-- BOOT_CONFIRM (R413). BOOT_CONFIRM after DEVICE_READY clears TRY and TRYCNT. -/
  | bootConfirm (mid : Nat) (v : W32)
  /-- BOOT_PREF (R413). A write to BOOT_PREF writes PREF and TRY to the inactive control block copy. -/
  | bootPref (mid : Nat) (v : W32)
  /-- FLASH_PROGRAM (R414). FLASH_CMD program writes 64 bytes to a permitted target, or is refused. -/
  | flashProgram (mid : Nat)
  /-- FLASH_ERASE (R414). FLASH_CMD erase erases 64 KiB of a permitted target, or is refused. -/
  | flashErase (mid : Nat)
  /-- FLASH_READ (R414). FLASH_CMD read reads 64 bytes into FLASH_DATA. -/
  | flashRead (mid : Nat)
  /-- FLASH_CMD_DONE (R414). A flash command completes, and FLASH_STS reports its status. -/
  | flashCmdDone (ok : Bool)
  /-- BYPASS (R420). The JTAG BYPASS instruction. -/
  | bypass
  /-- IDCODE (R420). The JTAG IDCODE instruction returns 0x1D51_2A6F. -/
  | idcode
  /-- SAMPLE_PRELOAD (R420). The JTAG SAMPLE/PRELOAD instruction. -/
  | samplePreload
  /-- EXTEST (R420). EXTEST drives the pins while PERST# is asserted, and acts as BYPASS with JTAG_REF set otherwise. -/
  | extest
  /-- EXTEST_PULSE (R420). EXTEST_PULSE runs 1149.6 AC test while PERST# is asserted, and acts as BYPASS otherwise. -/
  | extestPulse
  /-- EXTEST_TRAIN (R420). EXTEST_TRAIN runs 1149.6 AC test while PERST# is asserted, and acts as BYPASS otherwise. -/
  | extestTrain
  /-- CLAMP (R420). CLAMP holds the pins while PERST# is asserted, and acts as BYPASS otherwise. -/
  | clamp
  /-- HIGHZ (R420). HIGHZ floats the pins while PERST# is asserted, and acts as BYPASS otherwise. -/
  | highz
  /-- DEBUG_UNLOCK (R421). A signed unlock through the TAP unlocks debug at the next fundamental reset, unless DBG_OFF is burned. -/
  | debugUnlock (key : Nat) (sigOk : Bool)
  /-- LASER_INPUT_RESTORED (R295). Laser input returns to +14 dBm or more on all but at most one wavelength, and a DARK engine leaves DARK for TRAINING. -/
  | laserInputRestored (n : Nat)
  /-- FAR_END_LIGHT_LOST (R295). An UP engine stops receiving light or lock from the far end, because the peer powered down, reset or went dark, and returns to TRAINING. -/
  | farEndLightLost (n : Nat)
  /-- PCIE_LINK_DOWN (R330). The PCIe link goes down (surprise down, hot reset or link disable) and the device holds the functions' host-memory accesses and interrupts until it is up again. -/
  | pcieLinkDown
  /-- LANE_MARGIN_COMMAND (R419). A Lane Margining at the Receiver command arrives from the host for a lane and is carried out, or answered as the specification provides outside L0. -/
  | laneMarginCommand (lane : Nat) (timing : Bool) (steps : Nat)
  /-- JTAG_TRST_N (R420). JTAG_TRST_N is asserted and the TAP returns to its test-logic-reset state, leaving any pin-driving instruction. -/
  | jtagTrstN
  /-- DEBUG_INSTRUCTION (R421). A Gulith debug instruction is loaded into the TAP and acts if debug is unlocked, or is refused otherwise. -/
  | debugInstruction (code : Nat)
  /-- UNIT_COMMAND_COMPLETE (R131). A near-bank unit ABORT, FENCE, CLEAR or SELFTEST that took time completes: DONE is set, CSTAT takes the TAG and the unit leaves ABORTING, FENCING, CLEARING or TESTING for IDLE or FAULTED. -/
  | unitCommandComplete (u : Nat) (pass : Bool)
  /-- ASYNC_INSTRUCTION_COMPLETE (R134). An outstanding asynchronous micro-instruction (RDL, WRL, TBLD, ACCZ, EOP, BSEND) completes in its engine, releasing hazard holds, issue stalls and a waiting END. -/
  | asyncInstructionComplete (u : Nat) (k : Nat)
  /-- MODEL_LOAD (R191). The dealer starts loading a model into a resident slot: the slot becomes LOADING and its attention context is read and checked. -/
  | modelLoad (slot : Nat) (b : Bundle)
  /-- MODEL_LOAD_DONE (R287). A model load completes and the slot becomes LOADED, at which point a stored MODEL_ADM applies and a capacity recompute follows. -/
  | modelLoadDone (slot : Nat)
  /-- FUSE_BURN_DONE (R415). The fused SVN burn ends within 10 ms and the security engine writes the ROLLBACK record with STATE 0. -/
  | fuseBurnDone
  /-- LPDDR_TEMPERATURE_REPORT (R182). An LPDDR5X device reports its temperature and the controller sets that channel's refresh multiplier to 1, 2 or 4. -/
  | lpddrTemperatureReport (ch : Nat) (mult : Nat)
  /-- ATS_INVALIDATION (R315). An ATS Invalidation Request arrives from the host and is queued (depth 32), performed and completed. -/
  | atsInvalidation (f : Nat)
  deriving DecidableEq, Repr

end Sys2Proof
end

