-- ==== Sys2Proof/Decode.lean ====
section
/-!
DEFINITION. The words of the operations table. The spec's table gives no row any bits (the device takes register accesses,
packets, descriptors and events, not words), so no word spells a command.
-/
namespace Sys2Proof

/-- The command a word spells by the table's bits: none, for no row of the table has bits. -/
def decodeTableWord (_nbits _w : Nat) : Option Instr := none

end Sys2Proof
end

