-- ==== Sys2Proof/Machine/Bits.lean ====
section
/-!
DEFINITION. Bit fields, byte order and the sparse tables: the plain operations everything else is written
with. Every function is structural, so that the kernel can evaluate it.
-/
namespace Sys2Proof.Machine

/-! ### Sparse tables -/

/-- What index `k` holds, the first entry that lists it, `d` where none does. -/
def spGet {α : Type} (d : α) : Sparse α → Nat → α
  | [], _ => d
  | (i, v) :: t, k => if i = k then v else spGet d t k

/-- Whether index `k` is listed, with its value. -/
def spFind {α : Type} : Sparse α → Nat → Option α
  | [], _ => none
  | (i, v) :: t, k => if i = k then some v else spFind t k

/-- Index `k` set to `v`, the indices kept strictly rising. -/
def spSet {α : Type} : Sparse α → Nat → α → Sparse α
  | [], k, v => [(k, v)]
  | (i, w) :: t, k, v =>
    if k < i then (k, v) :: (i, w) :: t else if k = i then (k, v) :: t else (i, w) :: spSet t k v

/-- Index `k` no longer listed. -/
def spDel {α : Type} (m : Sparse α) (k : Nat) : Sparse α := m.filter (fun e => e.1 != k)

/-- A write that keeps the canonical form: the value an unlisted index reads as is not listed. -/
def spPut {α : Type} [DecidableEq α] (d : α) (m : Sparse α) (k : Nat) (v : α) : Sparse α :=
  if v = d then spDel m k else spSet m k v

/-- Index `k` changed by `f`, from the default where nothing is listed. -/
def spMod {α : Type} (d : α) (m : Sparse α) (k : Nat) (f : α → α) : Sparse α := spSet m k (f (spGet d m k))

/-- The canonical form: indices strictly rising above `lo`, and no entry equal to the default. -/
def spWfFrom {α : Type} [DecidableEq α] (d : α) : Nat → Sparse α → Bool
  | _, [] => true
  | lo, (i, v) :: t => decide (lo ≤ i) && decide (v ≠ d) && spWfFrom d (i + 1) t

/-- The canonical form of a whole table. -/
def spWf {α : Type} [DecidableEq α] (d : α) (m : Sparse α) : Bool := spWfFrom d 0 m

/-! ### Bit fields -/

/-- Bits hi:lo of a number. -/
def fld (w hi lo : Nat) : Nat := w / 2 ^ lo % 2 ^ (hi + 1 - lo)
/-- Bit i of a number. -/
def bitN (w i : Nat) : Bool := w / 2 ^ i % 2 == 1
/-- Bit i of a register. -/
def bit (w : W32) (i : Nat) : Bool := w.getLsbD i
/-- A bit as a number. -/
def b2n (b : Bool) : Nat := if b then 1 else 0
/-- A number as a register, modulo 2^32. -/
def w32 (n : Nat) : W32 := BitVec.ofNat 32 n
/-- `w` with bit `i` set. -/
def setBit (w : W32) (i : Nat) : W32 := w ||| w32 (2 ^ i)
/-- `w` with bit `i` clear. -/
def clrBit (w : W32) (i : Nat) : W32 := w &&& ~~~ (w32 (2 ^ i))
/-- `w` with bit `i` made `b`. -/
def putBit (w : W32) (i : Nat) (b : Bool) : W32 := if b then setBit w i else clrBit w i
/-- `w` with bits hi:lo replaced by `v`. -/
def putFld (w : W32) (hi lo v : Nat) : W32 :=
  w32 (w.toNat - fld w.toNat hi lo * 2 ^ lo + v % 2 ^ (hi + 1 - lo) * 2 ^ lo)
/-- The two's complement value of the low `n` bits. -/
def sext (n w : Nat) : Int := if w % 2 ^ n < 2 ^ (n - 1) then (w % 2 ^ n : Nat) else (w % 2 ^ n : Nat) - (2 ^ n : Nat)
/-- An integer as `n` bits of two's complement. -/
def unsx (n : Nat) (v : Int) : Nat := (v % (2 ^ n : Nat)).toNat

/-! ### Bytes (R35: little-endian) -/

/-- Byte `i` of a number. -/
def byteOf (w i : Nat) : Byte := BitVec.ofNat 8 (w / 2 ^ (8 * i))
/-- The `n` low bytes of a number, lowest first. -/
def leBytes (w : Nat) : Nat → List Byte
  | 0 => []
  | n + 1 => BitVec.ofNat 8 w :: leBytes (w / 256) n
/-- The number a list of bytes spells, lowest first. -/
def leNat : List Byte → Nat
  | [] => 0
  | b :: t => b.toNat + 256 * leNat t
/-- Bytes `lo` to `lo + n - 1` of a list, as a number. -/
def leAt (bs : List Byte) (lo n : Nat) : Nat := leNat ((bs.drop lo).take n)

/-! ### Lists -/

/-- The elements of a list with their positions. -/
def enumFrom {α : Type} : Nat → List α → List (Nat × α)
  | _, [] => []
  | i, a :: t => (i, a) :: enumFrom (i + 1) t
/-- Element `i` replaced. -/
def setAt {α : Type} : List α → Nat → α → List α
  | [], _, _ => []
  | _ :: t, 0, v => v :: t
  | a :: t, i + 1, v => a :: setAt t i v
/-- Element `i` of a list that is read as if padded with `d`, set to `v`. -/
def setPad {α : Type} (d : α) : List α → Nat → α → List α
  | [], 0, v => [v]
  | [], i + 1, v => d :: setPad d [] i v
  | _ :: t, 0, v => v :: t
  | a :: t, i + 1, v => a :: setPad d t i v
/-- The sum of a list of numbers. -/
def sumN : List Nat → Nat
  | [] => 0
  | a :: t => a + sumN t
/-- The sum of a list of integers. -/
def sumZ : List Int → Int
  | [] => 0
  | a :: t => a + sumZ t
/-- The largest of a list of numbers, 0 of an empty one. -/
def maxN : List Nat → Nat
  | [] => 0
  | a :: t => max a (maxN t)
/-- A list cut into pieces of `n`. -/
def chunks {α : Type} (n : Nat) : Nat → List α → List (List α)
  | 0, _ => []
  | k + 1, l => l.take n :: chunks n k (l.drop n)
/-- Insertion into a list sorted by `le`, after the elements it ties with. -/
def insertBy {α : Type} (le : α → α → Bool) (a : α) : List α → List α
  | [] => [a]
  | b :: t => if le b a then b :: insertBy le a t else a :: b :: t
/-- A list sorted by `le`, keeping the order of ties. -/
def sortBy {α : Type} (le : α → α → Bool) (l : List α) : List α := l.foldl (fun acc a => insertBy le a acc) []

/-! ### CRC-32C (Castagnoli), bytes in order (R76, R396) -/

/-- One bit of the reflected CRC-32C. -/
def crcBit (c : Nat) : Nat := if c % 2 = 1 then Nat.xor (c / 2) 0x82F63B78 else c / 2
/-- One byte of CRC-32C. -/
def crcByte (c : Nat) (b : Byte) : Nat :=
  crcBit (crcBit (crcBit (crcBit (crcBit (crcBit (crcBit (crcBit (Nat.xor c b.toNat))))))))
/-- CRC-32C of a list of bytes. -/
def crc32c (bs : List Byte) : Nat := Nat.xor (bs.foldl crcByte 0xFFFFFFFF) 0xFFFFFFFF

/-! ### Integer square root by bits (structural) -/

/-- Bits of the square root from bit `k` down. -/
def isqrtGo (n : Nat) : Nat → Nat → Nat
  | 0, r => if (r + 1) * (r + 1) ≤ n then r + 1 else r
  | k + 1, r =>
    let r' := r + 2 ^ (k + 1)
    if r' * r' ≤ n then isqrtGo n k r' else isqrtGo n k r
/-- ⌊√n⌋ for n below 2^(2k+2). -/
def isqrt (k n : Nat) : Nat := isqrtGo n k 0

end Sys2Proof.Machine
end

