-- ==== Sys2Proof/Machine/Operands.lean ====
section
/-!
DEFINITION. Operand forms: the number formats of chapter 02 to the bit. Packed codes, weight groups with
their escapes and checks (R33 to R44), SC32 scale words (R43), rounding (R55), rescale and quantisation
targets (R56, R57).
-/
namespace Sys2Proof.Machine

/-! ### Rounding (R55) -/

/-- R55: `v` shifted right by `k`, to nearest, ties to even; exact for k ≤ 0. -/
def rnd (v k : Int) : Int :=
  if k ≤ 0 then v * (2 ^ (-k).toNat : Nat)
  else
    let d : Int := (2 ^ k.toNat : Nat)
    let q := v / d
    let r := v - q * d
    let h : Int := (2 ^ (k.toNat - 1) : Nat)
    if r > h then q + 1 else if r = h ∧ q % 2 ≠ 0 then q + 1 else q

/-- The quotient `a / b` for b > 0, to nearest, ties to even (R112). -/
def rndDiv (a b : Int) : Int :=
  let q := a / b
  let r := a - q * b
  if 2 * r > b then q + 1 else if 2 * r = b ∧ q % 2 ≠ 0 then q + 1 else q

/-- `v` clamped into lo…hi. -/
def clampZ (v lo hi : Int) : Int := if v < lo then lo else if v > hi then hi else v

/-! ### Formats (Table 2-1) -/

/-- Bits per element of a format code; 0 for a reserved code. -/
def fmtBits : Nat → Nat
  | 1 => 4 | 2 => 3 | 3 => 2 | 4 => 4 | 5 => 4 | 6 => 8 | 7 => 2 | 8 => 4 | 9 => 8 | 10 => 4 | 11 => 8
  | 12 => 32 | 13 => 32 | _ => 0
/-- The weight formats W4, W3, W2 and CB4. -/
def fmtWeight (f : Nat) : Bool := decide (1 ≤ f) && decide (f ≤ 4)
/-- The packed code formats of activations, keys and values. -/
def fmtCode (f : Nat) : Bool := decide (5 ≤ f) && decide (f ≤ 11)
/-- The pairs of Table 2-8. -/
def pairOk (w a : Nat) : Bool :=
  (fmtWeight w && (a == 5 || a == 6)) || ((decide (7 ≤ w) && decide (w ≤ 11)) && a == 6)

/-- Element `i` of a packed array with `n` bits per element (R35, R36). -/
def packed (bs : List Byte) (n i : Nat) : Nat := leNat bs / 2 ^ (n * i) % 2 ^ n
/-- The first `k` elements of a packed array, from the number its bytes spell. -/
def unpackN (n : Nat) : Nat → Nat → List Nat
  | 0, _ => []
  | k + 1, w => w % 2 ^ n :: unpackN n k (w / 2 ^ n)
/-- Codes packed from the lowest bit, as a number (R35). -/
def packN (n : Nat) : List Nat → Nat
  | [] => 0
  | c :: t => c % 2 ^ n + 2 ^ n * packN n t

/-- The value of a code of an activation, key, value or accumulator format (R34, R42, R44). -/
def codeVal (f c : Nat) : Int :=
  match f with
  | 7 => 2 * (c % 4 : Nat) - 3
  | _ => sext (fmtBits f) c
/-- The escape code of a weight format (Table 2-2). -/
def escCode : Nat → Nat
  | 1 => 8 | 2 => 4 | 3 => 2 | _ => 15
/-- The value of a weight code that is no escape (R37). `cb` is the group's codebook. -/
def weightVal (f : Nat) (cb : List Byte) (c : Nat) : Int :=
  if f = 4 then sext 8 (cb.getD c 0).toNat else sext (fmtBits f) c

/-- Bytes of a group of 256 elements in the code plane (Table 2-3, R86). -/
def grpBytes (f : Nat) : Nat := 32 * fmtBits f

/-- A decoded weight group: 256 values, each marked as escape or not. -/
abbrev Group := List (Int × Bool)

/-- Escapes take side entries in position order (R40). -/
def decodeGo (f : Nat) (cb : List Byte) : List Nat → List Int → Group
  | [], _ => []
  | c :: t, side =>
    if c = escCode f then (side.headD 0, true) :: decodeGo f cb t side.tail
    else (weightVal f cb c, false) :: decodeGo f cb t side

/-- The checks of Table 2-5 on one group: `codes` its 256 codes, `hdr` its header word, `cb` its codebook. -/
def groupOk (f : Nat) (codes : List Nat) (hdr : Nat) (cb : List Byte) : Bool :=
  decide (hdr % 16 ≤ 8) && decide ((codes.filter (· == escCode f)).length = hdr % 16) &&
    (f != 4 || cb.getD 15 0 == 0)

/-! ### SC32 (R43) -/

/-- MANT of a scale word. -/
def scMant (w : Nat) : Nat := w % 65536
/-- EXP of a scale word. -/
def scExp (w : Nat) : Int := sext 8 (w / 65536)
/-- The reserved bits of a scale word are zero. -/
def scOk (w : Nat) : Bool := w / 2 ^ 24 % 256 == 0
/-- A scale word from its fields. -/
def scMk (mant : Nat) (e : Int) : Nat := mant % 65536 + 65536 * unsx 8 e

/-- The positive number num ÷ den × 2^x as a normalised SC32 word: MANT in 0x8000–0xFFFF, rounded by R55
(R113). 0 gives MANT 0. Where the exponent would leave −128 to 127 the spec is silent, and EXP takes its low eight bits
(DESIGN CHOICE, log entry 165). -/
def scRound (num den : Nat) (x : Int) : Nat :=
  if num = 0 then 0
  else
    -- bring the quotient into 2^15 ≤ q < 2^16
    let k : Int := (Nat.log2 num : Int) - (Nat.log2 den : Int) - 15
    let q0 (k : Int) : Int := if k ≤ 0 then rndDiv ((num : Int) * (2 ^ (-k).toNat : Nat)) den
      else rndDiv num ((den : Int) * (2 ^ k.toNat : Nat))
    let fl (k : Int) : Int := if k ≤ 0 then ((num : Int) * (2 ^ (-k).toNat : Nat)) / den
      else (num : Int) / ((den : Int) * (2 ^ k.toNat : Nat))
    let k' := if fl k < 32768 then k - 1 else k
    let q := q0 k'
    if q ≥ 65536 then scMk 32768 (x + k' + 1) else scMk q.toNat (x + k')

/-! ### Rescale and quantisation targets (R56, R57) -/

/-- Q of a target format (R112): 7 for 4-bit, 127 for 8-bit. For K2, where R112 gives no Q, the model takes 7 in S = RMAX ÷ Q
(DESIGN CHOICE, log entry 166). -/
def qMax (f : Nat) : Int := if fmtBits f = 8 then 127 else 7

/-- The K2 code of t × 2^(−k), unclamped (Table 2-9). -/
def k2Code (t k : Int) : Int :=
  if 0 ≤ k then rnd (t + 3 * (2 ^ k.toNat : Nat)) (k + 1) else rnd (t * (2 ^ (-k).toNat : Nat) + 3) 1

/-- R57: the code for target `f` of t × 2^(−k) as an unsigned field, and whether it was clipped. -/
def quantCode (f : Nat) (t k : Int) : Nat × Bool :=
  if f = 7 then
    let c := k2Code t k
    ((clampZ c 0 3).toNat, decide (c < 0 ∨ c > 3))
  else
    let y := rnd t k
    (unsx (fmtBits f) (clampZ y (-(qMax f)) (qMax f)), decide (y < -(qMax f) ∨ y > qMax f))

/-- R112: the code for target `f` of the lane m × 2^e under scale S = MANT × 2^EXP: the quotient to nearest,
ties to even, computed exactly. -/
def quantScaled (f : Nat) (m e : Int) (sc : Nat) : Nat × Bool :=
  let q := qMax f
  if scMant sc = 0 then
    if f = 7 then
      if m = 0 then (2, false) else (if m > 0 then 3 else 0, true)
    else if m = 0 then (0, false) else (unsx (fmtBits f) (if m > 0 then q else -q), true)
  else
    let x := e - scExp sc
    let num : Int := if 0 ≤ x then m * (2 ^ x.toNat : Nat) else m
    let den : Int := if 0 ≤ x then scMant sc else (scMant sc : Int) * (2 ^ (-x).toNat : Nat)
    if f = 7 then
      let c := rndDiv (num + 3 * den) (2 * den)
      ((clampZ c 0 3).toNat, decide (c < 0 ∨ c > 3))
    else
      let y := rndDiv num den
      (unsx (fmtBits f) (clampZ y (-q) q), decide (y < -q ∨ y > q))

end Sys2Proof.Machine
end

