-- ==== Sys2Proof/Config.lean ====
section
/-!
DEFINITION. What the spec leaves open: constants without a body. Nothing can be proved about what they
answer, so a statement of the model holds whatever the device does there. The counter `State.free` stamps
each event that takes free values, and the second index tells the values of one event apart, so that no two are the same.
-/
namespace Sys2Proof

/-- A fresh free 32-bit word (log entry 3). -/
opaque Config.freeWord : Nat → Nat → BitVec 32
/-- A fresh free operand-memory unit: what a unit holds that the run has not written (R68, log entry 3). -/
opaque Config.freeUnit : Nat → Nat → BitVec 128
/-- A fresh free near-bank word of 256 bits (log entry 3). -/
opaque Config.freeLb : Nat → Nat → BitVec 256
/-- A fresh free byte (log entry 3). -/
opaque Config.freeByte : Nat → Nat → BitVec 8
/-- A fresh free natural number, used modulo the range the spec gives it (log entry 3). -/
opaque Config.freeNat : Nat → Nat → Nat
/-- A fresh free integer (log entry 3). -/
opaque Config.freeInt : Nat → Nat → Int
/-- A fresh free choice (log entry 3). -/
opaque Config.freeBool : Nat → Nat → Bool

/-- SHA3-512 (R411, R412, R416). Its definition is outside the spec. -/
opaque Config.sha3 : List (BitVec 8) → BitVec 512
/-- ML-DSA-87 verification of a signature over a digest under a public key (R411). -/
opaque Config.mlDsaVerify : List (BitVec 8) → BitVec 512 → List (BitVec 8) → Bool
/-- SHA-384 (R417). -/
opaque Config.sha384 : List (BitVec 8) → BitVec 384
/-- The ECDSA P-384 key pair's public half derived from a secret (R416). -/
opaque Config.deriveKey : BitVec 512 → BitVec 384
/-- The digest of the boot ROM (R416, Table 16-6). -/
opaque Config.romDigest : BitVec 384
/-- The unique device secret burned in fuses (Table 16-4). -/
opaque Config.uds : BitVec 256
/-- The serial number burned in fuses (Table 16-4). -/
opaque Config.serial : BitVec 64
/-- The key hashes burned at manufacture in slots 0 and 1 (R412). -/
opaque Config.keyhash : Nat → BitVec 512

/-- The public key of the root that certifies the DeviceID (R416). -/
opaque Config.rootKey : BitVec 384
/-- What an engine measures of a wavelength at its laser input at an instant (R293): engine, wavelength, time. -/
opaque Config.laserPwr : Nat → Nat → Nat → Int
/-- The size of the memory an image segment of a target is loaded into (R411): 0 security engine, 1 dealer, 2 dealer
tables. The spec does not give it. -/
opaque Config.targetSize : Nat → Nat

end Sys2Proof
end

