-- ==== Sys2Proof/Machine/State.lean ====
section
/-!
DEFINITION. The state of the KDX-512: plain data, everything the spec gives the module, in one record per
part. The default value of every field is its value at reset; a docstring
names the rule that gives the field. `State.pending` is the queue of commands that wait.
-/
namespace Sys2Proof.Machine

/-! ### Registers -/

/-- The register fabric (R340 to R349). `file` holds the stored value of every register by its byte address
(PF BAR0, or a VF page of Table 13-7); an unlisted register holds its reset value (`regReset`). `stage` and
`capt` are the per-master staging and capture copies of the _HI halves, `sel` the per-master selectors, all
keyed by address × 512 + master identity. -/
structure Regs where
  file : Sparse W32 := []
  stage : Sparse W32 := []
  capt : Sparse W32 := []
  sel : Sparse W32 := []
  deriving DecidableEq, Repr

/-- The states of BLK_STS.STATE (Table 13-2). -/
inductive BState | off | starting | on | stopping | pendingOn | failed | retired
  deriving DecidableEq, Repr

/-- The blocks' states (R343, R360 to R363). `st` is STATE by page address, unlisted: the state at reset.
`srst` lists the pages that hold a soft reset while BUSY, `cycle` the pages a soft reset takes through
STOPPING and STARTING, `stopNext` the pages whose start is to be followed by a stop, `thermal` the optical pairs
stopped by R428. -/
structure Blks where
  st : Sparse BState := []
  srst : List Nat := []
  cycle : List Nat := []
  stopNext : List Nat := []
  thermal : List Nat := []
  deriving DecidableEq, Repr

/-! ### The module and its edges (chapter 01) -/

/-- Where the module's power sequence stands (R20, R22, R370): off, rails ramping, up, or up with the
compute, optical, stack and LPDDR rails removed by a trip to shutdown. -/
inductive Power | off | ramping | up | tripped
  deriving DecidableEq, Repr

/-- Management events for the board controller (R13), each pending until it is read over MCTP. -/
inductive MEvent
  | modidChanged | inputLow | clockLoss (isRef : Bool) (bit : Nat) | throttleHeld (i : Nat)
  | toggleStorm (i : Nat) | ras (kind : Nat) (sev : Nat) | stackRetired (stk : Nat)
  deriving DecidableEq, Repr

/-- The module's edge: the power sequence, the latched strap (R11), PERST#, the power-on self-test and fatal
stop behind FAULT_N, the pending management events behind ALERT_N (R13), INPUT_LOW (R17), and which laser
input connectors carry light (R25). -/
structure Edge where
  power : Power := .up
  modid : Nat := 7
  modidChanged : Bool := false
  perst : Bool := true
  post : Bool := true
  fatal : Bool := false
  events : List MEvent := []
  inputLow : Bool := false
  deriving DecidableEq, Repr

/-! ### Boot and trust (chapter 16) -/

/-- The fuses of Table 16-4. The unique device secret and the serial number are constants of the device. -/
structure Fuses where
  keyhash : List (BitVec 512) := [Config.keyhash 0, Config.keyhash 1, 0, 0]
  programmed : BitVec 4 := 3
  keyrev : BitVec 4 := 0
  svn : Nat := 0
  dbgOff : Bool := false
  deriving DecidableEq, Repr

/-- The boot sequence (R404 to R408, R411, R413): the stage reached, the slot, the codes of BOOT_FAIL, the
image's security version and key, and the moments of BOOT_T_CFG and BOOT_T_RDY. -/
structure Boot where
  running : Bool := true
  stage : Nat := 0
  slot : Nat := 0
  fallback : Bool := false
  recovery : Bool := false
  locked : Bool := false
  cfgReady : Bool := false
  devReady : Bool := false
  failA : Nat := 0
  failB : Nat := 0
  svn : Nat := 0
  keyIdx : Nat := 0
  t0 : Nat := 0
  reference : Nat := 0
  tCfg : Nat := 0
  tRdy : Nat := 0
  deriving DecidableEq, Repr

/-- TDI states of a VF (R337). -/
inductive Tdi | unlocked | locked | run | error
  deriving DecidableEq, Repr

/-- What the security engine holds beside its registers: the fuse burn in progress (the target, and whether
its STATE 1 record is durable, R415), the flash command in progress (code, byte, and the data of a program, R414), whether the
certificate store is open to writes, debug unlock (R421), the active IDE streams and those with keys (R336), whether an
SPDM session is open (R335), and what stage 2 derived: the digests of measurements 2 and 3 and the public Alias key
(R416, R417). -/
structure Sec where
  burn : Option (Nat × Bool) := none
  flashOp : Option (Nat × Nat × List Byte) := none
  certsOpen : Bool := false
  session : Bool := false
  measSec : Option (BitVec 384) := none
  measDeal : Option (BitVec 384) := none
  cdiKey : Option (BitVec 384) := none
  unlocked : Bool := false
  unlockPending : Bool := false
  jtagRef : Bool := false
  ideKeys : List Nat := []
  ideActive : List Nat := []
  deriving DecidableEq, Repr

/-- The TAP's instruction register (R420, IEEE 1149.1): the instruction in effect. -/
inductive Tap | idcode | bypass | sample | extest | extestPulse | extestTrain | clamp | highz | debug (code : Nat)
  deriving DecidableEq, Repr

/-! ### Wear, repair and the journal (chapter 15) -/

/-- A RAS record (Table 15-6). -/
structure RasRec where
  seqno : Nat
  kind : Nat
  sev : Nat
  btype : Nat
  inst : Nat
  elem : Nat
  trick : Nat
  addr : Nat
  time : Nat
  deriving DecidableEq, Repr

/-- A journal record before it is programmed (R396): TYPE, KEY and payload; RSEQ is assigned when it is. -/
structure JRec where
  type : Nat
  key : Nat
  payload : List Byte
  deriving DecidableEq, Repr

/-- A running compaction (R399): the segment it writes, the next byte there, and the old segment's next byte from
which appended records are still to be copied. -/
structure Compaction where
  seg : Nat
  at_ : Nat
  oldFrom : Nat
  deriving DecidableEq, Repr

/-- The RAS block and the journal engine (R393 to R401). The journal's bytes are in `State.flash`; `fill` is the next
byte of the active segment, `rseq` the last durable RSEQ, `resume` says that a RESUME record comes first, `due` that a
compaction waits for an erase, `lost` holds the records taken while NOT_DURABLE. -/
structure Ras where
  fifo : List RasRec := []
  seqno : Nat := 0
  degraded : Bool := false
  stacksRetired : List Nat := []
  deriving DecidableEq, Repr
structure Jrn where
  queue : List JRec := []
  seg : Nat := 0
  fill : Nat := 64
  segseq : Nat := 1
  rseq : Nat := 0
  resume : Bool := false
  compaction : Option Compaction := none
  erasing : Bool := false
  eraseRetried : Bool := false
  eraseFailed : Bool := false
  due : Bool := false
  notDurable : Bool := false
  resync : Bool := false
  lost : List JRec := []
  deriving DecidableEq, Repr

/-- A repaired row (R380): the repairs made at it and the spare in use. -/
structure RowRep where
  count : Nat
  spare : Nat
  deriving DecidableEq, Repr

/-- A training record (R390): temperature, activity class (false HIGH, true LOW), margins, validity, and
when it was last used. -/
structure Train where
  temp : Nat := 0
  low : Bool := false
  timing : Nat := 0
  voltage : Nat := 0
  valid : Bool := false
  used : Nat := 0
  deriving DecidableEq, Repr

/-- A running channel migration (R386): logical channel, joker physical channel, old physical channel, the
step of Table 15-5 it has reached. -/
structure Mig where
  ch : Nat
  joker : Nat
  old : Nat
  step : Nat
  deriving DecidableEq, Repr

/-- Wear: the windowed counts (element key → hub times of its counted events, R345), repaired rows by physical
row (R379, R380; the live spares are in ROW_SPARE), lanes steered (R383), training records and the
record in use by physical channel (R390), joker channels retraining in place (R384), migrations running and queued by stack (R385), channels retired, the
units substituted with the joker that serves for each (R153), and the run of aborted tries of one trick number
(R377). -/
structure Wear where
  win : Sparse (List Nat) := []
  rows : Sparse RowRep := []
  tsv : Sparse (List Nat) := []
  train : Sparse Train := []
  trainUse : Sparse Nat := []
  mig : Sparse Mig := []
  migQueue : Sparse Nat := []
  chRetired : List Nat := []
  retrain : List Nat := []
  unitSub : Sparse Nat := []
  deriving DecidableEq, Repr

/-! ### Clocks, power and throttling (chapter 14) -/

/-- One throttle input (R371): the accepted level, THROTTLE_HELD, TOGGLE_STORM, the hub times of its
accepted transitions within the last second. -/
structure ThrIn where
  asserted : Bool := false
  held : Bool := false
  storm : Bool := false
  edges : List Nat := []
  deriving DecidableEq, Repr

/-- The throttle (R366 to R371): the level in force, the hub time since which it has been that level with every demand below it (R367),
the two inputs, the demands of the power limiter and the
thermal controller with the measurements (R368: 10 µs each) and readings (R369: 100 µs each) since they last rose,
the readings since every compute sensor was cool, the sensors whose trip to throttle is held (kind × 256 + index), and
the optical engines' last readings (R428). -/
structure Thr where
  level : Nat := 0
  since : Nat := 0
  brk : ThrIn := {}
  ext : ThrIn := {}
  powerDemand : Nat := 0
  powerAt : Nat := 0
  powerOn : Bool := false
  thermDemand : Nat := 0
  thermAt : Nat := 0
  cool : Nat := 0
  trips : List Nat := []
  opt : List Nat := []
  deriving DecidableEq, Repr

/-- The clock generation (R356, R359): the sources lost and not returned. Loss bits and gates are in the CLK page's
registers. -/
structure Clk where
  lost : List ClkSrc := []
  deriving DecidableEq, Repr

/-! ### Host interface (chapter 12) -/

/-- One memory window WIN[n] of a function (R319), fields in 2 MiB units. -/
structure Win where
  aper : Nat := 0
  dev : Nat := 0
  len : Nat := 0
  valid : Bool := false
  rd : Bool := false
  wr : Bool := false
  deriving DecidableEq, Repr

/-- A PCIe function (R317 to R319, R329, R330, R337). `qbase` and `qcnt` are FN_Q, `evt` and `evtEn` are FN_EVT
and FN_EVT_EN of a VF's function page, `seqSel` its SEQ_SEL; `msixPend` holds the pending bits and `msixUnmasked`
the vectors whose mask bit is clear. -/
structure Func where
  qbase : Nat := 0
  qcnt : Nat := 16
  wins : Sparse Win := []
  bme : Bool := false
  d3hot : Bool := false
  pasid : Bool := false
  ats : Bool := false
  resetRun : Bool := false
  resetPend : Bool := false
  fnErr : Bool := false
  tdi : Tdi := .unlocked
  evt : Nat := 0
  evtEn : Nat := 0
  seqSel : Nat := 0
  msixPend : List Nat := []
  msixUnmasked : List Nat := []
  deriving DecidableEq, Repr

/-- The states of a queue pair (Table 12-5). -/
inductive QState | disabled | enabled | draining | error | paused | pendingOn
  deriving DecidableEq, Repr

/-- A queue pair's live state (R323 to R328): its pointers, the phase of the slot CQ_TAIL names, the error
bits, the descriptors read and ready for acceptance, the coalescing count with the time of the first entry it counts, and since when
the completion queue is full. Its configuration registers are in the register file. -/
structure Queue where
  st : QState := .disabled
  sqHead : Nat := 0
  sqTail : Nat := 0
  cqHead : Nat := 0
  cqTail : Nat := 0
  phase : Bool := true
  errTail : Bool := false
  errHead : Bool := false
  cfgErr : Bool := false
  xlatErr : Bool := false
  ready : List Desc := []
  unsig : Nat := 0
  unsigAt : Nat := 0
  fullAt : Option Nat := none
  deriving DecidableEq, Repr

/-- The PCIe link and the functions' configuration (R315 to R319). `speed`, `width`, `flit` keep their last
values while the link is down (Table 12-9). `aer`: an advisory non-fatal error is logged (R321). -/
structure HostIf where
  linkUp : Bool := false
  aer : Bool := false
  speed : Nat := 0
  width : Nat := 0
  flit : Bool := false
  vfEnable : Bool := false
  pfAper : Nat := 34
  vfAper : Nat := 28
  fns : Sparse Func := []
  queues : Sparse Queue := []
  deriving DecidableEq, Repr

/-- A mailbox channel (R333): the owner (0 none), the sender of the message while FULL, the stamp of MB_HDR,
the message count, bit 10 of MB_STS, and the message words. -/
structure Mbox where
  owner : Nat := 0
  full : Bool := false
  sender : Nat := 0
  count : Nat := 0
  discarded : Bool := false
  data : List W32 := []
  deriving DecidableEq, Repr

/-! ### Cores, clusters and decks (chapters 03 and 04) -/

/-- An accumulator slot of the 32 × 64 cell pairs (R64, R65): the sums row by row, the residue accumulators
(R62), the sticky saturation flag, and, bit by bit, the array rows that were served, not gated (R67). P16 is 0 between
groups (R66), so it holds nothing between steps. -/
structure Slot where
  acc : List Int := []
  res : List Nat := []
  sat : Bool := false
  rows : Nat := 0
  deriving DecidableEq, Repr

/-- A key group of at most 64 positions of one page or one record (R202): whether it lies in the append buffer, its
page-table entry, the first slot of the page or the first append row, its first position, its count, and its key and
value scale words. A group with no keys has count 0. -/
structure KGroup where
  app : Bool := false
  pte : Nat := 0
  slot : Nat := 0
  pos : Nat := 0
  n : Nat := 0
  ksc : Nat := 0
  vsc : Nat := 0
  deriving DecidableEq, Repr

/-- What a STREAM with PAGE = 1 delivers and tags (R201, R202, R206): the sequence, the layer, the KV head and first
query head of the entry, G, T, UPOS, the query scales, and its blocks of up to four key groups. -/
structure PStream where
  seq : Nat
  layer : Nat
  kvh : Nat
  qh : Nat
  g : Nat
  t : Nat
  upos : Nat
  qsc : List Nat
  blocks : List (List KGroup)
  deriving DecidableEq, Repr

/-- A core's feed ring (R69, R70, R81): base and length in units, columns, groups to deliver, the first output
row and group, the tensor descriptor, groups written and groups freed, and the units a group-column's place takes: 11, or
22 in a paged ring with 8-bit groups (R202). A paged ring carries its stream and the format of every group written
(R204). -/
structure Ring where
  pg : Option PStream := none
  td : Nat := 0
  base : Nat := 0
  len : Nat := 0
  ncol : Nat := 0
  ngrp : Nat := 0
  row : Nat := 0
  grp : Nat := 0
  written : Nat := 0
  freed : Nat := 0
  gu : Nat := 11
  fmts : List Nat := []
  deriving DecidableEq, Repr

/-- A TX32 row (R52, R97): 64 mantissas, the shared exponent, the saturation flag that travels with a drained
tile (R49, R83), the residue of every mantissa and the exponent's parity bit (R61). -/
structure Row where
  m : List Int := []
  e : Int := 0
  sat : Bool := false
  res : List Nat := []
  par : Bool := false
  deriving DecidableEq, Repr

/-- The row-statistics unit (R71): running maximum and running sum of each of 32 rows, four value accumulators
of 32 rows by accumulator × 32 + row, the scale words sp[r] the last SCORE left for the VALUE that follows (R206, R207),
and the blocks scored since the paged stream began. -/
structure RowStats where
  max : Sparse Row := []
  sum : Sparse Row := []
  val : Sparse Row := []
  sp : Sparse Nat := []
  blk : Nat := 0
  deriving DecidableEq, Repr

/-- A loop counter (R85). -/
structure LoopCtr where
  active : Bool := false
  left : Nat := 0
  owner : Nat := 0
  start : Nat := 0
  deriving DecidableEq, Repr

/-- Why a sequencer does not issue (R79, R88 to R90): it does, it waits on a counter's target, on a semaphore,
at a barrier, it has reached END, a fault stopped it, or it is idle. -/
inductive SeqSt | idle | issue | waitEvent (ev val : Nat) | waitSem (sem n : Nat) | waitBar (scope : Nat)
    | ended | stopped (fault : Nat)
  deriving DecidableEq, Repr

/-- An outstanding asynchronous step (R79): its index in the deck and what it increments when it completes. -/
structure Async where
  pc : Nat
  cen : Bool
  cev : Nat
  stream : Bool := false
  deriving DecidableEq, Repr

/-- An array step, or a VEC step, that has issued and not completed (R79, R109): its index in the deck, its word, the drop
mask (R91) and the address registers as it issued. -/
structure ArrStep where
  pc : Nat
  w : Nat
  drop : Nat := 0
  ar : List Nat := []
  deriving DecidableEq, Repr

/-- A sequencer (R79, R85, R86, R88): state, pc, AR0 to AR3, 16 event counters, 4 loop counters, outstanding
steps, the sampled drop mask, the LAYER loops passed (R219), the groups the running MAC has consumed, and the array or
VEC steps that have issued, in issue order, the running one first. -/
structure Sequencer where
  st : SeqSt := .idle
  pc : Nat := 0
  ar : List Nat := [0, 0, 0, 0]
  ev : List Nat := []
  loops : List LoopCtr := [{}, {}, {}, {}]
  outst : List Async := []
  drop : Nat := 0
  layer : Nat := 0
  macDone : Nat := 0
  arr : List ArrStep := []
  deriving DecidableEq, Repr

/-- A logical core: operand memory by unit (R68; a unit this run has not written is unspecified) with the residues of each
unit's four words (R61), slots, feed ring, row statistics. -/
structure Core where
  seq : Sequencer := {}
  om : Sparse (BitVec 128) := []
  omRes : Sparse (List Nat) := []
  slots : Sparse Slot := []
  ring : Option Ring := none
  rs : RowStats := {}
  deriving DecidableEq, Repr

/-- A deck in the deck cache (R75): its device address, its units, when it was last used, and the first of its consecutive
frames. -/
structure Deck where
  addr : Nat
  units : List (BitVec 128)
  used : Nat := 0
  frame : Nat := 0
  deriving DecidableEq, Repr

/-- A combine in flight (R120): which XR operation of its deck it is, in deck order, its reduction groups, scope,
reduction, group, k, the rows in the network, and where they return. -/
structure Xr where
  ord : Nat := 0
  n : Nat := 0
  scope : Nat
  rop : Nat
  rgrl : Nat
  ktop : Nat
  rtb : Nat
  rrow : Nat
  rows : List Row
  pos : List Nat
  deriving DecidableEq, Repr

/-- A cluster: the run (its parameter block, trick, model, function; `active` until every deck has reached END),
the RUNs held behind it in arrival order (R74), DROP_MASK, the deck cache and a pending invalidation (R75), the cores and
the cluster sequencer, tile rows and their FULL bits (R97, R99), the parameter store with the residue of every word, the
QS checkpoint (R115), the
register writes staged to the next RUN (R92), a combine in flight, the address of the run's parameter block, and the
index of the run's unspecified contents. `lastTrick` is the trick of the last run and whether it was aborted. -/
structure Cluster where
  active : Bool := false
  tpb : List Byte := []
  tpbAt : Nat := 0
  held : List Nat := []
  trick : Nat := 0
  ran : Bool := false
  aborted : Bool := false
  dropMask : Nat := 0
  decks : List Deck := []
  inval : Bool := false
  cores : Sparse Core := []
  cseq : Sequencer := {}
  tiles : Sparse Row := []
  full : List Nat := []
  params : Sparse (List Byte) := []
  paramRes : Sparse (List Nat) := []
  qsSave : Sparse W32 := []
  staged : Sparse W32 := []
  xr : Option Xr := none
  epoch : Nat := 0
  deriving DecidableEq, Repr

/-- A sequencer waiting for a semaphore, in arrival order (R89, R92). -/
structure SemWait where
  die : Nat
  sem : Nat
  n : Nat
  clu : Nat
  seq : Nat
  gidx : Nat
  deriving DecidableEq, Repr

/-- The dies' shared synchronisation (R89, R90): semaphores by die × 1,024 + index, the ACQUIREs that wait, and
the barrier arrivals as (scope, cluster, sequencer, group). -/
structure Sync where
  sem : Sparse Nat := []
  waits : List SemWait := []
  arrived : List (Nat × Nat × Nat × Nat) := []
  deriving DecidableEq, Repr

/-! ### Memory (chapter 06) -/

/-- A line of the last-level memory (R171, R173): base address, 256 bytes, dirty, poisoned, its slice × 64 +
logical way, and when it was last used. -/
structure Line where
  addr : Nat
  data : List Byte
  dirty : Bool := false
  poison : Bool := false
  way : Nat
  used : Nat := 0
  deriving DecidableEq, Repr

/-- A logical way (R173, R175): MODE (0 OFF, 1 CACHE, 2 SCRATCH), OWNER, the configuration a write left pending,
the physical way (0x3F withdrawn, R382). -/
structure Way where
  mode : Nat := 0
  owner : Nat := 0
  pend : Option (Nat × Nat) := none
  phys : Nat := 0
  deriving DecidableEq, Repr

/-- An access that waits until a way's new configuration takes effect (R175): a read, a write, an atomic. -/
inductive MemWait
  | read (rq : Requester) (a n : Nat)
  | write (rq : Requester) (a : Nat) (bs : List Byte)
  | atom (rq : Requester) (a n : Nat) (op : AtomOp) (x swap : Nat)
  deriving DecidableEq, Repr

/-- A retag in progress on a stack (R165, R166): target, mode, named region, and the regions in scope. -/
structure Retag where
  target : Nat
  mode : Nat
  rgn : Nat
  scope : List Nat
  deriving DecidableEq, Repr

/-- Memory. `dram` holds the stacks' bytes by physical place ((stack × 34 + channel) × 8 + pair) × 2^28 + pair
offset, `lpd` the tier's by offset, `scratch` the SCRATCH ways' by window offset; an unlisted byte is 0.
`poison` lists the poisoned 64-byte bursts of `dram` by place ÷ 64, `scrPoison` the poisoned 256-byte lines of
`scratch`. `lines` are the cached lines, `ways` by slice × 64 + logical way, `jokers` the joker ways in use.
`rgn` is the region table by RIDX; an unlisted entry is OFFLINE (Table 6-3), or E in mode HALF when its half is in
`bootE`, the halves that boot stage 5 has retagged (R406); `retags` the retags in progress by stack,
`reloads` the regions in golden reload (R181), `inv` the invalidations running (page, base, length), `tag0` and `tag1` the bus tags by
stack × 256 + tag (R145), `stamp` the use counter of the replacement, `temps` a stack's die temperatures as last
read (R183), `waits` the accesses that wait for a pending way (R175), in arrival order. -/
structure Mem where
  dram : Sparse Byte := []
  poison : List Nat := []
  lpd : Sparse Byte := []
  scratch : Sparse Byte := []
  scrPoison : List Nat := []
  lines : List Line := []
  ways : Sparse Way := []
  jokers : List Nat := []
  rgn : Sparse W32 := []
  retags : Sparse Retag := []
  reloads : List Nat := []
  inv : List (Nat × Nat × Nat) := []
  tag0 : Sparse W32 := []
  tag1 : Sparse W32 := []
  stamp : Nat := 0
  bootE : List Nat := []
  temps : Sparse (List Nat) := []
  waits : List MemWait := []
  deriving DecidableEq, Repr

/-! ### Near-bank units (chapter 05) -/

/-- CSTAT.STATE (Table 5-5). -/
inductive UState | idle | running | fencing | aborting | faulted | clearing | testing
  deriving DecidableEq, Repr

/-- A span of a unit's LB words (0), ACCF entries (1) or table slots (2) an outstanding instruction uses (R134). -/
structure Span where
  space : Nat
  lo : Nat
  n : Nat
  wr : Bool
  deriving DecidableEq, Repr

/-- An outstanding asynchronous instruction (R134): its pc, its opcode and the spans it uses. -/
structure UAsync where
  pc : Nat
  op : Nat
  spans : List Span
  deriving DecidableEq, Repr

/-- A table slot (R139): formats, which nibble it serves (R141: 0 whole code, 1 high, 2 low), the activation of each of
its 256 tables, entry T[c] of a table being value(c) × a (R58), and for each table the residues its sixteen entries carry, three
bits each from entry 0 up (R125). -/
structure TSlot where
  wfmt : Nat := 0
  afmt : Nat := 0
  half : Nat := 0
  act : List Int := []
  res : List Nat := []
  deriving DecidableEq, Repr

/-- An LMAC's plan (R138): operands, the BEV target it waits for, the format of the activations a CB4 plan reads (`af`),
records fetched with the pair offset of the next (`a`), the next task. -/
structure Plan where
  pc : Nat
  wfmt : Nat
  src : Nat
  a : Nat
  nr : Nat
  ng : Nat
  ns : Nat
  accb : Nat
  slot0 : Nat
  qw : Nat
  qs : Nat
  af : Nat := 5
  bw : Option Nat
  fetched : Nat := 0
  next : Nat := 0
  deriving DecidableEq, Repr

/-- A near-bank unit (Table 5-1): state, DONE and TAG of CSTAT, the tag of the command running, pc, G1 to G15,
BEV, micro-program store, LB and ACCF with the residue of each of their 32-bit words (R125), table slots, record FIFO, LMAC
plans, outstanding instructions, refresh state with PREEMPT (R150), the staged NBU_CFG, and, after an ABORT, the index of the
unspecified contents of LB, ACCF and tables. -/
structure Nbu where
  st : UState := .idle
  done : Bool := false
  tag : Nat := 0
  cmdTag : Nat := 0
  pc : Nat := 0
  g : Sparse W32 := []
  bev : Nat := 0
  store : Sparse W32 := []
  lb : Sparse (BitVec 256) := []
  lbRes : Sparse (List Nat) := []
  acc : Sparse Int := []
  accRes : Sparse Nat := []
  tabs : Sparse TSlot := []
  fifo : List (List Byte) := []
  plans : List Plan := []
  outst : List UAsync := []
  refDue : Bool := false
  refRun : Bool := false
  preempt : Bool := false
  staged : Option W32 := none
  lost : Option Nat := none
  deriving DecidableEq, Repr

/-- A contribution on a stack's bus (R145): stack, tag, LUNIT, unit, BOP and its words. -/
structure Contrib where
  stk : Nat
  tag : Nat
  lunit : Nat
  unit : Nat
  bop : Nat
  words : List (BitVec 256)
  deriving DecidableEq, Repr

/-! ### The Idlum fabric (chapter 11) -/

/-- An engine's state while its block is ON (R295); OFF is the block's own state. -/
inductive EngSt | dark | training | up | retired
  deriving DecidableEq, Repr

/-- An optical engine (R295, R296, R298): state, whether its laser input is lost, next SEQ to send and next SEQ
expected, the replay buffer (each frame's packet as it stood before it left, R299), the frame a NAK has had resent once, the
credits used and the buffers freed but not yet returned by VC × 2 + DL, and the packets received for this device that wait to be
acted on. Its lane map is OPT_LMAP. -/
structure Engine where
  st : EngSt := .training
  noLight : Bool := false
  seq : Nat := 0
  rxSeq : Nat := 0
  replay : List (Nat × Packet) := []
  nakked : Option Nat := none
  used : Sparse Nat := []
  owed : Sparse Nat := []
  rxq : List Packet := []
  deriving DecidableEq, Repr

/-- A NOTIFY held until the bytes it counts have completed (R306): source, VC, bytes, semaphore, die, count. -/
structure Notify where
  src : Nat
  vc : Nat
  bytes : Nat
  sem : Nat
  die : Nat
  n : Nat
  deriving DecidableEq, Repr

/-- One packet of a reduction's partial (Tables 11-7 and 11-8): PART, ROW, EXP and the payload. -/
structure RedPkt where
  part : Nat
  row : Nat
  exp : Nat
  data : List Byte
  deriving DecidableEq, Repr

/-- A ring reduction this device takes part in (R307): OP, PMASK, NPKT, the output rows of one query row, the destination,
this member's partial, the packets of the partial arriving at the present level (at the destination, of the result),
the level, the status, and whether its part is done. -/
structure Red where
  op : Nat
  pmask : Nat
  npkt : Nat
  dh : Nat
  dest : Nat
  own : List RedPkt
  got : List RedPkt := []
  level : Nat := 0
  stat : Nat := 0
  done : Bool := false
  deriving DecidableEq, Repr

/-- The fabric: engines, packets waiting to be sent (responses and forwards), frames an engine left unacknowledged that wait to be
resent on the others of its port (R296), by port the engines that carry its flows (R301), the spans elsewhere that are down as last
learnt (R302), outstanding requests by TAG with the time each was sent (R304), bytes completed and not yet counted by a NOTIFY by source × 4 + VC, bytes of its own writes since its last NOTIFY by destination × 4 + VC (R306), NOTIFYs held, reductions by
RID, and the bits of FAB_STS that are set by events. -/
structure Fab where
  eng : Sparse Engine := []
  outq : List Packet := []
  resend : List Packet := []
  flows : Sparse (List Nat) := []
  farDown : List Nat := []
  reqs : Sparse (BitVec 128) := []
  reqAt : Sparse Nat := []
  bytes : Sparse Nat := []
  sent : Sparse Nat := []
  held : List Notify := []
  red : Sparse Red := []
  topoErr : Bool := false
  verErr : Bool := false
  ovf : Bool := false
  deriving DecidableEq, Repr

/-! ### The dealer (chapters 08 and 09) -/

/-- A fault reported to the dealer (R93, R132, R170): its code (1 CRC, 2 DECK, 3 BOUNDS, 4 FORMAT, 5 SEM, 6 MPERR,
7 REGION, 8 POISON, then the transient 16 RESIDUE, 17 OM_UE, 18 HANG, 19 CCODE, 20 LB_UE, 21 MPPAR), the block it
came from, the element, the model, the trick, and the device address for POISON. -/
structure Report where
  code : Nat
  blk : Blk
  inst : Nat
  elem : Nat := 0
  model : Nat := 0
  trick : Nat := 0
  addr : Nat := 0
  deriving DecidableEq, Repr

/-- A resident model slot (R191, R265): MODEL_STS.STATE (0 EMPTY, 1 LOADED, 2 FAULTED, 3 LOADING), the bundle, the
attention context as last read, the last fault code and the trick of the last fault. -/
structure Model where
  st : Nat := 0
  b : Bundle := {}
  ctx : List Byte := []
  fault : Nat := 0
  ftrick : Nat := 0
  deriving DecidableEq, Repr

/-- The MODEL_ADM settings of a model slot (Table 9-2). -/
structure AdmSet where
  tper : Nat := 0
  rmax : Nat := 1024
  imax : Nat := 1024
  draft : Nat := 0
  deriving DecidableEq, Repr

/-- The settings of an account that an ACCT_SET brings into effect at the next trick build (R273): ANTE, WEIGHT, CMAX, PFR. -/
structure Terms where
  ante : Nat
  weight : Nat
  cmax : Nat
  pfr : Nat
  deriving DecidableEq, Repr

/-- A budget account (Table 9-3, R271, R272): its settings, those that wait for the next build (R273), balance, tokens charged
this period, balance and tokens charged as the last commit left them (R272, R278), BREACH entries written, and whether it had a
runnable sequence at every build of the period (R282). -/
structure Acct where
  ante : Nat := 0
  ceil : Nat := 0
  burst : Nat := 0
  owner : Nat := 0
  enable : Bool := false
  weight : Nat := 1
  cmax : Nat := 3
  pfr : Nat := 0
  bal : Int := 0
  charged : Nat := 0
  breaches : Nat := 0
  demand : Bool := true
  waits : Option Terms := none
  bal0 : Int := 0
  charged0 : Nat := 0
  deriving DecidableEq, Repr

/-- Request states (Table 8-8); an ended request is no longer in its slot. -/
inductive RqSt | queued | prefill | decode | paused
  deriving DecidableEq, Repr

/-- A breach episode (R282): the first trick, the last, and how many. -/
structure Episode where
  first : Nat
  last : Nat
  n : Nat
  deriving DecidableEq, Repr

/-- A request (R228 to R240): the submitting function, queue and local index, its host tag, the descriptor's fields, whether it is an APPEND,
the state and the state it left for PAUSED, its pauses (host, budget, a host pause that waits for a commit), the time
to live, what it has processed and delivered, the last delivered tokens newest first, its drafts (R253), tokens held by
PACK, acceptance order, last commit, admission (0 none, 1 lower classes, 2 INTERACTIVE; R277) with its order, whether
it was withdrawn (R281), its age and hold (R278), and its breach episodes (R282). `since` is the last committed trick when it was
accepted or left PAUSED, `draftSince` when its drafts were accepted (R242, R253). -/
structure Req where
  fn : Nat
  q : Nat
  seq : Nat
  htag : Nat
  cls : Nat
  logp : Bool
  pack : Bool
  keep : Bool
  bend : Bool
  pdev : Bool
  app : Bool
  model : Nat
  acct : Nat
  topk : Nat
  temp : Nat
  topp : Nat
  minp : Nat
  plen : Nat
  maxNew : Nat
  paddr : Nat
  seed : Nat
  stopIds : List Nat := []
  stopSeqs : List (List Nat) := []
  st : RqSt := .queued
  prev : RqSt := .queued
  host : Bool := false
  budget : Bool := false
  hostWait : Bool := false
  ttl : Nat := 0
  ttlFrom : Option Nat := none
  done : Nat := 0
  delivered : Nat := 0
  last : List Nat := []
  drafts : List Nat := []
  packed : List (Nat × Int) := []
  order : Nat := 0
  lastCommit : Nat := 0
  adm : Nat := 0
  admAt : Nat := 0
  withdrawn : Bool := false
  age : Nat := 0
  hold : Bool := false
  short : Bool := false
  lastTok : Option Nat := none
  b3 : Option Episode := none
  b4 : Option Episode := none
  since : Nat := 0
  draftSince : Nat := 0
  deriving DecidableEq, Repr

/-- Sequence slot states (Table 8-1). -/
inductive SlotSt | free | active | retained | freeing
  deriving DecidableEq, Repr

/-- An entry of the sequence table (R227 to R229): state, owning function, model, committed length, pending token,
tokens delivered, its request (on a FREEING slot: the one that waits), the trick at whose end a FREEING slot is
freed, and the trick of the sequence's last commit (R242). -/
structure SeqSlot where
  st : SlotSt := .free
  fn : Nat := 0
  model : Nat := 0
  len : Nat := 0
  pend : Nat := 0
  dlv : Nat := 0
  req : Option Req := none
  freeAt : Nat := 0
  lastCommit : Nat := 0
  deriving DecidableEq, Repr

/-- A length-table entry (Table 8-9) with what its commit needs: the drafts, the account, the prompt charge (R272),
whether the sequence was dropped from the trick, and whether the dealer has marked the drop at a layer broadcast (R262). `start`
is the position of its first row and `chunk` the positions its commit adds; they differ from LEN and NEW for a chunk divided over
a ring (R223). -/
structure TEntry where
  gid : Nat
  model : Nat
  prefill : Bool
  last : Bool
  sample : Bool
  cls : Nat
  len : Nat
  new : Nat
  draft : Nat
  approw : Nat
  toks : List Nat
  acct : Nat
  cost : Nat
  dropped : Bool := false
  marked : Bool := false
  start : Nat := len
  chunk : Nat := new
  deriving DecidableEq, Repr

/-- A run dealt to clusters (R245, R289): the model, whether it is a prefill run, its logical clusters, the address of
its trick-parameter block. -/
structure TRun where
  model : Nat
  prefill : Bool
  clusters : List Nat
  tpb : Nat
  deriving DecidableEq, Repr

/-- Drop-mask bits a sequencer first sampled at a layer (R244): the run's parameter block, the sequencer's GIDX (the cluster
sequencer above 4,352), the layer, the bits. -/
structure DropAt where
  tpb : Nat
  seq : Nat
  layer : Nat
  mask : Nat
  deriving DecidableEq, Repr

/-- A trick (R241 to R245): its number, the hub time of its build, the length table, the models that run thin, the page
snapshot by sequence × 512 + layer (R198), the runs, the layers begun by model (R219), the layers whose append rows are
copied as model × 512 + layer (R212), the replays, the runs aborted by transient faults one after another (R377), the
runs ended as (logical cluster, parameter block), the clusters of R290, the drops as they were first sampled (R244), the bases of
prefetched pages that were not resident when streamed (R219), and the HBM-C pages each near-bank unit attends (R221), as unit,
sequence × 512 + layer, and entries in ascending FPOS. -/
structure Trick where
  num : Nat
  built : Nat
  entries : List TEntry
  thin : List Nat := []
  snap : Sparse (List Nat) := []
  runs : List TRun := []
  layers : Sparse Nat := []
  copied : List Nat := []
  replays : Nat := 0
  aborts : Nat := 0
  done : List (Nat × Nat) := []
  preN : Nat := 0
  preC : Nat := 1
  drops : List DropAt := []
  late : List Nat := []
  near : List (Nat × Nat × List Nat) := []
  deriving DecidableEq, Repr

/-- A page that falls due to be freed (R213 to R215): at the end of which trick, its model, sequence and layer, whether
it leaves a page table (0), was allocated for rejected positions only (1) or is a vacated frame (2), its first position
and base. -/
structure Due where
  trick : Nat
  model : Nat
  gid : Nat
  layer : Nat
  kind : Nat
  fpos : Nat
  base : Nat
  deriving DecidableEq, Repr

/-- The attention side of the dealer and the ATT block (chapter 07): the KV translation cache by
(sequence × 512 + layer) × 2^22 + position ÷ 16, each leaf with its model slot above its 128 bits, invalidations pending as (model slot, 64 for all; the trick that must
end), the trick that allocated each page by the same key of its first position (R218), frees due at the end of a trick,
and frees deferred while ring 18 is full (R214). -/
structure Kv where
  tlb : Sparse Nat := []
  inval : List (Nat × Nat) := []
  born : Sparse Nat := []
  due : List Due := []
  deferred : List Due := []
  deriving DecidableEq, Repr

/-- A completion entry that waits to be written (R260): the queue, the sequence slot it concerns, the trick whose commit
made it (0 for none), whether it acknowledges a control descriptor (R259), and its 32 bytes without PHASE. -/
structure CqOut where
  q : Nat
  gid : Nat
  commit : Nat
  ack : Bool
  e : BitVec 256
  deriving DecidableEq, Repr

/-- The QS registers of a logical cluster that has moved (R95, R115), while the cluster that runs it runs another index: that
cluster, the last trick it ran, whether it was aborted, the registers in the order of Table 4-8, and the checkpoint. -/
structure QsRec where
  host : Nat
  trick : Nat
  aborted : Bool
  regs : List W32
  save : List W32
  deriving DecidableEq, Repr

/-- The dealer (chapters 08 and 09): running, the number of the trick in flight or of the last, the last committed
trick, the next trick's number, the last ended trick (KV_RETIRE_EPOCH), the trick in flight, committed tricks that have
not ended, model slots, admission settings, accounts, functions' sequence ranges, the sequence table, the acceptance and
admission counters, the SVC_SET settings, the first trick of the replenish period, the hub time of the last period boundary (or of DEVICE_READY) and of the next (R271), the prefill window of R290 (prefill
core time scaled by lcm(1…68), duration), completion entries not yet written, what it has still to act on, the
logical clusters whose work another cluster runs (R95), each with that cluster and the cluster's own index, the settings that
wait for the next build (MODEL_ADM; PAUSE_AGE_MAX and CQ_STALL_MAX; R268), DEAL_CFG as the last build took it (R265), the time
of the last commit (R290), and the QS registers of logical clusters that share a cluster (R115). -/
structure Deal where
  running : Bool := false
  trick : Nat := 0
  commit : Nat := 0
  next : Nat := 1
  ended : Nat := 0
  cur : Option Trick := none
  ending : List Trick := []
  models : Sparse Model := []
  adm : Sparse AdmSet := []
  accts : Sparse Acct := []
  fnSeq : Sparse (Nat × Nat) := []
  slots : Sparse SeqSlot := []
  order : Nat := 0
  admOrder : Nat := 0
  repPeriod : Nat := 100
  pauseAge : Nat := 64
  cqStall : Nat := 10
  perFirst : Nat := 1
  perLast : Nat := 0
  perDue : Nat := 0
  win : List (Nat × Nat) := []
  cq : List CqOut := []
  capChange : Bool := false
  reports : List Report := []
  moved : Sparse (Nat × Nat) := []
  admNew : Sparse AdmSet := []
  svcNew : Option (Nat × Nat) := none
  cfg : Nat := 0x002000A8
  commitAt : Option Nat := none
  qs : Sparse QsRec := []
  deriving DecidableEq, Repr

/-! ### What leaves the device -/

/-- The rails of Table 1-6, each group in the order in which it comes up: the hub's, the stacks', LPDDR5X, the compute
dies' and the optical engines'. -/
inductive Rail
  | hubCore | hub1v2 | hub1v8 | hub3v3 | stackVpp | stackVdd | stackVddq | baseDie
  | lpVdd1 | lpVdd2h | lpVdd2l | lpVddq | compute0 | compute1 | optics
  deriving DecidableEq, Repr

/-- What the device sends at its edges: read completions on the register fabric, memory read completions,
Completer Abort and Unsupported Request, the device's own requests to host memory for a queue (their function, their PASID, whether they are translated through ATS, whether they write: R316), completion entries, MSI-X messages, MCTP replies, packets and frames
of the fabric, a cluster's report of a sampled drop mask (R262), SPDM responses, the TAP's data, and the steps of a power sequence (R20, R22): rails, modulators, FAULT_N.
The model's own record, newest first; nothing in the device reads it. -/
inductive Out
  | reg (mid a : Nat) (v : W32)
  | mem (rq : Requester) (bs : List Byte)
  | memPoison (rq : Requester) (err : Nat)
  | abort (f : Nat)
  | unsupported (f : Nat)
  | atomic (f : Nat) (old : Nat)
  | cfg (f : Nat) (v : List Nat)
  | rrs (f : Nat)
  | hostReq (f : Nat) (pasid : Option Nat) (ats wr : Bool)
  | cqe (q slot : Nat) (e : BitVec 256)
  | msix (f v : Nat)
  | mctp (v : List Nat)
  | mctpEvent (e : MEvent)
  | frame (n seq ack crv crdl crcnt crc : Nat) (p : Packet)
  | nak (n seq : Nat)
  | laneSwap (n : Nat) (tx : Bool) (lane : Nat)
  | fabDone (tag stat : Nat) (bs : List Byte)
  | notice (gidx : Nat) (code : Nat)
  | dropSampled (c : Nat) (trick : Nat)
  | pong (c seqno trick : Nat)
  | fault (gidx code : Nat) (trick : Nat)
  | unitDone (u tag : Nat)
  | spdm (bs : List (BitVec 384)) (raw : List Nat)
  | session (opened : Bool)
  | doe (vendor proto next : Nat)
  | tdi (f : Nat) (t : Tdi)
  | margin (lane : Nat) (v : Nat)
  | atsDone (f : Nat)
  | tdo (v : Nat)
  | pins (drive : Bool)
  | rail (r : Rail) (on : Bool)
  | modulatorsDark
  | faultPin (asserted : Bool)
  deriving DecidableEq, Repr

/-- Why the device stops. No command of the block ends in a fault: a device error is an event of the state
(a sticky bit, a record, a reply). The one constructor is kept for the host's interface and is raised by no
meaning; it is safe. -/
inductive Fault
  | none
  deriving DecidableEq, Repr

/-- Why a command has no meaning. `notModelled` is raised only by an arm of `exec` that has no meaning yet (none
at present) and is safe; `debugInstruction` is raised by DEBUG_INSTRUCTION while debug is unlocked, whose effect
the spec does not give (R421), and is safe. -/
inductive Refusal
  | notModelled (mnemonic : String)
  | debugInstruction (code : Nat)
  deriving DecidableEq, Repr

/-- The whole machine. -/
structure State where
  pending : List Instr := []
  free : Nat := 0
  out : List Out := []
  time : Nat := 0
  edge : Edge := {}
  fuses : Fuses := {}
  flash : Sparse Byte := []
  boot : Boot := {}
  sec : Sec := {}
  tap : Tap := .idcode
  regs : Regs := {}
  blk : Blks := {}
  clk : Clk := {}
  thr : Thr := {}
  ras : Ras := {}
  jrn : Jrn := {}
  wear : Wear := {}
  host : HostIf := {}
  mbx : Sparse Mbox := []
  clu : Sparse Cluster := []
  sync : Sync := {}
  mem : Mem := {}
  nbu : Sparse Nbu := []
  bus : List Contrib := []
  fab : Fab := {}
  deal : Deal := {}
  kv : Kv := {}
  deriving DecidableEq, Repr

/-- The machine right after hub power-good (Table 1-6): the hub at its reset values, FAULT_N and PERST# asserted, boot about
to run its first stage, nothing queued. -/
def State.reset : State := {}

end Sys2Proof.Machine
end

