-- ==== Sys2Proof/Machine/Flags.lean ====
section
/-!
DEFINITION. Flags and checks of the integer arithmetic: saturation (R49), the mod-7 residue (R61, R62), chunk
promotion (R46), TX32 normalisation with its TX_RANGE flag (R52, R53) and the table interpolation (R104).
-/
namespace Sys2Proof.Machine

/-- R61: the residue of an integer. -/
def resd (v : Int) : Nat := (v % 7).toNat

/-- R49: an accumulator update, clamped; the flag says the clamp changed it. -/
def satAdd (acc d : Int) : Int × Bool :=
  let r := acc + d
  if r > 2147483647 then (2147483647, true) else if r < -2147483648 then (-2147483648, true) else (r, false)

/-- R61: the residues of a word's four 32-bit parts, read as unsigned. -/
def resUnit (v : BitVec 128) : List Nat := (List.range 4).map (fun i => v.toNat / 2 ^ (32 * i) % 2 ^ 32 % 7)
/-- R61: the even parity of a TX32 exponent. -/
def expPar (e : Int) : Bool := (List.range 8).foldl (fun b i => b != bitN (unsx 8 e) i) false
/-- A TX32 row with its check bits (R61). -/
def mkRow (m : List Int) (e : Int) (sat : Bool := false) : Row := { m := m, e := e, sat := sat, res := m.map resd, par := expPar e }
/-- R63: a row's mantissas agree with the residues it carries, its exponent with its parity. -/
def rowChk (r : Row) : Bool := r.res == r.m.map resd && r.par == expPar r.e

/-- A running accumulation of one cell pair: ACC, P16, the residue accumulator, the residue of what P16 holds, the clamps so
far, and the escape products, each with its residue, that wait for the promotion that closes their run (R46, R62). -/
structure Cell where
  acc : Int
  p16 : Int := 0
  res : Nat := 0
  pres : Nat := 0
  sats : Nat := 0
  esc : List (Int × Nat) := []
  deriving DecidableEq, Repr

/-- One update of ACC by `d`, of residue `r`, with R49's clamp; a clamp reloads the residue shadow (R62), and what has not
reached ACC yet keeps its residue. -/
def cellAcc (c : Cell) (d : Int) (r : Nat) : Cell :=
  let (a, s) := satAdd c.acc d
  if s then { c with acc := a, sats := c.sats + 1, res := resd a } else { c with acc := a, res := (c.res + r) % 7 }

/-- A promotion that closes a run: P16 into ACC, then the run's escape products in position order (R46). -/
def cellClose (c : Cell) : Cell :=
  let c1 := cellAcc c c.p16 c.pres
  let c2 := c.esc.foldl (fun x e => cellAcc x e.1 e.2) { c1 with p16 := 0, pres := 0 }
  { c2 with esc := [] }

/-- One position: a product into P16 with early promotion, an escape product held for the close (R46); the shadow repeats it
on residues (R62). -/
def cellMac (c : Cell) (w : Int × Bool) (a : Int) : Cell :=
  let p := w.1 * a
  let r := resd w.1 * resd a % 7
  if w.2 then { c with esc := c.esc ++ [(p, r)] }
  else if c.p16 + p > 32767 ∨ c.p16 + p < -32768 then { cellAcc c c.p16 c.pres with p16 := p, pres := r }
  else { c with p16 := c.p16 + p, pres := (c.pres + r) % 7 }

/-- One group of 256 positions in runs of 64 (R46, R66). -/
def cellGroup : Nat → Cell → Group → List Int → Cell
  | _, c, [], _ => cellClose c
  | i, c, w :: ws, as =>
    let c1 := cellMac c w (as.headD 0)
    cellGroup (i + 1) (if i % 64 = 63 ∧ ws ≠ [] then cellClose c1 else c1) ws as.tail

/-! ### TX32 (R52 to R54) -/

/-- The largest magnitude of a row. -/
def magMax : List Int → Nat
  | [] => 0
  | x :: t => max x.natAbs (magMax t)

/-- What an arithmetic stage does first (R103): an exact exponent below −128 is brought up to −128, rounding. -/
def txFloor (e0 : Int) (xs : List Int) : Int × List Int :=
  if e0 < -128 then (-128, xs.map (fun x => rnd x (-128 - e0))) else (e0, xs)

/-- R52 and R53: exact lane values at exponent e0 become a normalised row, rounded once; the flag is TX_RANGE. Below exponent
−128 the shift right goes at least as far as −128. -/
def txNorm (e0 : Int) (xs : List Int) : List Int × Int × Bool :=
  let x := magMax xs
  if x = 0 then (xs.map (fun _ => 0), clampZ e0 (-128) 127, false)
  else
    let (ms, e) :=
      if x ≥ 2 ^ 30 ∨ e0 < -128 then
        let s : Nat := max (Nat.log2 x - 29) (-128 - e0).toNat
        let r := xs.map (fun v => rnd v s)
        if magMax r ≥ 2 ^ 30 then (xs.map (fun v => rnd v (s + 1)), e0 + s + 1) else (r, e0 + s)
      else
        let s := min (29 - Nat.log2 x) (e0 + 128).toNat
        (xs.map (fun v => v * (2 ^ s : Nat)), e0 - s)
    if e > 127 then
      (xs.map (fun v => if v > 0 then 2 ^ 30 - 1 else if v < 0 then -(2 ^ 30 - 1) else 0), 127, true)
    else (ms, e, false)

/-- Lane values with exponents of their own brought to the least of them, exactly. Which exponent E0 an all-zero row has when
its lanes come with different exponents the spec does not say: the model takes lane 0's (DESIGN CHOICE, log entry 167). -/
def commonExp (l : List (Int × Int)) : List Int × Int :=
  let e := l.foldl (fun acc p => if p.1 = 0 then acc else
    match acc with | none => some p.2 | some x => some (if p.2 < x then p.2 else x)) (none : Option Int)
  match e with
  | none => (l.map (fun _ => 0), (l.headD (0, 0)).2)
  | some e => (l.map (fun p => if p.1 = 0 then 0 else p.1 * (2 ^ (p.2 - e).toNat : Nat)), e)

/-- m₁ × 2^e₁ compared with m₂ × 2^e₂, exactly: the sign of the difference. -/
def cmpTx (m1 e1 m2 e2 : Int) : Int :=
  let d := if e1 ≤ e2 then m1 - m2 * (2 ^ (e2 - e1).toNat : Nat) else m1 * (2 ^ (e1 - e2).toNat : Nat) - m2
  if d > 0 then 1 else if d < 0 then -1 else 0

/-- R104: the lane value m × 2^e through a segment table. `seg i` is (BASE, SLOPE) of segment i. The result is an
exact value and its exponent; the flag is TX_RANGE. -/
def tableEval (func : Nat) (xsh oexp : Int) (seg : Nat → Int × Int) (m e : Int) : Int × Int × Bool :=
  let interp (idx : Nat) (f : Int) : Int := (seg idx).1 + rnd ((seg idx).2 * f) 22
  let big : Int := 2 ^ 30 - 1
  match func with
  | 0 =>
    let v := rnd m (-(e + xsh))
    let idx := clampZ (v / 2 ^ 22 + 128) 0 255
    let f := clampZ (v - (idx - 128) * 2 ^ 22) 0 (2 ^ 22)
    (interp idx.toNat f, oexp, false)
  | 1 =>
    if cmpTx m e 512 0 ≥ 0 then (big, 127, true)
    else if cmpTx m e (-512) 0 ≤ 0 then (0, oexp, false)
    else
      let t := rnd (m * 1549082005) (-e)
      let n := t / 2 ^ 30
      let r := t - n * 2 ^ 30
      (interp (r / 2 ^ 22).toNat (r % 2 ^ 22), oexp + n, false)
  | _ =>
    if m = 0 ∨ (func = 3 ∧ m < 0) then (big, 127, true)
    else
      let l := Nat.log2 m.natAbs
      let k : Int := 29 - (l : Int)
      let a : Int := if k ≥ 0 then (m.natAbs : Int) * (2 ^ k.toNat : Nat) else (m.natAbs : Int) / (2 ^ (-k).toNat : Nat)
      let e' := e - k + 29
      let d := a - 2 ^ 29
      if func = 2 then
        let v := interp (d / 2 ^ 21).toNat ((d % 2 ^ 21) * 2)
        (if m < 0 then -v else v, oexp - e', false)
      else
        let h : Int := if e' % 2 ≠ 0 then 128 else 0
        let e2 := e' - h / 128
        (interp (h + d / 2 ^ 22).toNat (d % 2 ^ 22), oexp - e2 / 2, false)

/-! ### The standard tables (R104) -/

/-- round(√n) ties to even for the point lists: ⌊√(4n)⌋ halves decide the rounding (no tie is possible unless n
is a square). -/
def rsqrtPoint (num den : Nat) : Nat :=
  -- round(2^30 ÷ √(num/den)) = round(√(2^60 × den ÷ num))
  let q := isqrt 40 (4 * (2 ^ 60 * den / num))
  (q + 1) / 2
/-- P[i] of RECIP: round(2^30 ÷ (1 + i/256)). -/
def recipPoint (i : Nat) : Nat := (rndDiv (2 ^ 38 : Nat) ((256 + i : Nat) : Int)).toNat
/-- P[i] of RSQRT. -/
def rsqrtStd (i : Nat) : Nat :=
  if i ≤ 128 then rsqrtPoint (128 + i) 128 else rsqrtPoint (128 + (i - 128)) 64
/-- P[i] of EXP: round(2^30 × 2^(i/256)), the 256th root of 2^(7680+i) by eight square roots of 2^(7936+i)
scaled to keep one bit below the point. -/
def expPoint (i : Nat) : Nat :=
  let r := isqrt 32 (isqrt 64 (isqrt 128 (isqrt 256 (isqrt 512 (isqrt 1024 (isqrt 2048 (isqrt 4096 (2 ^ (7936 + i)))))))))
  (r + 1) / 2
/-- A table's segments from its points. -/
def segOf (p : Nat → Nat) (i : Nat) : Int × Int := ((p i : Int), (p (i + 1) : Int) - (p i : Int))

end Sys2Proof.Machine
end

