-- ==== Sys2Proof/WellFormed.lean ====
section
/-!
DEFINITION. Which commands are well formed: every index a command carries names something the spec says
exists (a cluster, a unit, a queue, a function, a stack, an engine, a channel of mailboxes).
-/
namespace Sys2Proof

/-- The page of `b` with this number exists (Table 13-5). -/
def Blk.count : Blk → Nat
  | .hub | .clk | .pwr | .thm | .ras | .jrn | .sec | .pcie | .deal | .svc | .att | .fab => 1
  | .clu => 68 | .stk => 8 | .llc => 4 | .lpd => 4 | .opt => 16 | .mbx => 319 | .ch => 272
  | .que => 4096 | .nbu => 2176

namespace Wf

/-- A cluster (Table 13-5). -/
def clu (c : Nat) : Bool := decide (c < 68)
/-- A sequencer of a cluster: 64 logical cores and the cluster deck's (chapter 03). -/
def seqr (q : Nat) : Bool := decide (q ≤ 64)
/-- A near-bank unit, 272 in each of 8 stacks (Table 13-5). -/
def unit (u : Nat) : Bool := decide (u < 2176)
/-- Units a command packet is addressed to: one, or a unit group of a stack (Table 5-1 and R132). -/
def target : UTarget → Bool
  | .one u => unit u
  | .group stk g => decide (stk < 8) && decide (g < 16)
/-- A stack. -/
def stack (k : Nat) : Bool := decide (k < 8)
/-- A stack-local region (RGN_IDX). -/
def region (r : Nat) : Bool := decide (r < 2 ^ 15)
/-- A slice of the last-level memory. -/
def slice (k : Nat) : Bool := decide (k < 4)
/-- A way of a slice. -/
def way (w : Nat) : Bool := decide (w < 48)
/-- An optical engine. -/
def engine (n : Nat) : Bool := decide (n < 16)
/-- A lane of an engine's direction: nine wavelengths (R291). -/
def lane (l : Nat) : Bool := decide (l < 9)
/-- A queue set (Table 13-5). -/
def queue (q : Nat) : Bool := decide (q < 4096)
/-- A PCI Express function: the PF and 255 VFs (chapter 12). -/
def func (f : Nat) : Bool := decide (f < 256)
/-- A mailbox channel (Table 13-5). -/
def mbox (m : Nat) : Bool := decide (m < 319)
/-- A model slot (MODEL_SEL). -/
def slot (m : Nat) : Bool := decide (m < 64)
/-- A page of the register map. -/
def page (b : Blk) (i : Nat) : Bool := decide (i < b.count)
/-- A register's byte address. -/
def reg (a : Nat) : Bool := a % 4 == 0
/-- A power domain (R360, Table 14-4). -/
def domain (d : Nat) : Bool := decide (d < 96)
/-- A semaphore of a die (R89). -/
def sem (die i : Nat) : Bool := decide (die < 2) && decide (i < 1024)
/-- An index below a bound that the command's rule gives. -/
def below (n i : Nat) : Bool := decide (i < n)

end Wf

/-- The command names only what exists. -/
def Instr.wf : Instr → Bool
  | .powerUp => true
  | .hubPowerGood straps _ _ => Wf.below 8 straps
  | .modidChanged straps => Wf.below 8 straps
  | .mctpRequest _ => true
  | .mctpEventRead => true
  | .inputLow => true
  | .inputLowClear => true
  | .powerDown => true
  | .resetEntry _ _ => true
  | .perstRelease _ _ => true
  | .dataFibreDisconnect n => Wf.engine n
  | .laserInputLost conn => Wf.below 4 conn
  | .run c _ => Wf.clu c
  | .drop c _ _ => Wf.clu c
  | .abort c _ => Wf.clu c
  | .event c _ _ _ => Wf.clu c
  | .ping c _ => Wf.clu c
  | .load c q _ => Wf.clu c && Wf.seqr q
  | .loadRaw c q _ => Wf.clu c && Wf.seqr q
  | .stream c q => Wf.clu c && Wf.seqr q
  | .streamPage c q => Wf.clu c && Wf.seqr q
  | .ringGroupWrite c q _ => Wf.clu c && Wf.seqr q
  | .mac c q _ => Wf.clu c && Wf.seqr q
  | .drain c q _ => Wf.clu c && Wf.seqr q
  | .drainScore c q _ => Wf.clu c && Wf.seqr q
  | .drainValue c q _ => Wf.clu c && Wf.seqr q
  | .drainFinal c q _ => Wf.clu c && Wf.seqr q
  | .vec c _ => Wf.clu c
  | .xrCombine c => Wf.clu c
  | .xrTimeout c => Wf.clu c
  | .waitEvent c q => Wf.clu c && Wf.seqr q
  | .waitRelease c q => Wf.clu c && Wf.seqr q
  | .acquire c q => Wf.clu c && Wf.seqr q
  | .acquireGrant die sem => Wf.sem die sem
  | .waitBarrier c q => Wf.clu c && Wf.seqr q
  | .barrierRelease scope _ _ => Wf.below 4 scope
  | .signalEvent c q => Wf.clu c && Wf.seqr q
  | .post c q => Wf.clu c && Wf.seqr q
  | .dealerNotice c q => Wf.clu c && Wf.seqr q
  | .moveCore c q _ => Wf.clu c && Wf.seqr q
  | .moveRows c q _ => Wf.clu c && Wf.seqr q
  | .moveRaw c q _ => Wf.clu c && Wf.seqr q
  | .loop c q => Wf.clu c && Wf.seqr q
  | .endStep c q => Wf.clu c && Wf.seqr q
  | .stepComplete c q k => Wf.clu c && Wf.seqr q && Wf.below 4 k
  | .hang c q => Wf.clu c && Wf.seqr q
  | .dcacheInv _ c _ => Wf.clu c
  | .cluCfg _ c _ => Wf.clu c
  | .coreMap _ c m _ => Wf.clu c && Wf.below 16 m
  | .coreRet _ c m _ => Wf.clu c && Wf.below 3 m
  | .unitRun tgt _ _ => Wf.target tgt
  | .unitAbort tgt _ => Wf.target tgt
  | .fenceCmd tgt _ => Wf.target tgt
  | .clear tgt _ => Wf.target tgt
  | .selftest tgt _ => Wf.target tgt
  | .commandParameterWrite _ u n _ => Wf.unit u && Wf.below 64 n
  | .mpWindow _ u n _ => Wf.unit u && Wf.below 512 n
  | .nbuCfg _ u _ => Wf.unit u
  | .nop u _ => Wf.unit u
  | .mpEnd u _ => Wf.unit u
  | .yieldPoint u _ => Wf.unit u
  | .fence u _ => Wf.unit u
  | .movi u _ => Wf.unit u
  | .movh u _ => Wf.unit u
  | .addi u _ => Wf.unit u
  | .ldc u _ => Wf.unit u
  | .bnz u _ => Wf.unit u
  | .waitb u _ => Wf.unit u
  | .rdl u _ => Wf.unit u
  | .wrl u _ => Wf.unit u
  | .tbld u _ => Wf.unit u
  | .lmac u _ => Wf.unit u
  | .recordFetch u _ => Wf.unit u
  | .lmacWave u _ => Wf.unit u
  | .accz u _ => Wf.unit u
  | .eopCvt u _ => Wf.unit u
  | .eopResc u _ => Wf.unit u
  | .eopAdd u _ => Wf.unit u
  | .eopSub u _ => Wf.unit u
  | .eopMul u _ => Wf.unit u
  | .eopTable u _ => Wf.unit u
  | .eopSsq u _ => Wf.unit u
  | .eopAmax u _ => Wf.unit u
  | .eopQnt u _ => Wf.unit u
  | .bsendGather u _ => Wf.unit u
  | .bsendSum u _ => Wf.unit u
  | .bsendMax u _ => Wf.unit u
  | .busBroadcast stk _ _ _ => Wf.stack stk
  | .busCombine stk _ => Wf.stack stk
  | .refreshDue u => Wf.unit u
  | .preemption u => Wf.unit u
  | .refreshDone u => Wf.unit u
  | .unitHang u => Wf.unit u
  | .memoryRead _ _ _ _ => true
  | .memoryWrite _ _ _ _ => true
  | .goldenReloadDone stk rgn _ => Wf.stack stk && Wf.region rgn
  | .atomicAdd _ _ _ _ => true
  | .atomicSmin _ _ _ _ => true
  | .atomicSmax _ _ _ _ => true
  | .atomicUmin _ _ _ _ => true
  | .atomicUmax _ _ _ _ => true
  | .atomicCas _ _ _ _ _ => true
  | .gatherRead _ _ _ => true
  | .retagC _ stk rgn => Wf.stack stk && Wf.region rgn
  | .retagE _ stk rgn _ => Wf.stack stk && Wf.region rgn
  | .retagOffline _ stk rgn => Wf.stack stk && Wf.region rgn
  | .retagDone stk => Wf.stack stk
  | .remap _ stk n _ => Wf.stack stk && Wf.below 34 n
  | .rgnEnt _ stk _ => Wf.stack stk
  | .wayCfg _ k _ => Wf.slice k
  | .wayCfgDone k way => Wf.slice k && Wf.way way
  | .invCmd _ k _ => Wf.slice k
  | .invCmdDone => true
  | .stackTempRead stk _ => Wf.stack stk
  | .kvInval _ _ => true
  | .appendCopy _ => true
  | .spill slot => Wf.slot slot
  | .ttlExpiry _ => true
  | .deferredFree slot => Wf.slot slot
  | .ringPrefillStep k _ _ _ die sem => Wf.below 16 k && Wf.sem die sem
  | .generate q _ => Wf.queue q
  | .append q _ => Wf.queue q
  | .cancel q => Wf.queue q
  | .pause q => Wf.queue q
  | .resume q => Wf.queue q
  | .release q => Wf.queue q
  | .draft q => Wf.queue q
  | .trickBuild _ => true
  | .commit _ => true
  | .trickEnd => true
  | .completionWrite q _ => Wf.queue q
  | .faultReport _ => true
  | .fnSet => true
  | .acctSet => true
  | .acctGet => true
  | .modelAdm => true
  | .admGet => true
  | .svcSet => true
  | .replenish => true
  | .cqStall q => Wf.queue q
  | .frameTransmit n _ => Wf.engine n
  | .frameReceive n _ _ _ _ _ _ _ => Wf.engine n
  | .nak n _ _ => Wf.engine n
  | .wr n => Wf.engine n
  | .rd n => Wf.engine n
  | .rdrsp n => Wf.engine n
  | .wrrsp n => Wf.engine n
  | .notify n => Wf.engine n
  | .notifyPost src vc => Wf.below 16 src && Wf.below 4 vc
  | .red n => Wf.engine n
  | .dmsg n => Wf.engine n
  | .laneSwap n _ lane => Wf.engine n && Wf.lane lane
  | .laneRetire n _ lane => Wf.engine n && Wf.lane lane
  | .fabTimeout _ => true
  | .trainingUp n _ _ _ _ => Wf.engine n
  | .trainingTimeout n => Wf.engine n
  | .sqTail _ q _ => Wf.queue q
  | .cqHead _ q _ => Wf.queue q
  | .descriptorFetch q _ _ => Wf.queue q
  | .queueEnable _ q => Wf.queue q
  | .queueDisable _ q => Wf.queue q
  | .queueDrainComplete q => Wf.queue q
  | .msiXInterrupt q => Wf.queue q
  | .coalesceTimeout q => Wf.queue q
  | .vectorUnmask f v => Wf.func f && Wf.below 4096 v
  | .functionReset f => Wf.func f
  | .functionResetComplete f => Wf.func f
  | .fnQ _ _ => true
  | .hostAtomicop f _ _ _ _ _ => Wf.func f
  | .busMasterEnable f => Wf.func f
  | .linkUp _ _ _ => true
  | .configRequest f _ _ _ => Wf.func f
  | .mbLock _ ch => Wf.mbox ch
  | .go _ ch => Wf.mbox ch
  | .ack _ ch => Wf.mbox ch
  | .mbRelease _ ch => Wf.mbox ch
  | .secCmd _ => true
  | .getBoot => true
  | .getSerial => true
  | .getHealth => true
  | .spdmRequest _ => true
  | .doeDiscovery _ => true
  | .ideKm _ => true
  | .tdisp f _ => Wf.func f
  | .blkCtlEnOn _ b i => Wf.page b i
  | .blkCtlEnOff _ b i => Wf.page b i
  | .srst _ b i => Wf.page b i
  | .softResetDone b i => Wf.page b i
  | .domainStartDone d _ _ => Wf.domain d
  | .domainStopDone d => Wf.domain d
  | .blkIset _ b i _ => Wf.page b i
  | .blkLock _ b i _ => Wf.page b i
  | .nameHiWrite _ a _ => Wf.reg a
  | .nameLoWrite _ a _ => Wf.reg a
  | .nameLoRead _ a => Wf.reg a
  | .nameHiRead _ a => Wf.reg a
  | .readToClear _ a _ => Wf.reg a
  | .registerWrite _ a _ => Wf.reg a
  | .clockGate _ _ => true
  | .clockUngate _ _ => true
  | .clockLoss _ => true
  | .clockReturn _ _ _ => true
  | .domainFault d => Wf.domain d
  | .levelFall => true
  | .powerMeasure _ _ _ => true
  | .thermalRead _ => true
  | .pwrbrk _ => true
  | .throttleN _ => true
  | .throttleHeld inp => Wf.below 2 inp
  | .stormEnd inp => Wf.below 2 inp
  | .thrCap _ _ => true
  | .migCmd _ _ => true
  | .migrationStart stk => Wf.stack stk
  | .migrationCopyDone stk => Wf.stack stk
  | .retrainDone stk _ _ => Wf.stack stk
  | .marginProbe stk ch _ _ _ => Wf.stack stk && Wf.below 34 ch
  | .rasPop _ _ => true
  | .journalProgram _ => true
  | .jrnCompact _ _ => true
  | .compactionCommit => true
  | .segmentEraseDone _ => true
  | .svnCommit _ _ => true
  | .bootConfirm _ _ => true
  | .bootPref _ _ => true
  | .flashProgram _ => true
  | .flashErase _ => true
  | .flashRead _ => true
  | .flashCmdDone _ => true
  | .bypass => true
  | .idcode => true
  | .samplePreload => true
  | .extest => true
  | .extestPulse => true
  | .extestTrain => true
  | .clamp => true
  | .highz => true
  | .debugUnlock _ _ => true
  | .laserInputRestored n => Wf.engine n
  | .farEndLightLost n => Wf.engine n
  | .pcieLinkDown => true
  | .laneMarginCommand lane _ _ => Wf.below 16 lane
  | .jtagTrstN => true
  | .debugInstruction _ => true
  | .unitCommandComplete u _ => Wf.unit u
  | .asyncInstructionComplete u k => Wf.unit u && Wf.below 8 k
  | .modelLoad slot _ => Wf.slot slot
  | .modelLoadDone slot => Wf.slot slot
  | .fuseBurnDone => true
  | .lpddrTemperatureReport ch _ => Wf.below 16 ch
  | .atsInvalidation f => Wf.func f

end Sys2Proof
end

