-- ==== Sys2Proof/Machine/RegMap.lean ====
section
/-!
DEFINITION. The register map (chapter 13): where every page lies (Table 13-5), the common header (Tables 13-1
and 13-2), and for every block-specific register its access type, the bits a write reaches, its reset value
(Tables 3-19, 4-8, 5-4, 6-12 to 6-14, 7-9, 8-19, 8-20, 11-11, 11-12, 12-3, 12-4, 12-8, 12-9, 13-6, 14-10 to
14-12, 15-11 to 15-13, 16-9), and the limits a write is held to (R424).
-/
namespace Sys2Proof.Machine

/-- Access types (Table 0-3). `sel` is a selector, one copy per master (R349). -/
inductive Acc | rw | ro | wo | w1c | w1s | rc | rwl | sel
  deriving DecidableEq, Repr

/-- One row of a register table: first offset, count, stride, access type, the bits a write reaches, reset value. -/
structure RegRow where
  off : Nat
  cnt : Nat := 1
  stride : Nat := 4
  acc : Acc
  mask : Nat := 0xFFFFFFFF
  rst : Nat := 0
  deriving DecidableEq, Repr

/-! ### Pages (Table 13-5) -/

/-- The PF BAR0 offset of instance 0 and the stride. -/
def blkBase : Blk → Nat × Nat
  | .hub => (0, 0x1000) | .clk => (0x1000, 0x1000) | .pwr => (0x2000, 0x1000) | .thm => (0x3000, 0x1000)
  | .ras => (0x4000, 0x1000) | .jrn => (0x5000, 0x1000) | .sec => (0x6000, 0x1000) | .pcie => (0x7000, 0x1000)
  | .deal => (0x8000, 0x1000) | .svc => (0x9000, 0x1000) | .att => (0xA000, 0x1000) | .fab => (0xB000, 0x1000)
  | .clu => (0x100000, 0x1000) | .stk => (0x180000, 0x1000) | .llc => (0x190000, 0x1000)
  | .lpd => (0x198000, 0x1000) | .opt => (0x1A0000, 0x1000) | .mbx => (0x1C0000, 0x1000)
  | .ch => (0x200000, 0x1000) | .que => (0x400000, 0x100) | .nbu => (0x1000000, 0x1000)

/-- The page of instance `i`: mailbox pages 64 and up lie in the second range (R332). -/
def pageOf (b : Blk) (i : Nat) : Nat :=
  match b with
  | .mbx => if i < 64 then 0x1C0000 + 0x1000 * i else 0x1900000 + 0x1000 * (i - 64)
  | _ => (blkBase b).1 + (blkBase b).2 * i

/-- Type codes of Table 13-5. -/
def blkType : Blk → Nat
  | .hub => 1 | .clk => 2 | .pwr => 3 | .thm => 4 | .ras => 5 | .jrn => 6 | .sec => 7 | .pcie => 8
  | .deal => 9 | .svc => 10 | .att => 11 | .fab => 12 | .clu => 0x10 | .stk => 0x11 | .ch => 0x12
  | .llc => 0x13 | .lpd => 0x14 | .opt => 0x15 | .mbx => 0x16 | .que => 0x17 | .nbu => 0x18

/-- BLK_CAP.PWR (R350). -/
def blkPwr : Blk → Bool
  | .clu | .stk | .ch | .nbu | .llc | .lpd | .opt | .pcie | .sec | .jrn => true
  | _ => false
/-- BLK_CAP.EN (R343, R350): the switched blocks with an enable of their own (log entry 9). -/
def blkEn : Blk → Bool
  | .clu | .stk | .llc | .lpd | .opt | .pcie | .sec | .jrn => true
  | _ => false
/-- BLK_CAP.SRST (R350). -/
def blkSrst : Blk → Bool
  | .clu | .nbu | .llc | .lpd | .opt | .fab | .mbx => true
  | _ => false
/-- BLK_CAP.ERRC with the window and threshold of Table 13-4. -/
def blkErr : Blk → Option (Nat × Nat)
  | .clu => some (0x20000001, 3) | .nbu => some (0x20000001, 3) | .ch => some (0x20000E10, 64)
  | .llc => some (0x20000E10, 8) | .lpd => some (0x20000E10, 1024) | .opt => some (0x10000001, 2000)
  | .jrn => some (0x20015180, 16) | _ => none
/-- A page that carries the common header (R340): every page but a queue set. -/
def blkHeader : Blk → Bool
  | .que => false
  | _ => true

/-- The page number of a VF's function page in the model's register space: VF pages lie outside PF BAR0
(Table 13-7), so the model gives function page f the address 0x2000_0000 + 0x1000 × f (log entry 10). -/
def fnPage (f : Nat) : Nat := 0x20000000 + 0x1000 * f
/-- The MSI-X vector table of a function in the model's register space: the PF's at its place, VF f's at
0x2100_0000 + 0x100 × f (log entry 10). -/
def msixEntry (f v : Nat) : Nat := if f = 0 then 0x1F00000 + 16 * v else 0x21000000 + 0x100 * f + 16 * v

/-- Which page an address names: a block page, a function page, an MSI-X table entry, or nothing. -/
inductive Where_ | blk (b : Blk) (i off : Nat) | fn (f off : Nat) | msix (f v word : Nat) | none_
  deriving DecidableEq, Repr

/-- R348 and Table 13-5: the page and offset of an address. -/
def locate (a : Nat) : Where_ :=
  let pg (b : Blk) (base : Nat) : Where_ := .blk b ((a - base) / 0x1000) (a % 0x1000)
  if a < 0x1000 then .blk .hub 0 a
  else if a < 0x2000 then .blk .clk 0 (a % 0x1000)
  else if a < 0x3000 then .blk .pwr 0 (a % 0x1000)
  else if a < 0x4000 then .blk .thm 0 (a % 0x1000)
  else if a < 0x5000 then .blk .ras 0 (a % 0x1000)
  else if a < 0x6000 then .blk .jrn 0 (a % 0x1000)
  else if a < 0x7000 then .blk .sec 0 (a % 0x1000)
  else if a < 0x8000 then .blk .pcie 0 (a % 0x1000)
  else if a < 0x9000 then .blk .deal 0 (a % 0x1000)
  else if a < 0xA000 then .blk .svc 0 (a % 0x1000)
  else if a < 0xB000 then .blk .att 0 (a % 0x1000)
  else if a < 0xC000 then .blk .fab 0 (a % 0x1000)
  else if 0x100000 ≤ a ∧ a < 0x144000 then pg .clu 0x100000
  else if 0x180000 ≤ a ∧ a < 0x188000 then pg .stk 0x180000
  else if 0x190000 ≤ a ∧ a < 0x194000 then pg .llc 0x190000
  else if 0x198000 ≤ a ∧ a < 0x19C000 then pg .lpd 0x198000
  else if 0x1A0000 ≤ a ∧ a < 0x1B0000 then pg .opt 0x1A0000
  else if 0x1C0000 ≤ a ∧ a < 0x200000 then pg .mbx 0x1C0000
  else if 0x200000 ≤ a ∧ a < 0x310000 then pg .ch 0x200000
  else if 0x400000 ≤ a ∧ a < 0x500000 then .blk .que ((a - 0x400000) / 0x100) (a % 0x100)
  else if 0x1000000 ≤ a ∧ a < 0x1880000 then pg .nbu 0x1000000
  else if 0x1900000 ≤ a ∧ a < 0x19FF000 then .blk .mbx (64 + (a - 0x1900000) / 0x1000) (a % 0x1000)
  else if 0x1F00000 ≤ a ∧ a < 0x1F10000 then .msix 0 ((a - 0x1F00000) / 16) (a % 16 / 4)
  else if 0x20000000 ≤ a ∧ a < 0x20100000 then .fn ((a - 0x20000000) / 0x1000) (a % 0x1000)
  else if 0x21000000 ≤ a ∧ a < 0x21010000 then
    .msix ((a - 0x21000000) / 0x100) (a % 0x100 / 16) (a % 16 / 4)
  else .none_

/-! ### The block-specific registers -/

/-- The register table of each block type. -/
def regRows : Blk → List RegRow
  | .hub => [⟨0x040, 1, 4, .ro, 0, 0x0001D512⟩, ⟨0x044, 1, 4, .ro, 0, 0⟩, ⟨0x048, 2, 4, .ro, 0, 0⟩,
      ⟨0x060, 1, 4, .ro, 0, 0⟩, ⟨0x064, 1, 4, .sel, 0x1F, 0⟩, ⟨0x080, 128, 4, .ro, 0, 0⟩, ⟨0x400, 128, 4, .ro, 0, 0⟩]
  | .clk => [⟨0x040, 2, 4, .ro, 0, 0⟩, ⟨0x048, 1, 4, .w1c, 0xFFFFFF, 0⟩, ⟨0x04C, 1, 4, .w1c, 7, 0⟩,
      ⟨0x050, 1, 4, .wo, 0, 0⟩, ⟨0x054, 1, 4, .ro, 0, 0⟩, ⟨0x060, 5, 4, .ro, 0, 0⟩, ⟨0x080, 1, 4, .ro, 0, 0x06D606D6⟩]
  | .pwr => [⟨0x040, 3, 4, .ro, 0, 0⟩, ⟨0x050, 3, 4, .ro, 0, 0⟩, ⟨0x060, 3, 4, .w1c, 0xFFFFFFFF, 0⟩,
      ⟨0x070, 1, 4, .ro, 0, 0⟩, ⟨0x074, 2, 4, .ro, 0, 0⟩, ⟨0x07C, 1, 4, .rwl, 0x0FFF0FFF, 0x08FC07D0⟩,
      ⟨0x080, 1, 4, .rc, 0, 0⟩]
  | .thm => [⟨0x040, 1, 4, .ro, 0, 0x00010000⟩, ⟨0x044, 1, 4, .ro, 0, 0⟩, ⟨0x048, 1, 4, .rw, 7, 0⟩,
      ⟨0x04C, 1, 4, .rwl, 7, 4⟩, ⟨0x050, 1, 4, .rwl, 0xFF, 95⟩, ⟨0x054, 2, 4, .ro, 0, 0⟩, ⟨0x05C, 1, 4, .rc, 0, 0⟩,
      ⟨0x060, 1, 4, .ro, 0, 0⟩]
  | .ras => [⟨0x040, 2, 4, .ro, 0, 0⟩, ⟨0x048, 1, 4, .wo, 0, 0⟩, ⟨0x050, 8, 4, .ro, 0, 0⟩, ⟨0x070, 1, 4, .rc, 0, 0⟩,
      ⟨0x074, 1, 4, .rwl, 0xF, 4⟩, ⟨0x078, 1, 4, .rwl, 0xFF, 4⟩, ⟨0x07C, 1, 4, .rwl, 0x00FF00FF, 0x00140008⟩,
      ⟨0x080, 1, 4, .rwl, 0x7F, 16⟩, ⟨0x084, 1, 4, .wo, 0, 0⟩, ⟨0x088, 1, 4, .ro, 0, 0⟩,
      ⟨0x08C, 1, 4, .ro, 0, 0x00800110⟩, ⟨0x090, 1, 4, .ro, 0, 0x00200810⟩]
  | .jrn => [⟨0x040, 6, 4, .ro, 0, 0⟩, ⟨0x058, 1, 4, .wo, 0, 0⟩, ⟨0x05C, 3, 4, .rc, 0, 0⟩]
  | .sec => [⟨0x040, 3, 4, .ro, 0, 0⟩, ⟨0x04C, 1, 4, .wo, 0, 0⟩, ⟨0x050, 1, 4, .rw, 3, 0⟩, ⟨0x054, 1, 4, .wo, 0, 0⟩,
      ⟨0x058, 3, 4, .ro, 0, 0⟩, ⟨0x064, 1, 4, .rw, 0x0FFFFFFF, 0⟩, ⟨0x068, 1, 4, .wo, 0, 0⟩, ⟨0x06C, 1, 4, .ro, 0, 0⟩,
      ⟨0x070, 16, 4, .rw, 0xFFFFFFFF, 0⟩, ⟨0x0B0, 1, 4, .ro, 0, 0⟩, ⟨0x0B4, 1, 4, .w1c, 8, 0⟩,
      ⟨0x0B8, 1, 4, .w1c, 3, 0⟩, ⟨0x200, 144, 4, .ro, 0, 0⟩]
  | .pcie => [⟨0x040, 1, 4, .ro, 0, 0⟩, ⟨0x044, 1, 4, .sel, 0xFF, 0⟩, ⟨0x048, 1, 4, .rw, 0x1FFFFF, 0⟩,
      ⟨0x04C, 1, 4, .ro, 0, 0⟩, ⟨0x050, 1, 4, .sel, 7, 0⟩, ⟨0x054, 1, 4, .rw, 0x3FFFF, 0⟩,
      ⟨0x058, 1, 4, .rw, 0x7FFFFFF, 0⟩, ⟨0x05C, 1, 4, .rw, 0x7FFFF, 0⟩, ⟨0x060, 1, 4, .rw, 7, 0⟩,
      ⟨0x064, 1, 4, .ro, 0, 0⟩, ⟨0x068, 2, 4, .rc, 0, 0⟩, ⟨0x070, 1, 4, .ro, 0, 0⟩]
  | .deal => [⟨0x040, 1, 4, .rwl, 0x00FF07FF, 0x002000A8⟩, ⟨0x044, 3, 4, .ro, 0, 0⟩, ⟨0x050, 1, 4, .rc, 0, 0⟩,
      ⟨0x054, 1, 4, .sel, 0x3F, 0⟩, ⟨0x058, 3, 4, .ro, 0, 0⟩, ⟨0x064, 4, 4, .rc, 0, 0⟩]
  | .svc => [⟨0x040, 1, 4, .sel, 0xFFFF, 0⟩, ⟨0x044, 3, 4, .ro, 0, 0⟩, ⟨0x050, 9, 4, .rc, 0, 0⟩, ⟨0x074, 1, 4, .ro, 0, 0⟩]
  | .att => [⟨0x040, 1, 4, .rwl, 0xFFFFFFC0, 0⟩, ⟨0x044, 1, 4, .rwl, 0xFFFF, 0⟩, ⟨0x048, 1, 4, .rwl, 0xFFFFFFF0, 0⟩,
      ⟨0x04C, 1, 4, .rwl, 0xFFFF, 0⟩, ⟨0x050, 1, 4, .wo, 0, 0⟩, ⟨0x054, 5, 4, .ro, 0, 0⟩, ⟨0x068, 7, 4, .rc, 0, 0⟩,
      ⟨0x084, 1, 4, .rwl, 0xFFFF, 0x64⟩, ⟨0x088, 4, 4, .ro, 0, 0⟩]
  | .fab => [⟨0x040, 1, 4, .rwl, 0x00FF0F7F, 0⟩, ⟨0x044, 1, 4, .w1c, 0x10, 0⟩, ⟨0x048, 1, 4, .ro, 0, 0x100⟩,
      ⟨0x04C, 1, 4, .rwl, 0xFFFFFFFF, 0x000F4240⟩, ⟨0x050, 1, 4, .sel, 0xF, 0⟩, ⟨0x054, 1, 4, .rw, 0xFFFFFF00, 0⟩,
      ⟨0x058, 1, 4, .rw, 0xFFFF, 0⟩, ⟨0x05C, 1, 4, .rw, 0xFFFFFFFF, 0⟩, ⟨0x060, 1, 4, .rw, 0xFFFF, 0⟩,
      ⟨0x064, 1, 4, .rw, 0x0FFFFFFF, 0⟩, ⟨0x070, 4, 4, .rc, 0, 0⟩]
  | .clu => [⟨0x040, 1, 4, .rw, 0x7F, 0⟩, ⟨0x044, 1, 4, .w1c, 0x7FF, 0⟩, ⟨0x048, 1, 4, .rc, 0, 0⟩,
      ⟨0x04C, 1, 4, .rwl, 0xFFFFFFFF, 0x00100000⟩, ⟨0x050, 2, 4, .ro, 0, 0⟩, ⟨0x060, 16, 4, .rw, 0x7F7F7F7F, 0⟩,
      ⟨0x0A0, 2, 4, .w1s, 0xFFFFFFFF, 0⟩, ⟨0x0A8, 1, 4, .w1s, 0xF, 0⟩, ⟨0x0AC, 1, 4, .ro, 0, 4⟩,
      ⟨0x0B0, 1, 4, .sel, 0x7F, 0⟩, ⟨0x0B4, 9, 4, .ro, 0, 0⟩, ⟨0x0E0, 1, 4, .sel, 0x3FF, 0⟩, ⟨0x0E4, 1, 4, .ro, 0, 0⟩,
      ⟨0x0E8, 1, 4, .wo, 0, 0⟩, ⟨0x200, 1, 4, .ro, 0, 0⟩, ⟨0x204, 1, 4, .rwl, 0xFFFFFFFF, 0x80000100⟩,
      ⟨0x208, 1, 4, .rwl, 0xFFFFFFFF, 0x4000⟩, ⟨0x210, 8, 4, .ro, 0, 0⟩, ⟨0x230, 1, 4, .rc, 0, 0⟩,
      ⟨0x400, 16, 32, .rw, 0xFFFFFFFF, 0⟩, ⟨0x404, 16, 32, .rw, 0xFFFF, 0xFF00⟩, ⟨0x408, 16, 32, .rc, 0, 0⟩,
      ⟨0x40C, 16, 32, .rc, 0, 0⟩, ⟨0x410, 16, 32, .rc, 0, 0⟩]
  | .stk => [⟨0x040, 1, 4, .ro, 0, 0⟩, ⟨0x044, 1, 4, .sel, 0x7FFF, 0⟩, ⟨0x048, 1, 4, .rw, 0x03FFFF30, 3⟩,
      ⟨0x04C, 1, 4, .wo, 0, 0⟩, ⟨0x050, 1, 4, .ro, 0, 0⟩, ⟨0x054, 1, 4, .rw, 0xFFFFFFFC, 0⟩, ⟨0x058, 1, 4, .rw, 0xFFFF, 0⟩,
      ⟨0x05C, 3, 4, .rc, 0, 0⟩, ⟨0x080, 34, 4, .rw, 0x7FFF, 0⟩, ⟨0x110, 16, 4, .rw, 0x3FFFF, 0⟩,
      ⟨0x150, 1, 4, .sel, 0xFF, 0⟩, ⟨0x154, 1, 4, .rw, 0x3FFFFF, 0⟩, ⟨0x158, 1, 4, .rw, 0xFFFFFF, 0⟩]
  | .llc => [⟨0x040, 1, 4, .sel, 0x3F, 0⟩, ⟨0x044, 1, 4, .rw, 0x7FF, 0⟩, ⟨0x048, 1, 4, .ro, 0, 0⟩,
      ⟨0x050, 1, 4, .rw, 0xFFFFFF00, 0⟩, ⟨0x054, 1, 4, .rw, 0xFFFF, 0⟩, ⟨0x058, 1, 4, .rw, 0xFFFFFF00, 0⟩,
      ⟨0x05C, 1, 4, .wo, 0, 0⟩, ⟨0x060, 1, 4, .ro, 0, 0⟩, ⟨0x064, 5, 4, .rc, 0, 0⟩]
  | .lpd => [⟨0x040, 1, 4, .ro, 0, 0⟩, ⟨0x044, 1, 4, .rc, 0, 0⟩, ⟨0x048, 2, 4, .ro, 0, 0⟩]
  | .opt => [⟨0x040, 1, 4, .ro, 0, 0⟩, ⟨0x044, 1, 4, .ro, 0, 0x88⟩, ⟨0x048, 9, 4, .ro, 0, 0⟩, ⟨0x070, 4, 4, .rc, 0, 0⟩]
  | .mbx => [⟨0x040, 1, 4, .rwl, 0x01FF01FF, 0⟩, ⟨0x044, 1, 4, .ro, 0, 0⟩, ⟨0x048, 1, 4, .wo, 0, 0⟩,
      ⟨0x04C, 2, 4, .ro, 0, 0⟩, ⟨0x054, 1, 4, .rc, 0, 0⟩, ⟨0x080, 16, 4, .rw, 0xFFFFFFFF, 0⟩]
  | .ch => [⟨0x040, 5, 4, .ro, 0, 0⟩, ⟨0x100, 3, 4, .ro, 0, 0⟩, ⟨0x10C, 1, 4, .rc, 0, 0x00FF00FF⟩,
      ⟨0x110, 1, 4, .rc, 0, 0⟩, ⟨0x114, 1, 4, .ro, 0, 0x7F7F⟩, ⟨0x118, 4, 4, .ro, 0, 0x10101010⟩,
      ⟨0x128, 1, 4, .rc, 0, 0⟩, ⟨0x140, 8, 4, .ro, 0, 0⟩]
  | .que => [⟨0x00, 1, 4, .rw, 0xFFFFFFC0, 0⟩, ⟨0x04, 1, 4, .rw, 0xFFFFFFFF, 0⟩, ⟨0x08, 1, 4, .rw, 0xFFFFFFC0, 0⟩,
      ⟨0x0C, 1, 4, .rw, 0xFFFFFFFF, 0⟩, ⟨0x10, 1, 4, .rw, 0x3FFFFF, 0⟩, ⟨0x14, 1, 4, .rw, 0xFFFFF, 0⟩,
      ⟨0x18, 1, 4, .rw, 0xFFFFFF, 1⟩, ⟨0x1C, 1, 4, .rw, 0xFFFF, 0x400⟩, ⟨0x20, 1, 4, .rw, 1, 0⟩,
      ⟨0x24, 1, 4, .ro, 0, 0⟩, ⟨0x40, 2, 4, .wo, 0, 0⟩, ⟨0x48, 2, 4, .ro, 0, 0⟩]
  | .nbu => [⟨0x040, 1, 4, .rw, 0xFFFF, 0⟩, ⟨0x044, 1, 4, .w1c, 0x7FFF, 0⟩, ⟨0x048, 1, 4, .rc, 0, 0⟩,
      ⟨0x04C, 1, 4, .rwl, 0xFFFFFFFF, 0x7D0⟩, ⟨0x050, 2, 4, .rc, 0, 0⟩, ⟨0x058, 1, 4, .rwl, 0x1FF, 0x80⟩,
      ⟨0x05C, 1, 4, .rwl, 0xFFFFFFFF, 0x100000⟩, ⟨0x060, 1, 4, .sel, 1, 0⟩, ⟨0x064, 3, 4, .ro, 0, 0⟩,
      ⟨0x070, 2, 4, .rc, 0, 0⟩, ⟨0x080, 15, 4, .ro, 0, 0⟩, ⟨0x100, 1, 4, .wo, 0, 0⟩, ⟨0x104, 2, 4, .ro, 0, 0⟩,
      ⟨0x110, 2, 4, .rw, 0xFFFFFFFF, 0⟩, ⟨0x120, 56, 4, .rw, 0xFFFFFFFF, 0⟩, ⟨0x800, 512, 4, .rw, 0xFFFFFFFF, 0⟩]

/-- The row of the common header at an offset below 0x040 (Table 13-1). -/
def hdrRow (b : Blk) (off : Nat) : Option RegRow :=
  match off with
  | 0x000 => some ⟨off, 1, 4, .ro, 0, 0⟩
  | 0x004 => some ⟨off, 1, 4, .ro, 0, 0x100⟩
  | 0x008 => some ⟨off, 1, 4, .ro, 0, 0⟩
  | 0x00C => some ⟨off, 1, 4, .rw, 3, 0⟩
  | 0x010 => some ⟨off, 1, 4, .ro, 0, 0⟩
  | 0x014 => some ⟨off, 1, 4, .w1c, 0xFFFFFFFF, 0⟩
  | 0x018 => some ⟨off, 1, 4, .rw, 0xFFFFFFFF, 0⟩
  | 0x01C => some ⟨off, 1, 4, .wo, 0, 0⟩
  | 0x020 => some ⟨off, 1, 4, .rc, 0, 0⟩
  | 0x024 => some ⟨off, 1, 4, .rc, 0, 0⟩
  | 0x028 => match blkErr b with
    | some (w, _) => some ⟨off, 1, 4, .rwl, 0x3FFFFFFF, w⟩
    | none => some ⟨off, 1, 4, .ro, 0, 0⟩
  | 0x02C => match blkErr b with
    | some (_, t) => some ⟨off, 1, 4, .rwl, 0x00FFFFFF, t⟩
    | none => some ⟨off, 1, 4, .ro, 0, 0⟩
  | 0x030 => some ⟨off, 1, 4, .w1s, 1, 0⟩
  | 0x034 => some ⟨off, 1, 4, .ro, 0, 0x100⟩
  | _ => none

/-- The row that covers an offset. -/
def findRow (off : Nat) : List RegRow → Option RegRow
  | [] => none
  | r :: t =>
    if r.off ≤ off ∧ (off - r.off) % r.stride = 0 ∧ (off - r.off) / r.stride < r.cnt then some r else findRow off t

/-- The register at an offset of a block's page; an offset no table lists is reserved (R340). -/
def regRow (b : Blk) (off : Nat) : Option RegRow :=
  if blkHeader b ∧ off < 0x40 then hdrRow b off else findRow off (regRows b)

/-- The reset value of an indexed register that is not the same for every index. -/
def regRstIdx (b : Blk) (i off : Nat) (r : RegRow) : Nat :=
  match b with
  | .clu => if off = 0x040 then i
      else if 0x060 ≤ off ∧ off ≤ 0x09C then
        let m := off - 0x060
        m + (m + 1) * 256 + (m + 2) * 65536 + (m + 3) * 16777216
      else r.rst
  | .stk => if 0x080 ≤ off ∧ off ≤ 0x104 then (off - 0x080) / 4 else r.rst
  | .nbu => if off = 0x040 then
        let ch := i % 272 / 8
        if ch < 32 then 256 * (i / 272) + 8 * ch + i % 8 else 0xFFF
      else r.rst
  | .mbx => if off = 0x040 then
        (if i = 0 then 0x01010001 else if i = 1 then 0x01020001 else if i = 2 then 0x01020103
         else if i = 3 then 0x01010103 else if 64 ≤ i then 0x00010002 + (i - 64) else 0)
      else if off = 0x034 ∧ 64 ≤ i then i - 63
      else r.rst
  | _ => r.rst

/-- The reset value of the register at an address; 0 where there is none. -/
def regReset (a : Nat) : W32 :=
  match locate a with
  | .blk b i off => match regRow b off with
    | some r => w32 (regRstIdx b i off r)
    | none => 0
  | _ => 0

/-- A quantity held to the nearest limit of its range (R424, and the fields that say so themselves). -/
def limit (v lo hi : Nat) : Nat := if v < lo then lo else if v > hi then hi else v

/-- R424: the value a write of `v` stores, before masking, where a field's range is narrower than its bits. -/
def regLimit (b : Blk) (off : Nat) (v : W32) : W32 :=
  let n := v.toNat
  match b, off with
  | .pwr, 0x07C => w32 (min (fld n 11 0) 2000 + 65536 * min (fld n 27 16) 2300)
  | .thm, 0x048 => w32 (min (fld n 2 0) 4)
  | .thm, 0x04C => w32 (min (fld n 2 0) 4)
  | .thm, 0x050 => w32 (limit (fld n 7 0) 70 100)
  | .ras, 0x074 => w32 (limit (fld n 3 0) 1 15)
  | .ras, 0x078 => w32 (limit (fld n 7 0) 1 255)
  | .ras, 0x080 => w32 (limit (fld n 6 0) 15 64)
  | .deal, 0x040 => w32 (min (fld n 3 0) 8 + 16 * min (fld n 10 4) 50 + 65536 * limit (fld n 23 16) 1 255)
  | .fab, 0x040 => w32 (fld n 1 0 + 4 * min (fld n 6 2) 16 + 256 * fld n 11 8 + 65536 * fld n 23 16)
  | .fab, 0x064 => w32 (fld n 15 0 + 65536 * min (fld n 24 16) 256 + 2 ^ 25 * fld n 27 25)
  | .nbu, 0x04C => w32 (min n 3000)
  | .nbu, 0x058 => w32 (min (fld n 8 0) 256)
  | .llc, 0x040 => w32 (min (fld n 5 0) 47)
  | .clu, 0x040 => w32 (min (fld n 6 0) 67)
  | .clu, 0x0B0 => w32 (min (fld n 6 0) 64)
  | .clu, _ =>
    if 0x400 ≤ off ∧ off % 32 = 0 then w32 (min n (2 ^ 30 - 1))
    else if 0x060 ≤ off ∧ off ≤ 0x09C then
      w32 (min (fld n 6 0) 67 + 2 ^ 8 * min (fld n 14 8) 67 + 2 ^ 16 * min (fld n 22 16) 67 + 2 ^ 24 * min (fld n 30 24) 67)
    else v
  | .stk, _ =>
    if 0x080 ≤ off ∧ off ≤ 0x104 then
      w32 (min (fld n 5 0) 33 + 2 ^ 6 * fld n 6 6 + 2 ^ 7 * min (fld n 12 7) 33 + 2 ^ 13 * fld n 14 13)
    else if 0x110 ≤ off ∧ off ≤ 0x14C then w32 (fld n 8 0 + 2 ^ 9 * min (fld n 14 9) 33 + 2 ^ 15 * fld n 17 15)
    else v
  | _, 0x028 => if fld n 27 0 = 0 then v ||| 1 else v
  | _, _ => v

end Sys2Proof.Machine
end

