-- ==== Sys2Proof/Machine/Ops.lean ====
section
/-!
DEFINITION. The shared operations of the block: reading and writing stored registers, counters, free values,
event bits with their interrupts (R353, R328), block states (R343), management events (R13), RAS records (R394),
journal queueing (R397), and windowed error counts (R345). Every meaning is written over these.
-/
namespace Sys2Proof.Machine

/-- The outcome type of a command. -/
abbrev Res := Host.Outcome State Fault Refusal

/-! ### Stored registers, counters, free values -/

/-- The stored value of the register at `a`. -/
def rdReg (s : State) (a : Nat) : W32 := (spFind s.regs.file a).getD (regReset a)
/-- The stored value of the register at `a` as a number. -/
def rdN (s : State) (a : Nat) : Nat := (rdReg s a).toNat
/-- The register at `a` set by the device. -/
def wrReg (s : State) (a : Nat) (v : W32) : State := { s with regs := { s.regs with file := spSet s.regs.file a v } }
/-- A field of a register set by the device. -/
def wrFld (s : State) (a hi lo v : Nat) : State := wrReg s a (putFld (rdReg s a) hi lo v)
/-- One bit of a register set by the device. -/
def wrBit (s : State) (a i : Nat) (b : Bool) : State := wrReg s a (putBit (rdReg s a) i b)
/-- Sticky bits: the register at `a` gains the bits of `m`. -/
def orReg (s : State) (a : Nat) (m : W32) : State := wrReg s a (rdReg s a ||| m)

/-- The next free value's index is used up. -/
def useFree (s : State) : State := { s with free := s.free + 1 }
/-- `n` free values are taken. -/
def takeFree (s : State) (n : Nat) : State := { s with free := s.free + n }

/-- Counters that stop at 0xFFFF_FFFF: BLK_ERR_CE and BLK_ERR_UE (Table 13-1), SAT_CNT (Table 3-19), TOK_CNT
(Table 8-20). -/
def ctrStops (a : Nat) : Bool :=
  match locate a with
  | .blk .clu _ off => off == 0x048 || off == 0x020 || off == 0x024
  | .blk .svc _ off => off == 0x068
  | .blk _ _ off => off == 0x020 || off == 0x024
  | _ => false

/-- A counter gains `n`. Past 0xFFFF_FFFF the counters above stop; of the others the spec does not say what they
hold, and they take a free value (log entry 5). -/
def bumpBy (s : State) (a n : Nat) : State :=
  let v := rdN s a + n
  if v ≤ 0xFFFFFFFF then wrReg s a (w32 v)
  else if ctrStops a then wrReg s a 0xFFFFFFFF
  else wrReg (useFree s) a (Config.freeWord s.free 0)
/-- A counter gains 1. -/
def bump (s : State) (a : Nat) : State := bumpBy s a 1

/-- A selector's copy for one master (R349). -/
def rdSel (s : State) (a mid : Nat) : Nat := (spGet 0 s.regs.sel (a * 512 + mid % 512)).toNat
/-- A selector's copy set. -/
def wrSel (s : State) (a mid : Nat) (v : W32) : State :=
  { s with regs := { s.regs with sel := spSet s.regs.sel (a * 512 + mid % 512) v } }

/-- A 64-bit pair at `lo` and `lo + 4`. -/
def rdPair (s : State) (lo : Nat) : Nat := rdN s lo + 2 ^ 32 * rdN s (lo + 4)
/-- A 64-bit pair set by the device. -/
def wrPair (s : State) (lo v : Nat) : State := wrReg (wrReg s lo (w32 v)) (lo + 4) (w32 (v / 2 ^ 32))

/-- Something leaves the device. -/
def emit (s : State) (o : Out) : State := { s with out := o :: s.out }

/-! ### Functions, queues, interrupts -/

/-- The function record of `f`; unlisted: its reset state, QBASE 16f and, for the PF, window 0 (R318, R319). -/
def funcReset (s : State) (f : Nat) : Func :=
  { qbase := 16 * f
    wins := if f = 0 then [(0, { len := 2 ^ (s.host.pfAper - 21), valid := true, rd := true, wr := true })] else [] }
def getFn (s : State) (f : Nat) : Func := (spFind s.host.fns f).getD (funcReset s f)
def setFn (s : State) (f : Nat) (x : Func) : State := { s with host := { s.host with fns := spSet s.host.fns f x } }
def getQ (s : State) (q : Nat) : Queue := spGet {} s.host.queues q
def setQ (s : State) (q : Nat) (x : Queue) : State := { s with host := { s.host with queues := spSet s.host.queues q x } }

/-- The function can send an interrupt now (R328): Bus Master Enable set, not in D3hot, the link up. -/
def fnCanSend (s : State) (f : Nat) : Bool := (getFn s f).bme && !(getFn s f).d3hot && s.host.linkUp

/-- R328: an MSI-X interrupt is sent, or held in its pending bit while it is masked or cannot be sent. -/
def msix (s : State) (f v : Nat) : State :=
  let x := getFn s f
  if fnCanSend s f && x.msixUnmasked.contains v then emit s (.msix f v)
  else if x.msixPend.contains v then s
  else setFn s f { x with msixPend := x.msixPend ++ [v] }

/-- An FN_EVT bit of VF `f` (Table 12-3): set, and signalled on vector 0 when enabled. -/
def fnEvent (s : State) (f b : Nat) : State :=
  let x := getFn s f
  let was := bitN x.evt b
  let s1 := setFn s f { x with evt := if was then x.evt else x.evt + 2 ^ b }
  if bitN x.evtEn b && !was then msix s1 f 0 else s1

/-- Pending and enabled events of a page (R353). -/
def pageIrq (s : State) (pg : Nat) : Bool := (rdReg s (pg + 0x14) &&& rdReg s (pg + 0x18)) != 0

/-- BLK_ISR bits of a page are set; PF vector 0 fires when the page goes from no enabled pending event to one. -/
def raiseIsr (s : State) (pg : Nat) (m : W32) : State :=
  let was := pageIrq s pg
  let s1 := orReg s (pg + 0x14) m
  if !was && pageIrq s1 pg then msix s1 0 0 else s1

/-! ### Block states (R343, R350) -/

/-- STATE at reset: OFF, or ON for a block without EN that is not a member of a stack's domain. -/
def blkRst : Blk → BState
  | .clu | .stk | .llc | .lpd | .opt | .pcie | .sec | .jrn | .ch | .nbu => .off
  | _ => .on

/-- A CH or NBU page's stack (Tables 13-5, R123). -/
def stackOf (b : Blk) (i : Nat) : Nat :=
  match b with
  | .ch => i / 34
  | .nbu => i / 272
  | _ => i

/-- STATE of a block (R343): a CH or NBU page follows its stack unless the device has retired it (R350). -/
def blkState (s : State) (b : Blk) (i : Nat) : BState :=
  match b with
  | .ch | .nbu => match spFind s.blk.st (pageOf b i) with
    | some .retired => .retired
    | _ => spGet .off s.blk.st (pageOf .stk (stackOf b i))
  | _ => spGet (blkRst b) s.blk.st (pageOf b i)
/-- A block is ON. -/
def isOn (s : State) (b : Blk) (i : Nat) : Bool := blkState s b i == .on

/-- STATE changes; every change sets STATE_CHG (R343). -/
def setBlk (s : State) (b : Blk) (i : Nat) (st : BState) : State :=
  if blkState s b i = st then s
  else raiseIsr { s with blk := { s.blk with st := spSet s.blk.st (pageOf b i) st } } (pageOf b i) (w32 (2 ^ 28))

/-- The code of BLK_STS.STATE (Table 13-2). -/
def bstCode : BState → Nat
  | .off => 0 | .starting => 1 | .on => 2 | .stopping => 3 | .pendingOn => 4 | .failed => 5 | .retired => 6

/-- BLK_LOCK of a page: firmware sets it on every page at the last boot stage (R346, R408). -/
def locked (s : State) (pg : Nat) : Bool := s.boot.locked || bit (rdReg s (pg + 0x30)) 0

/-! ### Masters (Table 12-6) -/

/-- A command's master operand: the identity in its low nine bits. -/
def midOf (mid : Nat) : Nat := mid % 512
/-- Bit 9 of a master operand: the host access carries the IDE T bit (R321). -/
def midT (mid : Nat) : Bool := bitN mid 9
/-- The master is a PCIe function. -/
def hostMid (mid : Nat) : Bool := decide (1 ≤ midOf mid) && decide (midOf mid ≤ 0x100)
/-- The masters that reach PF and dealer pages (Table 13-5): the PF and the dealer. -/
def pfOrDealer (mid : Nat) : Bool := midOf mid == 1 || midOf mid == 0x101

/-! ### Reaching a page (R344, R350, R413, Table 13-5) -/

/-- What an access to a page is: allowed, refused and counted in HOST_REF, or ignored. -/
inductive Reach | yes | refused | no
  deriving DecidableEq, Repr
/-- The hub's rails are up: also after a trip to shutdown (R19, R370). -/
def hubPowered (s : State) : Bool := s.edge.power == .up || s.edge.power == .tripped
/-- The hub's control logic runs: it is powered (R19), and not held in reset for want of the crystal (Table 14-3). -/
def hubUp (s : State) : Bool := hubPowered s && !s.clk.lost.contains .crystal
/-- The pages that answer: none of an unpowered hub (R19) or of one held in reset (Table 14-3); in recovery only the HUB, SEC
and MBX pages (R413). -/
def present (s : State) (b : Blk) : Bool :=
  hubUp s && (!s.boot.recovery || b == .hub || b == .sec || b == .mbx)
/-- R321: a refused host access is counted in HOST_REF and logged through AER. -/
def hostRef (s : State) : State := bump { s with host := { s.host with aer := true } } (0x7000 + 0x068)
/-- A master's access to a page that is no queue set and no mailbox. -/
def pgReach (s : State) (mid : Nat) (b : Blk) : Reach :=
  let m := midOf mid
  let ok := match b with
    | .pcie | .deal | .svc => m == 1
    | .sec | .jrn | .ras => m == 1 || m == 0x101 || m == 0x102
    | .que | .mbx => false
    | _ => m == 1 || m == 0x101
  if !present s b then .no else if ok then .yes else if hostMid mid then .refused else .no
/-- An access to an unswitched page carried out when it may be. -/
def pageAccess (s : State) (mid : Nat) (b : Blk) (f : State → State) : State :=
  match pgReach s mid b with | .yes => f s | .refused => hostRef s | .no => s

/-! ### Management events, RAS records, the journal -/

/-- R13: a management event becomes pending; ALERT_N is asserted while any is. -/
def mgmt (s : State) (e : MEvent) : State := { s with edge := { s.edge with events := s.edge.events ++ [e] } }
/-- ALERT_N is asserted (R13); of an unpowered module it reads high (R14). -/
def alertN (s : State) : Bool := hubPowered s && !s.edge.events.isEmpty
/-- FAULT_N is asserted (R13, Table 14-3); of an unpowered module it reads high (R14). Its assertion through a power-down is
in the record of what leaves the device (`Out.faultPin`, log entry 161). -/
def faultN (s : State) : Bool :=
  hubPowered s && (s.edge.post || s.edge.fatal || s.boot.recovery || s.clk.lost.contains .crystal)

/-- Encoded length of a journal record in bytes (R396): a 16-byte header and the payload, in 16-byte units. -/
def jrnLen (r : JRec) : Nat := (16 + r.payload.length + 15) / 16 * 16

/-- R397: a record is queued for the journal. A full queue takes it in the place of a queued record of the same
TYPE and KEY, which it supersedes (a RAS record supersedes none, Table 15-9, log entry 21); any other is not queued, JRN_OVF counts it and RESYNC is set. While NOT_DURABLE is set it is held
in hub memory (R401). -/
def jrnPut (s : State) (r : JRec) : State :=
  if s.jrn.notDurable then { s with jrn := { s.jrn with lost := s.jrn.lost ++ [r] } }
  else if s.jrn.queue.length < 256 then { s with jrn := { s.jrn with queue := s.jrn.queue ++ [r] } }
  else if r.type ≠ 0x0C ∧ s.jrn.queue.any (fun x => x.type == r.type && x.key == r.key) = true then
    { s with jrn := { s.jrn with
        queue := s.jrn.queue.map (fun x => if x.type == r.type && x.key == r.key then r else x) } }
  else bump { s with jrn := { s.jrn with resync := true } } (0x5000 + 0x064)

/-- The 32 bytes of a RAS record (Table 15-6). -/
def rasBytes (r : RasRec) : List Byte :=
  leBytes r.seqno 4 ++ leBytes r.kind 1 ++ leBytes r.sev 1 ++ leBytes r.btype 2 ++ leBytes r.inst 2 ++
    leBytes r.elem 2 ++ leBytes r.trick 4 ++ leBytes r.addr 8 ++ leBytes r.time 8

/-- R393, R394: a RAS record enters the FIFO of 1,024, the oldest dropped when it is full; bit 0 of the RAS page's
BLK_ISR is set; SEV 2 or more is journalled, SEV 3 or more reported over MCTP. -/
def rasPut (s : State) (kind sev : Nat) (b : Blk) (i elem addr : Nat) : State :=
  let r : RasRec := { seqno := s.ras.seqno, kind := kind, sev := sev, btype := blkType b, inst := i, elem := elem,
                      trick := s.deal.trick % 2 ^ 32, addr := addr, time := s.time }
  let full := decide (1024 ≤ s.ras.fifo.length)
  let s1 := { s with ras := { s.ras with seqno := (s.ras.seqno + 1) % 2 ^ 32,
                                         fifo := (if full then s.ras.fifo.drop 1 else s.ras.fifo) ++ [r] } }
  let s2 := if full then bump s1 (0x4000 + 0x070) else s1
  let s3 := raiseIsr s2 0x4000 1
  let s4 := if 2 ≤ sev then jrnPut s3 ⟨0x0C, 0, rasBytes r⟩ else s3
  if 3 ≤ sev then mgmt s4 (.ras kind sev) else s4

/-! ### Error counts (R345) -/

/-- A corrected error of a block: BLK_ERR_CE and its event bit. -/
def errCe (s : State) (b : Blk) (i : Nat) : State := raiseIsr (bump s (pageOf b i + 0x20)) (pageOf b i) (w32 (2 ^ 30))
/-- An uncorrectable error of a block: BLK_ERR_UE and its event bit. -/
def errUe (s : State) (b : Blk) (i : Nat) : State := raiseIsr (bump s (pageOf b i + 0x24)) (pageOf b i) (w32 (2 ^ 31))

/-- The length of a page's error window on the hub counter, in ns. -/
def winLen (s : State) (pg : Nat) : Nat :=
  let w := rdN s (pg + 0x28)
  fld w 27 0 * (match fld w 29 28 with | 0 => 1000 | 1 => 1000000 | _ => 1000000000)
/-- The key of a counted element (Table 13-4). -/
def winKey (pg elem : Nat) : Nat := pg * 65536 + elem

/-- The KEY of a COUNTER record: block type, instance, element (Table 15-9; the places of the three are the model's,
log entry 22). -/
def counterKey (b : Blk) (i elem : Nat) : Nat := blkType b * 2 ^ 27 + i * 2 ^ 15 + elem

/-- An event of element `elem` of a block counts in its window; whether the element has reached its threshold.
Reaching it sets THR_CROSS. A COUNTER record is journalled from half the threshold on (R396). -/
def winAdd (s : State) (b : Blk) (i elem : Nat) : State × Bool :=
  let pg := pageOf b i
  let k := winKey pg elem
  let ev := ((spGet [] s.wear.win k).filter (fun t => decide (s.time < t + winLen s pg))) ++ [s.time]
  let thr := fld (rdN s (pg + 0x2C)) 23 0
  let s1 := { s with wear := { s.wear with win := spSet s.wear.win k ev } }
  let s2 := if thr ≠ 0 ∧ (thr + 1) / 2 ≤ ev.length then
      jrnPut s1 ⟨0x09, counterKey b i elem, leBytes ev.length 4⟩ else s1
  if thr ≠ 0 ∧ thr ≤ ev.length then (raiseIsr s2 pg (w32 (2 ^ 29)), true) else (s2, false)

/-! ### The dealer's ear -/

/-- A fault reaches the dealer (R93, R132). -/
def report (s : State) (r : Report) : State := { s with deal := { s.deal with reports := s.deal.reports ++ [r] } }
/-- A change of capacity (R281): the next build recomputes admission. -/
def capacity (s : State) : State := { s with deal := { s.deal with capChange := true } }

end Sys2Proof.Machine
end

