-- ==== Sys2Proof/Machine/MemOps.lean ====
section
/-!
DEFINITION. The memory system's shared operations (chapter 06): address decode (R156, R157), the interleave hash
(R163), the remap tables (R158, R159), the region table (R160), the last-level memory (R171 to R176), poison
(R170, R429), error counting (R184). One function reads and one writes; every requester's access goes through
them.
-/
namespace Sys2Proof.Machine

/-! ### Address decode -/

/-- The ranges of Table 6-1. -/
inductive Range | stack | lpd | scratch | none_
  deriving DecidableEq, Repr
/-- R156. -/
def rangeOf (a : Nat) : Range :=
  if a < 0x008000000000 then .stack
  else if a < 0x010000000000 then .lpd
  else if a < 0x010018000000 then .scratch
  else .none_

/-- What an unlisted entry reads as. -/
def rgnDflt (s : State) (r : Nat) : W32 := if s.mem.bootE.contains (r / 2 ^ 17) then 1 else 3
def rgnEnt (s : State) (r : Nat) : Nat := (spGet (rgnDflt s r) s.mem.rgn r).toNat
/-- The class of a region (Table 6-3, CLASS): 0 C, 1 E, 2 TRANSIT, 3 OFFLINE. -/
def rgnClass (s : State) (r : Nat) : Nat := fld (rgnEnt s r) 1 0
def rgnMode (s : State) (r : Nat) : Nat := fld (rgnEnt s r) 3 2
def rgnGold (s : State) (r : Nat) : Bool := bitN (rgnEnt s r) 5
def setRgn (s : State) (r v : Nat) : State := { s with mem := { s.mem with rgn := spPut (rgnDflt s r) s.mem.rgn r (w32 v) } }
/-- CLASS and MODE of a region changed, its other fields kept. -/
def setClass (s : State) (r cls mode : Nat) : State :=
  setRgn s r (rgnEnt s r / 16 * 16 + 4 * mode + cls)

/-- The member field's width by mode (Table 6-5): HALF 7, FULL 8, PAIR 6. -/
def memW : Nat → Nat
  | 0 => 7 | 1 => 8 | _ => 6

/-- The hash of Table 6-6, before it is cut to w bits. -/
def hashF (mode i p g : Nat) : Nat :=
  match mode with
  | 0 => Nat.xor (Nat.xor (fld i 6 0) (fld i 12 7 * 2)) (Nat.xor g (p * 16))
  | 1 => Nat.xor (Nat.xor (fld i 7 0) (fld i 12 8 * 8)) (Nat.xor (g * 2) p)
  | _ => Nat.xor (Nat.xor (Nat.xor (fld i 5 0) (fld i 11 6)) (Nat.xor (fld i 12 12 * 32) (fld g 5 0)))
      (Nat.xor (fld g 6 6 * 4) (p * 8))

/-- R163: an E address translated to a bank-linear one. -/
def eTrans (mode a : Nat) : Nat :=
  let w := memW mode
  let i := fld a 20 8
  let m := a / 2 ^ 31 % 2 ^ w
  let m' := Nat.xor m (hashF mode i (fld a 30 28) (fld a 27 21) % 2 ^ w)
  let slot := m * 2 ^ (13 - w) + i / 2 ^ w
  a - m * 2 ^ 31 - i * 256 + m' * 2 ^ 31 + slot * 256

/-- REMAP[n] of a stack (Table 6-12). -/
def remap (s : State) (stk n : Nat) : Nat := rdN s (pageOf .stk stk + 0x80 + 4 * n)
/-- PREMAP[n] of a stack (Table 6-12). -/
def premap (s : State) (stk n : Nat) : Nat := rdN s (pageOf .stk stk + 0x110 + 4 * n)

/-- A physical place in the DRAM: stack, physical channel, bank pair, pair offset, as one number. -/
def place (stk ch pair off : Nat) : Nat := ((stk * 34 + ch) * 8 + pair) * 2 ^ 28 + off
def plStk (p : Nat) : Nat := p / 2 ^ 28 / 8 / 34
def plCh (p : Nat) : Nat := p / 2 ^ 28 / 8 % 34
def plPair (p : Nat) : Nat := p / 2 ^ 28 % 8
def plOff (p : Nat) : Nat := p % 2 ^ 28

/-- The valid PREMAP entry for (logical channel, pair), if any (R159). -/
def premapFind (s : State) (stk lch pair : Nat) : Option Nat :=
  (List.range 16).find? (fun n => bitN (premap s stk n) 0 && fld (premap s stk n) 5 1 == lch &&
    fld (premap s stk n) 8 6 == pair)

/-- Where a bank-linear address lies (R158, R159): the place that serves it, and the mirror's place when MIRROR is
set. -/
def linPlace (s : State) (isC : Bool) (a : Nat) : Nat × Option Nat :=
  let stk := fld a 38 36
  let lch := fld a 35 31
  let pair := fld a 30 28
  let off := a % 2 ^ 28
  match (if isC then premapFind s stk lch pair else none) with
  | some n => (place stk (fld (premap s stk n) 14 9) (fld (premap s stk n) 17 15) off, none)
  | none =>
    let r := remap s stk lch
    (place stk (fld r 5 0) pair off, if bitN r 6 then some (place stk (fld r 12 7) pair off) else none)

/-- Where an address of a stack lies under its region's class. -/
def stkPlace (s : State) (a : Nat) : Nat × Option Nat :=
  let r := a / 2 ^ 21
  if rgnClass s r = 1 then linPlace s false (eTrans (rgnMode s r) a) else linPlace s true a

/-! ### Bytes -/

/-- `n` bytes from `p` of a byte table; an unlisted byte is 0. -/
def rdBytes (m : Sparse Byte) (p : Nat) : Nat → List Byte
  | 0 => []
  | n + 1 => spGet 0 m p :: rdBytes m (p + 1) n
/-- Bytes written from `p` up, the canonical form kept. -/
def wrBytes (m : Sparse Byte) (p : Nat) : List Byte → Sparse Byte
  | [] => m
  | b :: t => wrBytes (spPut 0 m p b) (p + 1) t
/-- Every listed byte in lo…hi−1 forgotten: it reads 0. -/
def zeroBytes (m : Sparse Byte) (lo hi : Nat) : Sparse Byte := m.filter (fun e => decide (e.1 < lo) || decide (hi ≤ e.1))
/-- The listed bytes of lo…hi−1 copied to `dst` up, replacing what was there. -/
def copyBytes (m : Sparse Byte) (lo hi dst : Nat) : Sparse Byte :=
  (m.filter (fun e => decide (lo ≤ e.1) && decide (e.1 < hi))).foldl (fun acc e => spPut 0 acc (dst + (e.1 - lo)) e.2)
    (zeroBytes m dst (dst + (hi - lo)))

/-- The 64-byte bursts a span touches. -/
def bursts (p n : Nat) : List Nat := (List.range ((p + n + 63) / 64 - p / 64)).map (fun i => p / 64 + i)
/-- The bursts a write of `n` bytes at `p` covers whole (R429). -/
def burstsWhole (p n : Nat) : List Nat := (bursts p n).filter (fun b => decide (p ≤ 64 * b) && decide (64 * b + 64 ≤ p + n))

/-! ### Who asks -/

/-- The function a request carries (R173): 256 is SYS, the dealer's own. -/
def reqFn : Requester → Nat
  | .host f | .core f | .engine f | .walker f | .fabric f => f
  | .dealer => 256

/-- What a memory access answers: bytes, POISON (R170), refused with no data (R174, R166, R180), or an address
outside every range (R156). -/
inductive MemRes | ok (bs : List Byte) | poison | refused | outside
  deriving DecidableEq, Repr

/-! ### Last-level memory -/

/-- Home slice of a cacheable address (R172). -/
def homeSlice (a : Nat) : Nat :=
  if a < 0x008000000000 then
    2 * fld a 38 38 + Nat.xor (Nat.xor (fld a 8 8) (fld a 12 12)) (Nat.xor (fld a 16 16) (fld a 21 21))
  else Nat.xor (fld a 9 8) (fld a 11 10)

/-- A logical way's record; unlisted: OFF, owner 0, its own physical way (R171, Table 6-13). -/
def getWay (s : State) (k w : Nat) : Way := spGet { phys := w } s.mem.ways (k * 64 + w)
def setWay (s : State) (k w : Nat) (x : Way) : State := { s with mem := { s.mem with ways := spSet s.mem.ways (k * 64 + w) x } }

/-- The CACHE ways of a slice a function owns (R173). -/
def cacheWays (s : State) (k fn : Nat) : List Nat :=
  (List.range 48).filter (fun w => (getWay s k w).mode == 1 && (getWay s k w).owner == fn &&
    (getWay s k w).phys != 0x3F && ((getWay s k w).pend).isNone)

/-- The lines a 2 MiB way holds: 8,192 of 256 bytes (R171). -/
def wayLines : Nat := 8192

/-- A line found in the cache. -/
def findLine (s : State) (base : Nat) : Option Line := s.mem.lines.find? (fun l => l.addr == base)
/-- A line out of the cache. -/
def dropLine (s : State) (base : Nat) : State :=
  { s with mem := { s.mem with lines := s.mem.lines.filter (fun l => l.addr != base) } }

/-- All four LPD blocks are ON (R180), and LCLK is there (Table 14-3). -/
def lpdUp (s : State) : Bool := (List.range 4).all (fun k => isOn s .lpd k) && !s.clk.lost.contains .lclk

/-- Bytes into the cells of a stack: the place and its mirror, poison lifted from bursts written whole (R429). -/
def dramPut (s : State) (p : Nat) (mir : Option Nat) (bs : List Byte) : State :=
  let d1 := wrBytes s.mem.dram p bs
  let d2 := match mir with | some q => wrBytes d1 q bs | none => d1
  let cov := burstsWhole p bs.length ++ (match mir with | some q => burstsWhole q bs.length | none => [])
  { s with mem := { s.mem with dram := d2, poison := s.mem.poison.filter (fun b => !cov.contains b) } }

/-- A dirty line written back (R175, R429): to the stack, with a poison marking on each burst when the line is
poisoned, or to the tier as it stands. A line of a region that is no longer E is discarded (R166). -/
def writeBack (s : State) (l : Line) : State :=
  if !l.dirty then s
  else if l.addr < 0x008000000000 then
    if rgnClass s (l.addr / 2 ^ 21) ≠ 1 then s
    else
      let (p, mir) := stkPlace s l.addr
      let s1 := dramPut s p mir l.data
      if l.poison then
        { s1 with mem := { s1.mem with poison := s1.mem.poison ++ bursts p 256 ++
            (match mir with | some q => bursts q 256 | none => []) } }
      else s1
  else { s with mem := { s.mem with lpd := wrBytes s.mem.lpd (l.addr - 0x008000000000) l.data } }

/-- Lines that satisfy `f` leave the cache, dirty ones written back. -/
def flushLines (s : State) (f : Line → Bool) : State :=
  let gone := s.mem.lines.filter f
  let s1 := gone.foldl writeBack s
  { s1 with mem := { s1.mem with lines := s1.mem.lines.filter (fun l => !f l) } }
/-- Lines that satisfy `f` are dropped, nothing written back (R166). -/
def dropLines (s : State) (f : Line → Bool) : State :=
  { s with mem := { s.mem with lines := s.mem.lines.filter (fun l => !f l) } }

/-- The least recently used of a list of lines. -/
def lruLine : List Line → Option Line
  | [] => none
  | l :: t => match lruLine t with
    | none => some l
    | some x => if l.used ≤ x.used then some l else some x

/-- A line installed in the ways `ws` of slice `k` (R173): in a way with room, else in the place of the least
recently used line of those ways. Which way of a function's ways takes a line the spec does not say: the first with
room (log entry 12). -/
def install (s : State) (k : Nat) (ws : List Nat) (base : Nat) (d : List Byte) (dirty : Bool) : State :=
  let used (w : Nat) : Nat := (s.mem.lines.filter (fun l => l.way == k * 64 + w)).length
  let mk (w : Nat) : Line := { addr := base, data := d, dirty := dirty, way := k * 64 + w, used := s.mem.stamp }
  match ws.find? (fun w => decide (used w < wayLines)) with
  | some w => { s with mem := { s.mem with lines := s.mem.lines ++ [mk w] } }
  | none =>
    match lruLine (s.mem.lines.filter (fun l => ws.any (fun w => l.way == k * 64 + w))) with
    | none => s
    | some v =>
      let s1 := dropLine (writeBack s v) v.addr
      { s1 with mem := { s1.mem with lines := s1.mem.lines ++ [{ mk 0 with way := v.way }] } }

/-- A line used now (R173: least recently used replacement). -/
def touch (s : State) (base : Nat) : State :=
  let t := s.mem.stamp + 1
  { s with mem := { s.mem with lines := s.mem.lines.map (fun l => if l.addr == base then { l with used := t } else l)
                               stamp := t } }

/-! ### Errors met by a read of the cells (R184) -/

/-- The CH page of a place. -/
def chOf (p : Nat) : Nat := plStk p * 34 + plCh p

/-- RETIRED set in a region's entry, a RAS record naming RIDX, the PF signalled by the record's event (R185), and the REGION_RET
record from which the boot restores it (Tables 6-3 and 15-9). -/
def regionRetired (s : State) (r : Nat) : State :=
  let e := rgnEnt s r
  let s1 := setRgn s r (if bitN e 6 then e else e + 64)
  jrnPut (rasPut s1 0x0B 3 .stk (r / 2 ^ 15) 0 r) ⟨0x04, r, []⟩

/-- A golden reload starts (R181): the region is TRANSIT until GOLDEN_RELOAD_DONE; a second event while it runs is
counted only (Table 6-15). -/
def reloadStart (s : State) (r : Nat) : State :=
  if s.mem.reloads.contains r then s
  else setClass (dropLines { s with mem := { s.mem with reloads := s.mem.reloads ++ [r] } } (fun l => l.addr / 2 ^ 21 == r)) r 2 0

/-- R178, R380: the DRAM row of a place as an element of its channel: bank within the pair. -/
def bankOf (p : Nat) : Nat := 2 * plPair p + plOff p / 64 % 2
def rowOf (p : Nat) : Nat := plOff p / 2 ^ 11
/-- The key of a physical row: stack, channel, bank, row. -/
def rowKey (p : Nat) : Nat := (chOf p * 16 + bankOf p) * 2 ^ 17 + rowOf p

/-- The golden copy's address of a region (Table 6-3 GIDX). -/
def goldAddr (s : State) (r : Nat) : Nat := 0x008000000000 + fld (rgnEnt s r) 25 8 * 2 ^ 21

end Sys2Proof.Machine
end

