-- ==== Sys2Proof/Machine/Repair.lean ====
section
/-!
DEFINITION. Repair (chapter 15): the row repair path (R378 to R381), pair moves through PREMAP and unit
substitution (R153), way substitution (R382), lane steering (R383), channel migration requests (R384, R385),
stack retirement and loss (R389, R183). What the dealer must do about a loss reaches it as a report.
-/
namespace Sys2Proof.Machine

/-! ### Dealer reports of losses: codes beyond Tables 3-17 and 5-13 -/

/-- Report codes: a stack's contents lost (0x20), a C pair whose regions went OFFLINE (0x21), a run's hardware
lost so that the running trick must be aborted (0x22), a core (0x23), cluster (0x24) or unit (0x25) that has
crossed its threshold. -/
def repStackLost : Nat := 0x20
def repPairLost : Nat := 0x21
def repAbort : Nat := 0x22
def repCore : Nat := 0x23
def repCluster : Nat := 0x24
def repUnit : Nat := 0x25

/-! ### Where a physical place belongs -/

/-- The logical channel a physical channel of a stack serves (R158). -/
def logicalOf (s : State) (stk ch : Nat) : Option Nat := (List.range 32).find? (fun n => fld (remap s stk n) 5 0 == ch)
/-- The (logical channel, pair) a joker pair has been lent to (R159). -/
def lentTo (s : State) (stk ch pair : Nat) : Option (Nat × Nat) :=
  match (List.range 16).find? (fun n => bitN (premap s stk n) 0 && fld (premap s stk n) 14 9 == ch &&
      fld (premap s stk n) 17 15 == pair) with
  | some n => some (fld (premap s stk n) 5 1, fld (premap s stk n) 8 6)
  | none => none
/-- The bank-linear address of (stack, logical channel, pair, offset). -/
def linAddr (stk lch pair off : Nat) : Nat := stk * 2 ^ 36 + lch * 2 ^ 31 + pair * 2 ^ 28 + off

/-- The region whose data an E row holds (R381): the member m of the set that has the row's pair and pair region. -/
def eRowRegion (mode a : Nat) : Nat :=
  let w := memW mode
  let m := fld a 20 8 / 2 ^ (13 - w)
  (a - a / 2 ^ 31 % 2 ^ w * 2 ^ 31 + m * 2 ^ 31) / 2 ^ 21

/-! ### Jokers -/

/-- The stack's joker channels that are usable (R384): REMAP[32] and REMAP[33] with bits 13 and 14 clear, not the
target of the running migration. -/
def usableJokers (s : State) (stk : Nat) : List Nat :=
  ([32, 33].filter (fun n => !bitN (remap s stk n) 13 && !bitN (remap s stk n) 14 &&
    (match spFind s.wear.mig stk with | some m => m.joker != fld (remap s stk n) 5 0 | none => true))).map
    (fun n => fld (remap s stk n) 5 0)

/-- The joker channels that may lend a pair (R153): good ones, not the target of a migration. -/
def lendingJokers (s : State) (stk : Nat) : List Nat :=
  ([32, 33].filter (fun n => !bitN (remap s stk n) 13 &&
    (match spFind s.wear.mig stk with | some m => m.joker != fld (remap s stk n) 5 0 | none => true))).map
    (fun n => fld (remap s stk n) 5 0)

/-- A free joker pair of the stack: lowest channel, lowest pair whose unit is not retired and that is not lent. -/
def freePair (s : State) (stk : Nat) : Option (Nat × Nat) :=
  ((lendingJokers s stk).flatMap (fun c => (List.range 8).map (fun p => (c, p)))).find?
    (fun x => (lentTo s stk x.1 x.2).isNone && blkState s .nbu (272 * stk + 8 * x.1 + x.2) != .retired)
/-- A free PREMAP entry. -/
def freePremap (s : State) (stk : Nat) : Option Nat := (List.range 16).find? (fun n => !bitN (premap s stk n) 0)

/-- Unit state by physical index. -/
def getU (s : State) (u : Nat) : Nbu := spGet {} s.nbu u
def setU (s : State) (u : Nat) (x : Nbu) : State := { s with nbu := spSet s.nbu u x }

/-- The micro-program store, CR[4..63] and NBU_CFG of one unit copied into another (R153, Table 15-5). -/
def copyUnit (s : State) (src dst : Nat) : State :=
  let s1 := setU s dst { getU s dst with store := (getU s src).store }
  let s2 := (List.range 60).foldl (fun x i =>
    wrReg x (pageOf .nbu dst + 0x110 + 4 * i) (rdReg s (pageOf .nbu src + 0x110 + 4 * i))) s1
  wrReg s2 (pageOf .nbu dst + 0x40) (rdReg s (pageOf .nbu src + 0x40))

/-- The journal's CH_REMAP record of a stack (Table 15-9). -/
def recRemap (s : State) (stk : Nat) : JRec :=
  ⟨0x05, stk, (List.range 34).flatMap (fun n => leBytes (remap s stk n) 4) ++
    (List.range 16).flatMap (fun n => leBytes (premap s stk n) 4)⟩
def jrnRemap (s : State) (stk : Nat) : State := jrnPut s (recRemap s stk)

/-- R153 step 3 and R381: the C regions of (logical channel, pair) copied into a joker pair, a PREMAP entry made or
moved. -/
def movePair (s : State) (stk lch pair jc jp n : Nat) : State :=
  let src := (linPlace s true (linAddr stk lch pair 0)).1
  let dst := place stk jc jp 0
  let regs := (List.range 128).filter (fun g => rgnClass s (linAddr stk lch pair 0 / 2 ^ 21 + g) == 0)
  let d := regs.foldl (fun m g => copyBytes m (src + g * 2 ^ 21) (src + (g + 1) * 2 ^ 21) (dst + g * 2 ^ 21)) s.mem.dram
  let s1 := { s with mem := { s.mem with dram := d } }
  let s2 := wrReg s1 (pageOf .stk stk + 0x110 + 4 * n)
    (w32 (1 + 2 * lch + 64 * pair + 2 ^ 9 * jc + 2 ^ 15 * jp))
  let j := if fld (remap s stk 32) 5 0 = jc then 32 else 33
  let s3 := wrBit s2 (pageOf .stk stk + 0x80 + 4 * j) 14 true
  jrnRemap (copyUnit s3 (272 * stk + 8 * plCh src + plPair src) (272 * stk + 8 * jc + jp)) stk

/-- R381: all C regions of a bank pair move to a free joker pair, or, when no joker pair or PREMAP entry is free,
go OFFLINE and the dealer is told. -/
def retirePairC (s : State) (stk lch pair : Nat) : State :=
  let n := match premapFind s stk lch pair with | some n => some n | none => freePremap s stk
  match freePair s stk, n with
  | some (jc, jp), some n => movePair s stk lch pair jc jp n
  | _, _ =>
    let base := linAddr stk lch pair 0 / 2 ^ 21
    let s1 := (List.range 128).foldl (fun x g => if rgnClass x (base + g) = 0 then setClass x (base + g) 3 0 else x) s
    report s1 { code := repPairLost, blk := .stk, inst := stk, elem := lch * 8 + pair, addr := linAddr stk lch pair 0 }

/-- R381: the region retired for a row at a place. -/
def retireRow (s : State) (p : Nat) : State :=
  let stk := plStk p
  match lentTo s stk (plCh p) (plPair p) with
  | some (lch, pair) => retirePairC (regionRetired s (linAddr stk lch pair (plOff p) / 2 ^ 21)) stk lch pair
  | none =>
    match logicalOf s stk (plCh p) with
    | none => s
    | some lch =>
      let a := linAddr stk lch (plPair p) (plOff p)
      let r := a / 2 ^ 21
      if rgnClass s r = 1 then regionRetired s (eRowRegion (rgnMode s r) a)
      else if rgnClass s r = 0 then retirePairC (regionRetired s r) stk lch (plPair p)
      else s

/-- Live spares of a bank: its byte of ROW_SPARE (Table 15-13). -/
def liveSpares (s : State) (ch bank : Nat) : Nat :=
  fld (rdN s (pageOf .ch ch + 0x118 + 4 * (bank / 4))) (8 * (bank % 4) + 7) (8 * (bank % 4))

/-- The journal's ROW_REPAIR record (Table 15-9): the spare in use, the repair count, and how many of the bank's spares
are used or dead. -/
def recRow (key : Nat) (r : RowRep) (dead : Nat) : JRec :=
  ⟨0x03, key, leBytes r.spare 1 ++ leBytes r.count 1 ++ leBytes dead 1⟩
/-- R379: a failing row mapped onto a live spare, journalled and recorded. -/
def repairRow (s : State) (p count : Nat) : State :=
  let ch := chOf p
  let bank := bankOf p
  let live := liveSpares s ch bank
  let pg := pageOf .ch ch
  let s1 := wrFld s (pg + 0x118 + 4 * (bank / 4)) (8 * (bank % 4) + 7) (8 * (bank % 4)) (live - 1)
  let s2 := { s1 with wear := { s1.wear with rows := spSet s1.wear.rows (rowKey p) { count := count, spare := 16 - live } } }
  let s3 := bump s2 (pg + 0x128)
  let s4 := jrnPut s3 (recRow (rowKey p) { count := count, spare := 16 - live } (17 - live))
  rasPut s4 0x0A 2 .ch ch bank p

/-- R380: a row fails (Table 15-3). -/
def rowFail (s : State) (p : Nat) : State :=
  let count := match spFind s.wear.rows (rowKey p) with | some r => r.count | none => 0
  if liveSpares s (chOf p) (bankOf p) = 0 ∨ 3 ≤ count then retireRow s p
  else repairRow s p (count + 1)

/-! ### Stacks lost and retired -/

/-- The regions lost with a stack (R183, R389): its own, every E region whose set has a member in it, and the scope of
a retag that includes one of its regions. -/
def lostRegions (s : State) (stk : Nat) : List Nat :=
  (s.mem.rgn.filter (fun e =>
    let own := e.1 / 2 ^ 15 == stk
    let cls := fld e.2.toNat 1 0
    let mode := fld e.2.toNat 3 2
    own || (cls == 1 && (mode == 1 || (mode == 0 && e.1 / 2 ^ 17 == stk / 4) || (mode == 2 && e.1 / 2 ^ 16 == stk / 2))))).map
    (fun e => e.1) ++
  (s.mem.retags.filter (fun e => e.2.scope.any (fun r => r / 2 ^ 15 == stk))).flatMap (fun e => e.2.scope)

/-- A migration that ends with its stack's contents (Table 15-14): before the flip, its channel is mirrored no more. -/
def migEnds (s : State) (stk : Nat) : State :=
  match spFind s.wear.mig stk with
  | some m => if m.step < 6 then wrReg s (pageOf .stk stk + 0x80 + 4 * m.ch) (w32 m.old) else s
  | none => s
/-- The stack's contents are gone: bytes, poison, cached lines and units (Table 14-4). -/
def forgetBytes (s : State) (stk : Nat) : State :=
  let lo := place stk 0 0 0
  let hi := place (stk + 1) 0 0 0
  { s with
    mem := { s.mem with
      dram := zeroBytes s.mem.dram lo hi
      poison := s.mem.poison.filter (fun b => decide (64 * b < lo) || decide (hi ≤ 64 * b))
      retags := s.mem.retags.filter (fun e => !e.2.scope.any (fun r => r / 2 ^ 15 == stk))
      reloads := s.mem.reloads.filter (fun r => r / 2 ^ 15 != stk) }
    nbu := s.nbu.filter (fun e => e.1 / 272 != stk)
    wear := { s.wear with mig := spDel s.wear.mig stk, migQueue := spDel s.wear.migQueue stk } }
/-- A stack forgets, and its migration ends. -/
def forgetStack (s : State) (stk : Nat) : State := forgetBytes (migEnds s stk) stk

/-- R183 and Table 14-3: a stack's contents are lost: its regions and the sets they belong to go OFFLINE, the
cache drops their lines, the dealer is told. -/
def stackLost (s : State) (stk : Nat) : State :=
  let gone := lostRegions s stk
  let s0 := { s with mem := { s.mem with bootE := s.mem.bootE.filter (fun h => h != stk / 4) } }
  let s1 := gone.foldl (fun x r => setClass x r 3 0) s0
  let s2 := dropLines s1 (fun l => decide (l.addr < 0x008000000000) && rgnClass s1 (l.addr / 2 ^ 21) == 3)
  let s3 := forgetStack s2 stk
  report (report s3 { code := repAbort, blk := .stk, inst := stk }) { code := repStackLost, blk := .stk, inst := stk }

/-- R389: a stack is retired. -/
def retireStack (s : State) (stk : Nat) : State :=
  let s1 := stackLost s stk
  let s2 := setBlk s1 .stk stk .retired
  let s3 := wrBit s2 (0x2000 + 0x40 + 4 * ((72 + stk) / 32)) ((72 + stk) % 32) false
  let s4 := { s3 with ras := { s3.ras with
      degraded := true
      stacksRetired := if s3.ras.stacksRetired.contains stk then s3.ras.stacksRetired else s3.ras.stacksRetired ++ [stk] } }
  let s5 := jrnPut (rasPut s4 0x0F 5 .stk stk 0 stk) ⟨0x06, stk, []⟩
  capacity (mgmt s5 (.stackRetired stk))

/-! ### Channel migration requests (R384, R385) -/

/-- Step 1 of Table 15-5 begins: logical channel `n` is to move to joker physical channel `j`. -/
def migBegin (s : State) (stk n j : Nat) : State :=
  rasPut { s with wear := { s.wear with mig := spSet s.wear.mig stk { ch := n, joker := j, old := fld (remap s stk n) 5 0, step := 1 } } }
    0x0C 1 .stk stk n j

/-- A migration request decided by Table 15-4. -/
def migRequest (s : State) (stk n : Nat) : State :=
  match spFind s.wear.mig stk, usableJokers s stk with
  | none, j :: _ => migBegin s stk n j
  | some _, _ :: _ =>
    match spFind s.wear.migQueue stk with
    | none => { s with wear := { s.wear with migQueue := spSet s.wear.migQueue stk n } }
    | some _ => retireStack s stk
  | _, [] => retireStack s stk

/-- The joker being filled is retired: the copy stops, MIRROR clears, its REMAP entry gains bit 13, and the request
is decided again (Table 15-4). -/
def migJokerBad (s : State) (stk : Nat) : State :=
  match spFind s.wear.mig stk with
  | none => s
  | some m =>
    let e := if fld (remap s stk 32) 5 0 = m.joker then 32 else 33
    let s1 := wrBit s (pageOf .stk stk + 0x80 + 4 * e) 13 true
    let s2 := wrReg s1 (pageOf .stk stk + 0x80 + 4 * m.ch) (w32 m.old)
    let s3 := rasPut { s2 with wear := { s2.wear with mig := spDel s2.wear.mig stk, chRetired := s2.wear.chRetired ++ [34 * stk + m.joker] } }
      0x0E 3 .ch (34 * stk + m.joker) 0 m.joker
    migRequest s3 stk m.ch

/-- A channel's windowed count has reached its threshold (Table 15-2). -/
def chCross (s : State) (stk ch : Nat) : State :=
  match spFind s.wear.mig stk with
  | some m => if m.joker = ch ∧ m.step < 6 then migJokerBad s stk else
      match logicalOf s stk ch with | some n => migRequest s stk n | none => s
  | none => match logicalOf s stk ch with | some n => migRequest s stk n | none => s

/-- An event counted against a channel, with what follows its threshold. -/
def chCount (s : State) (ch : Nat) : State :=
  let (s1, x) := winAdd s .ch ch 0
  if x then chCross s1 (ch / 34) (ch % 34) else s1

/-- The journal's TSV_MAP record of a channel (Table 15-9): the lanes its joker lanes carry. -/
def recTsv (ch : Nat) (lanes : List Nat) : JRec := ⟨0x08, ch, lanes.map (fun l => BitVec.ofNat 8 l)⟩
/-- R383: a through-silicon lane of a channel fails: a free joker lane carries it, or the channel migrates. -/
def tsvFail (s : State) (ch lane : Nat) : State :=
  let used := spGet [] s.wear.tsv ch
  if used.length < 2 then
    let now := used ++ [lane]
    let s1 := { s with wear := { s.wear with tsv := spSet s.wear.tsv ch now } }
    jrnPut (rasPut s1 0x09 2 .ch ch lane lane) (recTsv ch now)
  else match logicalOf s (ch / 34) (ch % 34) with
    | some n => migRequest s (ch / 34) n
    | none => s
/-- R383: a corrected symbol located on a lane; 16 of them within the channel's window fail it. -/
def tsvCount (s : State) (ch lane : Nat) : State :=
  let k := 2 ^ 61 + ch * 64 + lane
  let ev := ((spGet [] s.wear.win k).filter (fun t => decide (s.time < t + winLen s (pageOf .ch ch)))) ++ [s.time]
  let s1 := { s with wear := { s.wear with win := spSet s.wear.win k ev } }
  if 16 ≤ ev.length then tsvFail { s1 with wear := { s1.wear with win := spDel s1.wear.win k } } ch lane else s1

/-- R378: a corrected burst counts toward ROW_CE_THR of its row within the channel's window. -/
def rowCe (s : State) (p : Nat) : State :=
  let k := 2 ^ 60 + rowKey p
  let ev := ((spGet [] s.wear.win k).filter (fun t => decide (s.time < t + winLen s (pageOf .ch (chOf p))))) ++ [s.time]
  let s1 := { s with wear := { s.wear with win := spSet s.wear.win k ev } }
  if fld (rdN s (0x4000 + 0x078)) 7 0 ≤ ev.length then
    rowFail { s1 with wear := { s1.wear with win := spDel s1.wear.win k } } p
  else s1

/-- A corrected E burst (Table 6-10). -/
def eCorrected (s : State) (p _a : Nat) : State :=
  let s1 := errCe s .ch (chOf p)
  let s2 := wrPair s1 (pageOf .ch (chOf p) + 0x4C) (linAddr (plStk p) ((logicalOf s (plStk p) (plCh p)).getD 0) (plPair p) (plOff p))
  rowCe (chCount s2 (chOf p)) p

/-- The UE_ADDR of a channel. -/
def ueAddr (s : State) (p : Nat) : State :=
  wrPair s (pageOf .ch (chOf p) + 0x44) (linAddr (plStk p) ((logicalOf s (plStk p) (plCh p)).getD 0) (plPair p) (plOff p))

/-- An uncorrectable E burst (Table 6-10, R378, R429): the burst stays poisoned, the data's region is RETIRED, the row
fails. -/
def eUncorrectable (s : State) (p a : Nat) : State :=
  let s1 := ueAddr (errUe s .ch (chOf p)) p
  let s2 := { s1 with mem := { s1.mem with poison := if s1.mem.poison.contains (p / 64) then s1.mem.poison else s1.mem.poison ++ [p / 64] } }
  chCount (rowFail (regionRetired s2 (a / 2 ^ 21)) p) (chOf p)

/-- A C word mismatch (Table 6-10, R378): with GOLD the region reloads, without it is RETIRED and its shard moves. -/
def cMismatch (s : State) (p a : Nat) : State :=
  let r := a / 2 ^ 21
  let s1 := ueAddr (errUe s .ch (chOf p)) p
  let s2 := chCount (rowFail s1 p) (chOf p)
  if rgnGold s r then reloadStart s2 r
  else
    let s3 := regionRetired s2 r
    retirePairC s3 (fld a 38 36) (fld a 35 31) (fld a 30 28)

/-! ### Ways (R382) -/

/-- The journal's WAY_MAP record of a slice: the physical way of each logical way, 0x3F withdrawn. -/
def recWays (s : State) (k : Nat) : JRec := ⟨0x07, k, (List.range 48).map (fun w => BitVec.ofNat 8 (getWay s k w).phys)⟩
def jrnWays (s : State) (k : Nat) : State := jrnPut s (recWays s k)

/-- A logical way crosses its threshold: a joker way takes its place, or it is withdrawn. -/
def wayCross (s : State) (k w : Nat) : State :=
  let x := getWay s k w
  match [48, 49].find? (fun j => !s.mem.jokers.contains (k * 64 + j)) with
  | some j =>
    let s1 := if x.mode = 1 then flushLines s (fun l => l.way == k * 64 + w) else s
    let s2 := setWay { s1 with mem := { s1.mem with jokers := s1.mem.jokers ++ [k * 64 + j] } } k w { x with phys := j }
    jrnWays (rasPut s2 0x05 2 .llc k w j) k
  | none =>
    let s1 := if x.mode = 1 then flushLines s (fun l => l.way == k * 64 + w) else s
    let base := (k * 48 + w) * 2 ^ 21
    let s2 := { s1 with mem := { s1.mem with scratch := zeroBytes s1.mem.scratch base (base + 2 ^ 21) } }
    let s3 := setWay s2 k w { x with phys := 0x3F }
    let s4 := if x.mode = 2 then rasPut s3 0x10 4 .llc k w x.owner else s3
    capacity (jrnWays (rasPut s4 0x06 3 .llc k w x.owner) k)

/-- An event counted against a way. -/
def wayCount (s : State) (k w : Nat) : State :=
  let (s1, x) := winAdd s .llc k w
  if x then wayCross s1 k w else s1

end Sys2Proof.Machine
end

