-- ==== Sys2Proof/Machine/Access.lean ====
section
/-!
DEFINITION. Memory accesses (chapter 06): reads and writes of one 256-byte granule and of any length, atomics
(R177), scratchpad ownership (R174), delivery of POISON to the dealer (R170).
-/
namespace Sys2Proof.Machine

/-! ### The cells -/

/-- The channel of an LPDDR offset (R179). -/
def lpdCh (o : Nat) : Nat := Nat.xor (Nat.xor (fld o 11 8) (fld o 15 12)) (Nat.xor (fld o 19 16) (fld o 23 20))
/-- A link error of the LPDDR tier, on a read or a write (R179, Table 6-10): counted, and whether the data is lost after two
retries. -/
def lpdLink (s : State) (a : Nat) (err : MemErr) : State × Bool :=
  let c := lpdCh (a - 0x008000000000)
  let k := c / 4
  match err with
  | .none => (s, false)
  | .corrected | .correctedLane _ =>
    let (s1, x) := winAdd (bump (errCe s .lpd k) (pageOf .lpd k + 0x44)) .lpd k (c % 4)
    (if x then rasPut s1 0x11 1 .lpd k (c % 4) c else s1, false)
  | .uncorrectable =>
    let s1 := wrPair (errUe s .lpd k) (pageOf .lpd k + 0x48) a
    let (s2, x) := winAdd (rasPut s1 0x10 4 .lpd k (c % 4) a) .lpd k (c % 4)
    (if x then rasPut s2 0x11 1 .lpd k (c % 4) c else s2, true)

/-- A read of `n` bytes of a stack or of the LPDDR tier past the cache, under what the physical read meets
(Tables 6-4 and 6-10). -/
def cellsRead (s : State) (a n : Nat) (err : MemErr) : State × MemRes :=
  if a < 0x008000000000 then
    let r := a / 2 ^ 21
    let (p, _) := stkPlace s a
    if rgnClass s r = 1 then
      let bad := (bursts p n).any (fun b => s.mem.poison.contains b)
      match err with
      | .uncorrectable => (bump (eUncorrectable s p a) (pageOf .stk (plStk p) + 0x60), .poison)
      | e =>
        let s1 := match e with
          | .corrected => eCorrected s p a
          | .correctedLane l => tsvCount (eCorrected s p a) (chOf p) l
          | _ => s
        if bad then (bump s1 (pageOf .stk (plStk p) + 0x60), .poison) else (s1, .ok (rdBytes s.mem.dram p n))
    else if rgnClass s r = 0 then
      if err = .uncorrectable then (bump (cMismatch s p a) (pageOf .stk (plStk p) + 0x60), .poison)
      else (s, .ok (rdBytes s.mem.dram p n))
    else (bump s (pageOf .stk (fld a 38 36) + 0x60), .poison)
  else
    if !lpdUp s then (bump s (pageOf .stk 0 + 0x60), .poison)
    else
      let (s1, gone) := lpdLink s a err
      (s1, if gone then .poison else .ok (rdBytes s.mem.lpd (a - 0x008000000000) n))

/-- A write of bytes to a stack or to the LPDDR tier past the cache (Table 6-4, R166, R180). -/
def cellsWrite (s : State) (a : Nat) (bs : List Byte) : State × MemRes :=
  if a < 0x008000000000 then
    let r := a / 2 ^ 21
    if rgnClass s r = 0 ∨ rgnClass s r = 1 then
      let (p, m) := stkPlace s a
      (dramPut s p m bs, .ok [])
    else (bump s (pageOf .stk (fld a 38 36) + 0x5C), .refused)
  else if lpdUp s then
    ({ s with mem := { s.mem with lpd := wrBytes s.mem.lpd (a - 0x008000000000) bs } }, .ok [])
  else (bump s (pageOf .stk 0 + 0x5C), .refused)

/-! ### The scratchpad (R174, R175) -/

/-- The slice, way and byte of a scratchpad window address. -/
def scrAt (a : Nat) : Nat × Nat × Nat :=
  let o := a - 0x010000000000
  (o / 0x6000000, o % 0x6000000 / 0x200000, o % 0x200000)

/-- A scratchpad access of function `fn` is performed: the slice ON, the way SCRATCH, owned by it, not withdrawn,
nothing pending against the old owner (R174, R175, R364). -/
def scrOk (s : State) (fn a : Nat) : Bool :=
  let (k, w, _) := scrAt a
  isOn s .llc k && (getWay s k w).mode == 2 && (getWay s k w).owner == fn && (getWay s k w).phys != 0x3F &&
    (getWay s k w).pend.isNone

/-- R175: an access of function `fn` to the span of `n` bytes at `a` waits, because a way it touches has a pending
configuration that names `fn` as its owner. -/
def scrWaits (s : State) (fn a n : Nat) : Bool :=
  rangeOf a == .scratch &&
    (List.range ((a % 0x200000 + n + 0x1FFFFF) / 0x200000)).any (fun i =>
      let j := (a - 0x010000000000) / 0x200000 + i
      match (getWay s (j / 48) (j % 48)).pend with
      | some (_, o) => o == fn && isOn s .llc (j / 48)
      | none => false)

/-- A refused scratchpad access is counted in WIN_REF, of every slice page that is ON when the slice itself is not
(R364). -/
def winRef (s : State) (k : Nat) : State :=
  if isOn s .llc k then bump s (pageOf .llc k + 0x74)
  else (List.range 4).foldl (fun x j => if isOn x .llc j then bump x (pageOf .llc j + 0x74) else x) s

/-- What a read of a cached line or scratchpad line meets in the last-level memory (Table 6-10). -/
def scratchRead (s : State) (fn a n : Nat) (err : MemErr) : State × MemRes :=
  let (k, w, _) := scrAt a
  if !scrOk s fn a then (winRef s k, .refused)
  else
    let o := a - 0x010000000000
    let s1 := match err with
      | .none => s
      | .corrected | .correctedLane _ => wayCount (errCe s .llc k) k w
      | .uncorrectable =>
        let s' := errUe { s with mem := { s.mem with scrPoison := s.mem.scrPoison ++ [o / 256] } } .llc k
        wayCount (rasPut s' 0x10 4 .llc k w (a / 256 * 256)) k w
    if s1.mem.scrPoison.contains (o / 256) then (s1, .poison) else (s1, .ok (rdBytes s.mem.scratch o n))

/-- A scratchpad write; one that covers a poisoned line whole lifts the poison (R429). -/
def scratchWrite (s : State) (fn a : Nat) (bs : List Byte) : State × MemRes :=
  let (k, _, _) := scrAt a
  if !scrOk s fn a then (winRef s k, .refused)
  else
    let o := a - 0x010000000000
    let pz := if o % 256 = 0 ∧ bs.length = 256 then s.mem.scrPoison.filter (fun l => l != o / 256) else s.mem.scrPoison
    ({ s with mem := { s.mem with scratch := wrBytes s.mem.scratch o bs, scrPoison := pz } }, .ok [])

/-! ### Reads -/

/-- Whether an address is cacheable (Table 6-4, R176): E and LPDDR always, C with CACHE = 1. -/
def cacheable (s : State) (a : Nat) : Bool :=
  if a < 0x008000000000 then
    rgnClass s (a / 2 ^ 21) == 1 || (rgnClass s (a / 2 ^ 21) == 0 && bitN (rgnEnt s (a / 2 ^ 21)) 4)
  else true

/-- A hit on a line under an error of the last-level memory (Table 6-10): corrected, refetched when clean, poisoned
when dirty. -/
def lineRead (s : State) (l : Line) (a n : Nat) (err : MemErr) : State × MemRes :=
  let k := l.way / 64
  let w := l.way % 64
  match err with
  | .uncorrectable =>
    let s1 := errUe s .llc k
    if l.dirty then
      let s2 := { s1 with mem := { s1.mem with lines := s1.mem.lines.map (fun x => if x.addr == l.addr then { x with poison := true } else x) } }
      (wayCount (rasPut s2 0x10 4 .llc k w l.addr) k w, .poison)
    else cellsRead (wayCount (dropLine s1 l.addr) k w) a n .none
  | e =>
    let s1 := if e = .none then s else wayCount (errCe s .llc k) k w
    if l.poison then (s1, .poison) else (s1, .ok ((l.data.drop (a - l.addr)).take n))

/-- A read of `n` bytes within one 256-byte granule. -/
def memRead1 (s : State) (fn : Nat) (alloc : Bool) (a n : Nat) (err : MemErr) : State × MemRes :=
  match rangeOf a with
  | .none_ => (s, .outside)
  | .scratch => scratchRead s fn a n err
  | _ =>
    let base := a / 256 * 256
    let k := homeSlice a
    if !cacheable s a || !isOn s .llc k || (rangeOf a == .lpd && !lpdUp s) then cellsRead s a n err
    else match findLine s base with
      | some l => lineRead (touch (bump s (pageOf .llc k + 0x64)) base) l a n err
      | none =>
        let s1 := bump s (pageOf .llc k + 0x68)
        let ws := if alloc then cacheWays s k fn else []
        if ws.isEmpty then cellsRead s1 a n err
        else match cellsRead s1 base 256 err with
          | (s2, .ok d) => (touch (install s2 k ws base d false) base, .ok ((d.drop (a - base)).take n))
          | x => x

/-- The pieces of a span that lie in one granule each. -/
def pieces : Nat → Nat → Nat → List (Nat × Nat)
  | 0, _, _ => []
  | f + 1, a, n => if n = 0 then [] else
    let k := min n (256 - a % 256)
    (a, k) :: pieces f (a + k) (n - k)

/-- A read of any length, granule by granule; the first piece that is not good ends it (R170). -/
def memRead (s : State) (fn : Nat) (alloc : Bool) (a n : Nat) (err : MemErr) : State × MemRes :=
  ((pieces (n / 256 + 2) a n).foldl (fun (acc : State × MemRes × MemErr) p =>
    match acc with
    | (s1, .ok bs, e) =>
      match memRead1 s1 fn alloc p.1 p.2 e with
      | (s2, .ok b) => (s2, .ok (bs ++ b), .none)
      | (s2, x) => (s2, x, .none)
    | x => x) (s, .ok [], err)) |> fun r => (r.1, r.2.1)

/-! ### Writes -/

/-- A line changed by a write (R173, R176, R429): dirty unless it is a C line, poison kept unless all 256 bytes are
written. -/
def lineWrite (s : State) (l : Line) (a : Nat) (bs : List Byte) (dirty : Bool) : State :=
  let o := a - l.addr
  let d := l.data.take o ++ bs ++ l.data.drop (o + bs.length)
  { s with mem := { s.mem with lines := s.mem.lines.map (fun x =>
      if x.addr == l.addr then { x with data := d, dirty := x.dirty || dirty, poison := x.poison && bs.length != 256 } else x) } }

/-- A write within one 256-byte granule. -/
def memWrite1 (s : State) (fn a : Nat) (bs : List Byte) : State × MemRes :=
  match rangeOf a with
  | .none_ => (s, .outside)
  | .scratch => scratchWrite s fn a bs
  | _ =>
    let base := a / 256 * 256
    let k := homeSlice a
    let isC := decide (a < 0x008000000000) && rgnClass s (a / 2 ^ 21) == 0
    if !cacheable s a || !isOn s .llc k || (rangeOf a == .lpd && !lpdUp s) then cellsWrite s a bs
    else match findLine s base with
      | some l =>
        let s1 := lineWrite (touch (bump s (pageOf .llc k + 0x64)) base) l a bs (!isC)
        if isC then cellsWrite s1 a bs else (s1, .ok [])
      | none =>
        let s1 := bump s (pageOf .llc k + 0x68)
        let ws := if isC then [] else cacheWays s k fn
        if ws.isEmpty then cellsWrite s1 a bs
        else if bs.length = 256 then (touch (install s1 k ws base bs true) base, .ok [])
        else match cellsRead s1 base 256 .none with
          | (s2, .ok d) =>
            let s3 := install s2 k ws base d false
            match findLine s3 base with
            | some l => (lineWrite (touch s3 base) l a bs true, .ok [])
            | none => cellsWrite s3 a bs
          | (s2, _) => cellsWrite s2 a bs

/-- A write of any length, granule by granule. -/
def memWrite (s : State) (fn a : Nat) (bs : List Byte) : State × MemRes :=
  ((pieces (bs.length / 256 + 2) a bs.length).foldl (fun (acc : State × MemRes × List Byte) p =>
    match acc with
    | (s1, .ok _, rest) =>
      match memWrite1 s1 fn p.1 (rest.take p.2) with
      | (s2, r) => (s2, r, rest.drop p.2)
    | x => x) (s, .ok [], bs)) |> fun r => (r.1, r.2.1)

/-! ### Atomics (R177, Table 6-9) -/

/-- The new value of an atomic of `n` bytes. -/
def atomNew (op : AtomOp) (n old x swap : Nat) : Nat :=
  let m := 2 ^ (8 * n)
  match op with
  | .add => (old + x) % m
  | .smin => if sext (8 * n) x < sext (8 * n) old then x % m else old
  | .smax => if sext (8 * n) x > sext (8 * n) old then x % m else old
  | .umin => if x % m < old then x % m else old
  | .umax => if x % m > old then x % m else old
  | .cas => if old = x % m then swap % m else old

/-- What an atomic answers: the old value, a refusal by R177, or a refused scratchpad or absent address. -/
inductive AtomRes | old (v : Nat) | refused | denied
  deriving DecidableEq, Repr

/-- ATOM_REF: of the home slice, or of every slice page that is ON when the home slice is not (R364). -/
def atomRef (s : State) (k : Nat) : State :=
  if isOn s .llc k then bump s (pageOf .llc k + 0x70)
  else (List.range 4).foldl (fun x j => if isOn x .llc j then bump x (pageOf .llc j + 0x70) else x) s

/-- The home slice an address belongs to, for atomics. -/
def atomHome (a : Nat) : Nat := match rangeOf a with | .scratch => (scrAt a).1 | _ => homeSlice a

/-- R177: an atomic at the home slice. -/
def atomic (s : State) (fn : Nat) (op : AtomOp) (a n x swap : Nat) : State × AtomRes :=
  let k := atomHome a
  let isE := rangeOf a == .stack && rgnClass s (a / 2 ^ 21) == 1
  if rangeOf a = .none_ then (s, .denied)
  else if !(n == 4 || n == 8 || n == 16) || a % n ≠ 0 || !isOn s .llc k || !(isE || rangeOf a == .scratch) then (atomRef s k, .refused)
  else if rangeOf a = .scratch ∧ !scrOk s fn a then (winRef s k, .denied)
  else match memRead1 s fn true a n .none with
    | (s1, .ok bs) =>
      let v := leNat bs
      let (s2, _) := memWrite1 s1 fn a (leBytes (atomNew op n v x swap) n)
      (bump s2 (pageOf .llc k + 0x6C), .old v)
    | (s1, _) => (atomRef s1 k, .refused)

/-- R170: POISON delivered to a requester of the device is reported to the dealer. -/
def reportPoison (s : State) (b : Blk) (i elem model a : Nat) : State :=
  report s { code := 8, blk := b, inst := i, elem := elem, model := model, trick := s.deal.trick, addr := a }

end Sys2Proof.Machine
end

