-- ==== Sys2Proof/Machine/Kv.lean ====
section
/-!
DEFINITION. Pages and page tables of the KV cache (chapter 07): attention contexts (R191), the root table and the
layer directories (R192), page layout and entries (R193, R194, R196), the default ladder (R195), walks (R198, R199), the
pool rings (R214), allocation (R213), frees (R215), prefetch (R219). The steps over them are in Attention.lean.
-/
namespace Sys2Proof.Machine

/-- A register of the ATT page. -/
def att (off : Nat) : Nat := 0xA000 + off

/-- A model slot of the dealer. -/
def getM (s : State) (m : Nat) : Model := spGet {} s.deal.models m
def setM (s : State) (m : Nat) (x : Model) : State := { s with deal := { s.deal with models := spSet s.deal.models m x } }
/-- An entry of the sequence table. -/
def getSlot (s : State) (g : Nat) : SeqSlot := spGet {} s.deal.slots g
def setSlot (s : State) (g : Nat) (x : SeqSlot) : State := { s with deal := { s.deal with slots := spSet s.deal.slots g x } }

/-! ### Attention contexts (R191) -/

/-- A field of an attention context (Table 7-1). -/
def cxF (c : List Byte) (off n : Nat) : Nat := leAt c off n
def cxWalk (c : List Byte) : Bool := bitN (cxF c 0 2) 1
def cxPos (c : List Byte) : Nat := fld (cxF c 0 2) 3 2
def cxBiasPl (c : List Byte) : Bool := bitN (cxF c 0 2) 4
def cxSpill (c : List Byte) : Bool := bitN (cxF c 0 2) 5
def cxRing (c : List Byte) : Bool := bitN (cxF c 0 2) 6
def cxLayers (c : List Byte) : Nat := cxF c 2 2
def cxHq (c : List Byte) : Nat := cxF c 4 1
def cxHkv (c : List Byte) : Nat := cxF c 5 1
def cxDh (c : List Byte) : Nat := cxF c 6 1
def cxKmax (c : List Byte) : Nat := cxF c 7 1 % 16
def cxVmax (c : List Byte) : Nat := cxF c 7 1 / 16
def cxSms (c : List Byte) : Nat := cxF c 8 4
def cxBexp (c : List Byte) : Int := sext 8 (cxF c 12 1)
def cxBias (c : List Byte) : Nat := cxF c 0x10 8
def cxKvs (c : List Byte) : Nat := cxF c 0x18 8
def cxPool (c : List Byte) : Nat := cxF c 0x20 8
def cxApp (c : List Byte) : Nat := cxF c 0x28 8
def cxRows (c : List Byte) : Nat := cxF c 0x30 4
def cxLow (c : List Byte) : Nat := cxF c 0x34 4

/-- Key formats (K2, K4, K8) and value formats (V4, V8). -/
def fmtKey (f : Nat) : Bool := decide (7 ≤ f) && decide (f ≤ 9)
def fmtVal (f : Nat) : Bool := f == 10 || f == 11

/-- R191: every field within its stated range. -/
def cxOk (c : List Byte) : Bool :=
  c.length == 64 && bitN (cxF c 0 2) 0 && cxPos c != 3 && decide (cxF c 0 2 < 128) && decide (1 ≤ cxLayers c) &&
    decide (cxLayers c ≤ 512) && decide (1 ≤ cxHq c) && decide (cxHq c ≤ 128) && decide (1 ≤ cxHkv c) &&
    decide (cxHkv c ≤ 128) && decide (cxHq c % cxHkv c = 0) && decide (1 ≤ cxDh c) && decide (cxDh c ≤ 4) &&
    fmtKey (cxKmax c) && fmtVal (cxVmax c) && scOk (cxSms c) && cxF c 13 3 == 0 && decide (1 ≤ cxRows c) &&
    decide (cxRows c ≤ 9216) && cxF c 0x38 8 == 0

/-- The attention context of a model slot as memory holds it. -/
def readCtx (s : State) (m : Nat) : State × Option (List Byte) :=
  match memRead s 256 true (rdPair s (att 0x40) + 64 * m) 64 .none with
  | (s1, .ok bs) => (s1, some bs)
  | (s1, _) => (s1, none)

/-! ### Page-table entries (R196) -/

def pValid (e : Nat) : Bool := bitN e 0
def pTier (e : Nat) : Nat := fld e 3 1
def pSze (e : Nat) : Nat := fld e 7 4
def pK (e : Nat) : Nat := fld e 11 8
def pV (e : Nat) : Nat := fld e 15 12
def pGen (e : Nat) : Nat := fld e 23 16
def pUsed (e : Nat) : Nat := fld e 44 32
def pFpos (e : Nat) : Nat := fld e 73 48
def pBase (e : Nat) : Nat := fld e 127 88 * 256
/-- An entry from its fields. -/
def mkPte (tier sze kf vf gen used fpos base : Nat) : Nat :=
  1 + 2 * tier + 2 ^ 4 * sze + 2 ^ 8 * kf + 2 ^ 12 * vf + 2 ^ 16 * (gen % 256) + 2 ^ 32 * used + 2 ^ 48 * fpos +
    2 ^ 88 * (base / 256)
/-- The entry with another USED, TIER and BASE, written once more (GEN + 1). -/
def rePte (e tier used base : Nat) : Nat := mkPte tier (pSze e) (pK e) (pV e) (pGen e + 1) used (pFpos e) base
/-- A leaf that can be read: valid, in a tier, of a legal size (R196). -/
def pLeaf (e : Nat) : Bool := pValid e && decide (1 ≤ pTier e) && decide (pTier e ≤ 3) && decide (4 ≤ pSze e) && decide (pSze e ≤ 12)
/-- A leaf that holds position `t`. -/
def pHolds (e t : Nat) : Bool := pLeaf e && decide (pFpos e ≤ t) && decide (t < pFpos e + 2 ^ pSze e)

/-- Page geometry (Table 7-2). -/
def pgHdr (c : List Byte) : Nat := 256 * ((8 * cxHkv c + 255) / 256)
def pgKey (c : List Byte) (e h τ : Nat) : Nat := pgHdr c + (h * 2 ^ pSze e + τ) * 8 * cxDh c * fmtBits (pK e)
def pgVal (c : List Byte) (e h τ : Nat) : Nat :=
  pgHdr c + 2 ^ pSze e * cxHkv c * 8 * cxDh c * fmtBits (pK e) + (h * 2 ^ pSze e + τ) * 8 * cxDh c * fmtBits (pV e)
def pgBytes (c : List Byte) (e : Nat) : Nat := pgHdr c + 2 ^ pSze e * cxHkv c * 8 * cxDh c * (fmtBits (pK e) + fmtBits (pV e))

/-! ### The root table, directories and tables (R192, R199) -/

/-- A read the dealer or a walk makes for itself, as a number; `none` when its data is withheld. -/
def rdTab (s : State) (a n : Nat) : State × Option Nat :=
  match memRead s 256 true a n .none with
  | (s1, .ok bs) => (s1, some (leNat bs))
  | (s1, _) => (s1, none)
/-- A write the dealer makes, whole (R216). -/
def wrTab (s : State) (a n v : Nat) : State := (memWrite s 256 a (leBytes v n)).1

/-- The directory entry of a sequence and layer: table base and length. -/
def dirEnt (s : State) (g layer : Nat) : State × Option (Nat × Nat × Nat) :=
  match rdTab s (rdPair s (att 0x48) + 16 * g) 16 with
  | (s1, some r) =>
    let d := r % 2 ^ 48 + 16 * layer
    match rdTab s1 d 16 with
    | (s2, some e) => (s2, some (d, e % 2 ^ 48, e / 2 ^ 48 % 2 ^ 32))
    | (s2, none) => (s2, none)
  | (s1, none) => (s1, none)

/-- Of a directory entry that cannot be read: the root entry's address, or, when that can be read, its own. -/
def dirAddr (s : State) (g layer : Nat) : Nat :=
  let a := rdPair s (att 0x48) + 16 * g
  match (rdTab s a 16).2 with | some r => r % 2 ^ 48 + 16 * layer | none => a

/-- The 16-byte entries of a table from `a`, as far as they can be read. -/
def tabEnts (s : State) (a n : Nat) : State × Option (List Nat) :=
  if n = 0 then (s, some [])
  else match memRead s 256 true a (16 * n) .none with
    | (s1, .ok bs) => (s1, some ((chunks 16 n bs).map leNat))
    | (s1, _) => (s1, none)

/-- The leaves of a sequence and layer with the address of each one's first entry, in ascending position. -/
def pagesOf (s : State) (walk : Bool) (g layer : Nat) : State × Option (List (Nat × Nat)) :=
  match dirEnt s g layer with
  | (s1, none) => (s1, none)
  | (s1, some (_, base, n)) =>
    match tabEnts s1 base n with
    | (s2, none) => (s2, none)
    | (s2, some es) =>
      if !walk then (s2, some ((enumFrom 0 es).map (fun e => (base + 16 * e.1, e.2))))
      else (enumFrom 0 es).foldl (fun (acc : State × Option (List (Nat × Nat))) e =>
        match acc with
        | (x, none) => (x, none)
        | (x, some l) =>
          if !pValid e.2 then (x, some l)
          else if pTier e.2 ≠ 7 then (x, some (l ++ [(base + 16 * e.1, e.2)]))
          else match tabEnts x (pBase e.2) 256 with
            | (y, none) => (y, none)
            | (y, some ls) => (y, some (l ++ ((enumFrom 0 ls).filter (fun q => pValid q.2 &&
                pFpos q.2 == e.1 * 4096 + 16 * q.1)).map (fun q => (pBase e.2 + 16 * q.1, q.2))))) (s2, some [])

/-- The first read of a sequence and layer's tables whose data is withheld, where `pagesOf` meets one. -/
def tabAddr (s : State) (g layer : Nat) : Nat :=
  match (dirEnt s g layer).2 with
  | none => dirAddr s g layer
  | some (_, base, n) =>
    match (tabEnts s base n).2 with
    | none => base
    | some es => match es.find? (fun e => pValid e && pTier e == 7 && (tabEnts s (pBase e) 256).2.isNone) with
      | some e => pBase e
      | none => base
/-- An address lies in the root entry, the layer directory or a table of a sequence. -/
def tabsHold (s : State) (c : List Byte) (g a : Nat) : Bool :=
  let within (b n : Nat) : Bool := decide (b ≤ a) && decide (a < b + n)
  let root := rdPair s (att 0x48) + 16 * g
  within root 16 || (match (rdTab s root 16).2 with
    | none => false
    | some r => within (r % 2 ^ 48) (16 * cxLayers c) || (List.range (cxLayers c)).any (fun l =>
      match (dirEnt s g l).2 with
      | none => false
      | some (_, base, n) => within base (16 * n) || (cxWalk c && (match (tabEnts s base n).2 with
        | none => false
        | some es => es.any (fun e => pValid e && pTier e == 7 && within (pBase e) 4096)))))

/-- What a walk answers (R199, R226): a leaf, ABSENT with the entry met, FORMAT, or data withheld at an address. -/
inductive Walk | page (e : Nat) | absent (e : Nat) | format (e : Nat) | poison (a : Nat)
  deriving DecidableEq, Repr

/-- R196 and R203: what an entry met at the end of a walk is. -/
def leafRes (e t : Nat) : Walk :=
  if !pValid e ∨ pTier e = 0 then .absent e
  else if 3 < pTier e then .format e
  else if pHolds e t then .page e else .absent e

/-- R199 without the translation cache. -/
def walkTab (s : State) (g layer t : Nat) : State × Walk :=
  match dirEnt s g layer with
  | (s1, none) => (s1, .poison (dirAddr s g layer))
  | (s1, some (_, base, n)) =>
    if n ≤ t / 4096 then (s1, .absent 0)
    else match rdTab s1 (base + 16 * (t / 4096)) 16 with
      | (s2, none) => (s2, .poison (base + 16 * (t / 4096)))
      | (s2, some e) =>
        if pValid e ∧ pTier e = 7 then
          match rdTab s2 (pBase e + 16 * (t / 16 % 256)) 16 with
          | (s3, none) => (s3, .poison (pBase e + 16 * (t / 16 % 256)))
          | (s3, some l) => (s3, leafRes l t)
        else (s2, leafRes e t)

/-- The translation cache's key of a position. -/
def tlbKey (g layer t : Nat) : Nat := (g * 512 + layer) * 2 ^ 22 + t / 16

/-- R199 through the translation cache: filled on a miss. A cached leaf keeps the model slot of the walk above its 128 bits, by which
KV_INVAL finds it (R200). -/
def walkTlb (s : State) (g layer t : Nat) : State × Walk :=
  match spFind s.kv.tlb (tlbKey g layer t) with
  | some e => (s, leafRes (e % 2 ^ 128) t)
  | none =>
    let s0 := bump s (att 0x78)
    match walkTab s0 g layer t with
    | (s1, .page e) => ({ s1 with kv := { s1.kv with tlb := spSet s1.kv.tlb (tlbKey g layer t) (e + 2 ^ 128 * (getSlot s g).model) } }, .page e)
    | x => x

/-- R224: WALK_ERR and WALK_SEQ of a walk fault (1 FORMAT, 2 ABSENT, 3 POISON). -/
def walkErr (s : State) (model g code gen : Nat) : State :=
  wrReg (wrReg s (att 0x88) (w32 (model + 256 * code + 2 ^ 12 * gen))) (att 0x8C) (w32 g)

/-! ### Writing entries (R216, R217) -/

/-- An entry of a page table written: GEN is one more than that of the entry it replaces (Table 7-7). -/
def wrPte (s : State) (a e : Nat) : State :=
  let old := match (rdTab s a 16).2 with | some o => pGen o | none => 0
  wrTab s a 16 (e - 2 ^ 16 * pGen e + 2 ^ 16 * ((old + 1) % 256))

/-- A second-level table without an entry: GEN of each one more than before. -/
def clearTab (s : State) (a : Nat) : State :=
  let old := match (tabEnts s a 256).2 with | some es => es | none => List.replicate 256 0
  (memWrite s 256 a (old.flatMap (fun e => leBytes (2 ^ 16 * ((pGen e + 1) % 256)) 16))).1

/-- A leaf written where `at_` names its first entry: one entry in a page list or for 4,096 tokens, else one in each of
the 16-position slots it covers. -/
def putLeaf (s : State) (walk : Bool) (at_ e : Nat) : State :=
  let n := if walk ∧ pSze e < 12 then 2 ^ (pSze e - 4) else 1
  (List.range n).foldl (fun x i => wrPte x (at_ + 16 * i) e) s

/-- A new leaf entered into the tables of a sequence and layer: the page list grows by one, or the two-level table gets
the levels it needs. Where the dealer keeps the tables the spec does not say (log entry 28). -/
def addLeaf (s : State) (b : Bundle) (c : List Byte) (g layer e : Nat) : State :=
  match dirEnt s g layer with
  | (s1, none) => s1
  | (s1, some (d, base, n)) =>
    if !cxWalk c then wrTab (putLeaf s1 false (base + 16 * n) e) d 16 (base + 2 ^ 48 * (n + 1))
    else
      let i := pFpos e / 4096
      let s2 := (List.range (i + 1 - n)).foldl (fun x j => wrPte x (base + 16 * (n + j)) 0) s1
      let s3 := wrTab s2 d 16 (base + 2 ^ 48 * max n (i + 1))
      if pSze e = 12 then putLeaf s3 true (base + 16 * i) e
      else match rdTab s3 (base + 16 * i) 16 with
        | (s4, none) => s4
        | (s4, some l1) =>
          let l2 := if pValid l1 ∧ pTier l1 = 7 then pBase l1
            else b.l2At + b.l2Step * ((g * cxLayers c + layer) * 2 ^ 14 + i)
          let s5 := if pValid l1 ∧ pTier l1 = 7 then s4
            else wrPte (clearTab s4 l2) (base + 16 * i) (1 + 2 * 7 + 2 ^ 88 * (l2 / 256))
          putLeaf s5 true (l2 + 16 * (pFpos e / 16 % 256)) e

/-- A leaf taken out of the tables (R215): its entry in a page list closes up, its slots of a two-level table lose
VALID. -/
def dropLeaf (s : State) (c : List Byte) (g layer fpos : Nat) : State :=
  match pagesOf s (cxWalk c) g layer with
  | (s1, none) => s1
  | (s1, some l) =>
    match l.find? (fun p => pValid p.2 && pFpos p.2 == fpos) with
    | none => s1
    | some p =>
      if cxWalk c then putLeaf s1 true p.1 (rePte p.2 (pTier p.2) (pUsed p.2) (pBase p.2) - 1)
      else match dirEnt s1 g layer with
        | (s2, none) => s2
        | (s2, some (d, base, n)) =>
          let rest := (l.filter (fun q => q.1 != p.1)).map (fun q => q.2)
          let s3 := (enumFrom 0 rest).foldl (fun x q => if base + 16 * q.1 < p.1 then x else wrPte x (base + 16 * q.1) q.2) s2
          wrTab s3 d 16 (base + 2 ^ 48 * (n - 1))

/-! ### Pool rings (R214) -/

/-- A ring descriptor of a context: its address, base, size, head and tail. -/
structure PoolRing where
  at_ : Nat
  base : Nat
  size : Nat
  head : Nat
  tail : Nat
  deriving DecidableEq, Repr

def poolRing (s : State) (c : List Byte) (r : Nat) : State × Option PoolRing :=
  let a := cxPool c + 16 * r
  match rdTab s a 16 with
  | (s1, some w) =>
    if w / 2 ^ 48 % 65536 = 0 then (s1, none)
    else (s1, some ⟨a, w % 2 ^ 48, w / 2 ^ 48 % 65536, w / 2 ^ 64 % 2 ^ 32, w / 2 ^ 96 % 2 ^ 32⟩)
  | (s1, none) => (s1, none)
/-- Entries waiting in a ring. -/
def ringFill (r : PoolRing) : Nat := (r.tail + r.size - r.head) % r.size
/-- Free frames of 4,096 tokens in stack memory. -/
def stackFrames (s : State) (c : List Byte) : Nat := match (poolRing s c 8).2 with | some r => ringFill r | none => 0

/-- A free frame of 2^sze tokens taken from the ring of a tier (0 stacks, 1 LPDDR). -/
def popFrame (s : State) (c : List Byte) (tier sze : Nat) : State × Option Nat :=
  match poolRing s c (9 * tier + (sze - 4)) with
  | (s1, some r) =>
    if r.head = r.tail then (s1, none)
    else match rdTab s1 (r.base + 8 * r.head) 8 with
      | (s2, some w) =>
        let h := (r.head + 1) % r.size
        -- a free ring running empty is a capacity change (R281)
        (wrTab (if h = r.tail then capacity s2 else s2) (r.at_ + 8) 4 h, some (w % 2 ^ 40 * 256))
      | (s2, none) => (s2, none)
  | (s1, none) => (s1, none)
/-- Free frames in the ring of a tier and size. -/
def framesThere (s : State) (c : List Byte) (tier sze : Nat) : Nat :=
  match (poolRing s c (9 * tier + (sze - 4))).2 with | some r => ringFill r | none => 0
/-- Ring 18 has room. -/
def freedRoom (s : State) (c : List Byte) : Bool :=
  match (poolRing s c 18).2 with | some r => (r.tail + 1) % r.size != r.head | none => false
/-- A freed frame entered into ring 18 with the trick number of the free. -/
def pushFreed (s : State) (c : List Byte) (base trick : Nat) : State :=
  match poolRing s c 18 with
  | (s1, some r) => wrTab (wrTab s1 (r.base + 16 * r.tail) 16 (base + 2 ^ 64 * trick)) (r.at_ + 12) 4 ((r.tail + 1) % r.size)
  | (s1, none) => s1

/-! ### Allocation (R194, R195, R213) -/

/-- The ladder (Table 7-3): the size exponent and first position of the page that holds position `t`. -/
def ladder (t : Nat) : Nat × Nat :=
  if t < 16 then (4, 0) else if t < 4096 then (Nat.log2 t, 2 ^ Nat.log2 t) else (12, t / 4096 * 4096)

/-- The TIER of a stack frame: HBM-C or HBM-E, by the class of its region. -/
def frameTier (s : State) (base : Nat) : Nat :=
  if 0x008000000000 ≤ base then 3 else if rgnClass s (base / 2 ^ 21) = 0 then 1 else 2

/-- The header of a new page: the scale words of the KV scale table for the layer's heads (R194), written for the sequence's
function (R267). -/
def putHeader (s : State) (fn : Nat) (c : List Byte) (layer base : Nat) : State :=
  match memRead s fn true (cxKvs c + 8 * layer * cxHkv c) (8 * cxHkv c) .none with
  | (s1, .ok bs) => (memWrite s1 fn base (bs ++ List.replicate (pgHdr c - bs.length) 0)).1
  | (s1, _) => s1

/-- The position has a page. -/
def hasPage (s : State) (c : List Byte) (g layer t : Nat) : Bool :=
  match (pagesOf s (cxWalk c) g layer).2 with | some l => l.any (fun p => pHolds p.2 t) | none => false

/-- A page for position `t` of a sequence and layer, unless it has one. -/
def allocPage (s : State) (b : Bundle) (c : List Byte) (g layer t : Nat) : State × Bool :=
  if hasPage s c g layer t then (s, true)
  else
    let (z, fp) := ladder t
    match popFrame s c 0 z with
    | (s1, none) => (s1, false)
    | (s1, some base) =>
      let s2 := putHeader { s1 with kv := { s1.kv with born := spSet s1.kv.born (tlbKey g layer fp) s1.deal.trick } } (getSlot s g).fn c layer base
      (addLeaf s2 b c g layer (mkPte (frameTier s2 base) z (cxKmax c) (cxVmax c) 0 0 fp base), true)

/-- Pages for positions `lo` to `hi` − 1 in every layer; false where one has none. -/
def allocPages (s : State) (b : Bundle) (c : List Byte) (g lo hi : Nat) : State × Bool :=
  (List.range (cxLayers c)).foldl (fun (x : State × Bool) l =>
    (List.range (hi - lo)).foldl (fun (y : State × Bool) i =>
      let r := allocPage y.1 b c g l (lo + i)
      (r.1, y.2 && r.2)) x) (s, true)

/-- The pages positions `lo` to `hi` − 1 would have by the ladder: size exponents and first positions. -/
def ladders (lo hi : Nat) : List (Nat × Nat) :=
  (List.range (hi - lo)).foldl (fun l i => if l.contains (ladder (lo + i)) then l else l ++ [ladder (lo + i)]) []
/-- The frames that positions lo…hi−1 need, over every layer: their sizes. -/
def framesFor (s : State) (c : List Byte) (g lo hi : Nat) : List Nat :=
  (List.range (cxLayers c)).flatMap (fun l =>
    let need := (List.range (hi - lo)).filter (fun i => !hasPage s c g l (lo + i))
    (need.foldl (fun (l : List (Nat × Nat)) i => if l.contains (ladder (lo + i)) then l else l ++ [ladder (lo + i)]) []).map (fun p => p.1))
/-- R214: too few free frames for the new positions' size classes. -/
def framesShort (s : State) (c : List Byte) (g lo hi : Nat) : Bool :=
  let need := framesFor s c g lo hi
  need.any (fun z => decide (framesThere s c 0 z < (need.filter (fun y => y == z)).length))

/-- The root entry and the layer directory of a new sequence (R192), its tables empty. -/
def newSeq (s : State) (m g : Nat) : State :=
  let b := (getM s m).b
  let c := (getM s m).ctx
  let d := b.dirAt + b.dirStep * g
  let s1 := wrTab s (rdPair s (att 0x48) + 16 * g) 16 (d + 2 ^ 48 * m)
  (List.range (cxLayers c)).foldl (fun x l => wrTab x (d + 16 * l) 16 (b.lstAt + b.lstStep * (g * cxLayers c + l))) s1

/-- R213: USED of the pages that hold positions lo…hi−1 covers the committed length `hi`. -/
def writeUsed (s : State) (c : List Byte) (g lo hi : Nat) : State :=
  (List.range (cxLayers c)).foldl (fun x l =>
    match pagesOf x (cxWalk c) g l with
    | (y, none) => y
    | (y, some ps) => ps.foldl (fun z p =>
        if pLeaf p.2 && decide (pFpos p.2 < hi) && decide (lo < pFpos p.2 + 2 ^ pSze p.2) then
          putLeaf z (cxWalk c) p.1 (rePte p.2 (pTier p.2) (min (2 ^ pSze p.2) (hi - pFpos p.2)) (pBase p.2))
        else z) y) s

/-! ### Frees (R214, R215) -/

/-- The pages of a sequence that fall due to be freed. -/
def duePages (s : State) (trick m g kind from_ : Nat) : List Due :=
  let c := (getM s m).ctx
  (List.range (cxLayers c)).flatMap (fun l =>
    match (pagesOf s (cxWalk c) g l).2 with
    | none => []
    | some ps => (ps.filter (fun p => pLeaf p.2 && decide (from_ ≤ pFpos p.2))).map (fun p =>
        { trick := trick, model := m, gid := g, layer := l, kind := kind, fpos := pFpos p.2, base := pBase p.2 }))

/-- A page of rejected positions serves the sequence again (R213, R214): it has committed tokens, or the trick in flight
includes the sequence. -/
def pageInUse (s : State) (d : Due) : Bool :=
  d.kind == 1 && (decide (d.fpos < (getSlot s d.gid).len) || (getSlot s d.gid).st != .active ||
    (match s.deal.cur with | some t => t.entries.any (fun e => e.gid == d.gid) | none => false))

/-- FREED_HELD follows the deferred frees. -/
def setHeld (s : State) : State := wrReg s (att 0x94) (w32 s.kv.deferred.length)

/-- One free is made, as the free of trick `n`, or deferred while ring 18 of its context is full or an earlier free of
the context is deferred. -/
def makeFree (s : State) (n : Nat) (d : Due) : State :=
  let c := (getM s d.model).ctx
  if pageInUse s d then s
  else if s.kv.deferred.any (fun x => x.model == d.model) ∨ !freedRoom s c then
    setHeld { s with kv := { s.kv with deferred := s.kv.deferred ++ [d] } }
  else
    let s1 := if d.kind = 2 then s else dropLeaf s c d.gid d.layer d.fpos
    pushFreed s1 c d.base n

/-- A FREEING slot whose pages are all freed becomes FREE (R228); a GENERATE that waits on it gets the slot. -/
def slotFree (s : State) (g : Nat) : State :=
  let x := getSlot s g
  if x.st ≠ .freeing ∨ s.kv.deferred.any (fun d => d.gid == g && d.kind == 0) ∨ s.kv.due.any (fun d => d.gid == g && d.kind == 0) ∨
      s.deal.ended < x.freeAt then s
  else match x.req with
    | none => setSlot s g { st := .free, fn := x.fn, dlv := x.dlv }
    | some r => newSeq (setSlot s g { st := .active, fn := r.fn, model := r.model, req := some r }) r.model g

/-! ### Prefetch (R219) -/

/-- Every run of the trick has ended on every logical cluster it was dealt to. -/
def runsEnded (t : Trick) : Bool :=
  t.runs.all (fun r => !r.clusters.isEmpty && r.clusters.all (fun l => t.done.contains (l, r.tpb)))
/-- The pages of the tier that layer `l` of the trick will walk are read into the owner's ways. -/
def prefetchLayer (s : State) (m l : Nat) : State :=
  match s.deal.cur with
  | none => s
  | some t =>
    let c := (getM s m).ctx
    (t.entries.filter (fun e => e.model == m && !e.dropped)).foldl (fun x e =>
      (spGet [] t.snap (e.gid * 512 + l)).foldl (fun y p =>
        if pTier p = 3 then bump ((memRead y (getSlot s e.gid).fn true (pBase p) (pgBytes c p) .none).1) (att 0x70) else y) x) s

/-- Layer `l` of model `m` begins in the trick in flight: layer l + 2 is prefetched, once. -/
def layerBegin (s : State) (m l : Nat) : State :=
  match s.deal.cur with
  | none => s
  | some t =>
    if spGet 0 t.layers m ≤ l then
      prefetchLayer { s with deal := { s.deal with cur := some { t with layers := spSet t.layers m (l + 1) } } } m (l + 2)
    else s

end Sys2Proof.Machine
end

