-- ==== Sys2Proof/Machine/Cluster.lean ====
section
/-!
DEFINITION. Clusters (chapter 03): the run and its trick-parameter block, the deck cache, the descriptor network's
commands (R91), faults of a sequencer (R93), the cluster's own configuration writes (R75, R92, R94, R96). The
steps a sequencer issues are in Deck.lean and Vector.lean.
-/
namespace Sys2Proof.Machine

/-! ### Parts of a cluster -/

def getC (s : State) (c : Nat) : Cluster := spGet {} s.clu c
def setC (s : State) (c : Nat) (k : Cluster) : State := { s with clu := spSet s.clu c k }
def getCore (k : Cluster) (q : Nat) : Core := spGet {} k.cores q
def setCore (k : Cluster) (q : Nat) (x : Core) : Cluster := { k with cores := spSet k.cores q x }
/-- Sequencer `q`: a logical core 0 to 63, or 64 for the cluster sequencer. -/
def getS (k : Cluster) (q : Nat) : Sequencer := if q = 64 then k.cseq else (getCore k q).seq
def setS (k : Cluster) (q : Nat) (x : Sequencer) : Cluster :=
  if q = 64 then { k with cseq := x } else setCore k q { getCore k q with seq := x }

/-- The compute die of physical cluster `c` (chapter 03, "The cluster"). -/
def dieOf (c : Nat) : Nat := if c < 34 then 0 else 1
/-- LCLU (R72). -/
def lclu (s : State) (c : Nat) : Nat := fld (rdN s (pageOf .clu c + 0x40)) 6 0
/-- GIDX of sequencer `q` (R72, R86: the cluster sequencer uses LCLU × 64). -/
def gidx (s : State) (c q : Nat) : Nat := lclu s c * 64 + (if q = 64 then 0 else q)
/-- The physical core of LIDX `q` (R72, CORE_MAP). -/
def physCore (s : State) (c q : Nat) : Nat := fld (rdN s (pageOf .clu c + 0x60 + 4 * (q / 4))) (8 * (q % 4) + 6) (8 * (q % 4))

/-- A field of the running trick-parameter block (Table 3-13). -/
def tpbF (k : Cluster) (off n : Nat) : Nat := leAt k.tpb off n
/-- The model slot of the run. -/
def runModel (k : Cluster) : Nat := tpbF k 0x008 2
/-- CNT[n] (Table 3-13). -/
def tpbCnt (k : Cluster) (n : Nat) : Nat := tpbF k (0x080 + 4 * n) 4
/-- The function the run's requests carry: the owner of its model (R173). -/
def runFn (s : State) (k : Cluster) : Nat := (getM s (runModel k)).b.owner

/-- A tensor descriptor (Table 3-14). -/
structure TD where
  code : Nat
  hdr : Nat
  side : Nat
  cb : Nat
  gpr : Nat
  rows : Nat
  fmt : Nat
  rsvd : Nat
  deriving DecidableEq, Repr
def tdOf (k : Cluster) (n : Nat) : TD :=
  let o := 0x200 + 32 * n
  { code := tpbF k o 6, hdr := tpbF k (o + 6) 6, side := tpbF k (o + 12) 6, cb := tpbF k (o + 18) 6,
    gpr := tpbF k (o + 24) 4, rows := tpbF k (o + 28) 3, fmt := tpbF k (o + 31) 1 % 16, rsvd := tpbF k (o + 31) 1 / 16 }

/-! ### Faults (R93) -/

/-- The bit of CLU_STAT of a fault code, and whether the fault is transient (Tables 3-17, 3-19). -/
def faultBit : Nat → Nat
  | 1 => 7 | 2 => 4 | 3 => 5 | 4 => 10 | 5 => 8 | 16 => 3 | 17 => 9 | _ => 6
def faultTransient (code : Nat) : Bool := decide (16 ≤ code)

/-- A fault of sequencer `q` (R93, R375, R376): it stops at its step, and an ACQUIRE it waits in is given up; the sticky bit is
set, the dealer is told; a transient fault counts against the physical core, or against the element "cluster" (68) for the cluster
sequencer. -/
def seqFault (s : State) (c q code : Nat) : State :=
  let k := getC s c
  let s0 := { s with sync := { s.sync with waits := s.sync.waits.filter (fun x => !(x.clu == c && x.seq == q)) } }
  let s1 := setC s0 c (setS k q { getS k q with st := .stopped code })
  let s2 := orReg s1 (pageOf .clu c + 0x44) (w32 (2 ^ faultBit code))
  let s3 := report (emit s2 (.fault (gidx s c q) code k.trick))
    { code := code, blk := .clu, inst := c, elem := q, model := runModel k, trick := k.trick }
  if faultTransient code then
    let elem := if q = 64 then 68 else physCore s c q
    let (s4, x) := winAdd s3 .clu c elem
    if x then report s4 { code := if q = 64 then repCluster else repCore, blk := .clu, inst := c, elem := elem } else s4
  else s3

/-! ### The deck cache (R75 to R77) -/

/-- The units of a list of bytes. -/
def unitsOf (bs : List Byte) : List (BitVec 128) :=
  (chunks 16 ((bs.length + 15) / 16) bs).map (fun b => BitVec.ofNat 128 (leNat b))
/-- The header checks of R77: MAGIC, VER, KIND, the size limit of R76, CRC. -/
def deckOk (kind : Nat) (units : List (BitVec 128)) : Bool :=
  let h := (units.headD 0).toNat
  let n := 1 + fld h 47 32 + fld h 63 48
  fld h 15 0 == 0xDEC4 && fld h 19 16 == 1 && fld h 23 20 == kind && decide (n ≤ 2048) && units.length == n &&
    fld h 95 64 == crc32c ((units.drop 1).flatMap (fun u => leBytes u.toNat 16))
/-- Frames of 4 KiB a deck occupies. -/
def deckFrames (d : Deck) : Nat := (d.units.length + 255) / 256
/-- The first of `n` consecutive free frames: the lowest for a core deck, the highest for a cluster deck (log entry 168). -/
def freeRun (ds : List Deck) (n : Nat) (top : Bool) : Option Nat :=
  let taken (f : Nat) : Bool := ds.any (fun d => decide (d.frame ≤ f) && decide (f < d.frame + deckFrames d))
  let l := (List.range (17 - n)).filter (fun f => (List.range n).all (fun i => !taken (f + i)))
  if top then l.getLast? else l.head?
/-- Room for a deck of `n` frames (R75): decks the run does not use leave least recently used first, then, where the frames
left are not consecutive, the run's other deck (log entry 168). The decks that stay, and the first frame. -/
def makeRoom (n : Nat) (top : Bool) (keep : List Nat) : Nat → List Deck → List Deck × Nat
  | 0, _ => ([], 0)
  | f + 1, ds =>
    match freeRun ds n top with
    | some a => (ds, a)
    | none =>
      let lru (l : List Deck) : List Deck := sortBy (fun a b => decide (a.used ≤ b.used)) l
      match lru (ds.filter (fun d => !keep.contains d.addr)) ++ lru (ds.filter (fun d => keep.contains d.addr)) with
      | [] => ([], 0)
      | v :: _ => makeRoom n top keep f (ds.filter (fun d => d.addr != v.addr))

/-- A deck read from memory and checked (R76, R77); the failure is CRC (1), BOUNDS (3) or POISON (8). -/
def readDeck (s : State) (fn kind addr : Nat) : State × Except Nat (List (BitVec 128)) :=
  match memRead s fn true addr 16 .none with
  | (x1, .ok h) =>
    let n := 1 + leAt h 4 2 + leAt h 6 2
    if 2048 < n then (x1, .error 1)
    else match memRead x1 fn true addr (16 * n) .none with
      | (x2, .ok bs) => if deckOk kind (unitsOf bs) then (x2, .ok (unitsOf bs)) else (x2, .error 1)
      | (x2, .outside) => (x2, .error 3)
      | (x2, _) => (x2, .error 8)
  | (x1, .outside) => (x1, .error 3)
  | (x1, _) => (x1, .error 8)
/-- The same, read once more on a mismatch (R77). -/
def readDeckTwice (s : State) (fn kind addr : Nat) : State × Except Nat (List (BitVec 128)) :=
  match readDeck s fn kind addr with
  | (s1, .error 1) => readDeck s1 fn kind addr
  | r => r

/-- A deck made resident (R75, R77): it is already, or it is read; `some` is what failed. -/
def fetchDeck (s : State) (c fn kind addr : Nat) (keep : List Nat) : State × Option Nat :=
  let k := getC s c
  if k.decks.any (fun d => d.addr == addr) then
    (setC s c { k with decks := k.decks.map (fun d => if d.addr == addr then { d with used := s.time } else d) }, none)
  else
    match readDeckTwice s fn kind addr with
    | (s2, .ok u) =>
      let k2 := getC s2 c
      let d : Deck := { addr := addr, units := u, used := s2.time }
      let r := makeRoom (deckFrames d) (kind == 1) keep 17 k2.decks
      (setC s2 c { k2 with decks := r.1 ++ [{ d with frame := r.2 }] }, none)
    | (s2, .error e) => (s2, some e)
/-- A deck that could not be fetched: POISON reaches the dealer by R170 and the run does not go on; CRC and BOUNDS are faults of
the sequencer that runs it, for the core deck logical core 0 (log entry 152). -/
def deckFail (s : State) (c q addr : Nat) : Option Nat → State
  | none => s
  | some 8 => reportPoison s .clu c q (runModel (getC s c)) addr
  | some e => seqFault s c q e

/-! ### Runs (R74, R86, R87, R115) -/

/-- The QS registers of a cluster (Table 4-8): RM and CFG, the counters. -/
def qsAddrs (c : Nat) : List Nat :=
  (List.range 16).flatMap (fun n => (List.range 5).map (fun j => pageOf .clu c + 0x400 + 32 * n + 4 * j))

/-- The QS registers of cluster `c` as its present index leaves them, for cluster `h`. -/
def qsTake (s : State) (c h : Nat) : QsRec :=
  let k := getC s c
  { host := h, trick := k.trick, aborted := k.aborted, regs := (qsAddrs c).map (fun a => rdReg s a)
    save := (qsAddrs c).map (fun a => (spFind k.qsSave a).getD (rdReg s a)) }
/-- QS registers put into cluster `c`. -/
def qsPut (s : State) (c : Nat) (q : QsRec) : State :=
  let s1 := (List.zip (qsAddrs c) q.regs).foldl (fun x e => wrReg x e.1 e.2) s
  setC s1 c { getC s1 c with qsSave := List.zip (qsAddrs c) q.save, trick := q.trick, ran := true, aborted := q.aborted }
/-- A RUN for another index than the last one's, `l`: the cluster keeps the QS registers of the last, and takes those of the
moved index it runs now (R115). -/
def qsSwap (s : State) (c l : Nat) : State :=
  match spFind s.deal.qs (lclu s c) with
  | some q =>
    if l ≠ lclu s c ∧ q.host = c then
      qsPut { s with deal := { s.deal with qs := spSet (spDel s.deal.qs (lclu s c)) l (qsTake s c c) } } c q
    else s
  | none => s
/-- R115: the QS registers copied into the checkpoint when the trick is new, restored from it when the same trick runs
again after an ABORT. -/
def qsCheckpoint (s : State) (c trick : Nat) : State :=
  let k := getC s c
  if !k.ran || decide (k.trick < trick) then
    setC s c { k with qsSave := (qsAddrs c).map (fun a => (a, rdReg s a)) }
  else if k.trick = trick ∧ k.aborted then
    k.qsSave.foldl (fun x e => wrReg x e.1 e.2) s
  else s

/-- Address registers at the start of a run (R86). -/
def initAr (k : Cluster) (g : Nat) : List Nat :=
  (List.range 4).map (fun n => (unsx 32 ((tpbF k (0x30 + 4 * n) 4 : Int) + (g : Int) * sext 32 (tpbF k (0x40 + 4 * n) 4))))

/-- A sequencer at step 1. Its sampled drop mask is empty until its first LAYER loop samples one (DESIGN CHOICE, log
entry 169). -/
def initSeq (k : Cluster) (g : Nat) : Sequencer :=
  { st := .issue, pc := 1, ar := initAr k g, ev := List.replicate 16 0 }

/-- Both decks of a run made resident, the core deck last again, since a cluster deck may have taken its frames (R75). -/
def fetchDecks (s : State) (c fn cd vd : Nat) : State × Option Nat × Option Nat :=
  let (s1, r1) := fetchDeck s c fn 0 cd [cd, vd]
  let (s2, r2) := if vd = 0 then (s1, none) else fetchDeck s1 c fn 1 vd [cd, vd]
  if r1.isSome ∨ r2.isSome then (s2, r1, r2)
  else
    let (s3, r3) := fetchDeck s2 c fn 0 cd [cd, vd]
    (s3, r3, none)

/-- A run starts (R74, R75, R87, R92, R97, R99): the parameter block copied, staged register writes in effect, decks
resident, every sequencer initialised; a slot a run left open stays open (R65). Where a deck could not be fetched no sequencer
starts. The epoch indexes the run's unspecified memory. The second result says whether the parameter block could be
read. -/
def startRun (s : State) (c addr : Nat) : State × Bool :=
  match memRead s 256 true addr 1024 .none with
  | (s1, .ok bs) =>
    let s2 := (getC s1 c).staged.foldl (fun x e => wrReg x e.1 e.2) s1
    let trick := leAt bs 0 8
    let s3 := qsCheckpoint (qsSwap s2 c (lclu s1 c)) c trick
    let k0 := { getC s3 c with tpb := bs, tpbAt := addr }
    let k1 : Cluster := { k0 with active := true, trick := trick, ran := true, aborted := false,
                                  dropMask := tpbF k0 0x100 128, tiles := [], full := [], params := [], paramRes := [],
                                  staged := [], xr := none, cseq := {}, epoch := s3.free,
                                  cores := k0.cores.map (fun e => (e.1, ({ slots := e.2.slots } : Core))) }
    let s4 := useFree (wrPair (setC s3 c k1) (pageOf .clu c + 0x50) trick)
    let cd := tpbF k0 0x10 8
    let vd := tpbF k0 0x18 8
    match fetchDecks s4 c (runFn s4 k1) cd vd with
    | (s5, none, none) =>
      let k2 := getC s5 c
      (setC s5 c { k2 with
        cores := (List.range 64).map (fun q => (q, { getCore k2 q with seq := initSeq k2 (gidx s5 c q) }))
        cseq := if vd = 0 then { st := .ended } else initSeq k2 (gidx s5 c 64) }, true)
    | (s5, r1, r2) => (deckFail (deckFail s5 c 0 cd r1) c 64 vd r2, true)
  | (s1, .outside) => (seqFault s1 c 64 3, false)
  | (s1, _) => (reportPoison s1 .clu c 64 0 addr, false)

/-- The first of the RUNs that wait whose parameter block can be read starts; the later ones stay held (R74). -/
def startNext (c : Nat) : List Nat → State → State
  | [], s => s
  | a :: t, s =>
    match startRun s c a with
    | (s1, true) => setC s1 c { getC s1 c with held := t }
    | (s1, false) => startNext c t s1

/-- Every sequencer has reached END. -/
def runEnded (k : Cluster) : Bool :=
  k.cseq.st == .ended && (List.range 64).all (fun q => (getCore k q).seq.st == .ended)

/-- The dealer notes a run of the trick in flight that has ended (R245). -/
def noteEnd (s : State) (c : Nat) (k : Cluster) : State :=
  { s with deal := { s.deal with cur := s.deal.cur.map (fun t =>
      if t.num = k.trick then { t with done := t.done ++ [(lclu s c, k.tpbAt)] } else t) } }

/-- The run ends when every deck has reached END: a pending DCACHE_INV takes effect (R75), the oldest held RUN starts (R74). -/
def endRun (s : State) (c : Nat) : State :=
  let k := getC s c
  if !k.active || !runEnded k then s
  else
    let k1 := { k with active := false, decks := if k.inval then [] else k.decks, inval := false, held := [] }
    startNext c k.held (noteEnd (setC s c k1) c k)

/-! ### Commands of the descriptor network (R91) -/

/-- CCLK and NCLK of a cluster's die run (Table 14-3), and the cluster is ON: it is in service (R95, R364). -/
def cluLive (s : State) (c : Nat) : Bool :=
  isOn s .clu c && !s.clk.lost.contains (.cclk (dieOf c)) && !s.clk.lost.contains (.nclk (dieOf c))

/-- RUN (R74, R91): held in arrival order behind a run in progress. A cluster that is not ON, or whose clock is lost, is dealt no run (R359, R364). -/
def execRun (c tpb : Nat) (s : State) : Res :=
  if !cluLive s c ∨ scrWaits s 256 tpb 1024 = true then .next s
  else if (getC s c).active then .next (setC s c { getC s c with held := (getC s c).held ++ [tpb] })
  else .next (startNext c [tpb] s)

/-- DROP (R91): ORed into DROP_MASK when the trick is the running one. -/
def execDrop (c trick mask : Nat) (s : State) : Res :=
  let k := getC s c
  if k.active ∧ k.trick = trick then .next (setC s c { k with dropMask := Nat.lor k.dropMask (mask % 2 ^ 1024) })
  else .next s

/-- The mask of a QS register's stored bits (Table 4-8): RM, RE and DECAY, the counters. -/
def qsMask (a : Nat) : W32 := match a % 32 with | 0 => 0x3FFFFFFF | 4 => 0xFFFF | _ => 0xFFFFFFFF
/-- R121: the QS registers of a cluster take free values. -/
def qsUndefined (s : State) (c : Nat) : State :=
  (enumFrom 0 (qsAddrs c)).foldl (fun x e => wrReg x e.2 (Config.freeWord s.free e.1 &&& qsMask e.2)) s

/-- Every sequencer idle, slots and reads in flight discarded, operand memory unspecified, waits dropped (R91, R92); the QS
registers are undefined where an operation was in progress (R121). -/
def abortRun (s : State) (c : Nat) : State :=
  let k := getC s c
  let k1 := { k with active := false, aborted := true, held := [], cores := [], cseq := {}, xr := none,
                     decks := if k.inval then [] else k.decks, inval := false, epoch := s.free, tiles := [], full := [],
                     params := [], paramRes := [] }
  { useFree (if k.xr.isSome then qsUndefined (setC s c k1) c else setC s c k1) with
    deal := { s.deal with qs := s.deal.qs.map (fun e => if e.2.host = c then (e.1, { e.2 with aborted := true }) else e) }
    sync := { s.sync with waits := s.sync.waits.filter (fun w => w.clu != c)
                          arrived := s.sync.arrived.filter (fun a => a.2.1 != c) } }

/-- ABORT (R91): of the running trick. -/
def execAbort (c trick : Nat) (s : State) : Res :=
  let k := getC s c
  if k.active ∧ k.trick = trick then .next (abortRun s c) else .next s

/-- An event counter of a sequencer gains `n`, modulo 2^16 (R88). -/
def addEvent (x : Sequencer) (ev n : Nat) : Sequencer :=
  { x with ev := setPad 0 x.ev ev ((x.ev.getD ev 0 + n) % 65536) }

/-- EVENT (R91): the counter of a sequencer of a cluster that is ON, whether or not a run is in progress. -/
def execEvent (c dest ctr inc : Nat) (s : State) : Res :=
  let k := getC s c
  if isOn s .clu c ∧ dest ≤ 64 ∧ ctr < 16 then .next (setC s c (setS k dest (addEvent (getS k dest) ctr inc))) else .next s

/-- PING (R91). -/
def execPing (c seqno : Nat) (s : State) : Res :=
  if isOn s .clu c then .next (emit s (.pong c seqno (rdPair s (pageOf .clu c + 0x50)))) else .next s

/-! ### Configuration writes with a rule of their own -/

/-- A write to a block-specific register of a switched block reaches it only while STATE is ON; elsewhere it is
dropped, and a host write counted in HOST_REF (R344). -/
def gatedWrite (s : State) (mid : Nat) (b : Blk) (i : Nat) (f : State → State) : State :=
  pageAccess s mid b (fun x => if isOn x b i then f x else if hostMid mid then hostRef x else x)

/-- A register write staged to the next RUN while a run is in progress (R92); a write at another time takes effect at once, and
no older staged value comes after it. -/
def stagedWrite (s : State) (c a : Nat) (v : W32) : State :=
  let k := getC s c
  if k.active then setC s c { k with staged := spSet k.staged a v }
  else wrReg (setC s c { k with staged := spDel k.staged a }) a v

/-- DCACHE_INV (R75). -/
def opDcacheInv (s : State) (c : Nat) (v : W32) : State :=
  let k := getC s c
  if !bit v 0 then s else if k.active then setC s c { k with inval := true } else setC s c { k with decks := [] }
def execDcacheInv (mid c : Nat) (v : W32) (s : State) : Res := .next (gatedWrite s mid .clu c (fun x => opDcacheInv x c v))

/-- CLU_CFG (R96): LCLU held to 67 (R72, R424). -/
def opCluCfg (s : State) (c : Nat) (v : W32) : State := stagedWrite s c (pageOf .clu c + 0x40) (regLimit .clu 0x40 v)
def execCluCfg (mid c : Nat) (v : W32) (s : State) : Res := .next (gatedWrite s mid .clu c (fun x => opCluCfg x c v))

/-- CORE_MAP (R92): every physical core held to 67 (R424). -/
def opCoreMap (s : State) (c m : Nat) (v : W32) : State :=
  if m < 16 then stagedWrite s c (pageOf .clu c + 0x60 + 4 * m) (regLimit .clu (0x60 + 4 * m) v) else s
def execCoreMap (mid c m : Nat) (v : W32) (s : State) : Res := .next (gatedWrite s mid .clu c (fun x => opCoreMap x c m v))

/-- CORE_RET (R94): bits written 1 are set; JOKER_FREE counts the jokers neither retired nor in service. -/
def opCoreRet (s : State) (c m : Nat) (v : W32) : State :=
  if m < 3 then orReg s (pageOf .clu c + 0xA0 + 4 * m) (if m = 2 then v &&& 0xF else v) else s
def execCoreRet (mid c m : Nat) (v : W32) (s : State) : Res := .next (gatedWrite s mid .clu c (fun x => opCoreRet x c m v))

/-- Physical core `p` is retired (CORE_RET). -/
def coreRetired (s : State) (c p : Nat) : Bool := bit (rdReg s (pageOf .clu c + 0xA0 + 4 * (p / 32))) (p % 32)
/-- Word `m` of CORE_MAP as the next RUN has it: the staged word, or the register (R92). -/
def coreMapNext (s : State) (c m : Nat) : Nat :=
  let a := pageOf .clu c + 0x60 + 4 * m
  match spFind (getC s c).staged a with | some v => v.toNat | none => rdN s a
/-- The physical core of LIDX `q` at the next RUN. -/
def nextCore (s : State) (c q : Nat) : Nat := fld (coreMapNext s c (q / 4)) (8 * (q % 4) + 6) (8 * (q % 4))
/-- LIDX `q` staged onto physical core `p` (R94): it takes effect at the next RUN. -/
def stageCore (s : State) (c q p : Nat) : State :=
  let b := 8 * (q % 4)
  let w := coreMapNext s c (q / 4)
  setC s c { getC s c with staged := spSet (getC s c).staged (pageOf .clu c + 0x60 + 4 * (q / 4)) (w32 (w - fld w (b + 6) b * 2 ^ b + p * 2 ^ b)) }
/-- Physical core `p` is mapped by CORE_MAP, or staged to be. -/
def coreMapped (s : State) (c p : Nat) : Bool := (List.range 64).any (fun q => nextCore s c q == p)
/-- The free jokers of a cluster (Table 3-19 JOKER_FREE): physical cores that are not retired and not mapped. -/
def freeJokers (s : State) (c : Nat) : List Nat := (List.range 68).filter (fun p => !coreRetired s c p && !coreMapped s c p)

end Sys2Proof.Machine
end

