-- ==== Sys2Proof/Machine/Deck.lean ====
section
/-!
DEFINITION. The deck steps of the core and cluster sequencers (R78 to R91), but for VEC (Vector.lean), the paged
STREAM and the row-statistics DRAINs (Attention.lean). A command names a sequencer; the step is the one its deck
holds at its pc. A step moves its data when it issues; an asynchronous step stays outstanding until STEP_COMPLETE. An array
step, or a VEC step, that issues stands in the sequencer's queue of such steps, and the first of them runs (R79, R109).
-/
namespace Sys2Proof.Machine

/-! ### The step at the pc -/

/-- The deck a sequencer runs: the core deck, or the cluster deck. -/
def deckOf (k : Cluster) (q : Nat) : Option Deck :=
  let a := if q = 64 then tpbF k 0x18 8 else tpbF k 0x10 8
  k.decks.find? (fun d => d.addr == a)
/-- NSTEP of a deck. -/
def nStep (d : Deck) : Nat := fld (d.units.headD 0).toNat 47 32
/-- The step word at the sequencer's pc; `none` past the last step. -/
def stepAt (k : Cluster) (q : Nat) : Option Nat :=
  match deckOf k q with
  | none => none
  | some d => let pc := (getS k q).pc
    if pc = 0 ∨ nStep d < pc then none else (d.units[pc]?).map (fun u => u.toNat)

/-- Table 3-4: the opcode may stand in this kind of deck. -/
def opAllowed (q op : Nat) : Bool :=
  if q = 64 then op == 1 || op == 5 || op == 6 || op == 7 || op == 8 || op == 9 || op == 10
  else op == 1 || op == 2 || op == 3 || op == 4 || op == 6 || op == 7 || op == 8 || op == 9 || op == 10

/-- Reserved fields of a step are zero, by opcode (Tables 3-3 to 3-12). Bits that a table neither lists nor reserves, such as
LOOP's 127:64, are ignored (DESIGN CHOICE, log entry 171). -/
def stepRsvOk (w : Nat) : Bool :=
  let z (hi lo : Nat) : Bool := fld w hi lo == 0
  z 15 13 && (match fld w 3 0 with
    | 1 => z 7 5 && z 31 30 && z 47 46 && z 127 88
    | 2 => z 7 5 && z 31 31 && z 47 46 && z 127 102
    | 3 => z 7 7 && z 31 30 && z 47 46 && z 127 88
    | 4 => z 7 4 && z 127 46
    | 5 => z 7 5 && z 31 27 && z 127 39
    | 6 => z 7 6 && z 127 48 && (match fld w 5 4 with
        | 0 => z 31 20
        | 1 => z 31 26
        | _ => z 31 18 && z 47 32)
    | 7 => z 7 6 && z 127 48 && (match fld w 5 4 with
        | 0 => z 23 20 && z 31 31
        | 1 => z 31 27
        | _ => z 31 16)
    | 8 => z 7 6 && z 31 31 && z 47 46 && z 127 102
    | 9 => z 7 6 && z 29 27
    | 10 => z 7 6 && z 127 16
    | _ => false)

/-- R75: an error of the deck cache's SECDED in the frame a sequencer issues from: a corrected one is counted, an
uncorrectable one discards the deck, which is fetched again. -/
def deckEcc (s : State) (c q : Nat) (up : Upset) : State :=
  let k := getC s c
  if !k.active || (getS k q).st != .issue then s
  else match up, deckOf k q with
    | .deckCe, _ => errCe s .clu c
    | .deckUe, some d =>
      let s1 := setC s c { k with decks := k.decks.filter (fun x => x.addr != d.addr) }
      let (s2, r) := fetchDeck s1 c (runFn s k) (if q = 64 then 1 else 0) d.addr [tpbF k 0x10 8, tpbF k 0x18 8]
      deckFail s2 c q d.addr r
    | _, _ => s

/-- The step issues: its sequencer is issuing, its deck is resident, the step at the pc has opcode `op`, is allowed in the
deck and well formed. A malformed or misplaced step raises DECK whatever command names it; a step of another kind is not the one
commanded, and nothing happens. -/
def issue (s : State) (c q op : Nat) (sel : Nat → Bool) (f : Cluster → Nat → State) : State :=
  let k := getC s c
  if !k.active || (getS k q).st != .issue || (deckOf k q).isNone then s
  else match stepAt k q with
    | none => seqFault s c q 2
    | some w =>
      let o := fld w 3 0
      if !opAllowed q o || !stepRsvOk w then seqFault s c q 2
      else if o ≠ op ∨ !sel w then s
      else f k w

/-- Completion of a step at issue: the pc moves on, CEN counts (R78). -/
def stepDone (x : Sequencer) (w : Nat) : Sequencer :=
  let y := { x with pc := x.pc + 1 }
  if bitN w 12 then addEvent y (fld w 11 8) 1 else y
/-- An asynchronous step goes out; issue continues (R79). -/
def stepOut (x : Sequencer) (w : Nat) (stream : Bool) : Sequencer :=
  { x with pc := x.pc + 1, outst := x.outst ++ [{ pc := x.pc, cen := bitN w 12, cev := fld w 11 8, stream := stream }] }
/-- A fifth asynchronous step stalls issue (R79). -/
def asyncRoom (k : Cluster) (q : Nat) : Bool := decide ((getS k q).outst.length < 4)

/-! ### Array steps and VEC steps (R79, R109) -/

/-- A sequencer that runs: neither idle, nor at END, nor stopped. -/
def seqLive (x : Sequencer) : Bool := match x.st with | .idle | .ended | .stopped _ => false | _ => true
/-- An array or VEC step issues: it queues behind the earlier ones, and issue continues. -/
def arrPush (s : State) (c q : Nat) (k : Cluster) (w : Nat) : State :=
  let x := getS k q
  setC s c (setS k q { x with pc := x.pc + 1, arr := x.arr ++ [{ pc := x.pc, w := w, drop := x.drop, ar := x.ar }] })
/-- A fault of the running array or VEC step: its sequencer stops at that step (R93). -/
def arrFault (s : State) (c q code : Nat) : State :=
  let k := getC s c
  let x := getS k q
  let pc := match x.arr with | a :: _ => a.pc | [] => x.pc
  seqFault (setC s c (setS k q { x with pc := pc, arr := [], macDone := 0 })) c q code
/-- The running array or VEC step completes; CEN counts (R78). -/
def arrDone (x : Sequencer) : Sequencer :=
  match x.arr with
  | [] => x
  | a :: t =>
    let y := { x with arr := t }
    if bitN a.w 12 then addEvent y (fld a.w 11 8) 1 else y
/-- The first queued step, if it has opcode `op` and is the one commanded, runs by `f`. -/
def onArr (s : State) (c q op : Nat) (sel : Nat → Bool) (f : Cluster → ArrStep → State) : State :=
  let k := getC s c
  match (getS k q).arr with
  | [] => s
  | a :: _ => if k.active && seqLive (getS k q) && fld a.w 3 0 == op && sel a.w then f k a else s

/-- AR[n] of a sequencer, and its post-increment modulo 2^32. -/
def arOf (x : Sequencer) (n : Nat) : Nat := x.ar.getD n 0
def arInc (x : Sequencer) (n : Nat) (d : Int) : Sequencer :=
  { x with ar := setAt x.ar n (unsx 32 ((arOf x n : Int) + d)) }
/-- The post-increments of a tensor step (RINC on ARR, GINC on ARG); a raw step has no ARG (log entry 15). -/
def arPost (x : Sequencer) (w : Nat) (raw : Bool) : Sequencer :=
  let y := arInc x (fld w 21 20) (sext 8 (fld w 71 64))
  if raw then y else arInc y (fld w 23 22) (sext 16 (fld w 87 72))

/-! ### The vector operation word (R100, R101) -/

/-- A vector operation: its header unit and its stage words (Tables 4-3 and 4-4). -/
structure VOp where
  h : Nat
  stages : List Nat
  deriving DecidableEq, Repr
def voStb (o : VOp) : Nat := fld o.h 5 4
def voSrow (o : VOp) : Nat := fld o.h 11 6
def voDtb (o : VOp) : Nat := fld o.h 13 12
def voDrow (o : VOp) : Nat := fld o.h 19 14
def voLen (o : VOp) : Nat := fld o.h 26 20
def voRop (o : VOp) : Nat := fld o.h 31 29
def voRtap (o : VOp) : Nat := fld o.h 35 32
def voRgrl (o : VOp) : Nat := fld o.h 38 36
def voKtop (o : VOp) : Nat := fld o.h 47 39
def voRtb (o : VOp) : Nat := fld o.h 49 48
def voRrow (o : VOp) : Nat := fld o.h 55 50
def voXr (o : VOp) : Nat := fld o.h 59 58

/-- Fields of a stage word. -/
def sOp (g : Nat) : Nat := fld g 3 0
def sSrc (g : Nat) : Nat := fld g 5 4
def sIdx (g : Nat) : Nat := fld g 11 6
def sOtb (g : Nat) : Nat := fld g 13 12
def sExp (g : Nat) : Int := sext 8 (fld g 21 14)
def sImm (g : Nat) : Int := sext 16 (fld g 37 22)
def sBsh (g : Nat) : Nat := fld g 40 38
/-- A QUANT stage's fields (Table 4-6). -/
def qTfmt (g : Nat) : Nat := fld g 44 41
def qMode (g : Nat) : Nat := fld g 46 45
def qReg (g : Nat) : Nat := fld g 50 47
def qSgrl (g : Nat) : Nat := fld g 53 51
def qGuard (g : Nat) : Bool := bitN g 54
def qStb (g : Nat) : Nat := fld g 56 55
def qSrow (g : Nat) : Nat := fld g 62 57

/-- The operation a VEC step names, `none` where its units leave the deck's data area. -/
def vopAt (d : Deck) (vop : Nat) : Option VOp :=
  if vop ≤ nStep d ∨ d.units.length ≤ vop then none
  else
    let h := ((d.units[vop]?).getD 0).toNat
    let n := fld h 3 0
    if 8 < n then some { h := h, stages := [] }
    else if d.units.length < vop + 1 + (n + 1) / 2 then none
    else some { h := h, stages := (List.range n).map (fun i =>
      ((d.units[vop + 1 + i / 2]?).getD 0).toNat / 2 ^ (64 * (i % 2)) % 2 ^ 64) }

/-- A stage of code `sop` reads a row-wise operand (OSRC 11b): the arithmetic stages and ROT (R101, Table 4-5). -/
def rowWise (g : Nat) : Bool := sSrc g == 3 && (decide (1 ≤ sOp g ∧ sOp g ≤ 6) || sOp g == 9)
/-- A stage reads the lane OSRC 10b selects: the arithmetic stages, DEQ, MASKSEL with CMP 000b, and QUANT with GIVEN. -/
def laneWise (g : Nat) : Bool :=
  (sSrc g == 2 && (decide (1 ≤ sOp g ∧ sOp g ≤ 6) || sOp g == 12 || (sOp g == 13 && fld g 43 41 == 0))) || (sOp g == 11 && qMode g == 2)
/-- The tile rows an operation reads: its source rows and the operand rows its stages name (Table 4-2). -/
def vopReads (o : VOp) (nrow : Nat) : List Nat :=
  (List.range nrow).map (fun j => 64 * voStb o + voSrow o + j) ++
  o.stages.flatMap (fun g =>
    if laneWise g then [64 * sOtb g + sIdx g]
    else if rowWise g then (List.range nrow).map (fun j => 64 * sOtb g + sIdx g + j)
    else [])

/-! ### Operand memory -/

/-- Unit `u` of a core's operand memory; a unit the run has not written is unspecified (R68). -/
def omRd (k : Cluster) (q u : Nat) : BitVec 128 :=
  (spFind (getCore k q).om u).getD (Config.freeUnit k.epoch (q * 2 ^ 14 + u))
def omWr (x : Core) (u : Nat) (v : BitVec 128) : Core :=
  { x with om := spSet x.om u v, omRes := spSet x.omRes u (resUnit v) }
/-- Units written from `u` up. -/
def omWrs (x : Core) (u : Nat) : List (BitVec 128) → Core
  | [] => x
  | v :: t => omWrs (omWr x u v) (u + 1) t
/-- R63: units `u` to `u + n - 1` agree with the residues stored beside them. -/
def omChk (k : Cluster) (q u n : Nat) : Bool :=
  let x := getCore k q
  (List.range n).all (fun i => match spFind x.om (u + i), spFind x.omRes (u + i) with
    | some v, some r => r == resUnit v
    | _, _ => true)
/-- `n` units from `u` up, as bytes. -/
def omBytes (k : Cluster) (q u n : Nat) : List Byte := (List.range n).flatMap (fun i => leBytes (omRd k q (u + i)).toNat 16)

/-- What a soft error in operand memory or a residue mismatch does to a step of a core (R68, R63). -/
def upFault (u : Upset) : Option Nat :=
  match u with
  | .ue => some 17
  | .residue => some 16
  | _ => none
/-- A corrected error is counted (R68). -/
def upCe (s : State) (c : Nat) (u : Upset) : State := if u = .ce then errCe s .clu c else s
/-- The physical read's error of a step that reads memory. -/
def upMem (u : Upset) : MemErr :=
  match u with
  | .ce => .corrected
  | .ue | .detect => .uncorrectable
  | _ => .none

/-! ### The cluster address space (R97) -/

/-- A tile row; one the run has not written is unspecified (R98): any mantissas, any exponent. -/
def tileRd (k : Cluster) (r : Nat) : Row :=
  (spFind k.tiles r).getD (mkRow ((List.range 64).map (fun i => sext 32 (Config.freeWord k.epoch (r * 64 + i)).toNat))
    (sext 8 (Config.freeByte k.epoch (2 ^ 19 + r)).toNat))
def tileWr (k : Cluster) (r : Nat) (v : Row) : Cluster := { k with tiles := spSet k.tiles r v }
/-- A parameter slot's 256 bytes; unspecified until the run writes it. -/
def paramRd (k : Cluster) (p : Nat) : List Byte :=
  (spFind k.params p).getD ((List.range 256).map (fun i => Config.freeByte k.epoch (p * 256 + i)))
/-- The residues of a slot's 64 words (R61, R97). -/
def paramResOf (v : List Byte) : List Nat := (List.range 64).map (fun i => leAt v (4 * i) 4 % 7)
def paramWr (k : Cluster) (p : Nat) (v : List Byte) : Cluster :=
  { k with params := spSet k.params p v, paramRes := spSet k.paramRes p (paramResOf v) }
/-- R63: a parameter slot agrees with the residues stored beside it. -/
def paramChk (k : Cluster) (p : Nat) : Bool :=
  match spFind k.params p, spFind k.paramRes p with
  | some v, some r => r == paramResOf v
  | _, _ => true
/-- A tile row becomes FULL or EMPTY (R99). -/
def setFull (k : Cluster) (r : Nat) : Cluster := if k.full.contains r then k else { k with full := k.full ++ [r] }
def setEmpty (k : Cluster) (r : Nat) : Cluster := { k with full := k.full.filter (fun x => x != r) }
/-- A unit of the cluster address space written (Table 4-1). -/
def cluUnitWr (k : Cluster) (u : Nat) (b : List Byte) : Cluster :=
  if u < 0x1000 then
    let r := u / 16
    let row := tileRd k r
    let i := u % 16 * 4
    let m := (List.range 4).foldl (fun l j => setAt l (i + j) (sext 32 (leAt b (4 * j) 4))) row.m
    setFull (tileWr k r (mkRow m row.e row.sat)) r
  else if u < 0x1400 then
    let p := (u - 0x1000) / 16
    let o := u % 16 * 16
    let d := paramRd k p
    paramWr k p (d.take o ++ b.take 16 ++ d.drop (o + 16))
  else (List.range 16).foldl (fun x j =>
    let r := (u - 0x1400) * 16 + j
    let row := tileRd x r
    tileWr x r (mkRow row.m (sext 8 (leAt b j 1)) row.sat)) k
/-- A unit of the cluster address space read. -/
def cluUnitRd (k : Cluster) (u : Nat) : List Byte :=
  if u < 0x1000 then
    ((tileRd k (u / 16)).m.drop (u % 16 * 4)).take 4 |>.flatMap (fun m => leBytes (unsx 32 m) 4)
  else if u < 0x1400 then ((paramRd k ((u - 0x1000) / 16)).drop (u % 16 * 16)).take 16
  else (List.range 16).map (fun j => BitVec.ofNat 8 (unsx 8 (tileRd k ((u - 0x1400) * 16 + j)).e))
/-- The units of Table 4-1; any other raises DECK (R97). -/
def cluUnitOk (u n : Nat) : Bool := decide (u + n ≤ 0x1410)

/-! ### LOAD (R80, R98) -/

/-- The rows of a non-weight tensor as code lists (R86), or what stopped the read. -/
def tensorRows (s : State) (fn : Nat) (td : TD) (row nrow g ngrp : Nat) (err : MemErr) : State × MemRes × List (List Nat) :=
  let gb := grpBytes td.fmt
  (List.range nrow).foldl (fun (acc : State × MemRes × List (List Nat)) i =>
    match acc with
    | (s1, .ok _, rows) =>
      match memRead s1 fn true (td.code + ((row + i) * td.gpr + g) * gb) (ngrp * gb) (if i = 0 then err else .none) with
      | (s2, .ok bs) => (s2, .ok [], rows ++ [unpackN (fmtBits td.fmt) (256 * ngrp) (leNat bs)])
      | (s2, r) => (s2, r, rows)
    | x => x) (s, .ok [], [])

/-- Position-major block form (R80): 16 bytes per position for 4-bit formats, 32 for 8-bit; rows past the last are
zero. -/
def blockForm (bits n : Nat) (rows : List (List Nat)) : List (BitVec 128) :=
  (List.range n).flatMap (fun p =>
    let w := packN bits ((List.range 32).map (fun r => (rows.getD r []).getD p 0))
    if bits = 8 then [BitVec.ofNat 128 w, BitVec.ofNat 128 (w / 2 ^ 128)] else [BitVec.ofNat 128 w])

/-- The data withheld or an address outside: POISON to the dealer and the step never completes (R170), or BOUNDS
(R156). -/
def memStop (s : State) (c q w : Nat) (a : Nat) (r : MemRes) : State :=
  match r with
  | .outside => seqFault s c q 3
  | _ =>
    let k := getC s c
    setC (reportPoison s .clu c q (runModel k) a) c (setS k q (stepOut (getS k q) (w / 2 ^ 13 * 2 ^ 13 + w % 2 ^ 12) false))

/-- The tile rows units `u` to `u + n - 1` of the cluster address space lie in. -/
def rowsOfUnits (u n : Nat) : List Nat :=
  (List.range (min n 4112)).flatMap (fun i =>
    if u + i < 0x1000 then [(u + i) / 16] else if 0x1400 ≤ u + i then (List.range 16).map (fun j => (u + i - 0x1400) * 16 + j) else [])
/-- R121: a LOAD of the cluster deck writes rows that an earlier VEC with REL still has to read only after it has read
them. -/
def loadWaits (k : Cluster) (rows : List Nat) : Bool :=
  k.cseq.arr.any (fun a => bitN a.w 4 && (match (deckOf k 64).bind (fun d => vopAt d (fld a.w 26 16)) with
    | some o => (vopReads o (fld a.w 38 32)).any (fun r => rows.contains r)
    | none => false))

/-- LOAD with RAW = 0. A block-form load of a 2-bit format, whose block form the spec does not give, raises FORMAT (DESIGN
CHOICE, log entry 172); a range that leaves operand memory raises DECK (DESIGN CHOICE, log entry 170). -/
def opLoad (s : State) (c q : Nat) (up : Upset) (k : Cluster) (w : Nat) : State :=
  let x := getS k q
  let td := tdOf k (fld w 19 16)
  let row := arOf x (fld w 21 20)
  let g := arOf x (fld w 23 22)
  let nrow := fld w 29 24
  let ngrp := fld w 63 48
  let oma := fld w 45 32
  if !asyncRoom k q then s
  else if nrow = 0 ∨ 32 < nrow ∨ ngrp = 0 then seqFault s c q 2
  else if td.rsvd ≠ 0 ∨ !(fmtCode td.fmt || (q == 64 && td.fmt == 12)) ∨ (q ≠ 64 ∧ fmtBits td.fmt ≠ 4 ∧ fmtBits td.fmt ≠ 8) then
    seqFault s c q 4
  else if td.rows < row + nrow ∨ td.gpr < g + ngrp then seqFault s c q 3
  else
    let upp := if fmtBits td.fmt = 8 then 2 else 1
    if q ≠ 64 ∧ 16384 < oma + 256 * ngrp * upp then seqFault s c q 2
    else if q = 64 ∧ (0x1000 ≤ oma ∧ !cluUnitOk oma (nrow * ngrp * grpBytes td.fmt / 16) ∨
        oma < 0x1000 ∧ (oma % 16 ≠ 0 ∨ 0x1000 < oma + 64 * nrow * ngrp)) then seqFault s c q 2
    else if q = 64 ∧ loadWaits k (rowsOfUnits oma (if oma < 0x1000 then 64 * nrow * ngrp else nrow * ngrp * grpBytes td.fmt / 16)) then s
    else if scrWaits s (runFn s k) (td.code + (row * td.gpr + g) * grpBytes td.fmt)
        (((nrow - 1) * td.gpr + ngrp) * grpBytes td.fmt) then s
    else match tensorRows s (runFn s k) td row nrow g ngrp (upMem up) with
      | (s1, .ok _, rows) =>
        let k1 := getC s1 c
        let k2 := if q ≠ 64 then setCore k1 q (omWrs (getCore k1 q) oma (blockForm (fmtBits td.fmt) (256 * ngrp) rows))
          else if 0x1000 ≤ oma then
            (enumFrom 0 (unitsOf (rows.flatMap (fun r => leBytes (packN (fmtBits td.fmt) r) (ngrp * grpBytes td.fmt))))).foldl
              (fun y e => cluUnitWr y (oma + e.1) (leBytes e.2.toNat 16)) k1
          else (enumFrom 0 rows).foldl (fun y e =>
            (List.range (4 * ngrp)).foldl (fun z j =>
              let r := oma / 16 + e.1 * 4 * ngrp + j
              let vals := (e.2.drop (64 * j)).take 64 |>.map (codeVal td.fmt)
              let (ms, ex, _) := if td.fmt = 12 then txNorm 0 vals else (vals, (0 : Int), false)
              setFull (tileWr z r (mkRow ms ex)) r) y) k1
        setC s1 c (setS k2 q (arPost (stepOut (getS k2 q) w false) w false))
      | (s1, r, _) => memStop s1 c q w (td.code + (row * td.gpr + g) * grpBytes td.fmt) r
def execLoad (c q : Nat) (up : Upset) (s : State) : Res :=
  .next (let s0 := deckEcc s c q up; issue s0 c q 1 (fun w => !bitN w 4) (fun k w => opLoad s0 c q up k w))

/-- LOAD with RAW = 1; a range that leaves operand memory raises DECK (log entry 170). -/
def opLoadRaw (s : State) (c q : Nat) (up : Upset) (k : Cluster) (w : Nat) : State :=
  let x := getS k q
  let td := tdOf k (fld w 19 16)
  let n := fld w 63 48
  let oma := fld w 45 32
  let a := td.code + 16 * arOf x (fld w 21 20)
  if !asyncRoom k q then s
  else if n = 0 ∨ 16384 < n then seqFault s c q 2
  else if 2 ^ 48 < a + 16 * n then seqFault s c q 3
  else if (q ≠ 64 ∧ 16384 < oma + n) ∨ (q = 64 ∧ !cluUnitOk oma n) then seqFault s c q 2
  else if q = 64 ∧ loadWaits k (rowsOfUnits oma n) then s
  else if scrWaits s (runFn s k) a (16 * n) then s
  else match memRead s (runFn s k) true a (16 * n) (upMem up) with
    | (s1, .ok bs) =>
      let k1 := getC s1 c
      let us := unitsOf bs
      let k2 := if q ≠ 64 then setCore k1 q (omWrs (getCore k1 q) oma us)
        else (enumFrom 0 us).foldl (fun y e => cluUnitWr y (oma + e.1) (leBytes e.2.toNat 16)) k1
      setC s1 c (setS k2 q (arPost (stepOut (getS k2 q) w false) w true))
    | (s1, r) => memStop s1 c q w a r
def execLoadRaw (c q : Nat) (up : Upset) (s : State) : Res :=
  .next (let s0 := deckEcc s c q up; issue s0 c q 1 (fun w => bitN w 4) (fun k w => opLoadRaw s0 c q up k w))

/-! ### STREAM and the feed ring (R69, R70, R81) -/

/-- Whole groups a ring holds; where in the ring a group lies the spec does not say: they lie in turn (log entry 29). -/
def ringCap (r : Ring) : Nat := if r.ncol = 0 then 0 else r.len / (r.ncol * r.gu)

/-- STREAM of a weight tensor: the ring is set up; the loader fills it group by group (RING_GROUP_WRITE). A ring below two
groups raises DECK (DESIGN CHOICE, log entry 173), as does one that leaves operand memory (log entry 170). -/
def opStream (s : State) (c q : Nat) (k : Cluster) (w : Nat) : State :=
  let x := getS k q
  let td := tdOf k (fld w 19 16)
  let row := arOf x (fld w 21 20)
  let g := arOf x (fld w 23 22)
  let ncol := fld w 30 24
  let ngrp := fld w 63 48
  let base := fld w 45 32
  let len := fld w 101 88
  let busy : Bool := match (getCore k q).ring with | some r => decide (r.freed < r.ngrp) | none => false
  if !asyncRoom k q then s
  else if busy = true ∨ ncol = 0 ∨ 64 < ncol ∨ ngrp = 0 ∨ 16384 < base + len ∨ len < 2 * ncol * 11 then seqFault s c q 2
  else if td.rsvd ≠ 0 ∨ !fmtWeight td.fmt then seqFault s c q 4
  else if td.rows < row + ncol ∨ td.gpr < g + ngrp then seqFault s c q 3
  else
    let k1 := setCore k q { getCore k q with
      ring := some { td := fld w 19 16, base := base, len := len, ncol := ncol, ngrp := ngrp, row := row, grp := g } }
    setC s c (setS k1 q (arPost (stepOut (getS k1 q) w true) w false))
def execStream (c q : Nat) (s : State) : Res :=
  .next (issue s c q 2 (fun w => !bitN w 4) (fun k w => opStream s c q k w))

/-- A group of one output row, as read from its planes (Table 2-3). -/
structure RawGroup where
  codes : List Byte
  hdr : Nat
  cb : List Byte
  side : List Byte
  deriving DecidableEq, Repr

/-- A read that a step needs: its bytes, or what stopped it with the address: BOUNDS (3) outside every range (R156), POISON (8)
where the data is withheld (R170). -/
def needRead (s : State) (fn a n : Nat) (err : MemErr) : State × Except (Nat × Nat) (List Byte) :=
  match memRead s fn false a n err with
  | (s1, .ok bs) => (s1, .ok bs)
  | (s1, .outside) => (s1, .error (3, a))
  | (s1, _) => (s1, .error (8, a))

/-- The planes of group `g` of row `row` of a weight tensor. STREAM reads never allocate (R173). -/
def readGroup (s : State) (fn : Nat) (td : TD) (row g : Nat) (err : MemErr) : State × Except (Nat × Nat) RawGroup :=
  let i := row * td.gpr + g
  match needRead s fn (td.code + i * grpBytes td.fmt) (grpBytes td.fmt) err with
  | (s1, .error e) => (s1, .error e)
  | (s1, .ok codes) =>
    match needRead s1 fn (td.hdr + 4 * i) 4 .none with
    | (s2, .error e) => (s2, .error e)
    | (s2, .ok h) =>
      let hdr := leNat h
      match if td.fmt = 4 then needRead s2 fn (td.cb + 16 * i) 16 .none else (s2, .ok []) with
      | (s3, .error e) => (s3, .error e)
      | (s3, .ok cb) =>
        if hdr % 16 = 0 ∨ 8 < hdr % 16 then (s3, .ok ⟨codes, hdr, cb, []⟩)
        else match needRead s3 fn (td.side + 2 * (hdr / 16)) (2 * (hdr % 16)) .none with
          | (s4, .ok sd) => (s4, .ok ⟨codes, hdr, cb, sd⟩)
          | (s4, .error e) => (s4, .error e)

/-- The codes of a group (R35, R36). -/
def groupCodes (f : Nat) (bs : List Byte) : List Nat := unpackN (fmtBits f) 256 (leNat bs)

/-- Feed form of a group-column (R69): 128 bytes of codes, 16 of codebook, eight escape records of 4 bytes. -/
def feedForm (f : Nat) (g : RawGroup) : List (BitVec 128) :=
  let pos := ((enumFrom 0 (groupCodes f g.codes)).filter (fun e => e.2 == escCode f)).map (fun e => e.1)
  let esc := (enumFrom 0 pos).flatMap (fun e => [g.side.getD (2 * e.1) 0, g.side.getD (2 * e.1 + 1) 0, BitVec.ofNat 8 e.2, 0])
  let bytes := g.codes ++ List.replicate (128 - g.codes.length) 0 ++ g.cb ++ List.replicate (16 - g.cb.length) 0 ++
    esc ++ List.replicate (32 - esc.length) 0
  unitsOf bytes

/-- The side entries of group `i` lie in a way whose new configuration is pending (R175); the header word is in memory. -/
def sideWaits (s : State) (fn : Nat) (td : TD) (i : Nat) : Bool :=
  match memRead s fn false (td.hdr + 4 * i) 4 .none with
  | (_, .ok h) => leNat h % 16 != 0 && scrWaits s fn (td.side + 2 * (leNat h / 16)) (2 * (leNat h % 16))
  | _ => false

/-- What stops a group from being written: the loader's step is stopped by BOUNDS, or the data is withheld (R156, R170). -/
def groupStop (s : State) (c q : Nat) (e : Nat × Nat) : State :=
  if e.1 = 3 then seqFault s c q 3 else reportPoison s .clu c q (runModel (getC s c)) e.2

/-- The group `r.written` of a weight ring, column by column: checked, then written (R69, R41). -/
def ringWeights (s : State) (c q : Nat) (r : Ring) (err : MemErr) : State :=
  let k := getC s c
  let td := tdOf k r.td
  let fn := runFn s k
  let waits := (List.range r.ncol).any (fun j =>
    let i := (r.row + j) * td.gpr + r.grp + r.written
    scrWaits s fn (td.code + i * grpBytes td.fmt) (grpBytes td.fmt) || scrWaits s fn (td.hdr + 4 * i) 4 ||
      (td.fmt == 4 && scrWaits s fn (td.cb + 16 * i) 16) || sideWaits s fn td i)
  if waits then s else
  let (s1, cols) := (List.range r.ncol).foldl (fun (acc : State × Except (Nat × Nat) (List RawGroup)) j =>
    match acc with
    | (x, .error e) => (x, .error e)
    | (x, .ok l) =>
      match readGroup x (runFn s k) td (r.row + j) (r.grp + r.written) (if j = 0 then err else .none) with
      | (y, .ok g) => (y, .ok (l ++ [g]))
      | (y, .error e) => (y, .error e)) (s, .ok [])
  match cols with
  | .error e => groupStop s1 c q e
  | .ok gs =>
    if gs.any (fun g => !groupOk td.fmt (groupCodes td.fmt g.codes) g.hdr g.cb) then seqFault s1 c q 4
    else
      let k1 := getC s1 c
      let at_ := r.base + r.written % ringCap r * (r.ncol * 11)
      let core := omWrs (getCore k1 q) at_ (gs.flatMap (feedForm td.fmt))
      setC s1 c (setCore k1 q { core with ring := some { r with written := r.written + 1 } })

/-! ### MAC (R82) -/

/-- A group-column read back from the ring (feed form) under format `f`: 256 values, escapes marked. An 8-bit group lies
in two group-columns, the signed high nibbles and the unsigned low ones (R202). -/
def feedGroup (f : Nat) (bs : List Byte) : Group :=
  if fmtWeight f then
    let recs := (List.range 8).map (fun i => (leAt bs (144 + 4 * i + 2) 1, sext 16 (leAt bs (144 + 4 * i) 2)))
    let cs := groupCodes f (bs.take (grpBytes f))
    let n := (cs.filter (fun x => x == escCode f)).length
    decodeGo f ((bs.drop 128).take 16) cs ((recs.take n).map (fun e => e.2))
  else if fmtBits f = 8 then
    List.zipWith (fun (h l : Nat) => (sext 4 h * 16 + (l : Int), false)) (unpackN 4 256 (leNat (bs.take 128)))
      (unpackN 4 256 (leNat ((bs.drop 176).take 128)))
  else (groupCodes f (bs.take (grpBytes f))).map (fun x => (codeVal f x, false))

/-- The format under which the ring's next group is fed: the step's, or in page mode the group's own (R204). -/
def ringFmt (r : Ring) (wf : Nat) : Nat := match r.pg with | none => wf | some _ => r.fmts.getD r.freed wf
/-- R204: in page mode the step names a key code for a key group and a value code for a value group. -/
def ringFmtOk (r : Ring) (wf : Nat) : Bool :=
  match r.pg with
  | none => true
  | some _ => fmtKey (ringFmt r wf) == fmtKey wf && fmtVal (ringFmt r wf) == fmtVal wf

/-- Row `r` of slot `s` is dropped: its sequence slot of the length table is masked (R67, R91; log entry 16). -/
def rowDropped (drop slot r : Nat) : Bool := bitN drop (32 * slot + r)

/-- Activations of row `r` for one group: element r of each of 256 positions (R80). -/
def actRow (k : Cluster) (q u afmt r : Nat) : List Int :=
  (List.range 256).map (fun p =>
    if fmtBits afmt = 8 then
      codeVal afmt ((omRd k q (u + 2 * p + r / 16)).toNat / 2 ^ (8 * (r % 16)) % 256)
    else codeVal afmt ((omRd k q (u + p)).toNat / 2 ^ (4 * r) % 16))

/-- One slot served with one group: 32 × 64 cell pairs (R64, R66, R67); `rows` are the array rows that are not gated. -/
def slotGroup (sl : Slot) (cols : List Group) (acts : List (List Int)) (rows : Nat) : Slot × Nat :=
  let cells := (List.range 32).flatMap (fun r => (List.range 64).map (fun c =>
    cellGroup 0 { acc := sl.acc.getD (64 * r + c) 0, res := sl.res.getD (64 * r + c) 0 }
      (cols.getD c (List.replicate 256 (0, false))) (acts.getD r [])))
  let n := sumN (cells.map (fun x => x.sats))
  ({ acc := cells.map (fun x => x.acc), res := cells.map (fun x => x.res), sat := sl.sat || decide (0 < n),
     rows := Nat.lor sl.rows rows }, n)

/-- The first operand-memory unit of the activations that slot SLOT + `i` meets in the running group, and how many units they
take (R82, R80). -/
def macUnits (x : Sequencer) (w i : Nat) : Nat × Nat :=
  let n := 256 * (if fmtBits (fld w 87 84) = 8 then 2 else 1)
  (fld w 45 32 + i * fld w 63 48 + x.macDone * n, n)
/-- The ring's place of the group to be fed next. -/
def ringAt (r : Ring) : Nat := r.base + r.freed % ringCap r * (r.ncol * r.gu)
/-- R63: what the array reads for one group agrees with its residues. -/
def macChk (k : Cluster) (q w : Nat) (r : Ring) : Bool :=
  omChk k q (ringAt r) (r.ncol * r.gu) && (List.range (fld w 23 20 + 1)).all (fun i =>
    let u := macUnits (getCore k q).seq w i
    omChk k q u.1 u.2)
/-- Array row `row` of slot `slot` is served by the step: below NROW, and not masked by the drop mask (R67). -/
def rowLive (a : ArrStep) (slot row : Nat) : Bool :=
  decide (row < fld a.w 29 24) && !(bitN a.w 6 && rowDropped a.drop slot row)

/-- One group served to every named slot (R82, R84): its products, and the group freed. -/
def macGroup (s : State) (c q : Nat) (a : ArrStep) (r : Ring) : State :=
  let k := getC s c
  let core := getCore k q
  let cols := (List.range r.ncol).map (fun j => feedGroup (ringFmt r (fld a.w 83 80)) (omBytes k q (ringAt r + j * r.gu) r.gu))
  let out := (List.range (fld a.w 23 20 + 1)).foldl (fun (acc : Sparse Slot × Nat) i =>
    let slot := fld a.w 19 16 + i
    let acts := (List.range 32).map (fun row =>
      if rowLive a slot row then actRow k q (macUnits core.seq a.w i).1 (fld a.w 87 84) row else List.replicate 256 0)
    let (sl, m) := slotGroup (spGet {} acc.1 slot) cols acts
      (sumN ((List.range 32).map (fun row => b2n (rowLive a slot row) * 2 ^ row)))
    (spSet acc.1 slot sl, acc.2 + m)) (core.slots, 0)
  let core1 := { core with slots := out.1, ring := some { r with freed := r.freed + 1 },
                           seq := { core.seq with macDone := core.seq.macDone + 1 } }
  let s1 := setC s c (setCore k q core1)
  if out.2 = 0 then s1 else orReg (bumpBy s1 (pageOf .clu c + 0x48) out.2) (pageOf .clu c + 0x44) 1
/-- The groups of a MAC that the ring holds, one after another. -/
def macGo (c q : Nat) (a : ArrStep) : Nat → State → State
  | 0, s => s
  | f + 1, s =>
    let k := getC s c
    match (getCore k q).ring with
    | none => s
    | some r =>
      if r.written ≤ r.freed then s
      else if !ringFmtOk r (fld a.w 83 80) then arrFault s c q 2
      else if !macChk k q a.w r then arrFault s c q 16
      else macGo c q a f (macGroup s c q a r)

/-- The slots a MAC or DRAIN names. -/
def slotNames (w : Nat) : List Nat := (List.range (fld w 23 20 + 1)).map (fun i => fld w 19 16 + i)
/-- The groups of a MAC: NPOS, or CNT[NPOS[4:0]] with NFLD. -/
def macCount (k : Cluster) (w : Nat) : Nat := if bitN w 5 then tpbCnt k (fld w 68 64) else fld w 79 64

/-- MAC issues, once its fields and its formats are valid; an activation range that leaves operand memory raises DECK (DESIGN
CHOICE, log entry 170). -/
def opMac (s : State) (c q : Nat) (k : Cluster) (w : Nat) : State :=
  let n := macCount k w
  let upp := if fmtBits (fld w 87 84) = 8 then 2 else 1
  if 15 < fld w 19 16 + fld w 23 20 ∨ fld w 29 24 = 0 ∨ 32 < fld w 29 24 ∨ n = 0 ∨ 65535 < n ∨
      16384 < fld w 45 32 + fld w 23 20 * fld w 63 48 + n * 256 * upp then seqFault s c q 2
  else if !pairOk (fld w 83 80) (fld w 87 84) then seqFault s c q 4
  else arrPush s c q k w
/-- The running MAC: at its first group the slots are opened or checked (R65), then it takes the groups the ring holds in
order; it stalls where the ring has no complete group and goes on at the next MAC command. -/
def macRun (s : State) (c q : Nat) (up : Upset) (k : Cluster) (a : ArrStep) : State :=
  let core := getCore k q
  let names := slotNames a.w
  if core.seq.macDone = 0 ∧ names.any (fun i => (spFind core.slots i).isSome == bitN a.w 4) then arrFault s c q 2
  else match core.ring with
    | none => s
    | some r =>
      if r.written ≤ r.freed then s
      else match upFault up with
        | some f => arrFault (upCe s c up) c q f
        | none =>
          let s0 := upCe s c up
          let k0 := getC s0 c
          let core0 := getCore k0 q
          let opened := if core.seq.macDone = 0 ∧ bitN a.w 4 then names.foldl (fun m i => spSet m i ({} : Slot)) core0.slots else core0.slots
          let s1 := setC s0 c (setCore k0 q { core0 with slots := opened })
          let s2 := macGo c q a (macCount k a.w - core.seq.macDone) s1
          let k2 := getC s2 c
          let x := getS k2 q
          if macCount k a.w ≤ x.macDone then setC s2 c (setS k2 q (arrDone { x with macDone := 0 })) else s2
def execMac (c q : Nat) (up : Upset) (s : State) : Res :=
  .next (let s0 := deckEcc s c q up
    let s1 := issue s0 c q 3 (fun _ => true) (fun k w => opMac s0 c q k w)
    onArr s1 c q 3 (fun _ => true) (fun k a => macRun s1 c q up k a))

/-! ### DRAIN (R83) -/

/-- The rows of a slot: 32 rows of 64 sums. -/
def slotRows (sl : Slot) : List (List Int) :=
  (List.range 32).map (fun r => (List.range 64).map (fun c => sl.acc.getD (64 * r + c) 0))
/-- R63: every accumulator agrees with its shadow. -/
def slotResOk (sl : Slot) : Bool := (List.range 2048).all (fun i => resd (sl.acc.getD i 0) == sl.res.getD i 0)

/-- DRAIN to a tile buffer or to operand memory issues; a range that leaves operand memory raises DECK (log entry 170). -/
def opDrain (s : State) (c q : Nat) (k : Cluster) (w : Nat) : State :=
  let nsm := fld w 23 20
  let dst := fld w 25 24
  if 15 < fld w 19 16 + nsm ∨ dst = 3 ∨ (dst = 0 ∧ 1 < nsm) ∨ (dst = 2 ∧ 16384 < fld w 45 32 + 512 * (nsm + 1)) then seqFault s c q 2
  else arrPush s c q k w
/-- The running DRAIN (R83): a closed slot raises DECK; the tile buffer's rows must be EMPTY; every slot's residue is checked; the
slots are delivered and closed. A row that was gated drains with its saturation flag clear (R67). -/
def drainRun (s : State) (c q : Nat) (up : Upset) (k : Cluster) (a : ArrStep) : State :=
  let core := getCore k q
  let names := slotNames a.w
  let dst := fld a.w 25 24
  let tb := fld a.w 27 26
  let oma := fld a.w 45 32
  if names.any (fun i => (spFind core.slots i).isNone) then arrFault s c q 2
  else if dst = 0 ∧ (List.range (32 * names.length)).any (fun r => k.full.contains (64 * tb + r)) then s
  else match upFault up with
    | some f => arrFault (upCe s c up) c q f
    | none =>
      if names.any (fun i => !slotResOk (spGet {} core.slots i)) then arrFault s c q 16
      else
        let s0 := upCe s c up
        let k0 := getC s0 c
        let slots := names.foldl (fun m i => spDel m i) core.slots
        let (k1, rng) := if dst = 2 then
            (setCore k0 q (omWrs { core with slots := slots } oma (names.flatMap (fun i =>
              (slotRows (spGet {} core.slots i)).flatMap (fun r => unitsOf (r.flatMap (fun v => leBytes (unsx 32 v) 4)))))), false)
          else
            (enumFrom 0 names).foldl (fun (acc : Cluster × Bool) e =>
              let sl := spGet {} core.slots e.2
              (enumFrom 0 (slotRows sl)).foldl (fun (y : Cluster × Bool) row =>
                let (ms, ex, t) := txNorm 0 row.2
                let r := 64 * tb + 32 * e.1 + row.1
                (setFull (tileWr y.1 r (mkRow ms ex (sl.sat && bitN sl.rows row.1))) r, y.2 || t)) acc)
              (setCore k0 q { core with slots := slots }, false)
        let s1 := setC s0 c (setS k1 q (arrDone (getS k1 q)))
        if rng then orReg s1 (pageOf .clu c + 0x44) 2 else s1
def execDrain (c q : Nat) (up : Upset) (s : State) : Res :=
  .next (let s0 := deckEcc s c q up
    let s1 := issue s0 c q 4 (fun w => fld w 25 24 != 1) (fun k w => opDrain s0 c q k w)
    onArr s1 c q 4 (fun w => fld w 25 24 != 1) (fun k a => drainRun s1 c q up k a))

/-! ### WAIT and SIGNAL (R88 to R91) -/

/-- R88: the counter has reached its target. -/
def reached (x : Sequencer) (ev val : Nat) : Bool := decide ((x.ev.getD ev 0 + 65536 - val) % 65536 < 32768)

/-- A WAIT or SIGNAL with KIND 11b raises DECK, whichever command names it. -/
def kindOf (w : Nat) : Nat := fld w 5 4
/-- The selection of a WAIT or SIGNAL by KIND; reserved kinds are let through to raise DECK. -/
def selKind (n : Nat) (w : Nat) : Bool := kindOf w == n || kindOf w == 3

/-- WAIT on an event counter. -/
def opWaitEvent (s : State) (c q : Nat) (k : Cluster) (w : Nat) : State :=
  let x := getS k q
  let ev := fld w 19 16
  let val := fld w 47 32
  if kindOf w = 3 then seqFault s c q 2
  else if reached x ev val then setC s c (setS k q (stepDone x w))
  else setC s c (setS k q { x with st := .waitEvent ev val })
def execWaitEvent (c q : Nat) (s : State) : Res :=
  .next (issue s c q 6 (selKind 0) (fun k w => opWaitEvent s c q k w))

/-- The counter of a pending WAIT reaches its target (R88). -/
def execWaitRelease (c q : Nat) (s : State) : Res :=
  let k := getC s c
  let x := getS k q
  match x.st, stepAt k q with
  | .waitEvent ev val, some w =>
    if reached x ev val then .next (setC s c (setS k q (stepDone { x with st := .issue } w))) else .next s
  | _, _ => .next s

/-- The semaphore a step names (R89): relative to SEM_BASE; `none` at or above SEM_CNT. -/
def semOf (k : Cluster) (i : Nat) : Option Nat := if i < tpbF k 0x2A 2 then some (tpbF k 0x28 2 + i) else none
def semVal (s : State) (die i : Nat) : Nat := spGet 0 s.sync.sem (die * 1024 + i)
def setSem (s : State) (die i v : Nat) : State := { s with sync := { s.sync with sem := spSet s.sync.sem (die * 1024 + i) v } }

/-- WAIT on a semaphore: granted at once when the value allows and no earlier ACQUIRE waits, else it queues in arrival
order (R89, R92). -/
def opAcquire (s : State) (c q : Nat) (k : Cluster) (w : Nat) : State :=
  let n := fld w 47 32
  if kindOf w = 3 ∨ n = 0 then seqFault s c q 2
  else match semOf k (fld w 25 16) with
    | none => seqFault s c q 2
    | some i =>
      let d := dieOf c
      if n ≤ semVal s d i ∧ !(s.sync.waits.any (fun x => x.die == d && x.sem == i)) then
        setC (setSem s d i (semVal s d i - n)) c (setS k q (stepDone (getS k q) w))
      else
        let wt : SemWait := { die := d, sem := i, n := n, clu := c, seq := q,
                              gidx := if q = 64 then 68 * 64 + lclu s c else gidx s c q }
        setC { s with sync := { s.sync with waits := s.sync.waits ++ [wt] } } c
          (setS k q { getS k q with st := .waitSem i n })
def execAcquire (c q : Nat) (s : State) : Res :=
  .next (issue s c q 6 (selKind 1) (fun k w => opAcquire s c q k w))

/-- ACQUIRE_GRANT (R89, R92): the first waiting ACQUIRE in arrival order that the value allows. A later one does not
pass an earlier one whose count is too large (log entry 17). -/
def execAcquireGrant (die sem : Nat) (s : State) : Res :=
  match s.sync.waits.find? (fun x => x.die == die && x.sem == sem) with
  | none => .next s
  | some x =>
    let k := getC s x.clu
    if semVal s die sem < x.n ∨ (getS k x.seq).st ≠ .waitSem sem x.n then .next s
    else
      match stepAt k x.seq with
      | none => .next s
      | some w =>
        let s1 := setSem { s with sync := { s.sync with waits := s.sync.waits.erase x } } die sem (semVal s die sem - x.n)
        .next (setC s1 x.clu (setS k x.seq (stepDone { getS k x.seq with st := .issue } w)))

/-- WAIT at a barrier: the sequencer arrives (R90). -/
def opWaitBarrier (s : State) (c q : Nat) (k : Cluster) (w : Nat) : State :=
  let sc := fld w 17 16
  if kindOf w = 3 ∨ sc = 3 then seqFault s c q 2
  else
    setC { s with sync := { s.sync with arrived := s.sync.arrived ++ [(sc, c, q, tpbF k 0x2C 1)] } } c
      (setS k q { getS k q with st := .waitBar sc })
def execWaitBarrier (c q : Nat) (s : State) : Res :=
  .next (issue s c q 6 (fun w => kindOf w == 2) (fun k w => opWaitBarrier s c q k w))

/-- Cluster `c` lies in the scope (0 cluster, 1 die, 2 device) of index `i`. -/
def inScope (scope i c : Nat) : Bool :=
  match scope with
  | 0 => c == i
  | 1 => dieOf c == i
  | _ => true
/-- The members of a barrier group (R90): every sequencer running a run whose BGRP selects it, within the scope. -/
def barMembers (s : State) (scope i grp : Nat) : List (Nat × Nat) :=
  (s.clu.filter (fun e => inScope scope i e.1 && e.2.active && tpbF e.2 0x2C 1 == grp)).flatMap (fun e =>
    (List.range 64).map (fun q => (e.1, q)) ++ (if tpbF e.2 0x18 8 = 0 then [] else [(e.1, 64)]))

/-- BARRIER_RELEASE (R90): when every member has arrived, all are released; one that a fault has stopped since stays stopped
(R93). -/
def execBarrierRelease (scope i grp : Nat) (s : State) : Res :=
  let ms := barMembers s scope i grp
  let here (m : Nat × Nat) : Bool := s.sync.arrived.any (fun a => a.1 == scope && a.2.1 == m.1 && a.2.2.1 == m.2 && a.2.2.2 == grp)
  if ms.isEmpty ∨ !ms.all here then .next s
  else
    let s1 := ms.foldl (fun x m =>
      let k := getC x m.1
      match (getS k m.2).st, stepAt k m.2 with
      | .waitBar _, some w => setC x m.1 (setS k m.2 (stepDone { getS k m.2 with st := .issue } w))
      | _, _ => x) s
    .next { s1 with sync := { s1.sync with arrived := s1.sync.arrived.filter (fun a =>
      !(a.1 == scope && a.2.2.2 == grp && ms.contains (a.2.1, a.2.2.1))) } }

/-- SIGNAL to an event counter of the cluster. -/
def opSignalEvent (s : State) (c q : Nat) (k : Cluster) (w : Nat) : State :=
  let d0 := fld w 30 24
  let d := if d0 = 127 then q else d0
  if kindOf w = 3 ∨ 64 < d then seqFault s c q 2
  else
    let k1 := setS k q (stepDone (getS k q) w)
    setC s c (setS k1 d (addEvent (getS k1 d) (fld w 19 16) (fld w 47 32)))
def execSignalEvent (c q : Nat) (s : State) : Res :=
  .next (issue s c q 7 (selKind 0) (fun k w => opSignalEvent s c q k w))

/-- POST to a semaphore (R89): above 65,535 raises SEM and leaves the value. -/
def opPost (s : State) (c q : Nat) (k : Cluster) (w : Nat) : State :=
  let n := fld w 47 32
  if kindOf w = 3 ∨ n = 0 then seqFault s c q 2
  else match semOf k (fld w 25 16) with
    | none => seqFault s c q 2
    | some i =>
      let d := if bitN w 26 then 1 - dieOf c else dieOf c
      if 65535 < semVal s d i + n then seqFault s c q 5
      else setC (setSem s d i (semVal s d i + n)) c (setS k q (stepDone (getS k q) w))
def execPost (c q : Nat) (s : State) : Res :=
  .next (issue s c q 7 (selKind 1) (fun k w => opPost s c q k w))

/-- A dealer notice on the return path (R91). -/
def opDealerNotice (s : State) (c q : Nat) (k : Cluster) (w : Nat) : State :=
  setC (emit s (.notice (gidx s c q) (fld w 47 32))) c (setS k q (stepDone (getS k q) w))
def execDealerNotice (c q : Nat) (s : State) : Res :=
  .next (issue s c q 7 (fun w => kindOf w == 2) (fun k w => opDealerNotice s c q k w))

/-! ### MOVE (R84) -/

/-- The source bytes of a MOVE: operand memory, or the cluster address space in a cluster deck. -/
def moveSrc (k : Cluster) (q u n : Nat) : List Byte :=
  if q = 64 then (List.range n).flatMap (fun i => cluUnitRd k (u + i)) else omBytes k q u n
/-- The source range exists. -/
def moveSrcOk (q u n : Nat) : Bool := if q = 64 then cluUnitOk u n else decide (u + n ≤ 16384)

/-- MOVE to another core's operand memory. It applies no post-increment: ARR and ARG name registers of the other forms (DESIGN
CHOICE, log entry 174). A range that leaves either operand memory raises DECK (log entry 170). -/
def opMoveCore (s : State) (c q : Nat) (up : Upset) (k : Cluster) (w : Nat) : State :=
  let n := fld w 63 48
  let d := fld w 30 24
  if !asyncRoom k q then s
  else if kindOf w = 3 ∨ 63 < d ∨ n = 0 ∨ !moveSrcOk q (fld w 45 32) n ∨ 16384 < fld w 101 88 + n then seqFault s c q 2
  else match upFault up with
    | some f => seqFault s c q f
    | none =>
      let s0 := upCe s c up
      let k0 := getC s0 c
      let k1 := setCore k0 d (omWrs (getCore k0 d) (fld w 101 88) (unitsOf (moveSrc k0 q (fld w 45 32) n)))
      setC s0 c (setS k1 q (stepOut (getS k1 q) w false))
def execMoveCore (c q : Nat) (up : Upset) (s : State) : Res :=
  .next (let s0 := deckEcc s c q up; issue s0 c q 8 (selKind 0) (fun k w => opMoveCore s0 c q up k w))

/-- Row `r` of a block form of `n` positions. -/
def unblock (bits : Nat) (bs : List Byte) (n r : Nat) : List Nat :=
  (List.range n).map (fun p => leAt bs (4 * bits * p) (4 * bits) / 2 ^ (bits * r) % 2 ^ bits)

/-- MOVE to tensor rows in block form. -/
def opMoveRows (s : State) (c q : Nat) (up : Upset) (k : Cluster) (w : Nat) : State :=
  let x := getS k q
  let td := tdOf k (fld w 19 16)
  let row := arOf x (fld w 21 20)
  let g := arOf x (fld w 23 22)
  let nrow := fld w 30 24
  let ngrp := fld w 63 48
  let bits := fmtBits td.fmt
  let units := 256 * ngrp * (if bits = 8 then 2 else 1)
  if !asyncRoom k q then s
  else if nrow = 0 ∨ 32 < nrow ∨ ngrp = 0 ∨ !moveSrcOk q (fld w 45 32) units then seqFault s c q 2
  else if td.rsvd ≠ 0 ∨ !fmtCode td.fmt ∨ !(bits = 4 ∨ bits = 8) then seqFault s c q 4
  else if td.rows < row + nrow ∨ td.gpr < g + ngrp then seqFault s c q 3
  else if scrWaits s (runFn s k) (td.code + (row * td.gpr + g) * grpBytes td.fmt)
      (((nrow - 1) * td.gpr + ngrp) * grpBytes td.fmt) then s
  else match upFault up with
    | some f => seqFault s c q f
    | none =>
      let s0 := upCe s c up
      let src := moveSrc k q (fld w 45 32) units
      let (s1, out) := (List.range nrow).foldl (fun (acc : State × Bool) i =>
        let a := td.code + ((row + i) * td.gpr + g) * grpBytes td.fmt
        let (y, r) := memWrite acc.1 (runFn s k) a (leBytes (packN bits (unblock bits src (256 * ngrp) i)) (ngrp * grpBytes td.fmt))
        (y, acc.2 || r == .outside)) (s0, false)
      if out then seqFault s1 c q 3
      else
        let k1 := getC s1 c
        setC s1 c (setS k1 q (arPost (stepOut (getS k1 q) w false) w false))
def execMoveRows (c q : Nat) (up : Upset) (s : State) : Res :=
  .next (let s0 := deckEcc s c q up; issue s0 c q 8 (fun w => kindOf w == 1) (fun k w => opMoveRows s0 c q up k w))

/-- MOVE to raw device units. -/
def opMoveRaw (s : State) (c q : Nat) (up : Upset) (k : Cluster) (w : Nat) : State :=
  let x := getS k q
  let td := tdOf k (fld w 19 16)
  let n := fld w 63 48
  let a := td.code + 16 * arOf x (fld w 21 20)
  if !asyncRoom k q then s
  else if n = 0 ∨ !moveSrcOk q (fld w 45 32) n then seqFault s c q 2
  else if 2 ^ 48 < a + 16 * n then seqFault s c q 3
  else if scrWaits s (runFn s k) a (16 * n) then s
  else match upFault up with
    | some f => seqFault s c q f
    | none =>
      match memWrite (upCe s c up) (runFn s k) a (moveSrc k q (fld w 45 32) n) with
      | (s1, .outside) => seqFault s1 c q 3
      | (s1, _) =>
        let k1 := getC s1 c
        setC s1 c (setS k1 q (arPost (stepOut (getS k1 q) w false) w true))
def execMoveRaw (c q : Nat) (up : Upset) (s : State) : Res :=
  .next (let s0 := deckEcc s c q up; issue s0 c q 8 (fun w => kindOf w == 2) (fun k w => opMoveRaw s0 c q up k w))

/-! ### LOOP, END, completion, watchdog (R79, R85, R93) -/

/-- The sequencer of a drop record: its GIDX, the cluster sequencers above the cores'. -/
def dropSeqNo (s : State) (c q : Nat) : Nat := if q = 64 then 4352 + lclu s c else gidx s c q
/-- The drop mask a LAYER loop samples (R91): DROP_MASK, with what the sequencer of an earlier run of the trick sampled up to this
layer (R244). -/
def sampleMask (s : State) (c q : Nat) (k : Cluster) : Nat :=
  match s.deal.cur with
  | none => k.dropMask
  | some t =>
    if t.num ≠ k.trick then k.dropMask
    else (t.drops.filter (fun d => d.tpb == k.tpbAt && d.seq == dropSeqNo s c q && decide (d.layer ≤ (getS k q).layer))).foldl
      (fun m d => Nat.lor m d.mask) k.dropMask
/-- Bits sampled for the first time are recorded with their layer (R244); when every sequencer of the cluster that has not ended
has sampled them, the cluster reports it (R262). -/
def noteDrop (s : State) (c q : Nat) (k : Cluster) (mask : Nat) : State :=
  let x := getS k q
  if mask = x.drop then s
  else
    let add : DropAt := { tpb := k.tpbAt, seq := dropSeqNo s c q, layer := x.layer, mask := mask - Nat.land mask x.drop }
    let s1 := { s with deal := { s.deal with cur := s.deal.cur.map (fun t =>
      if t.num = k.trick ∧ !t.drops.contains add then { t with drops := t.drops ++ [add] } else t) } }
    if (List.range 65).all (fun p => p == q || (getS k p).st == .ended || (getS k p).drop == mask) then emit s1 (.dropSampled c k.trick)
    else s1
/-- LOOP (R85). -/
def opLoop (before : State) (c q : Nat) (k : Cluster) (w : Nat) : State :=
  let x0 := getS k q
  let mask := sampleMask before c q k
  let x := if bitN w 5 then { x0 with drop := mask, layer := x0.layer + 1 } else x0
  let s := if bitN w 5 then noteDrop before c q k mask else before
  let lc := fld w 31 30
  let back := fld w 26 16
  let cnt := if bitN w 4 then tpbCnt k (fld w 36 32) else fld w 63 32
  let l := x.loops.getD lc {}
  if (l.active ∧ l.owner ≠ x.pc) ∨ (!l.active ∧ cnt = 0) ∨ back = 0 ∨ 2046 < back then seqFault s c q 2
  else
    let l1 : LoopCtr := if l.active then l else { active := true, left := cnt - 1, owner := x.pc, start := x.pc - back }
    if 0 < l1.left then
      if x.pc ≤ back ∨ (enumFrom 0 x.loops).any (fun e => e.1 != lc && e.2.active && decide (x.pc - back < e.2.start)) then
        seqFault s c q 2
      else
        let y := { x with loops := setAt x.loops lc { l1 with left := l1.left - 1 }, pc := x.pc - back }
        setC s c (setS k q (if bitN w 12 then addEvent y (fld w 11 8) 1 else y))
    else setC s c (setS k q (stepDone { x with loops := setAt x.loops lc { l1 with active := false } } w))
/-- The layers a sequencer has passed; a LAYER loop of the cluster sequencer begins the next one (R219). -/
def loopLayer (before s : State) (c q : Nat) : State :=
  let a := (getS (getC before c) q).layer
  let b := (getS (getC s c) q).layer
  if q = 64 ∧ a < b then layerBegin s (runModel (getC s c)) b else s
def execLoop (c q : Nat) (s : State) : Res :=
  .next (loopLayer s (issue s c q 9 (fun _ => true) (fun k w => opLoop s c q k w)) c q)

/-- END (R79, R85): holds until every earlier step has completed, then the sequencer is finished. -/
def opEnd (s : State) (c q : Nat) (k : Cluster) (w : Nat) : State :=
  let x := getS k q
  if x.loops.any (fun l => l.active) then seqFault s c q 2
  else if !x.outst.isEmpty ∨ !x.arr.isEmpty then s
  else endRun (setC s c (setS k q { stepDone x w with st := .ended })) c
def execEndStep (c q : Nat) (s : State) : Res :=
  .next (issue s c q 10 (fun _ => true) (fun k w => opEnd s c q k w))

/-- STEP_COMPLETE (R79): outstanding step `i` completes; a STREAM only once its last group is in the ring. -/
def execStepComplete (c q i : Nat) (s : State) : Res :=
  let k := getC s c
  let x := getS k q
  match x.outst[i]? with
  | none => .next s
  | some a =>
    let full := match (getCore k q).ring with | some r => decide (r.ngrp ≤ r.written) | none => true
    if a.stream ∧ !full then .next s
    else
      let y := { x with outst := x.outst.eraseIdx i }
      .next (setC s c (setS k q (if a.cen then addEvent y a.cev 1 else y)))

/-- HANG (R93): the watchdog of a sequencer that runs or waits. -/
def execHang (c q : Nat) (s : State) : Res :=
  let k := getC s c
  match (getS k q).st with
  | .idle | .ended | .stopped _ => .next s
  | _ => if k.active then .next (seqFault s c q 18) else .next s

end Sys2Proof.Machine
end

