-- ==== Sys2Proof/Machine/Vector.lean ====
section
/-!
DEFINITION. The vector engine and the reduction unit (chapter 04): the vector operation word and its checks (R100 to
R102), the stages (R103 to R110), QUANT with its delayed scale, guard and rescue (R111 to R115), reductions (R116
to R118) and their combination over the fixed trees (R119, R120).
-/
namespace Sys2Proof.Machine

/-! ### The checks of an operation -/

/-- Reserved fields and codes of a stage word, and the operand sources its opcode asks for (Tables 4-4 to 4-6, R106,
R107, R111). A table's slots (R104) and a row-wise operand's rows must exist: of the latter R102 says nothing, and the model
raises DECK there (DESIGN CHOICE, log entry 175). -/
def stageOk (nrow : Nat) (g : Nat) : Bool :=
  let z (hi lo : Nat) : Bool := fld g hi lo == 0
  (match sOp g with
   | 1 | 2 | 3 | 5 | 6 | 10 => z 63 41
   | 9 => z 63 41 && sSrc g == 3
   | 4 => z 63 55
   | 7 => z 63 57 && sSrc g == 0
   | 8 => z 63 51 && decide (sIdx g ≤ 56)
   | 11 => z 63 63 && qMode g != 3 && decide (qSgrl g ≤ 6) && nrow % 2 ^ qSgrl g == 0
   | 12 => z 63 45 && (sSrc g == 0 || sSrc g == 2)
   | 13 => z 63 61 && decide (fld g 43 41 ≤ 5) && (fld g 43 41 != 0 || sSrc g == 2)
   | _ => false) &&
  (!rowWise g || decide (sIdx g + nrow ≤ 64))
/-- R33: the formats a QUANT or DEQ stage names are of the classes its field admits (R106, Table 4-6). -/
def stageFmtOk (g : Nat) : Bool :=
  match sOp g with
  | 11 => fmtCode (qTfmt g) || qTfmt g == 13
  | 12 => fmtCode (fld g 44 41)
  | _ => true

/-- The rows of its result a reduction writes (R117, R118). -/
def resRows (rop : Nat) : Nat := match rop with | 0 => 0 | 5 => 2 | 6 => 8 | _ => 1

/-- R102 and the fusing rules of R109; result rows past the tile buffer's last, a length of 0 and a TOPK count outside 1–256
raise DECK too (log entry 175). -/
def vopOk (o : VOp) (nrow : Nat) : Bool :=
  let n := fld o.h 3 0
  let code (g : Nat) : Bool := sOp g == 11 && fmtCode (qTfmt g)
  let cnt (k : Nat) : Nat := (o.stages.filter (fun g => sOp g == k)).length
  decide (n ≤ 8) && decide (1 ≤ nrow) && decide (nrow ≤ 64) && decide (1 ≤ voLen o) && decide (voLen o ≤ 64) &&
    voRop o != 7 && voXr o != 3 && fld o.h 63 60 == 0 && o.stages.all (stageOk nrow) &&
    decide (voSrow o + nrow ≤ 64) && decide (voDrow o + nrow ≤ 64) &&
    (n == 0 || voStb o != voDtb o || voSrow o == voDrow o || decide (voSrow o + nrow ≤ voDrow o) || decide (voDrow o + nrow ≤ voSrow o)) &&
    decide (voRtap o ≤ n) && nrow % 2 ^ voRgrl o == 0 && decide (voRrow o + resRows (voRop o) ≤ 64) &&
    (voRop o != 6 || (2 ^ voRgrl o == nrow && decide (1 ≤ voKtop o) && decide (voKtop o ≤ 256))) &&
    (o.stages.drop 1).all (fun g => sOp g != 12) && (o.stages.take (n - 1)).all (fun g => !code g) &&
    !(voRtap o == n && (o.stages.drop (n - 1)).any code) &&
    decide (cnt 8 ≤ 2) && decide (cnt 10 ≤ 1) && decide (cnt 11 ≤ 1)

/-! ### Rows in flight -/

/-- A row between stages: mantissas, exponent, and the masked lanes (R108). -/
structure VRow where
  m : List Int
  e : Int
  mask : List Bool
  deriving DecidableEq, Repr

/-- What an operation sets on its way: TX_RANGE, PERM_OOR, and FORMAT when a reserved bit was read set. -/
structure VFlags where
  range : Bool := false
  oor : Bool := false
  format : Bool := false
  deriving DecidableEq, Repr
/-- The flags of two parts of an operation. -/
def vfOr (a b : VFlags) : VFlags := ⟨a.range || b.range, a.oor || b.oor, a.format || b.format⟩

/-- Masked lanes carry 0. -/
def maskZero (m : List Int) (mask : List Bool) : List Int := List.zipWith (fun x b => if b then 0 else x) m mask
/-- A stage's result (R103): exact lane values, brought up to exponent −128 where they lie below it, then normalised by R52 and
R53; masked lanes carry 0. -/
def vNorm (l : List (Int × Int)) (mask : List Bool) : VRow × VFlags :=
  let (ms, e0) := commonExp (List.zipWith (fun p b => if b then (0, p.2) else p) l mask)
  let (e1, xs) := txFloor e0 ms
  let (r, e, t) := txNorm e1 xs
  (⟨r, e, mask⟩, { range := t })
/-- A value the spec does not state: any value a lane can have. -/
def freeTx (s : State) (i : Nat) : Int × Int := (Config.freeInt s.free i, sext 8 (Config.freeNat s.free i))
/-- The exact sum of two values. -/
def addTx (a b : Int × Int) : Int × Int :=
  if a.2 ≤ b.2 then (a.1 + b.1 * (2 ^ (b.2 - a.2).toNat : Nat), a.2) else (a.1 * (2 ^ (a.2 - b.2).toNat : Nat) + b.1, b.2)

/-- Word `i` of a parameter slot. -/
def slotWord (k : Cluster) (p i : Nat) : Nat := leAt (paramRd k p) (4 * i) 4

/-- The operand of a stage for operation row `j`, lane `i` (R101). -/
def operand (k : Cluster) (g j i : Nat) : Int × Int :=
  match sSrc g with
  | 0 => (sImm g, sExp g)
  | 1 => (sext 32 (slotWord k (sIdx g) i), sExp g)
  | 2 => let r := tileRd k (64 * sOtb g + sIdx g); (r.m.getD (j / 2 ^ sBsh g) 0, r.e)
  | _ => let r := tileRd k (64 * sOtb g + sIdx g + j); (r.m.getD i 0, r.e)
/-- The raw word of the lane OSRC 10b selects. -/
def rawLane (k : Cluster) (g j : Nat) : Nat :=
  unsx 32 ((tileRd k (64 * sOtb g + sIdx g)).m.getD (j / 2 ^ sBsh g) 0)

/-- Segment `i` of the table in slots `p` up (R104). -/
def slotSeg (k : Cluster) (p i : Nat) : Int × Int :=
  let s := paramRd k (p + i / 32)
  (sext 32 (leAt s (8 * (i % 32)) 4), sext 32 (leAt s (8 * (i % 32) + 4) 4))

/-- ROT (R105). -/
def rotRow (len : Nat) (x : VRow) (ang : List Int) : List (Int × Int) :=
  (List.range 64).map (fun i =>
    let p := i / 2
    if p < len / 2 then
      let w := unsx 32 (ang.getD p 0)
      let cs := sext 16 w
      let sn := sext 16 (w / 65536)
      let a := x.m.getD (2 * p) 0
      let b := x.m.getD (2 * p + 1) 0
      (if i % 2 = 0 then a * cs - b * sn else a * sn + b * cs, x.e - 14)
    else (x.m.getD i 0 * 16384, x.e - 14))

/-- One stage other than QUANT on operation row `j` (Table 4-5). -/
def vStage (k : Cluster) (len : Nat) (g j : Nat) (x : VRow) : VRow × VFlags :=
  let lanes := enumFrom 0 x.m
  let each (f : Int × Int → Int × Int → Int × Int) : VRow × VFlags :=
    vNorm (lanes.map (fun l => f (l.2, x.e) (operand k g j l.1))) x.mask
  match sOp g with
  | 1 => each addTx
  | 2 => each (fun a b => addTx a (-b.1, b.2))
  | 3 => each (fun a b => (a.1 * b.1, a.2 + b.2))
  | 4 => vNorm (lanes.map (fun l =>
      let b := operand k g j l.1
      addTx (l.2 * b.1, x.e + b.2) (sext 32 (slotWord k (fld g 46 41) l.1), sext 8 (fld g 54 47)))) x.mask
  | 5 => each (fun a b => if cmpTx a.1 a.2 b.1 b.2 ≥ 0 then a else b)
  | 6 => each (fun a b => if cmpTx a.1 a.2 b.1 b.2 ≤ 0 then a else b)
  | 7 => each (fun a b =>
      let c := if cmpTx a.1 a.2 b.1 b.2 ≥ 0 then a else b
      let hi := (sext 16 (fld g 56 41), sExp g)
      if cmpTx c.1 c.2 hi.1 hi.2 ≤ 0 then c else hi)
  | 8 =>
    let rs0 := lanes.map (fun l => if x.mask.getD l.1 true then ((0 : Int), sExp g, false)
      else tableEval (fld g 42 41) (sext 8 (fld g 50 43)) (sExp g) (slotSeg k (sIdx g)) l.2 x.e)
    -- an EXP argument of 512 or more saturates the row by R53
    let rs := if fld g 42 41 = 1 ∧ rs0.any (fun t => t.2.2) = true then
        rs0.map (fun t => ((if t.1 > 0 then 2 ^ 30 - 1 else if t.1 < 0 then -(2 ^ 30 - 1) else 0 : Int), (127 : Int), t.2.2)) else rs0
    let (r, f) := vNorm (rs.map (fun t => (t.1, t.2.1))) x.mask
    (r, vfOr f { range := rs.any (fun t => t.2.2) })
  | 9 => vNorm (rotRow len x (tileRd k (64 * sOtb g + sIdx g + j)).m) x.mask
  | 10 =>
    let bs := ((paramRd k (sIdx g)).take 64).map (fun b => b.toNat)
    let src := bs.map (fun b => b % 64)
    let mask := List.zipWith (fun b s => b || decide (len ≤ s)) x.mask src
    let (r, f) := vNorm (src.map (fun s => (x.m.getD s 0, x.e))) mask
    (r, vfOr f { oor := src.any (fun s => decide (len ≤ s)), format := bs.any (fun b => decide (64 ≤ b)) })
  | 12 =>
    let sf := fld g 44 41
    let w := leNat (x.m.flatMap (fun v => leBytes (unsx 32 v) 4))
    let cs := unpackN (fmtBits sf) 64 w
    let sc := rawLane k g j
    let (mant, e) := if sSrc g = 0 then (sImm g, sExp g) else ((scMant sc : Int), scExp sc)
    let (r, f) := vNorm (cs.map (fun c => (codeVal sf c * mant, e))) x.mask
    (r, vfOr f { format := sSrc g == 2 && !scOk sc })
  | _ =>
    let cmp := fld g 43 41
    let b := operand k g j 0
    let lim : Int := if 0 ≤ b.2 then b.1 * (2 ^ b.2.toNat : Nat) else b.1 / (2 ^ (-b.2).toNat : Nat)
    let pred (l : Nat × Int) : Bool :=
      let c := cmpTx l.2 x.e (sImm g) (sExp g)
      match cmp with
      | 0 => decide ((l.1 : Int) < lim)
      | 1 => decide (c > 0)
      | 2 => decide (c ≥ 0)
      | 3 => decide (c < 0)
      | 4 => decide (c ≤ 0)
      | _ => decide (c = 0)
    if bitN g 60 then
      vNorm (lanes.map (fun l => (l.2, x.e))) (List.zipWith (fun b l => b || !pred l) x.mask lanes)
    else
      vNorm (lanes.map (fun l => if pred l then (l.2, x.e) else (sext 16 (fld g 59 44), sExp g))) x.mask

/-! ### QUANT (R111 to R115) -/

/-- A group's quantisation: the result rows as TX32 values or as codes, the scale word, N, the clipped count, whether it was
rescued, whether a reserved bit was read set, and TX_RANGE. -/
structure QOut where
  rows : List VRow := []
  codes : List (List Nat) := []
  sc : Nat := 0
  n : Nat := 0
  clip : Nat := 0
  resc : Bool := false
  format : Bool := false
  range : Bool := false
  deriving DecidableEq, Repr

/-- The unmasked lanes of a group as (mantissa, exponent). -/
def grpLanes (g : List VRow) : List (Int × Int) :=
  g.flatMap (fun r => (List.zipWith (fun m b => (m, b)) r.m r.mask).filterMap (fun p => if p.2 then none else some (p.1, r.e)))
/-- GMAX: the group's largest unmasked |x| (R113). -/
def gMax (g : List VRow) : Int × Int :=
  let best := (grpLanes g).foldl (fun (a : Int × Int) p =>
    if cmpTx (p.1.natAbs : Int) p.2 a.1 a.2 > 0 then ((p.1.natAbs : Int), p.2) else a) ((0 : Int), (0 : Int))
  if best.1 < 2 ^ 30 then best else match txNorm best.2 [best.1] with
    | (ms, e, _) => (ms.headD 0, e)
/-- A value m × 2^e ÷ Q as a normalised SC32 word. -/
def scOf (m : Nat) (e : Int) (f : Nat) : Nat := scRound m (qMax f).toNat e
/-- A group's codes under a scale, with the clipped flag of each unmasked lane. -/
def codesUnder (f sc : Nat) (g : List VRow) : List (List (Nat × Bool)) :=
  g.map (fun r => List.zipWith (fun m b => if b then (0, false) else quantScaled f m r.e sc) r.m r.mask)

/-- RMAX after a group (R113): the decayed maximum or GMAX, the larger. -/
def rmaxNext (s : State) (a : Nat) (g : Int × Int) : State :=
  let rm := (rdN s a : Int)
  let cfg := rdN s (a + 4)
  let re := sext 8 cfg
  let dec := rnd (rm * (fld cfg 15 8 : Nat)) 8
  let (m, e) := if cmpTx g.1 g.2 dec re > 0 then g else (dec, re)
  wrFld (wrReg s a (w32 m.toNat)) (a + 4) 7 0 (unsx 8 e)

/-- The TX32 rows of a QUANT to TX32 (R112): lane `i` of row `r` by `f`, with TX_RANGE. -/
def quantTx (rows : List VRow) (f : Nat → VRow → Nat → Int → Int × Int) : List VRow × Bool :=
  let rs := (enumFrom 0 rows).map (fun er => vNorm ((enumFrom 0 er.2.m).map (fun l => f er.1 er.2 l.1 l.2)) er.2.mask)
  (rs.map (fun x => x.1), rs.any (fun x => x.2.range))
/-- x ÷ S for the lane m × 2^e and the scale word `w`, to nearest, ties to even (R112). -/
def quotTx (m e : Int) (w : Nat) : Int :=
  let x := e - scExp w
  if 0 ≤ x then rndDiv (m * (2 ^ x.toNat : Nat)) (scMant w) else rndDiv m ((scMant w : Int) * (2 ^ (-x).toNat : Nat))

/-- One scale group through QUANT; `j0` is its first operation row. With GIVEN, every row takes the lane its own row number
selects, and the group's scale word is its first row's, where BSH gives the rows of a group different lanes (DESIGN CHOICE, log
entry 176). For the target TX32 the spec gives no Q, and no quotient by a scale of MANT 0: what a lane that is not 0 becomes
there is a free value (log entry 177). -/
def quantGroup (s : State) (c : Nat) (k : Cluster) (g j0 : Nat) (rows : List VRow) : State × QOut :=
  let f := qTfmt g
  let qa := pageOf .clu c + 0x400 + 32 * qReg g
  let lanes := grpLanes rows
  let n := lanes.length
  match qMode g with
  | 0 =>
    let word (i : Nat) : Nat := slotWord k (sIdx g) i
    let bad := (List.range 64).any (fun i => fld (word i) 31 22 != 0)
    if f = 13 then
      let t := quantTx rows (fun _ r i m => (rnd (m * (word i % 65536 : Nat)) ((fld (word i) 21 16 : Int) - r.e), 0))
      (s, { rows := t.1, n := n, format := bad, range := t.2 })
    else
      (s, { codes := rows.map (fun r => (enumFrom 0 (maskZero r.m r.mask)).map (fun l =>
              (quantCode f (l.2 * (word l.1 % 65536 : Nat)) ((fld (word l.1) 21 16 : Int) - r.e)).1))
            n := n, format := bad })
  | 1 =>
    let gm := gMax rows
    let s1 := rmaxNext s qa gm
    if f = 13 then
      let t := quantTx rows (fun j _ i m => if m = 0 then (0, 0) else freeTx s (64 * j + i))
      (useFree s1, {
        rows := t.1, range := t.2, n := n
        sc := if rdN s qa = 0 then 0
          else 32768 + Config.freeNat s.free 0 % 32768 + 65536 * (Config.freeNat s.free 1 % 256) })
    else
      let sc := scOf (rdN s qa) (sext 8 (rdN s (qa + 4))) f
      let cs := codesUnder f sc rows
      let zip := List.zipWith (fun (r : VRow) cl => List.zipWith (fun m (x : Nat × Bool) => (m, x)) r.m cl) rows cs
      let clip := sumN (cs.map (fun l => (l.filter (fun x => x.2)).length))
      let z := sumN (zip.map (fun l => (l.filter (fun p => decide (p.1 ≠ 0) && p.2.1 == 0 && f != 7)).length))
      let nz := (lanes.filter (fun p => decide (p.1 ≠ 0))).length
      let cfg := rdN s (pageOf .clu c + 0x204)
      let resc := qGuard g && (decide (clip * 65536 > fld cfg 15 0 * n) || decide (z * 65536 > fld cfg 31 16 * nz))
      let sc' := if resc then scOf gm.1.toNat gm.2 f else sc
      let cs' := if resc then codesUnder f sc' rows else cs
      let clip' := sumN (cs'.map (fun l => (l.filter (fun x => x.2)).length))
      let s2 := bumpBy (bumpBy s1 (qa + 8) n) (qa + 0xC) clip'
      let s3 := if resc then bump (bump s2 (qa + 0x10)) (pageOf .clu c + 0x230) else s2
      (s3, { codes := cs'.map (fun l => l.map (fun x => x.1)), sc := sc', n := n, clip := clip', resc := resc })
  | _ =>
    let scs := (enumFrom j0 rows).map (fun e => rawLane k g e.1)
    let bad := scs.any (fun w => !scOk w)
    if f = 13 then
      let t := quantTx rows (fun j r i m =>
        let w := scs.getD j 0
        if m = 0 then (0, 0) else if scMant w = 0 then freeTx s (64 * j + i) else (quotTx m r.e w, 0))
      (useFree s, { rows := t.1, sc := scs.headD 0, n := n, format := bad, range := t.2 })
    else
      (s, { codes := List.zipWith (fun (r : VRow) w => ((codesUnder f w [r]).headD []).map (fun x => x.1)) rows scs
            sc := scs.headD 0, n := n, format := bad })

/-- The rows cut into groups of 2^l. -/
def groupsOf {α : Type} (l : Nat) (rows : List α) : List (List α) := chunks (2 ^ l) (rows.length / 2 ^ l) rows

/-- The state of an operation's pass: the machine, the rows, the rows kept at RTAP, codes of a last QUANT, its scale
words and format, and the flags. -/
structure VPass where
  s : State
  rows : List VRow
  tap : List VRow
  codes : Option (Nat × List (List Nat)) := none
  scales : List Nat := []
  fl : VFlags := {}

/-- One stage over every row. -/
def vPassStage (c : Nat) (k : Cluster) (o : VOp) (p : VPass) (i g : Nat) : VPass :=
  let tapped (rows : List VRow) : List VRow := if voRtap o = i + 1 then rows else p.tap
  if sOp g = 11 then
    let r := (enumFrom 0 (groupsOf (qSgrl g) p.rows)).foldl (fun (acc : State × List QOut) e =>
      let (s1, q) := quantGroup acc.1 c k g (e.1 * 2 ^ qSgrl g) e.2
      (s1, acc.2 ++ [q])) (p.s, [])
    let fl := vfOr p.fl { format := r.2.any (fun q => q.format), range := r.2.any (fun q => q.range) }
    let scs := if qMode g = 0 then [] else r.2.map (fun q => q.sc)
    if qTfmt g = 13 then
      let rows := r.2.flatMap (fun q => q.rows)
      { p with s := r.1, rows := rows, tap := tapped rows, scales := scs, fl := fl }
    else { p with s := r.1, codes := some (qTfmt g, r.2.flatMap (fun q => q.codes)), scales := scs, fl := fl }
  else
    let rs := (enumFrom 0 p.rows).map (fun e => vStage k (voLen o) g e.1 e.2)
    let rows := rs.map (fun x => x.1)
    { p with rows := rows, tap := tapped rows, fl := rs.foldl (fun f x => vfOr f x.2) p.fl }

/-! ### Write-back (R108, R112) -/

/-- A destination row of TX32 values. -/
def writeRow (zero : Bool) (old : Row) (x : VRow) : Row :=
  let ms := List.zipWith (fun (p : Int × Bool) o => if p.2 then (if zero then 0 else o) else p.1)
      (List.zipWith (fun m b => (m, b)) x.m x.mask) old.m
  mkRow ms x.e
/-- A destination row of packed codes: the fields of masked lanes keep their old bits under MERGE, the rest is 0. -/
def writeCodes (zero : Bool) (f : Nat) (old : Row) (mask : List Bool) (cs : List Nat) : Row :=
  let n := fmtBits f
  let w := leNat (old.m.flatMap (fun v => leBytes (unsx 32 v) 4))
  let fs := List.zipWith (fun (p : Nat × Bool) o => if p.2 then (if zero then 0 else o) else p.1)
    (List.zipWith (fun c b => (c, b)) cs mask) (unpackN n 64 w)
  let v := packN n fs
  mkRow ((List.range 64).map (fun i => sext 32 (v / 2 ^ (32 * i)))) old.e

/-! ### Reductions (R116 to R118) -/

/-- A lane value with its position. -/
abbrev PVal := (Int × Int) × Nat

/-- The unmasked lanes of a group with their positions; `base` is AR[PAR], `j0` the first row. -/
def posLanes (base j0 : Nat) (g : List VRow) : List PVal :=
  (enumFrom j0 g).flatMap (fun e => (enumFrom 0 (List.zipWith (fun m b => (m, b)) e.2.m e.2.mask)).filterMap (fun l =>
    if l.2.2 then none else some ((l.2.1, e.2.e), (base + 64 * e.1 + l.1) % 2 ^ 32)))
/-- The larger value, or the lower position of equal ones (R118). -/
def pBetter (a b : PVal) : Bool :=
  let c := cmpTx a.1.1 a.1.2 b.1.1 b.1.2
  decide (c > 0) || (decide (c = 0) && decide (a.2 ≤ b.2))
/-- The best of a list. -/
def pBest : List PVal → Option PVal
  | [] => none
  | a :: t => match pBest t with | none => some a | some b => if pBetter a b then some a else some b
/-- The exact sum of values. -/
def sumTx (l : List (Int × Int)) : Int × Int := l.foldl addTx (0, (l.headD (0, 0)).2)
/-- The value of a reduction group (R116, R117): of an empty group, 0 with position 0xFFFF_FFFF. -/
def reduceGroup (rop : Nat) (l : List PVal) : (Int × Int) × Nat :=
  match rop with
  | 1 => (sumTx (l.map (fun p => p.1)), 0)
  | 2 => (sumTx (l.map (fun p => (p.1.1 * p.1.1, p.1.2 + p.1.2))), 0)
  | 4 => match pBest (l.map (fun p => ((-p.1.1, p.1.2), p.2))) with
    | some b => ((-b.1.1, b.1.2), b.2)
    | none => ((0, 0), 0xFFFFFFFF)
  | _ => match pBest l with | some b => b | none => ((0, 0), 0xFFFFFFFF)

/-- The most negative mantissa (R118), standing where a rank is not filled. -/
def txMin : Int := -(2 ^ 30 - 1)
/-- A row of 64 ranks: the values normalised together, unfilled lanes at the most negative mantissa; a row with no
value takes exponent 127. -/
def rankRow (l : List PVal) : Row × Bool :=
  if l.isEmpty then (mkRow (List.replicate 64 txMin) 127, false)
  else
    let (ms, e0) := commonExp (l.map (fun p => p.1))
    let (r, e, t) := txNorm e0 ms
    (mkRow (r ++ List.replicate (64 - r.length) txMin) e, t)
/-- The rows of a TOPK from its ranked list. -/
def topkRows (k : Nat) (l : List PVal) : List Row × List Nat × Bool :=
  let top := l.take k
  let vs := (List.range 4).map (fun i => rankRow ((top.drop (64 * i)).take 64))
  (vs.map (fun v => v.1), (List.range 256).map (fun i => ((top.map (fun p => p.2))[i]?).getD 0xFFFFFFFF), vs.any (fun v => v.2))

/-- The result rows of an operation's reduction, with positions and TX_RANGE: a row has a lane for each reduction group. -/
def reduceRows (base : Nat) (o : VOp) (tap : List VRow) : List Row × List Nat × Bool :=
  if voRop o = 6 then
    topkRows (voKtop o) (sortBy pBetter (posLanes base 0 tap))
  else
    let gs := groupsOf (voRgrl o) tap
    let rs := (enumFrom 0 gs).map (fun e => reduceGroup (voRop o) (posLanes base (e.1 * 2 ^ voRgrl o) e.2))
    let (ms, e0) := commonExp (rs.map (fun r => r.1))
    let (m, e, t) := txNorm e0 ms
    ([mkRow m e], rs.map (fun r => r.2), t)

/-- A row in a tile buffer: lanes past the last reduction group are not stated, and take free mantissas (log entry 18). -/
def padRow (s : State) (i : Nat) (m : List Int) (e : Int) : Row :=
  mkRow (m ++ (List.range (64 - m.length)).map (fun j => sext 32 (Config.freeWord s.free (64 * i + m.length + j)).toNat)) e
/-- The result rows into the tile buffers, FULL: value rows, then the rows of positions. -/
def putResult (s : State) (k : Cluster) (rop rtb rrow : Nat) (rows : List Row) (pos : List Nat) : Cluster :=
  let wr (y : Cluster) (n : Nat) (m : List Int) (e : Int) : Cluster :=
    let r := 64 * rtb + rrow + n
    setFull (tileWr y r (padRow s n m e)) r
  let k1 := (enumFrom 0 rows).foldl (fun y e => wr y e.1 e.2.m e.2.e) k
  let prow (n : Nat) : List Int := ((pos.drop (64 * n)).take 64).map (fun p => sext 32 p)
  match rop with
  | 5 => wr k1 1 (prow 0) 0
  | 6 => (List.range 4).foldl (fun y n => wr y (4 + n) (prow n) 0) k1
  | _ => k1

/-! ### The VEC step -/

/-- The step completes: with REL the source rows that are not destination rows become EMPTY (Table 4-2). -/
def vecFinish (k : Cluster) (o : VOp) (w : Nat) : Cluster :=
  let nrow := fld w 38 32
  let dst : List Nat := if fld o.h 3 0 = 0 then [] else (List.range nrow).map (fun j => 64 * voDtb o + voDrow o + j)
  let src := (List.range nrow).map (fun j => 64 * voStb o + voSrow o + j)
  let k1 := if bitN w 4 then { k with full := k.full.filter (fun r => !(src.contains r && !dst.contains r)) } else k
  { k1 with cseq := arrDone k1.cseq }

/-- The lanes masked at the start (R108). -/
def headMask (o : VOp) : List Bool :=
  (List.range 64).map (fun i => decide (voLen o ≤ i) || (bitN o.h 28 && !bitN o.h (64 + i)))

/-- The whole pass of an operation over its rows. A row that DEQ unpacks enters whole, since its codes do not lie in its lanes
(R106). -/
def vecPass (s : State) (c : Nat) (k : Cluster) (o : VOp) (nrow : Nat) : VPass :=
  let mask := headMask o
  let raw := (o.stages.take 1).any (fun g => sOp g == 12)
  let rows := (List.range nrow).map (fun j =>
    let r := tileRd k (64 * voStb o + voSrow o + j)
    ({ m := if raw then r.m else maskZero r.m mask, e := r.e, mask := mask } : VRow))
  (enumFrom 0 o.stages).foldl (fun p e => vPassStage c k o p e.1 e.2) { s := s, rows := rows, tap := rows }

/-- Destination rows and scale words of a pass written. -/
def vecWrite (k : Cluster) (o : VOp) (nrow : Nat) (p : VPass) : Cluster :=
  let zero := bitN o.h 27
  let k1 := if fld o.h 3 0 = 0 then k else (List.range nrow).foldl (fun y j =>
    let r := 64 * voDtb o + voDrow o + j
    let x := p.rows.getD j ⟨[], 0, []⟩
    let row := match p.codes with
      | some (f, cs) => writeCodes zero f (tileRd y r) x.mask (cs.getD j [])
      | none => writeRow zero (tileRd y r) x
    setFull (tileWr y r row) r) k
  match o.stages.find? (fun g => sOp g == 11 && qMode g != 0) with
  | none => k1
  | some g =>
    let r := 64 * qStb g + qSrow g
    let old := tileRd k1 r
    setFull (tileWr k1 r (mkRow ((enumFrom 0 p.scales).foldl (fun l e => setAt l e.1 (sext 32 e.2)) old.m) old.e)) r

/-- The parameter slots an operation reads: per-lane operands, FMA's addend, segment tables, PERM indices, CHAN rescales. -/
def vopSlots (o : VOp) : List Nat :=
  o.stages.flatMap (fun g =>
    (if sSrc g = 1 ∧ 1 ≤ sOp g ∧ sOp g ≤ 6 then [sIdx g] else []) ++
    (match sOp g with
     | 4 => [fld g 46 41]
     | 8 => (List.range 8).map (fun i => sIdx g + i)
     | 10 => [sIdx g]
     | 11 => if qMode g = 0 then [sIdx g] else []
     | _ => []))
/-- R63: every row and parameter an operation reads agrees with its check bits. -/
def vecChk (k : Cluster) (o : VOp) (nrow : Nat) : Bool :=
  (vopReads o nrow).all (fun r => rowChk (tileRd k r)) && (vopSlots o).all (fun p => paramChk k p)

/-- The operation a VEC step word of cluster `k` names. -/
def vecOf (k : Cluster) (w : Nat) : Option VOp := (deckOf k 64).bind (fun d => vopAt d (fld w 26 16))

/-- VEC issues once its operation has been checked (R102, R33, R109). -/
def opVec (s : State) (c : Nat) (k : Cluster) (w : Nat) : State :=
  match vecOf k w with
  | none => seqFault s c 64 2
  | some o =>
    if !vopOk o (fld w 38 32) then seqFault s c 64 2
    else if !o.stages.all stageFmtOk then seqFault s c 64 4
    else arrPush s c 64 k w

/-- The XR steps of a scope in a cluster deck, in deck order (R120). -/
def xrSteps (d : Deck) (scope : Nat) : List Nat :=
  (List.range (nStep d + 1)).filter (fun pc => match d.units[pc]? with
    | some u => pc != 0 && fld u.toNat 3 0 == 5 && (match vopAt d (fld u.toNat 26 16) with
      | some o => voXr o == scope && voRop o != 0
      | none => false)
    | none => false)

/-- The running VEC (R99, R109): it waits until its rows are FULL; then its stages run and its results are written, or sent
to combine (R120). -/
def vecRun (s : State) (c : Nat) (up : Upset) (k : Cluster) (a : ArrStep) : State :=
  let nrow := fld a.w 38 32
  match vecOf k a.w with
  | none => s
  | some o =>
    if k.xr.isSome ∨ (vopReads o nrow).any (fun r => !k.full.contains r) = true then s
    else if up = .residue ∨ up = .parity ∨ !vecChk k o nrow then arrFault s c 64 16
    else
      let p := vecPass s c k o nrow
      if p.fl.format then arrFault s c 64 4
      else
        let s1 := p.s
        let (rows, pos, t) := if voRop o = 0 then ([], [], false) else reduceRows (a.ar.getD (fld o.h 57 56) 0) o p.tap
        let k1 := vecWrite (getC s1 c) o nrow p
        let k2 := if voXr o = 0 ∨ voRop o = 0 then
            vecFinish (putResult s1 k1 (voRop o) (voRtb o) (voRrow o) rows pos) o a.w
          else
            let ord := match deckOf k 64 with | some d => ((xrSteps d (voXr o)).filter (fun pc => decide (pc < a.pc))).length | none => 0
            { k1 with xr := some { ord := ord, n := nrow / 2 ^ voRgrl o, scope := voXr o, rop := voRop o, rgrl := voRgrl o,
                                   ktop := voKtop o, rtb := voRtb o, rrow := voRrow o, rows := rows, pos := pos } }
        let st := (if p.fl.range || t then 2 else 0) + (if p.fl.oor then 4 else 0)
        let s2 := useFree (setC s1 c k2)
        if st = 0 then s2 else orReg s2 (pageOf .clu c + 0x44) (w32 st)
def execVec (c : Nat) (up : Upset) (s : State) : Res :=
  .next (let s0 := deckEcc s c 64 up
    let s1 := issue s0 c 64 5 (fun _ => true) (fun k w => opVec s0 c k w)
    onArr s1 c 64 5 (fun _ => true) (fun k a => vecRun s1 c up k a))

/-! ### Cross-cluster combines (R119, R120) -/

/-- One level of the fixed tree: pairs combined, an odd one passed up. -/
def treeLevel {α : Type} (f : α → α → α) : List α → List α
  | a :: b :: t => f a b :: treeLevel f t
  | l => l
/-- R119: a list of partials combined by the fixed tree; `n` bounds the levels. -/
def treeFold {α : Type} (f : α → α → α) : Nat → List α → List α
  | 0, l => l
  | n + 1, l => if l.length ≤ 1 then l else treeFold f n (treeLevel f l)

/-- The ranked values of partial TOPK rows. -/
def ranksOf (k : Nat) (rows : List Row) (pos : List Nat) : List PVal :=
  ((List.range (min k 256)).filter (fun i => pos.getD i 0xFFFFFFFF != 0xFFFFFFFF)).map (fun i =>
    let r := rows.getD (i / 64) {}
    ((r.m.getD (i % 64) 0, r.e), pos.getD i 0))

/-- A partial result: value rows and positions, with TX_RANGE. -/
structure Partial where
  rows : List Row
  pos : List Nat
  range : Bool := false
  deriving DecidableEq, Repr

/-- Two partial result rows combined (R119): the exact sum rounded once, or exact selection, over the lanes both have. -/
def combine (rop ktop : Nat) (a b : Partial) : Partial :=
  if rop = 6 then
    let (rows, pos, t) := topkRows ktop (sortBy pBetter (ranksOf ktop a.rows a.pos ++ ranksOf ktop b.rows b.pos))
    ⟨rows, pos, a.range || b.range || t⟩
  else
    let ra := a.rows.headD {}
    let rb := b.rows.headD {}
    let ls := (List.range (min ra.m.length rb.m.length)).map (fun i =>
      let x := (ra.m.getD i 0, ra.e)
      let y := (rb.m.getD i 0, rb.e)
      let px := a.pos.getD i 0xFFFFFFFF
      let py := b.pos.getD i 0xFFFFFFFF
      match rop with
      | 1 | 2 => (addTx x y, 0)
      | 3 => if cmpTx x.1 x.2 y.1 y.2 ≥ 0 then (x, px) else (y, py)
      | 4 => if cmpTx x.1 x.2 y.1 y.2 ≤ 0 then (x, px) else (y, py)
      | _ => if pBetter (x, px) (y, py) then (x, px) else (y, py))
    let (ms, e0) := commonExp (ls.map (fun l => l.1))
    let (m, e, t) := txNorm e0 ms
    ⟨[mkRow m e], ls.map (fun l => l.2), a.range || b.range || t⟩

/-- The participants of a combine (R120): the clusters of its scope whose run has the same BGRP and whose cluster deck has an
operation of that scope at the same place of the deck's order. -/
def xrMembers (s : State) (c : Nat) (x : Xr) : List Nat :=
  (s.clu.filter (fun e => e.2.active && (x.scope == 2 || dieOf e.1 == dieOf c) && tpbF e.2 0x2C 1 == tpbF (getC s c) 0x2C 1 &&
    (match deckOf e.2 64 with | some d => decide (x.ord < (xrSteps d x.scope).length) | none => false))).map (fun e => e.1)

/-- The combined rows at one participant: in place of its own, and its VEC step completes; a participant that a fault has
stopped since stays stopped. -/
def xrDeliver (s : State) (m : Nat) (r : Partial) : State :=
  let k := getC s m
  match k.xr, k.cseq.arr with
  | some z, a :: _ =>
    match vecOf k a.w with
    | some o =>
      let k1 := vecFinish (putResult s { k with xr := none } z.rop z.rtb z.rrow r.rows r.pos) o a.w
      let s1 := setC (useFree s) m k1
      if r.range then orReg s1 (pageOf .clu m + 0x44) 2 else s1
    | none => s
  | _, _ => s

/-- XR_COMBINE (R120): every participant has sent; a participant whose ROP, RGRL or KTOP differs raises DECK at each. -/
def execXrCombine (c : Nat) (s : State) : Res :=
  match (getC s c).xr with
  | none => .next s
  | some x =>
    let ms := sortBy (fun a b => decide (lclu s a ≤ lclu s b)) (xrMembers s c x)
    let xs := ms.map (fun m => (getC s m).xr)
    if xs.any (fun y => match y with | some z => z.scope != x.scope || z.ord != x.ord | none => true) then .next s
    else if xs.any (fun y => match y with | some z => z.rop != x.rop || z.rgrl != x.rgrl || z.ktop != x.ktop | none => true) then
      .next (ms.foldl (fun y m => arrFault (setC y m { getC y m with xr := none }) m 64 2) s)
    else
      let parts := xs.filterMap (fun y => y.map (fun z => (⟨z.rows, z.pos, false⟩ : Partial)))
      match treeFold (combine x.rop x.ktop) 8 parts with
      | r :: _ => .next (ms.foldl (fun y m => xrDeliver y m r) s)
      | [] => .next s

/-- XR_TIMEOUT (R122): a combine that is still open raises HANG. -/
def execXrTimeout (c : Nat) (s : State) : Res :=
  match (getC s c).xr with
  | none => .next s
  | some _ => .next (arrFault (setC s c { getC s c with xr := none }) c 64 18)

end Sys2Proof.Machine
end

