-- ==== Sys2Proof/Machine/Attention.lean ====
section
/-!
DEFINITION. Attention (chapter 07): the paged STREAM and what the ring receives (R201 to R204), the row-statistics DRAINs
(R205 to R210), the append engine (R212), invalidation of the translation cache (R200), spill and deferred frees (R214,
R218), page moves (R220).
-/
namespace Sys2Proof.Machine

/-! ### Reports of a walk -/

/-- Report codes: a KV group of a wrong format (R203), a position met ABSENT (R226); the sequence is in ADDR. -/
def repKvFormat : Nat := 0x29
def repAbsent : Nat := 0x2A

/-- A key group that is not delivered: WALK_ERR, KV_ABSENT, and the dealer is told. -/
def walkFault (s : State) (model g code e : Nat) : State :=
  let s1 := walkErr s model g code (pGen e)
  let s2 := if code = 2 then bump s1 (att 0x7C) else s1
  report s2 { code := if code = 2 then repAbsent else repKvFormat, blk := .att, inst := 0, model := model,
              trick := s.deal.trick, addr := g }

/-! ### STREAM with PAGE = 1 (R201, R202) -/

/-- The scale words of a key group: of its page's header, or of the KV scale table for APPEND. -/
def scaleWords (s : State) (fn : Nat) (c : List Byte) (layer kvh : Nat) (app : Bool) (e : Nat) : State × Option (Nat × Nat) :=
  let a := if app then cxKvs c + 8 * (layer * cxHkv c + kvh) else pBase e + 8 * kvh
  match memRead s fn false a 8 .none with
  | (s1, .ok bs) => (s1, some (leAt bs 0 4, leAt bs 4 4))
  | (s1, _) => (reportPoison s1 .att 0 0 0 a, none)

/-- R203: the formats of an entry against the context. -/
def pteFmtOk (c : List Byte) (e : Nat) : Bool :=
  fmtKey (pK e) && fmtVal (pV e) && decide (pK e ≤ cxKmax c) && decide (pV e ≤ cxVmax c)

/-- `n` slots of one page or of the append buffer cut into key groups of at most 64 positions. -/
def cutRun (g : KGroup) : Nat → Nat → List KGroup
  | 0, _ => []
  | f + 1, n => if n = 0 then [] else
    { g with n := min 64 n } :: cutRun { g with slot := g.slot + 64, pos := g.pos + 64 } f (n - 64)

/-- R219: a prefetched page that is not resident when it is streamed counts once in PREF_LATE. The trick prefetches layer l when
layer l − 2 begins. -/
def prefLate (s : State) (c : List Byte) (model g layer e : Nat) : State :=
  match s.deal.cur with
  | none => s
  | some t =>
    if pTier e = 3 ∧ 2 ≤ layer ∧ layer < spGet 0 t.layers model + 2 ∧ (spGet [] t.snap (g * 512 + layer)).contains e ∧ !t.late.contains (pBase e) ∧
        (List.range ((pgBytes c e + 255) / 256)).any (fun i => (findLine s (pBase e / 256 * 256 + 256 * i)).isNone) = true then
      bump { s with deal := { s.deal with cur := some { t with late := pBase e :: t.late } } } (att 0x74)
    else s

/-- The slots of one page as key groups. A page that fails its checks delivers positions with no key in their place, so
that the entry keeps its blocks (log entry 30). -/
def cutPage (s : State) (fn : Nat) (c : List Byte) (model g layer kvh : Nat) (app : Bool) (e slot pos n : Nat) : State × List KGroup :=
  let none_ := (cutRun { pos := pos } (n / 64 + 1) n).map (fun k => { k with n := 0 })
  if !app ∧ !pteFmtOk c e then (walkFault s model g 1 e, none_)
  else match scaleWords s fn c layer kvh app e with
    | (s1, none) => (walkErr s1 model g 3 (pGen e), none_)
    | (s1, some (ks, vs)) =>
      if !scOk ks ∨ !scOk vs then (walkFault s1 model g 1 e, none_)
      else
        (if app then s1 else prefLate s1 c model g layer e,
          cutRun { app := app, pte := e, slot := slot, pos := pos, ksc := ks, vsc := vs } (n / 64 + 1) n)

/-- A RANGE record resolved page by page (R199). -/
def cutRange (fn : Nat) (c : List Byte) (model g layer kvh : Nat) : Nat → State → Nat → Nat → State × List KGroup
  | 0, s, _, _ => (s, [])
  | f + 1, s, t, n =>
    if n = 0 then (s, [])
    else match walkTlb s g layer t with
      | (s1, .page e) =>
        let m := min n (pFpos e + 2 ^ pSze e - t)
        let (s2, l) := cutPage s1 fn c model g layer kvh false e (t - pFpos e) t m
        let (s3, rest) := cutRange fn c model g layer kvh f s2 (t + m) (n - m)
        (s3, l ++ rest)
      | (s1, r) =>
        let m := min n (16 - t % 16)
        let s2 := match r with
          | .format e => walkFault s1 model g 1 e
          | .poison a => reportPoison (walkErr s1 model g 3 0) .att 0 0 model a
          | .absent e => walkFault s1 model g 2 e
          | .page _ => s1
        let (s3, rest) := cutRange fn c model g layer kvh f s2 (t + m) (n - m)
        (s3, { pos := t, n := 0 } :: rest)

/-- One record of a core page list (Table 7-6). -/
def cutRec (s : State) (fn : Nat) (c : List Byte) (model g layer kvh : Nat) (b : List Byte) : State × List KGroup :=
  match leAt b 20 1 with
  | 1 => cutRange fn c model g layer kvh (leAt b 4 4 + 1) s (leAt b 0 4 % 2 ^ 26) (leAt b 4 4)
  | 2 => cutPage s fn c model g layer kvh true 0 (leAt b 6 4) (leAt b 0 4 % 2 ^ 26) (leAt b 4 2)
  | _ =>
    let e := leAt b 0 16
    let n := leAt b 18 2
    if !pLeaf e then
      (walkFault s model g (if pValid e ∧ 3 < pTier e then 1 else 2) e, (cutRun {} (n / 64 + 1) n).map (fun k => { k with n := 0 }))
    else cutPage s fn c model g layer kvh false e (leAt b 16 2) (pFpos e + leAt b 16 2) n

/-- The blocks of one head entry: up to four consecutive key groups each. -/
def cutCpl (s : State) (fn : Nat) (c : List Byte) (model : Nat) (b : List Byte) (kvh : Nat) : State × List (List KGroup) :=
  let recs := chunks 32 (leAt b 0xE 2) (b.drop 0x480)
  let (s1, gs) := recs.foldl (fun (acc : State × List KGroup) r =>
    let (x, l) := cutRec acc.1 fn c model (leAt b 0 2) (leAt b 2 2) kvh r
    (x, acc.2 ++ l)) (s, [])
  (s1, (chunks 4 ((gs.length + 3) / 4) gs).take (leAt b 0xC 2))

/-- The layer's append copy of an earlier trick is not done (R212). -/
def copyWaits (s : State) (num model layer : Nat) : Bool :=
  s.deal.ending.any (fun t => decide (t.num < num) && t.entries.any (fun e => e.model == model) && !t.copied.contains (model * 512 + layer))
/-- An invalidation that must complete before this trick's first walk (R200). -/
def invalWaits (s : State) (num model : Nat) : Bool :=
  s.kv.inval.any (fun i => (i.1 == 64 || i.1 == model) && decide (i.2 < num))

/-- A core page list of `nrec` records. -/
def readCpl (s : State) (fn a : Nat) : State × Option (List Byte) :=
  match memRead s fn false a 0x480 .none with
  | (s1, .ok h) => match memRead s1 fn false (a + 0x480) (32 * leAt h 0xE 2) .none with
    | (s2, .ok r) => (s2, some (h ++ r))
    | (s2, _) => (s2, none)
  | (s1, _) => (s1, none)

def opStreamPage (s : State) (c q : Nat) (k : Cluster) (w : Nat) : State :=
  let x := getS k q
  let td := tdOf k (fld w 19 16)
  let a := td.code + 256 * arOf x (fld w 21 20)
  let ent := arOf x (fld w 23 22)
  let model := runModel k
  let cx := (getM s model).ctx
  let gu := if fmtBits (cxKmax cx) = 8 ∨ fmtBits (cxVmax cx) = 8 then 22 else 11
  let base := fld w 45 32
  let len := fld w 101 88
  let fn := runFn s k
  let busy : Bool := match (getCore k q).ring with | some r => decide (r.freed < r.ngrp) | none => false
  if !asyncRoom k q then s
  else if busy = true ∨ fld w 30 24 ≠ 64 ∨ 16384 < base + len ∨ len < 2 * 64 * gu then seqFault s c q 2
  else if scrWaits s fn a 0x480 then s
  else match readCpl s fn a with
    | (s1, none) => memStop s1 c q w a .poison
    | (s1, some b) =>
      let g := leAt b 0 2
      let layer := leAt b 2 2
      if copyWaits s k.trick model layer ∨ (cxWalk cx ∧ invalWaits s k.trick model) then s
      else if leAt b 4 1 ≤ ent ∨ 8 ≤ ent then seqFault s1 c q 3
      else
        let kvh := leAt b (0x40 + 4 * ent) 1
        let rows := leAt b 5 1 * leAt b 6 1
        if (List.range (min 32 rows)).any (fun r => !scOk (leAt b (0x80 + 128 * ent + 4 * r) 4)) ∨ !scOk (cxSms cx) then seqFault s1 c q 4
        else
        let (s2, bl) := cutCpl s1 (getSlot s g).fn cx model b kvh
        let ps : PStream := { seq := g, layer := layer, kvh := kvh, qh := leAt b (0x41 + 4 * ent) 1, g := leAt b 5 1, t := leAt b 6 1,
                              upos := leAt b 8 4, qsc := (List.range 32).map (fun r => leAt b (0x80 + 128 * ent + 4 * r) 4), blocks := bl }
        let k1 := getC s2 c
        let co := getCore k1 q
        let k2 := setCore k1 q { co with
          ring := some { pg := some ps, td := fld w 19 16, base := base, len := len, ncol := 64, gu := gu,
                         ngrp := sumN (bl.map (fun l => l.length + cxDh cx)) }
          rs := { co.rs with blk := 0 } }
        setC s2 c (setS k2 q (arPost (stepOut (getS k2 q) w true) w false))
def execStreamPage (c q : Nat) (s : State) : Res :=
  .next (issue s c q 2 (fun w => bitN w 4) (fun k w => opStreamPage s c q k w))

/-! ### Groups into the ring (R202, R203) -/

/-- Which group of a paged stream comes `i`-th: its block and, within it, a key group or a value group. -/
def pgGroup (dh : Nat) : List (List KGroup) → Nat → Option (List KGroup × Nat)
  | [], _ => none
  | b :: t, i => if i < b.length + dh then some (b, i) else pgGroup dh t (i - (b.length + dh))

/-- The stride of an append row (R212). -/
def appStride (c : List Byte) : Nat := 256 * ((cxHkv c * 64 * cxDh c * (fmtBits (cxKmax c) + fmtBits (cxVmax c)) + 2047) / 2048)
/-- An append row's address. -/
def appRow (c : List Byte) (layer a : Nat) : Nat := cxApp c + (layer * cxRows c + a) * appStride c
/-- Key and value formats of a key group. -/
def kgK (c : List Byte) (k : KGroup) : Nat := if k.app ∨ k.pte = 0 then cxKmax c else pK k.pte
def kgV (c : List Byte) (k : KGroup) : Nat := if k.app ∨ k.pte = 0 then cxVmax c else pV k.pte
/-- The address of the key, or of the value, of position `j` of a key group for a head. -/
def kgKeyAt (c : List Byte) (layer h : Nat) (k : KGroup) (j : Nat) : Nat :=
  if k.app then appRow c layer (k.slot + j) + h * 8 * cxDh c * fmtBits (cxKmax c) else pBase k.pte + pgKey c k.pte h (k.slot + j)
def kgValAt (c : List Byte) (layer h : Nat) (k : KGroup) (j : Nat) : Nat :=
  if k.app then appRow c layer (k.slot + j) + cxHkv c * 8 * cxDh c * fmtBits (cxKmax c) + h * 8 * cxDh c * fmtBits (cxVmax c)
  else pBase k.pte + pgVal c k.pte h (k.slot + j)

/-- The codes of `n` elements read at `a`; `none` when the data is withheld. -/
def rdCodes (s : State) (fn a bits n : Nat) (err : MemErr) : State × Option (List Nat) :=
  match memRead s fn false a (bits * n / 8) err with
  | (s1, .ok bs) => (s1, some (unpackN bits n (leNat bs)))
  | (s1, _) => (reportPoison s1 .att 0 0 0 a, none)

/-- A group-column of codes in feed form (R69, R202). -/
def codeColumn (gu f : Nat) (cs : List Nat) : List (BitVec 128) :=
  let unit (bits : Nat) (l : List Nat) : List (BitVec 128) := unitsOf (leBytes (packN bits l) 176)
  let us := if fmtBits f = 8 then unit 4 (cs.map (fun x => x / 16)) ++ unit 4 (cs.map (fun x => x % 16)) else unit (fmtBits f) cs
  us ++ List.replicate (gu - us.length) 0

/-- A code of value format `f` widened to `f'` (R44). -/
def widen (f f' x : Nat) : Nat := if fmtBits f < fmtBits f' then unsx (fmtBits f') (codeVal f x) else x

/-- The 64 columns of a key group: positions, each over the 64 × DH head elements, padded with code 0. -/
def keyColumns (s : State) (fn : Nat) (c : List Byte) (ps : PStream) (k : KGroup) (err : MemErr) : State × Option (List (List Nat)) :=
  (List.range 64).foldl (fun (acc : State × Option (List (List Nat))) j =>
    match acc with
    | (x, none) => (x, none)
    | (x, some l) =>
      if k.n ≤ j then (x, some (l ++ [[]]))
      else match rdCodes x fn (kgKeyAt c ps.layer ps.kvh k j) (fmtBits (kgK c k)) (64 * cxDh c) (if j = 0 then err else .none) with
        | (y, some cs) => (y, some (l ++ [cs]))
        | (y, none) => (y, none)) (s, some [])

/-- The format of a block's value groups: the widest of its key groups'. -/
def blockV (c : List Byte) (b : List KGroup) : Nat := if b.any (fun k => fmtBits (kgV c k) = 8) then 11 else 10

/-- The 64 columns of value group `v`: head lanes, each over the block's 256 positions. -/
def valColumns (s : State) (fn : Nat) (c : List Byte) (ps : PStream) (b : List KGroup) (v : Nat) (err : MemErr) : State × Option (List (List Nat)) :=
  let r := (List.range 256).foldl (fun (acc : State × Option (List (List Nat))) p =>
    match acc with
    | (x, none) => (x, none)
    | (x, some l) =>
      match b[p / 64]? with
      | none => (x, some (l ++ [[]]))
      | some k =>
        let f := kgV c k
        if k.n ≤ p % 64 then (x, some (l ++ [[]]))
        else match rdCodes x fn (kgValAt c ps.layer ps.kvh k (p % 64) + v * 8 * fmtBits f) (fmtBits f) 64 (if p = 0 then err else .none) with
          | (y, some cs) => (y, some (l ++ [cs.map (widen f (blockV c b))]))
          | (y, none) => (y, none)) (s, some [])
  match r with
  | (x, none) => (x, none)
  | (x, some rows) => (x, some ((List.range 64).map (fun i => rows.map (fun l => l.getD i 0))))

/-- The columns of group `i` of a block: its key groups, then its value groups. -/
def pgColumns (s : State) (fn : Nat) (c : List Byte) (ps : PStream) (b : List KGroup) (i : Nat) (err : MemErr) : State × Option (List (List Nat)) :=
  if i < b.length then keyColumns s fn c ps (b.getD i {}) err else valColumns s fn c ps b (i - b.length) err

/-- The next group of a paged ring: read, counted in NARROW_CNT when it is narrower than KMAX, written in feed form with
its format. -/
def ringPages (s : State) (c q : Nat) (r : Ring) (ps : PStream) (err : MemErr) : State :=
  let k := getC s c
  let cx := (getM s (runModel k)).ctx
  let fn := (getSlot s ps.seq).fn
  match pgGroup (cxDh cx) ps.blocks r.written with
  | none => s
  | some (b, i) =>
    let kg := b.getD i {}
    let f := if i < b.length then kgK cx kg else blockV cx b
    let waits := b.any (fun g => g.n != 0 && scrWaits s fn (kgKeyAt cx ps.layer ps.kvh g 0) 64)
    if waits then s
    else
      match pgColumns s fn cx ps b i err with
      | (s1, none) => s1
      | (s1, some cols) =>
        let s2 := if i < b.length ∧ kg.n ≠ 0 ∧ f < cxKmax cx then bump s1 (att 0x68) else s1
        let k2 := getC s2 c
        let core := omWrs (getCore k2 q) (r.base + r.written % ringCap r * (64 * r.gu)) (cols.flatMap (codeColumn r.gu f))
        setC s2 c (setCore k2 q { core with ring := some { r with written := r.written + 1, fmts := r.fmts ++ [f] } })

/-- RING_GROUP_WRITE (R69, R70): the next group, once the ring has room. -/
def opRingGroup (s : State) (c q : Nat) (err : MemErr) : State :=
  let k := getC s c
  match (getCore k q).ring with
  | none => s
  | some r =>
    if !k.active ∨ 64 ≤ q ∨ r.ngrp ≤ r.written ∨ ringCap r ≤ r.written - r.freed then s
    else match r.pg with
      | none => ringWeights s c q r err
      | some ps => ringPages s c q r ps err
def execRingGroupWrite (c q : Nat) (up : Upset) (s : State) : Res := .next (opRingGroup s c q (upMem up))

/-! ### The row-statistics unit (R206 to R208) -/

/-- Segments of the run's exponential table (R71): the model's, or the standard one. -/
def expSeg (b : Bundle) (i : Nat) : Int × Int := if b.exps.isEmpty then segOf expPoint i else b.exps.getD i (0, 0)
/-- exp of a TX32 value under a table (R104), as an exact value and exponent. -/
def expOf (seg : Nat → Int × Int) (m e : Int) : Int × Int × Bool := tableEval 1 0 (-30) seg m e
/-- Exact lane values normalised by R52, with TX_RANGE. -/
def normL (l : List (Int × Int)) : Row × Bool :=
  let (ms, e0) := commonExp l
  let (r, e, t) := txNorm e0 ms
  (mkRow r e, t)
/-- One value normalised by R52. -/
def norm1 (v : Int × Int) : Row := (normL [v]).1
/-- A scalar row as a value. -/
def val1 (r : Row) : Int × Int := (r.m.headD 0, r.e)
/-- The lanes of a row as values. -/
def lanesOf (r : Row) : List (Int × Int) := r.m.map (fun m => (m, r.e))
def mulTx (a b : Int × Int) : Int × Int := (a.1 * b.1, a.2 + b.2)
def scVal (w : Nat) : Int × Int := ((scMant w : Int), scExp w)

/-- The bias bucket of a distance (R210). -/
def bucket (d : Nat) : Nat :=
  if d < 16 then d else
    let e := Nat.log2 d
    16 + 2 * (e - 4) + d / 2 ^ (e - 1) % 2

/-- The bias table of a query head (R210). -/
def biasTab (s : State) (fn : Nat) (cx : List Byte) (layer qh : Nat) : State × List Int :=
  if cxPos cx ≠ 1 then (s, [])
  else
    let a := cxBias cx + 128 * (if cxBiasPl cx then layer * cxHq cx + qh else qh)
    match memRead s fn true a 128 .none with
    | (s1, .ok bs) => (s1, (List.range 64).map (fun i => sext 16 (leAt bs (2 * i) 2)))
    | (s1, _) => (reportPoison s1 .att 0 0 0 a, [])

/-- What SCORE does to one row: its statistics, the codes of the block's 256 positions, sp[r], TX_RANGE. -/
structure ScoreOut where
  max : Option (Int × Int)
  sum : Row
  val : List Row
  sp : Nat
  codes : List Nat
  rng : Bool
  deriving DecidableEq, Repr

/-- R206 for row `r`: `acc` the sums of each key group's slot, `m`, `l`, `a` the running statistics. -/
def scoreRow (seg : Nat → Int × Int) (sms : Nat) (bexp : Int) (bias : List Int) (ps : PStream) (b : List KGroup)
    (acc : List (List Int)) (r : Nat) (m : Option (Int × Int)) (l : Row) (a : List Row) : ScoreOut :=
  let u := ps.upos + r / (max ps.g 1)
  let live := decide (r < ps.g * ps.t)
  let gs := enumFrom 0 b
  let key (k : KGroup) (j : Nat) : Bool := live && decide (j < k.n)
  let valid (k : KGroup) (j : Nat) : Bool := key k j && decide (k.pos + j ≤ u)
  let sRows := gs.map (fun g => normL ((List.range 64).map (fun j =>
    if key g.2 j then
      let x := mulTx (mulTx ((acc.getD g.1 []).getD j 0, 0) (scVal (ps.qsc.getD r 0))) (mulTx (scVal g.2.ksc) (scVal sms))
      if bias.isEmpty ∨ u < g.2.pos + j then x else addTx x (bias.getD (bucket (u - (g.2.pos + j))) 0, bexp)
    else (0, 0))))
  let vals (f : KGroup → Nat → Int × Int → Option (Int × Int)) (rows : List Row) : List (Int × Int) :=
    (List.zipWith (fun g row => (enumFrom 0 (lanesOf row)).filterMap (fun p => f g.2 p.1 p.2)) gs rows).flatten
  let pick (k : KGroup) (j : Nat) (v : Int × Int) : Option (Int × Int) := if valid k j then some v else none
  let vs := vals pick (sRows.map (fun x => x.1))
  let big (x y : Int × Int) : Int × Int := if cmpTx y.1 y.2 x.1 x.2 > 0 then y else x
  match vs with
  | [] => { max := m, sum := l, val := a, sp := 0, codes := List.replicate 256 0, rng := sRows.any (fun x => x.2) }
  | v0 :: vt =>
    let bm := vt.foldl big v0
    let m' := match m with | none => bm | some x => big x bm
    let sub (x : Int × Int) : Int × Int := addTx x (-m'.1, m'.2)
    let expRow (f : Nat → Bool) (row : Row) : Row × Bool :=
      let d := normL ((enumFrom 0 (lanesOf row)).map (fun p => if f p.1 then sub p.2 else (0, 0)))
      let es := (enumFrom 0 (lanesOf d.1)).map (fun p => if f p.1 then expOf seg p.2.1 p.2.2 else (0, 0, false))
      let n := normL (es.map (fun x => (x.1, x.2.1)))
      (n.1, d.2 || n.2 || es.any (fun x => x.2.2))
    let pRows := List.zipWith (fun g x => expRow (valid g.2) x.1) gs sRows
    let cc : Int × Int := match m with
      | none => (0, 0)
      | some x => let d := val1 (norm1 (sub x)); let e := expOf seg d.1 d.2; val1 (norm1 (e.1, e.2.1))
    let ls := vals pick (pRows.map (fun x => x.1))
    let sum := (normL [ls.foldl addTx (mulTx (val1 l) cc)])
    let val := a.map (fun row => normL ((lanesOf row).map (fun v => mulTx v cc)))
    let qRows := List.zipWith (fun g (x : Row × Bool) => normL ((lanesOf x.1).map (fun v => mulTx v (scVal g.2.vsc)))) gs pRows
    let qs := vals pick (qRows.map (fun x => x.1))
    let qm := qs.foldl big (0, 0)
    let sp := if qm.1 ≤ 0 then 0 else scOf qm.1.toNat qm.2 6
    let codes := (List.zipWith (fun g (x : Row × Bool) => (enumFrom 0 (lanesOf x.1)).map (fun p =>
      if valid g.2 p.1 then (quantScaled 6 p.2.1 p.2.2 sp).1 else 0)) gs qRows).flatten
    { max := some m', sum := sum.1, val := val.map (fun x => x.1), sp := sp,
      codes := codes ++ List.replicate (256 - codes.length) 0,
      rng := sRows.any (fun x => x.2) || pRows.any (fun x => x.2) || qRows.any (fun x => x.2) || sum.2 || val.any (fun x => x.2) }

/-- The statistics of row `r`. -/
def rsMax (x : RowStats) (r : Nat) : Option (Int × Int) := (spFind x.max r).map val1
def rsSum (x : RowStats) (r : Nat) : Row := spGet (mkRow [0] 0) x.sum r
def rsVal (x : RowStats) (n r : Nat) : Row := spGet (mkRow (List.replicate 64 0) 0) x.val (32 * n + r)

/-- A DRAIN of SCORE or VALUE issues, once its fields are valid; `ok` is what the RSOP asks of them. -/
def rsIssue (s : State) (c q : Nat) (k : Cluster) (w : Nat) (ok : Bool) : State :=
  if fld w 31 30 = 3 ∨ 15 < fld w 19 16 + fld w 23 20 ∨ 3 < fld w 23 20 ∨ !ok then seqFault s c q 2 else arrPush s c q k w
/-- The checks every running DRAIN to the unit shares, its residue checks, and its end: slots closed, the step complete. -/
def rsDrain (s : State) (c q : Nat) (up : Upset) (k : Cluster) (w : Nat) (f : State → Core → List Slot → State × Core × Bool) : State :=
  let core := getCore k q
  let names := slotNames w
  if names.any (fun i => (spFind core.slots i).isNone) then arrFault s c q 2
  else match upFault up with
    | some e => arrFault (upCe s c up) c q e
    | none =>
      if names.any (fun i => !slotResOk (spGet {} core.slots i)) then arrFault s c q 16
      else
        let s0 := upCe s c up
        let core0 := getCore (getC s0 c) q
        match f s0 core0 (names.map (fun i => spGet {} core0.slots i)) with
        | (s1, core1, rng) =>
          let k1 := setCore (getC s1 c) q { core1 with slots := names.foldl (fun m i => spDel m i) core1.slots }
          let s2 := setC s1 c (setS k1 q (arrDone (getS k1 q)))
          if rng then orReg s2 (pageOf .clu c + 0x44) 2 else s2
/-- The command of a DRAIN to the unit: RSOP `n` (a reserved code goes with SCORE) issues, and the first queued one runs. -/
def rsStep (s : State) (c q : Nat) (up : Upset) (n : Nat) (op : State → Cluster → Nat → State) (run : State → Cluster → ArrStep → State) : State :=
  let sel (w : Nat) : Bool := fld w 25 24 == 1 && (fld w 31 30 == n || (n == 0 && fld w 31 30 == 3))
  let s0 := deckEcc s c q up
  let s1 := issue s0 c q 4 sel (op s0)
  onArr s1 c q 4 sel (run s1)

/-- A block's codes as the units of the probability window (R205, R206): 32 bytes per position, row r as element r. -/
def probUnits (codes : List (List Nat)) : List (BitVec 128) :=
  unitsOf ((List.range 256).flatMap (fun p => codes.map (fun l => BitVec.ofNat 8 (l.getD p 0))))

/-- DRAIN with RSOP SCORE (R206): without a paged stream that still has a block to score it raises DECK (log entry 119). -/
def drainScore (s : State) (c q : Nat) (up : Upset) (k : Cluster) (a : ArrStep) : State :=
  match (getCore k q).ring with
  | none => arrFault s c q 2
  | some r => match r.pg with
    | none => arrFault s c q 2
    | some ps =>
      match ps.blocks[(getCore k q).rs.blk]? with
      | none => arrFault s c q 2
      | some b =>
        rsDrain s c q up k a.w (fun s0 core slots =>
          let md := getM s0 (runModel k)
          let first := core.rs.blk == 0
          let rs0 : RowStats := if first then { core.rs with max := [], sum := [], val := [] } else core.rs
          let (s1, tabs) := (List.range (max ps.g 1)).foldl (fun (acc : State × List (List Int)) i =>
            let (x, t) := biasTab acc.1 (runFn s0 k) md.ctx ps.layer (ps.qh + i)
            (x, acc.2 ++ [t])) (s0, [])
          let outs := (List.range 32).map (fun row =>
            scoreRow (expSeg md.b) (cxSms md.ctx) (cxBexp md.ctx) (tabs.getD (row % max ps.g 1) []) ps b
              (slots.map (fun sl => (sl.acc.drop (64 * row)).take 64)) row (rsMax rs0 row) (rsSum rs0 row)
              ((List.range 4).map (fun n => rsVal rs0 n row)))
          let rs1 := (enumFrom 0 outs).foldl (fun (x : RowStats) o =>
            { x with
              max := (match o.2.max with | some v => spSet x.max o.1 (mkRow [v.1] v.2) | none => x.max)
              sum := spSet x.sum o.1 o.2.sum
              val := (enumFrom 0 o.2.val).foldl (fun v a => spSet v (32 * a.1 + o.1) a.2) x.val
              sp := spSet x.sp o.1 o.2.sp }) rs0
          let core1 := omWrs { core with rs := { rs1 with blk := rs1.blk + 1 } } 15840 (probUnits (outs.map (fun o => o.codes)))
          (s1, core1, outs.any (fun o => o.rng)))
def execDrainScore (c q : Nat) (up : Upset) (s : State) : Res :=
  .next (rsStep s c q up 0 (fun x k w => rsIssue x c q k w true) (fun x k a => drainScore x c q up k a))

/-- DRAIN with RSOP VALUE (R207). -/
def drainValue (s : State) (c q : Nat) (up : Upset) (k : Cluster) (a : ArrStep) : State :=
  let w := a.w
  rsDrain s c q up k w (fun s0 core slots =>
    let rs := (enumFrom 0 slots).foldl (fun (x : RowStats × Bool) sl =>
      (enumFrom 0 (slotRows sl.2)).foldl (fun (y : RowStats × Bool) row =>
        let n := fld w 29 28 + sl.1
        let old := rsVal y.1 n row.1
        let sp := scVal (spGet 0 y.1.sp row.1)
        let nw := normL (List.zipWith (fun a v => addTx a (mulTx sp (v, 0))) (lanesOf old) row.2)
        ({ y.1 with val := spSet y.1.val (32 * n + row.1) nw.1 }, y.2 || nw.2)) x) (core.rs, false)
    (s0, { core with rs := rs.1 }, rs.2))
def execDrainValue (c q : Nat) (up : Upset) (s : State) : Res :=
  .next (rsStep s c q up 1 (fun x k w => rsIssue x c q k w (decide (fld w 29 28 + fld w 23 20 ≤ 3))) (fun x k a => drainValue x c q up k a))

/-- One row of FINAL (R208): the output lanes, m and l as they are written. -/
def finalRow (rs : RowStats) (n r : Nat) : Row × Bool × (Int × Int) × (Int × Int) :=
  let l := val1 (rsSum rs r)
  if l.1 = 0 then (mkRow (List.replicate 64 0) 0, false, (-(2 ^ 30 - 1), 127), (0, 0))
  else
    let rc := tableEval 2 0 (-30) (segOf recipPoint) l.1 l.2
    let o := normL ((lanesOf (rsVal rs n r)).map (fun v => mulTx v (rc.1, rc.2.1)))
    (o.1, o.2 || rc.2.2, (rsMax rs r).getD (0, 0), l)

/-- DRAIN with RSOP FINAL (R208). -/
def drainFinal (s : State) (c q : Nat) (up : Upset) (k : Cluster) (a : ArrStep) : State :=
  let tb := fld a.w 27 26
  let n := fld a.w 29 28
  if (List.range 32).any (fun r => k.full.contains (64 * tb + 32 * (n % 2) + r)) then s
  else match upFault up with
    | some e => arrFault (upCe s c up) c q e
    | none =>
      let s0 := upCe s c up
      let k0 := getC s0 c
      let core := getCore k0 q
      let outs := (List.range 32).map (fun r => finalRow core.rs n r)
      let k1 := (enumFrom 0 outs).foldl (fun y o =>
        let r := 64 * tb + 32 * (n % 2) + o.1
        setFull (tileWr y r o.2.1) r) k0
      let stat := outs.map (fun o => BitVec.ofNat 128 (unsx 32 o.2.2.1.1 + 2 ^ 32 * unsx 8 o.2.2.1.2 + 2 ^ 64 * unsx 32 o.2.2.2.1 + 2 ^ 96 * unsx 8 o.2.2.2.2))
      let k2 := setCore k1 q (omWrs (getCore k1 q) 16352 stat)
      let s1 := setC s0 c (setS k2 q (arrDone (getS k2 q)))
      if outs.any (fun o => o.2.1) then orReg s1 (pageOf .clu c + 0x44) 2 else s1
def execDrainFinal (c q : Nat) (up : Upset) (s : State) : Res :=
  .next (rsStep s c q up 2 (fun x k w => if fld w 19 16 ≠ 0 ∨ fld w 23 20 ≠ 0 then seqFault x c q 2 else arrPush x c q k w)
    (fun x k a => drainFinal x c q up k a))

/-! ### KV_INVAL (R200) -/

/-- The translations of the model slots that invalidations name leave the translation cache. -/
def invalDrop (s : State) (l : List (Nat × Nat)) : State :=
  { s with kv := { s.kv with tlb := s.kv.tlb.filter (fun e => !(l.any (fun i => i.1 == 64 || i.1 == e.2 / 2 ^ 128))) } }

/-- The invalidations of tricks up to `n` complete: KV_INVAL_TRICK takes its number. -/
def invalDone (s : State) (n : Nat) : State :=
  let due := s.kv.inval.filter (fun i => decide (i.2 ≤ n))
  if due.isEmpty then s
  else
    let s0 := invalDrop s due
    let s1 := { s0 with kv := { s0.kv with inval := s0.kv.inval.filter (fun i => decide (n < i.2)) } }
    wrPair (wrReg s1 (att 0x54) (w32 (b2n (!s1.kv.inval.isEmpty)))) (att 0x58) n

/-- A write to KV_INVAL: it completes at the end of the trick in flight, or at once when no trick is running. -/
def opKvInval (s : State) (v : W32) : State :=
  let m := if bit v 6 then 64 else fld v.toNat 5 0
  let at_ := match s.deal.cur, s.deal.ending.getLast? with
    | some t, _ => t.num
    | none, some t => t.num
    | none, none => s.deal.ended
  let s1 := wrReg { s with kv := { s.kv with inval := s.kv.inval ++ [(m, at_)] } } (att 0x54) 1
  invalDone s1 s.deal.ended
def execKvInval (mid : Nat) (v : W32) (s : State) : Res :=
  .next (pageAccess s mid .att (fun x => opKvInval x v))

/-! ### The append engine (R212) -/

/-- The near-bank unit of the bank pair that holds a page. -/
def pageUnit (s : State) (e : Nat) : Nat :=
  let p := (stkPlace s (pBase e)).1
  272 * plStk p + 8 * plCh p + plPair p
/-- A destination page's pair is being read by a near-bank unit run (R152, R212). -/
def entryBusy (s : State) (e : Nat) : Bool := pTier e == 1 && (getU s (pageUnit s e)).st != .idle

/-- One append row copied into the page that holds its position, for the sequence's function (R267). -/
def copyRow (s : State) (fn : Nat) (cx : List Byte) (layer row e t : Nat) : State :=
  let τ := t - pFpos e
  let a := appRow cx layer row
  let kb := 8 * cxDh cx * fmtBits (cxKmax cx)
  let vb := 8 * cxDh cx * fmtBits (cxVmax cx)
  let cp (x : State) (src dst n : Nat) : State :=
    match memRead x fn true src n .none with
    | (y, .ok bs) => (memWrite y fn dst bs).1
    | (y, _) => reportPoison y .att 0 0 0 src
  (List.range (cxHkv cx)).foldl (fun x h =>
    cp (cp x (a + h * kb) (pBase e + pgKey cx e h τ) kb) (a + cxHkv cx * kb + h * vb) (pBase e + pgVal cx e h τ) vb) s

/-- The page of the trick's snapshot, which holds those allocated for it, that holds position `p` of a sequence and layer (R198). -/
def pageFor (t : Trick) (g layer p : Nat) : Option Nat := (spGet [] t.snap (g * 512 + layer)).find? (fun e => pHolds e p)

/-- The append rows of an entry: row and position. -/
def entryRows (e : TEntry) : List (Nat × Nat) := (List.range (e.new + e.draft)).map (fun i => (e.approw + i, e.start + i))

/-- The models of a trick that have layer `l`, whose rows of the layer are still to be copied. -/
def copyModels (s : State) (t : Trick) (l : Nat) : List Nat :=
  ((t.entries.map (fun e => e.model)).eraseDups).filter (fun m => decide (l < cxLayers (getM s m).ctx) && !t.copied.contains (m * 512 + l))

/-- The layer's rows of every sequence of a trick copied. -/
def copyLayer (s : State) (t : Trick) (l : Nat) (ms : List Nat) : State :=
  (t.entries.filter (fun e => ms.contains e.model && !e.dropped)).foldl (fun x e =>
    (entryRows e).foldl (fun y r =>
      match pageFor t e.gid l r.2 with
      | some p => copyRow y (getSlot s e.gid).fn (getM s e.model).ctx l r.1 p r.2
      | none => y) x) s

/-- The layers of a model whose append rows the trick in flight has complete: those before the one that runs, and all once its runs
have ended. -/
def layersDone (t : Trick) (m : Nat) : Nat := if runsEnded t then spGet 0 t.layers m else spGet 0 t.layers m - 1
/-- The trick whose layer `l` is copied next: the oldest that is not ended, or the one in flight once the layer's rows are
complete. -/
def copyTrick (s : State) (l : Nat) : Option Trick :=
  match s.deal.ending.find? (fun t => !(copyModels s t l).isEmpty) with
  | some t => some t
  | none => match s.deal.cur with
    | some t => if (copyModels s t l).any (fun m => decide (l < layersDone t m)) then some t else none
    | none => none

def execAppendCopy (layer : Nat) (s : State) : Res :=
  match copyTrick s layer with
  | none => .next s
  | some t =>
    let ms := copyModels s t layer
    let busy := (t.entries.filter (fun e => ms.contains e.model && !e.dropped)).any (fun e => (entryRows e).any (fun r =>
      match pageFor t e.gid layer r.2 with | some p => entryBusy s p | none => false))
    if busy then .next s
    else
      let s1 := copyLayer s t layer ms
      let mark (x : Trick) : Trick := if x.num = t.num then { x with copied := x.copied ++ ms.map (fun m => m * 512 + layer) } else x
      .next { s1 with deal := { s1.deal with ending := s1.deal.ending.map mark, cur := s1.deal.cur.map mark } }

/-- APP_STS (Table 7-9): layers whose append rows are complete and not yet copied. A copy is one step, so none is running. -/
def appSts (s : State) : Nat :=
  2 * sumN ((s.deal.ending ++ s.deal.cur.toList).map (fun t => sumN (t.layers.map (fun p =>
    ((List.range (layersDone t p.1)).filter (fun l => !t.copied.contains (p.1 * 512 + l))).length)))) % 1024

/-! ### Moves between tiers (R218, R220) -/

/-- The vacated frame of a moved page falls due at the end of the last trick that has not ended (R215); with none it is freed
now. -/
def vacate (s : State) (m g layer fpos base : Nat) : State :=
  let d : Due := { trick := s.deal.trick, model := m, gid := g, layer := layer, kind := 2, fpos := fpos, base := base }
  if s.deal.cur.isSome ∨ !s.deal.ending.isEmpty then { s with kv := { s.kv with due := s.kv.due ++ [d] } } else makeFree s s.deal.ended d
/-- A page moved after its trick's commit: the trick's append rows go where it lies now. -/
def snapMove (s : State) (g layer old e : Nat) : State :=
  { s with deal := { s.deal with ending := s.deal.ending.map (fun t =>
      { t with snap := t.snap.map (fun p => if p.1 = g * 512 + layer then (p.1, p.2.map (fun x => if x = old then e else x)) else p) }) } }

/-- A page copied to a frame of the same size in another tier (0 stacks, 1 LPDDR) and its entry rewritten; false when no
frame is free. -/
def movePage (s : State) (m g layer : Nat) (p : Nat × Nat) (tier : Nat) : State × Bool :=
  let cx := (getM s m).ctx
  match popFrame s cx tier (pSze p.2) with
  | (s1, none) => (s1, false)
  | (s1, some base) =>
    match memRead s1 (getSlot s g).fn true (pBase p.2) (pgBytes cx p.2) .none with
    | (s2, .ok bs) =>
      let s3 := (memWrite s2 (getSlot s g).fn base bs).1
      let e := rePte p.2 (frameTier s3 base) (pUsed p.2) base
      (vacate (snapMove (putLeaf s3 (cxWalk cx) p.1 e) g layer p.2 e) m g layer (pFpos p.2) (pBase p.2), true)
    | (s2, _) => (reportPoison s2 .att 0 0 m (pBase p.2), false)

/-- Every leaf of a sequence, with its layer. -/
def seqLeaves (s : State) (m g : Nat) : List (Nat × (Nat × Nat)) :=
  let cx := (getM s m).ctx
  (List.range (cxLayers cx)).flatMap (fun l =>
    match (pagesOf s (cxWalk cx) g l).2 with
    | some ps => (ps.filter (fun p => pLeaf p.2)).map (fun p => (l, p))
    | none => [])

/-- R220: every stack page of a paused sequence moves to the tier; none while ring 18 is full (R214). -/
def pauseMove (s : State) (m g : Nat) : State :=
  ((seqLeaves s m g).filter (fun p => pTier p.2.2 == 1 || pTier p.2.2 == 2)).foldl (fun x p =>
    if freedRoom x (getM s m).ctx then (movePage x m g p.1 p.2 1).1 else x) s

/-- R220: after a RESUME the pages in the tier move back, newest first, while free frames stay above SPILL_LOW. -/
def resumeMove (s : State) (m g : Nat) : State :=
  let cx := (getM s m).ctx
  (sortBy (fun a b => decide (pFpos b.2.2 ≤ pFpos a.2.2)) ((seqLeaves s m g).filter (fun p => pTier p.2.2 == 3))).foldl (fun x p =>
    if decide (cxLow cx < stackFrames x cx) && freedRoom x cx then (movePage x m g p.1 p.2 0).1 else x) s

/-- The pages of a context that a spill may take: full stack pages, in ascending order of the trick that allocated them,
lowest first position first. -/
def spillPages (s : State) (m : Nat) : List (Nat × Nat × (Nat × Nat)) :=
  let all := (s.deal.slots.filter (fun e => e.2.model == m && (e.2.st == .active || e.2.st == .retained))).flatMap (fun e =>
    (seqLeaves s m e.1).filterMap (fun p =>
      if (pTier p.2.2 = 1 ∨ pTier p.2.2 = 2) ∧ pUsed p.2.2 = 2 ^ pSze p.2.2 then some (e.1, p) else none))
  let born (x : Nat × Nat × (Nat × Nat)) : Nat := spGet 0 s.kv.born (tlbKey x.1 x.2.1 (pFpos x.2.2.2))
  sortBy (fun a b => decide (born a < born b) || (born a == born b && decide (pFpos a.2.2.2 ≤ pFpos b.2.2.2))) all

/-- R218: pages spilled one after another. Frames of 4,096 tokens that are vacated and not yet returned count toward
SPILL_LOW + 64 (log entry 31). -/
def spillGo (s : State) (m : Nat) : State :=
  let cx := (getM s m).ctx
  if (getM s m).st ≠ 1 ∨ !cxSpill cx ∨ !freedRoom s cx then s
  else ((spillPages s m).foldl (fun (acc : State × Nat × Bool) p =>
    match acc with
    | (x, n, false) => (x, n, false)
    | (x, n, true) =>
      if cxLow cx + 64 ≤ n ∨ !freedRoom x cx then (x, n, false)
      else match movePage x m p.1 p.2.1 p.2.2 1 with
        | (y, true) => (bump y (att 0x6C), if pSze p.2.2.2 = 12 then n + 1 else n, true)
        | (y, false) => (y, n, true)) (s, stackFrames s cx, true)).1
/-- SPILL: below SPILL_LOW. -/
def opSpill (s : State) (m : Nat) : State := if cxLow (getM s m).ctx ≤ stackFrames s (getM s m).ctx then s else spillGo s m
def execSpill (slot : Nat) (s : State) : Res := .next (opSpill s slot)

/-! ### Deferred frees (R214) -/

/-- The first deferred frees of a context are made while ring 18 has room. -/
def undefer (m : Nat) : Nat → State → State
  | 0, s => s
  | f + 1, s =>
    match s.kv.deferred.find? (fun d => d.model == m) with
    | none => s
    | some d =>
      let cx := (getM s m).ctx
      let s0 := { s with kv := { s.kv with deferred := s.kv.deferred.erase d } }
      if pageInUse s d then undefer m f s0
      else if !freedRoom s cx then s
      else
        let s1 := if d.kind = 2 then s0 else dropLeaf s0 cx d.gid d.layer d.fpos
        undefer m f (slotFree (pushFreed s1 cx d.base (match s.deal.cur with | some t => t.num | none => s.deal.ended)) d.gid)
def execDeferredFree (slot : Nat) (s : State) : Res := .next (setHeld (undefer slot s.kv.deferred.length s))

end Sys2Proof.Machine
end

