-- ==== Sys2Proof/Machine/Journal.lean ====
section
/-!
DEFINITION. The NOR flash and the journal in it (chapter 15, R395 to R401): records, the scan, programming,
compaction, and what a segment's records restore at boot. The journal's bytes are the flash's bytes.
-/
namespace Sys2Proof.Machine

/-! ### The flash -/

/-- `n` bytes of the flash; an erased byte is 0xFF (log entry 23). -/
def fRd (s : State) (a n : Nat) : List Byte := (List.range n).map (fun i => spGet 0xFF s.flash (a + i))
/-- Programming clears bits only (NOR flash, log entry 23). -/
def fProg (m : Sparse Byte) (a : Nat) : List Byte → Sparse Byte
  | [] => m
  | b :: t => fProg (spPut 0xFF m a (spGet 0xFF m a &&& b)) (a + 1) t
/-- Bytes lo to hi − 1 erased. -/
def fErase (m : Sparse Byte) (lo hi : Nat) : Sparse Byte := m.filter (fun e => decide (e.1 < lo) || decide (hi ≤ e.1))

/-! ### Records and headers (R395, R396) -/

/-- The first byte of a segment. -/
def segBase (seg : Nat) : Nat := 0x0E000000 + seg * 0x1000000
/-- A segment's bytes. -/
def segBytes : Nat := 0x1000000
/-- A payload padded to 16-byte units. -/
def jrnPad (p : List Byte) : List Byte := p ++ List.replicate ((16 - p.length % 16) % 16) 0
/-- A record's bytes under an RSEQ (R396). -/
def jrnEnc (rseq : Nat) (r : JRec) : List Byte :=
  let p := jrnPad r.payload
  let h := leBytes (16 + p.length) 2 ++ leBytes r.type 1 ++ [(0 : Byte)] ++ leBytes rseq 4 ++ leBytes r.key 4
  h ++ leBytes (crc32c (h ++ p)) 4 ++ p
/-- The RESUME record. -/
def jrnResume : JRec := ⟨0x0D, 0, []⟩
/-- A segment header (Table 15-8), COMMIT erased. -/
def segHeader (segseq base : Nat) : List Byte :=
  let h := leBytes 0x4A524E31 4 ++ leBytes 1 2 ++ leBytes 0 2 ++ leBytes segseq 8 ++ leBytes base 4 ++ leBytes 0 12
  h ++ leBytes (crc32c h) 4
/-- The COMMIT word. -/
def segCommit : List Byte := leBytes 0x5A5A5A5A 4

/-- A record found in a segment: its RSEQ, itself, its offset in the segment and its length. -/
structure JFound where
  rseq : Nat
  rec_ : JRec
  off : Nat
  len : Nat
  deriving DecidableEq, Repr
/-- The record at an offset of a segment, if one stands there whole with a good CRC. -/
def jrnAt (s : State) (seg off : Nat) : Option JFound :=
  let h := fRd s (segBase seg + off) 16
  let len := leAt h 0 2
  if len < 16 ∨ 256 < len ∨ len % 16 ≠ 0 ∨ segBytes < off + len then none
  else
    let p := fRd s (segBase seg + off + 16) (len - 16)
    if crc32c (h.take 12 ++ p) = leAt h 12 4 then
      some { rseq := leAt h 4 4, rec_ := ⟨leAt h 2 1, leAt h 8 4, p⟩, off := off, len := len }
    else none
/-- The LEN field at an offset is erased. -/
def jrnErased (s : State) (seg off : Nat) : Bool := leNat (fRd s (segBase seg + off) 2) == 0xFFFF

/-- R398: the records from an offset on, in order, the offset where the scan ends, and whether it ended at a record torn by power loss.
`last` is the RSEQ of the record before; past a torn record only a RESUME record with the next RSEQ, at a 4 KiB boundary, counts, and
a boundary that is neither that nor erased is passed over (log entry 189). -/
def jrnScan (s : State) (seg : Nat) : Nat → Nat → Nat → Bool → List JFound × Nat × Bool
  | 0, off, _, torn => ([], off, torn)
  | f + 1, off, last, torn =>
    if segBytes < off + 16 ∨ jrnErased s seg off then ([], off, torn)
    else match jrnAt s seg off with
      | some r =>
        if !torn || (r.rec_.type == 0x0D && r.rseq == (last + 1) % 2 ^ 32) then
          let (l, e, t) := jrnScan s seg f (off + r.len) r.rseq false
          (r :: l, e, t)
        else jrnScan s seg f ((off / 4096 + 1) * 4096) last true
      | none => jrnScan s seg f ((off / 4096 + 1) * 4096) last true
/-- Steps enough for a scan: every record, and every boundary passed over, lists a byte of flash. -/
def jrnFuel (s : State) : Nat := s.flash.length + 2
/-- The whole scan of a segment. -/
def jrnScanSeg (s : State) (seg : Nat) : List JFound × Nat × Bool :=
  jrnScan s seg (jrnFuel s) 64 ((leNat (fRd s (segBase seg + 0x10) 4) + 2 ^ 32 - 1) % 2 ^ 32) false
/-- The records of a segment. -/
def jrnRecords (s : State) (seg : Nat) : List JFound := (jrnScanSeg s seg).1

/-! ### Programming (R397, R401) -/

/-- Where the next record goes: at the fill, or, after a torn or failed record, at the first erased 4 KiB boundary, with
a RESUME record first. -/
def jrnNext (s : State) : Nat :=
  if s.jrn.resume then
    let b := (s.jrn.fill + 4095) / 4096
    match (List.range (4096 - b)).find? (fun i => jrnErased s s.jrn.seg ((b + i) * 4096)) with
    | some i => (b + i) * 4096
    | none => segBytes
  else s.jrn.fill

/-- R401: a program or erase failure is counted; a crossing ends durability. -/
def jrnFailed (s : State) : State :=
  let s1 := errCe (bump s (0x5000 + 0x060)) .jrn 0
  let (s2, x) := winAdd s1 .jrn 0 0
  if x ∧ !s2.jrn.notDurable then
    let at_ := segBase s2.jrn.seg + s2.jrn.fill
    let s3 := { s2 with jrn := { s2.jrn with notDurable := true, compaction := none, due := false,
                                              lost := s2.jrn.lost ++ s2.jrn.queue, queue := [] } }
    rasPut s3 0x13 4 .jrn 0 0 at_
  else s2

/-- SVN of the header in a slot (Table 16-3). -/
def slotSvn (s : State) (slot : Nat) : Nat := leNat (fRd s (slot * 0x4000000 + 0x0C) 2) % 128
/-- The ROLLBACK record (R415). -/
def recRollback (s : State) (target state : Nat) : JRec :=
  ⟨0x0B, 0, leBytes s.fuses.svn 2 ++ leBytes target 2 ++ leBytes state 1 ++ leBytes 0 3 ++ leBytes (slotSvn s 0) 2 ++
    leBytes (slotSvn s 1) 2 ++ leBytes 0 4⟩
/-- A fuse burn whose STATE 1 record has become durable. -/
def burnDurable (x : Sec) : Sec := { x with burn := x.burn.map (fun b => (b.1, true)) }

/-- The journal's TRAIN record (Table 15-9): temperature, class, margins, and the settings, which the spec does not give
(free bytes, log entry 3), 176 bytes. -/
def recTrain (key : Nat) (t : Train) : JRec :=
  ⟨0x0A, key, leBytes t.temp 1 ++ leBytes (b2n t.low) 1 ++ leBytes t.timing 1 ++ leBytes t.voltage 1 ++
    (List.range 172).map (fun i => Config.freeByte (key * 2 ^ 32 + t.used) (2 ^ 40 + i))⟩

/-- The block whose page holds a count: the blocks of Table 15-2, by descending base. -/
def winBlk (pg : Nat) : Option (Blk × Nat) :=
  ([Blk.nbu, .ch, .opt, .lpd, .llc, .clu, .jrn].find? (fun b => decide ((blkBase b).1 ≤ pg))).map
    (fun b => (b, (pg - (blkBase b).1) / 0x1000))
/-- The COUNTER record of one element (R396): its count in the open window, from half its threshold on. The counts of rows
and of lanes (R378, R383) are no element of Table 13-4. -/
def recCounter (s : State) (e : Nat × List Nat) : Option JRec :=
  match (if e.1 < 2 ^ 60 then winBlk (e.1 / 65536) else none) with
  | none => none
  | some (b, i) =>
    let pg := pageOf b i
    let n := (e.2.filter (fun t => decide (s.time < t + winLen s pg))).length
    let thr := fld (rdN s (pg + 0x2C)) 23 0
    if thr ≠ 0 ∧ (thr + 1) / 2 ≤ n then some ⟨0x09, counterKey b i (e.1 % 65536), leBytes n 4⟩ else none

/-- The compaction's records of the live state (R397): every type Table 15-9 keeps by key, and the RAS records of the
FIFO. -/
def liveRecords (s : State) : List JRec :=
  let clus := (List.range 68).filter (fun c => s.regs.file.any (fun e =>
    decide (pageOf .clu c + 0x60 ≤ e.1) && decide (e.1 ≤ pageOf .clu c + 0xA8)))
  let stks := (List.range 8).filter (fun k => s.regs.file.any (fun e =>
    decide (pageOf .stk k + 0x80 ≤ e.1) && decide (e.1 < pageOf .stk k + 0x150)))
  clus.map (fun c => ⟨0x01, c, (List.range 16).flatMap (fun m => leBytes (rdN s (pageOf .clu c + 0x60 + 4 * m)) 4) ++
      (List.range 3).flatMap (fun m => leBytes (rdN s (pageOf .clu c + 0xA0 + 4 * m)) 4)⟩) ++
  s.wear.unitSub.map (fun e => ⟨0x02, e.1, leBytes e.2 2 ++ leBytes (fld (rdN s (pageOf .nbu e.2 + 0x40)) 11 0) 2⟩) ++
  s.wear.rows.map (fun e => recRow e.1 e.2 (16 - liveSpares s (e.1 / 2 ^ 21) (e.1 / 2 ^ 17 % 16))) ++
  (s.mem.rgn.filter (fun e => bitN e.2.toNat 6)).map (fun e => ⟨0x04, e.1, []⟩) ++
  stks.map (recRemap s) ++
  s.ras.stacksRetired.map (fun k => ⟨0x06, k, []⟩) ++
  ((List.range 4).filter (fun k => (List.range 48).any (fun w => (getWay s k w).phys != w))).map (recWays s) ++
  s.wear.tsv.map (fun e => recTsv e.1 e.2) ++
  s.wear.win.filterMap (recCounter s) ++
  s.wear.train.map (fun e => recTrain e.1 e.2) ++
  (s.ras.fifo.filter (fun r => decide (2 ≤ r.sev))).map (fun r => ⟨0x0C, 0, rasBytes r⟩)

/-- The records a compaction keeps of a segment (Table 15-9): the latest of each TYPE and KEY, the last 1,024 RAS
records, no RESUME. -/
def keptOf : List JRec → List JRec
  | [] => []
  | r :: t =>
    if r.type = 0x0D then keptOf t
    else if r.type = 0x0C then
      if (t.filter (fun x => x.type == 0x0C)).length < 1024 then r :: keptOf t else keptOf t
    else if t.any (fun x => x.type == r.type && x.key == r.key) then keptOf t
    else r :: keptOf t

/-- Records placed one after another under consecutive RSEQs: the bytes. -/
def jrnEncAll : Nat → List JRec → List Byte
  | _, [] => []
  | n, r :: t => jrnEnc (n % 2 ^ 32) r ++ jrnEncAll (n + 1) t

/-- R399 steps 1 and 2: the header and the kept records are written to the other segment. They end at RSEQ N, so the
records appended afterwards follow them (log entry 24). -/
def jrnCompactStart (s : State) : State :=
  let j := s.jrn
  let seg := 1 - j.seg
  let rollback := (jrnRecords s j.seg).filter (fun r => r.rec_.type == 0x0B) |>.map (fun r => r.rec_)
  let burning := match s.sec.burn with | some (t, _) => [recRollback s t 1] | none => keptOf rollback
  let recs := if j.resync then liveRecords s ++ burning else keptOf ((jrnRecords s j.seg).map (fun r => r.rec_))
  let base := (j.rseq + 1 + 2 ^ 32 - recs.length % 2 ^ 32) % 2 ^ 32
  let bytes := jrnEncAll base recs
  { s with
    flash := fProg (fProg s.flash (segBase seg) (segHeader (j.segseq + 1) base)) (segBase seg + 64) bytes
    jrn := { j with compaction := some { seg := seg, at_ := 64 + bytes.length, oldFrom := j.fill }, due := false } }

/-- A compaction begins when it may: none runs, no erase runs, the other segment is erased, the journal is durable
(R399, R403). -/
def jrnCompactIf (s : State) : State :=
  let j := s.jrn
  if j.notDurable ∨ j.compaction.isSome then s
  else if j.erasing ∨ j.eraseFailed then { s with jrn := { j with due := true } }
  else jrnCompactStart s

/-- What falls due after a record has been programmed: compaction at 12 MiB, or of the live state once the queue has
emptied while RESYNC is set (R397, R399). -/
def jrnDue (s : State) : State :=
  if s.jrn.compaction.isNone ∧ (0xC00000 ≤ s.jrn.fill ∨ s.jrn.due = true ∨ (s.jrn.resync = true ∧ s.jrn.queue.isEmpty = true)) then
    jrnCompactIf s
  else s

/-- R397: the record at the front of the queue is programmed and durable. -/
def jrnProgram1 (s : State) : State :=
  match s.jrn.queue with
  | [] => s
  | r :: rest =>
    let at_ := jrnNext s
    let pre := if s.jrn.resume then jrnEnc ((s.jrn.rseq + 1) % 2 ^ 32) jrnResume else []
    let n := (s.jrn.rseq + (if s.jrn.resume then 2 else 1)) % 2 ^ 32
    let bytes := pre ++ jrnEnc n r
    if segBytes < at_ + bytes.length then s
    else
      let s1 := { s with
        flash := fProg s.flash (segBase s.jrn.seg + at_) bytes
        jrn := { s.jrn with queue := rest, fill := at_ + bytes.length, rseq := n, resume := false }
        sec := if r.type = 0x0B ∧ leAt r.payload 4 1 = 1 then burnDurable s.sec else s.sec }
      jrnDue s1

/-- Every queued record programmed (R405 step 3). -/
def jrnFlush : Nat → State → State
  | 0, s => s
  | f + 1, s => if s.jrn.queue.isEmpty then s else jrnFlush f (jrnProgram1 s)

/-- `n` bytes at `a` whose program failed: what they then hold is open. -/
def flashTorn (s : State) (a n : Nat) : State :=
  { s with flash := fProg s.flash a ((List.range n).map (fun i => Config.freeByte s.free i)), free := s.free + n }

/-- JOURNAL_PROGRAM (R397, R401): the front record is programmed, or its program fails: what the bytes then hold is
open, and it is tried again at the next 4 KiB boundary after a RESUME record. -/
def execJournalProgram (ok : Bool) (s : State) : Res :=
  if !isOn s .jrn 0 ∨ !s.boot.cfgReady ∨ s.boot.recovery ∨ s.jrn.notDurable ∨ s.jrn.queue.isEmpty = true then .next s
  else if ok then .next (jrnProgram1 s)
  else
    let at_ := jrnNext s
    let n := match s.jrn.queue with | r :: _ => jrnLen r | [] => 0
    let s1 := flashTorn s (segBase s.jrn.seg + at_) n
    .next (jrnFailed { s1 with jrn := { s1.jrn with resume := true, fill := (at_ / 4096 + 1) * 4096 } })

/-! ### Compaction (R399, R400) -/


/-- JRN_COMPACT (Table 15-12): compact now; ignored while compacting. -/
def opJrnCompact (s : State) (v : W32) : State :=
  if bit v 0 ∧ isOn s .jrn 0 ∧ s.jrn.compaction.isNone then jrnCompactIf s else s
/-- JRN_COMPACT, by a master that reaches the page. -/
def execJrnCompact (mid : Nat) (v : W32) (s : State) : Res :=
  .next (pageAccess s mid .jrn (fun x => if isOn x .jrn 0 then opJrnCompact x v else if hostMid mid then hostRef x else x))

/-- The records appended to the old segment after N, copied, and COMMIT programmed: appends move to the new segment and
the old one's erase begins (R399 steps 3 to 5). -/
def execCompactionCommit (s : State) : Res :=
  match s.jrn.compaction with
  | none => .next s
  | some c =>
    let j := s.jrn
    let more := ((jrnRecords s j.seg).filter (fun r => decide (c.oldFrom ≤ r.off))).flatMap (fun r => fRd s (segBase j.seg + r.off) r.len)
    let f1 := fProg s.flash (segBase c.seg + c.at_) more
    let s1 := { s with
      flash := fProg f1 (segBase c.seg + 0x30) segCommit
      jrn := { j with seg := c.seg, fill := c.at_ + more.length, segseq := j.segseq + 1, resume := false,
                      compaction := none, erasing := true, eraseRetried := false, resync := false }
      sec := if j.resync then burnDurable s.sec else s.sec }
    .next (bump s1 (0x5000 + 0x05C))

/-- SEGMENT_ERASE_DONE (R399 step 5, R401): the segment that is not active is erased, or its erase fails and is tried
once more. -/
def execSegmentEraseDone (ok : Bool) (s : State) : Res :=
  if !s.jrn.erasing then .next s
  else if ok then
    let b := segBase (1 - s.jrn.seg)
    .next (jrnDue { s with flash := fErase s.flash b (b + segBytes)
                           jrn := { s.jrn with erasing := false, eraseRetried := false, eraseFailed := false } })
  else if s.jrn.eraseRetried then
    .next (jrnFailed { s with jrn := { s.jrn with erasing := false, eraseFailed := true } })
  else .next (jrnFailed { s with jrn := { s.jrn with eraseRetried := true } })

/-! ### The journal at boot (R398, R400) -/

/-- A segment that may be used: MAGIC, HCRC and COMMIT good. -/
def segGood (s : State) (seg : Nat) : Bool :=
  let h := fRd s (segBase seg) 0x34
  leAt h 0 4 == 0x4A524E31 && leAt h 0x20 4 == crc32c (h.take 0x20) && leAt h 0x30 4 == 0x5A5A5A5A
/-- SEGSEQ of a segment. -/
def segSeqOf (s : State) (seg : Nat) : Nat := leNat (fRd s (segBase seg + 8) 8)

/-- The segment used at boot (Table 15-10), the other erased; none: segment 0 is created with SEGSEQ 1. Records that
were never durable are gone with the power (R401). -/
def jrnMount (s : State) : State :=
  let pick : Option Nat :=
    if segGood s 0 && (!segGood s 1 || decide (segSeqOf s 1 < segSeqOf s 0)) then some 0
    else if segGood s 1 then some 1 else none
  match pick with
  | some g =>
    let (l, e, torn) := jrnScanSeg s g
    { s with
      flash := fErase s.flash (segBase (1 - g)) (segBase (1 - g) + segBytes)
      jrn := { queue := s.jrn.queue, seg := g, fill := e, segseq := segSeqOf s g, resume := torn,
               rseq := match l.getLast? with
                 | some r => r.rseq
                 | none => (leNat (fRd s (segBase g + 0x10) 4) + 2 ^ 32 - 1) % 2 ^ 32 } }
  | none =>
    { s with
      flash := fProg (fProg (fErase s.flash (segBase 0) (segBase 1 + segBytes)) (segBase 0) (segHeader 1 1))
        (segBase 0 + 0x30) segCommit
      jrn := { queue := s.jrn.queue } }

/-- What one durable record restores before any region leaves OFFLINE (R379, R383, R389, R390, R396): counters as events
at hub counter 0. RAS, RESUME and ROLLBACK records restore nothing here. -/
def jrnRestore1 (s : State) (r : JRec) : State :=
  let p := r.payload
  match r.type with
  | 0x01 =>
    let s1 := (List.range 16).foldl (fun x m => wrReg x (pageOf .clu r.key + 0x60 + 4 * m) (w32 (leAt p (4 * m) 4))) s
    (List.range 3).foldl (fun x m => wrReg x (pageOf .clu r.key + 0xA0 + 4 * m) (w32 (leAt p (64 + 4 * m) 4))) s1
  | 0x02 =>
    let j := leAt p 0 2
    let s1 := { s with
      wear := { s.wear with unitSub := spSet s.wear.unitSub r.key j }
      blk := { s.blk with st := spSet s.blk.st (pageOf .nbu r.key) .retired } }
    wrFld (wrFld s1 (pageOf .nbu j + 0x40) 11 0 (leAt p 2 2)) (pageOf .nbu r.key + 0x40) 11 0 0xFFF
  | 0x03 =>
    let ch := r.key / 2 ^ 21
    let bank := r.key / 2 ^ 17 % 16
    let s1 := { s with wear := { s.wear with rows := spSet s.wear.rows r.key { count := leAt p 1 1, spare := leAt p 0 1 } } }
    wrFld s1 (pageOf .ch ch + 0x118 + 4 * (bank / 4)) (8 * (bank % 4) + 7) (8 * (bank % 4)) (16 - min 16 (leAt p 2 1))
  | 0x04 => setRgn s r.key (Nat.lor (rgnEnt s r.key) 64)
  | 0x05 =>
    let s1 := (List.range 34).foldl (fun x n => wrReg x (pageOf .stk r.key + 0x80 + 4 * n) (w32 (leAt p (4 * n) 4))) s
    (List.range 16).foldl (fun x n => wrReg x (pageOf .stk r.key + 0x110 + 4 * n) (w32 (leAt p (136 + 4 * n) 4))) s1
  | 0x06 =>
    let gone := if s.ras.stacksRetired.contains r.key then s.ras.stacksRetired else s.ras.stacksRetired ++ [r.key]
    { s with
      blk := { s.blk with st := spSet s.blk.st (pageOf .stk r.key) .retired }
      ras := { s.ras with degraded := true, stacksRetired := gone } }
  | 0x07 =>
    (List.range 48).foldl (fun x w =>
      let ph := leAt p w 1
      if ph = w then x
      else
        let y := setWay x r.key w { getWay x r.key w with phys := ph }
        if ph = 0x3F ∨ y.mem.jokers.contains (r.key * 64 + ph) = true then y
        else { y with mem := { y.mem with jokers := y.mem.jokers ++ [r.key * 64 + ph] } }) s
  | 0x08 => { s with wear := { s.wear with tsv := spSet s.wear.tsv r.key ((p.filter (fun b => b.toNat < 64)).map (fun b => b.toNat)) } }
  | 0x09 =>
    let b := r.key / 2 ^ 27
    let i := r.key / 2 ^ 15 % 2 ^ 12
    let pg := match b with
      | 6 => some (pageOf .jrn 0) | 0x10 => some (pageOf .clu i) | 0x12 => some (pageOf .ch i) | 0x13 => some (pageOf .llc i)
      | 0x14 => some (pageOf .lpd i) | 0x15 => some (pageOf .opt i) | 0x18 => some (pageOf .nbu i) | _ => none
    match pg with
    | some pg => { s with wear := { s.wear with win := spSet s.wear.win (winKey pg (r.key % 2 ^ 15)) (List.replicate (min 4096 (leAt p 0 4)) 0) } }
    | none => s
  | 0x0A =>
    let t : Train := { temp := leAt p 0 1, low := leAt p 1 1 == 1, timing := leAt p 2 1, voltage := leAt p 3 1, valid := true }
    { s with wear := { s.wear with train := spSet s.wear.train r.key t } }
  | _ => s

/-- Every durable record of the active segment, in order. -/
def jrnRestore (s : State) : State := (jrnRecords s s.jrn.seg).foldl (fun x r => jrnRestore1 x r.rec_) s

end Sys2Proof.Machine
end

