-- ==== Sys2Proof/Machine/Units.lean ====
section
/-!
DEFINITION. Near-bank units (chapter 05): the command register area (R129 to R131), micro-instructions (R134 to R141),
the element unit (R142, R143), the base-die bus (R144 to R146), refresh and pre-emption (R150), faults (R154). A
command names a unit; the instruction is the one its micro-program store holds at its pc. An asynchronous instruction
moves its data when it issues and stays outstanding until ASYNC_INSTRUCTION_COMPLETE; an LMAC runs wave by wave.
-/
namespace Sys2Proof.Machine

/-! ### Registers of a unit -/

def nbuPg (u : Nat) : Nat := pageOf .nbu u
/-- LUNIT and UGRP in effect (R123, R129). -/
def lunit (s : State) (u : Nat) : Nat := fld (rdN s (nbuPg u + 0x40)) 11 0
def ugrp (s : State) (u : Nat) : Nat := fld (rdN s (nbuPg u + 0x40)) 15 12
/-- A sticky bit of NBU_STAT set. -/
def nbuStat (s : State) (u i : Nat) : State := orReg s (nbuPg u + 0x44) (w32 (2 ^ i))
/-- A general register; G0 reads 0. -/
def getG (x : Nbu) (n : Nat) : Nat := if n = 0 then 0 else (spGet 0 x.g n).toNat
/-- A general register written; a write of G0 is ignored. -/
def setG (x : Nbu) (n : Nat) (v : Nat) : Nbu := if n = 0 then x else { x with g := spSet x.g n (w32 v) }
/-- CSTAT (Table 5-5). -/
def cstat (x : Nbu) : Nat :=
  (match x.st with
   | .idle => 0 | .running => 1 | .fencing => 2 | .aborting => 3 | .faulted => 4 | .clearing => 5 | .testing => 6) +
  8 * b2n x.done + 65536 * x.tag
/-- What LDC reads: CR[0], CR[3], CR[6] and CR[7] read 0 (Table 5-5, R135). -/
def readCr (s : State) (u n : Nat) : Nat :=
  match n with
  | 0 | 3 | 6 | 7 => 0
  | 1 => cstat (getU s u)
  | _ => rdN s (nbuPg u + 0x100 + 4 * n)

/-! ### Faults and completion -/

/-- The NBU_STAT bit and the dealer's report code of a unit fault code (Tables 5-4 and 5-13). -/
def nbuBit : Nat → Nat
  | 1 => 4 | 2 => 11 | 3 => 5 | 4 => 7 | 5 => 9 | 6 => 8 | 7 => 10 | 8 => 3 | 9 => 2 | _ => 6
def nbuReport : Nat → Nat
  | 1 => 16 | 2 => 20 | 3 => 19 | 4 => 18 | 5 => 21 | 6 => 6 | 7 => 3 | 8 => 4 | 9 => 7 | _ => 8

/-- R154: the unit stops FAULTED, CR[2] and NBU_STAT record it, the dealer is told; RESIDUE, LB_UE and HANG count
toward the unit's threshold (Table 5-13). -/
def unitFault (s : State) (u code pc : Nat) (a : Nat := 0) : State :=
  let x := getU s u
  let s1 := setU s u { x with st := .faulted }
  let s2 := wrReg (nbuStat s1 u (nbuBit code)) (nbuPg u + 0x108) (w32 (code + 16 * (pc % 1024) + 65536 * x.cmdTag))
  let s3 := report s2 { code := nbuReport code, blk := .nbu, inst := u, elem := lunit s u
                        model := x.cmdTag, trick := rdPair s (nbuPg u + 0x110), addr := a }
  let s4 := if code = 2 then errUe s3 .nbu u else s3
  if code = 1 ∨ code = 2 ∨ code = 4 then
    let (s5, c) := winAdd s4 .nbu u 0
    if c then report s5 { code := repUnit, blk := .nbu, inst := u } else s5
  else s4

/-- R155: of faults that fall together the lowest code is recorded, and the NBU_STAT bit of each is set. -/
def unitFaults (s : State) (u : Nat) (codes : List Nat) (pc : Nat) : State :=
  match codes with
  | [] => s
  | c :: t => unitFault (t.foldl (fun x d => nbuStat x u (nbuBit d)) s) u c pc
/-- The faults of an instruction before it starts (R136, R139): MPERR, BOUNDS and FORMAT, lowest code first. -/
def issueFaults (mp bounds fmt : Bool) : List Nat :=
  (if mp then [6] else []) ++ (if bounds then [7] else []) ++ (if fmt then [8] else [])

/-- DONE and CSTAT.TAG at the completion of a command (R131). -/
def cmdDone (x : Nbu) : Nbu := { x with done := true, tag := x.cmdTag, st := .idle }
/-- The unit's contents zeroed as CLEAR does (Table 5-6). -/
def clearUnit (x : Nbu) : Nbu :=
  { x with lb := [], lbRes := [], acc := [], accRes := [], tabs := [], fifo := [], g := [], bev := 0, plans := [], outst := [], lost := none }
/-- LB, ACCF and the table store unspecified (R137). -/
def loseUnit (x : Nbu) (i : Nat) : Nbu :=
  { x with lb := [], lbRes := [], acc := [], accRes := [], tabs := [], fifo := [], plans := [], outst := [], lost := some i }

/-! ### Commands of the command register area (R131, Table 5-6) -/

/-- A command the unit's state refuses: ignored, CMDERR set. -/
def cmdErr (s : State) (u : Nat) : State := nbuStat (setU s u { getU s u with done := false }) u 12

/-- RUN: clears BEV and G1 to G15, a staged NBU_CFG takes effect, the program starts at ENTRY. -/
def unitRun1 (s : State) (u entry tag : Nat) : State :=
  let x := getU s u
  if x.st = .idle then
    let s1 := match x.staged with | some v => wrReg s (nbuPg u + 0x40) v | none => s
    setU s1 u { x with st := .running, done := false, cmdTag := tag, pc := entry, g := [], bev := 0, staged := none }
  else cmdErr s u
/-- ABORT. -/
def unitAbort1 (s : State) (u tag : Nat) : State :=
  let x := getU s u
  match x.st with
  | .idle | .faulted => useFree (setU s u (cmdDone { loseUnit x s.free with cmdTag := tag }))
  | .running => setU s u { x with st := .aborting, done := false, cmdTag := tag }
  | _ => cmdErr s u
/-- FENCE. -/
def unitFence1 (s : State) (u tag : Nat) : State :=
  let x := getU s u
  if x.st = .idle then setU s u { x with st := .fencing, done := false, cmdTag := tag } else cmdErr s u
/-- CLEAR. -/
def unitClear1 (s : State) (u tag : Nat) : State :=
  let x := getU s u
  match x.st with
  | .idle | .faulted => setU s u { x with st := .clearing, done := false, cmdTag := tag }
  | _ => cmdErr s u
/-- SELFTEST. -/
def unitSelftest1 (s : State) (u tag : Nat) : State :=
  let x := getU s u
  if x.st = .idle then setU s u { x with st := .testing, done := false, cmdTag := tag } else cmdErr s u

/-- BCLK or MCLK of a stack is lost: its units take no command (Table 14-3). -/
def stkClkLost (s : State) (k : Nat) : Bool := s.clk.lost.contains (.bclk k) || s.clk.lost.contains (.mclk k)
/-- The units a command packet reaches (R132): one unit, or every unit of the stack whose UGRP matches; a unit of a
stack that is not ON, or that is retired, receives nothing. -/
def targets (s : State) : UTarget → List Nat
  | .one u => if isOn s .nbu u && !stkClkLost s (u / 272) then [u] else []
  | .group stk g => if stkClkLost s stk then [] else ((List.range 272).map (fun i => 272 * stk + i)).filter (fun u => isOn s .nbu u && ugrp s u == g)

/-- UNIT_RUN. -/
def execUnitRun (tgt : UTarget) (entry tag : Nat) (s : State) : Res :=
  .next ((targets s tgt).foldl (fun x u => unitRun1 x u (entry % 1024) (tag % 65536)) s)
/-- UNIT_ABORT. -/
def execUnitAbort (tgt : UTarget) (tag : Nat) (s : State) : Res :=
  .next ((targets s tgt).foldl (fun x u => unitAbort1 x u (tag % 65536)) s)
/-- FENCE_CMD. -/
def execFenceCmd (tgt : UTarget) (tag : Nat) (s : State) : Res :=
  .next ((targets s tgt).foldl (fun x u => unitFence1 x u (tag % 65536)) s)
/-- CLEAR. -/
def execClear (tgt : UTarget) (tag : Nat) (s : State) : Res :=
  .next ((targets s tgt).foldl (fun x u => unitClear1 x u (tag % 65536)) s)
/-- SELFTEST. -/
def execSelftest (tgt : UTarget) (tag : Nat) (s : State) : Res :=
  .next ((targets s tgt).foldl (fun x u => unitSelftest1 x u (tag % 65536)) s)

/-- A write of CR[0] CMD through the register area: any other code is CMDERR. -/
def opUnitCmd (s : State) (u : Nat) (v : W32) : State :=
  let n := v.toNat
  let tag := fld n 31 16
  match fld n 3 0 with
  | 1 => unitRun1 s u (fld n 13 4) tag
  | 2 => unitAbort1 s u tag
  | 3 => unitFence1 s u tag
  | 4 => unitClear1 s u tag
  | 6 => unitSelftest1 s u tag
  | _ => cmdErr s u

/-- UNIT_COMMAND_COMPLETE (R131, R137): an ABORT, FENCE, CLEAR or SELFTEST ends. A failed SELFTEST leaves the unit
FAULTED with code 0xF, and the dealer retires it (R153). -/
def execUnitCommandComplete (u : Nat) (pass : Bool) (s : State) : Res :=
  let x := getU s u
  match x.st with
  | .aborting =>
    -- R155: a refresh that has pre-empted the unit completes first; one still due runs once the unit is idle
    if x.refRun then .next s
    else .next (useFree (setU s u (cmdDone (loseUnit { x with refDue := false, refRun := x.refDue } s.free))))
  | .fencing => .next (setU s u (cmdDone x))
  | .clearing => .next (setU s u (cmdDone (clearUnit x)))
  | .testing =>
    if pass then .next (wrReg (setU s u (cmdDone x)) (nbuPg u + 0x108) 0)
    else .next (report (wrReg (setU s u { cmdDone x with st := .faulted }) (nbuPg u + 0x108) (w32 (15 + 65536 * x.cmdTag)))
      { code := repUnit, blk := .nbu, inst := u, elem := lunit s u, model := x.cmdTag, trick := rdPair s (nbuPg u + 0x110) })
  | _ => .next s

/-! ### Parameter, window and configuration writes -/

/-- A write while the unit is not IDLE is discarded and sets MP_BUSY (R130). -/
def idleWrite (s : State) (u : Nat) (f : State → State) : State :=
  if (getU s u).st = .idle then f s else nbuStat s u 13

/-- CR[4..63] (R130); CR[6] and CR[7] are reserved, and take nothing. -/
def opCrWrite (s : State) (u n : Nat) (v : W32) : State :=
  if 4 ≤ n ∧ n ≤ 63 then idleWrite s u (fun x => if n = 6 ∨ n = 7 then x else wrReg x (nbuPg u + 0x100 + 4 * n) v) else s
def execCommandParameterWrite (mid u n : Nat) (v : W32) (s : State) : Res :=
  .next (gatedWrite s mid .nbu u (fun x => opCrWrite x u n v))

/-- The micro-program window (R133): the half MP_WSEL selects for the writing master. -/
def opMpWindow (s : State) (mid u n : Nat) (v : W32) : State :=
  if n < 512 then
    let i := n + 512 * (rdSel s (nbuPg u + 0x60) mid % 2)
    idleWrite s u (fun x => setU x u { getU x u with store := spSet (getU x u).store i v })
  else s
def execMpWindow (mid u n : Nat) (v : W32) (s : State) : Res :=
  .next (gatedWrite s mid .nbu u (fun x => opMpWindow x mid u n v))
/-- NBU_MPCRC (R133): CRC-32C over the whole store. -/
def mpCrc (s : State) (u : Nat) : Nat :=
  crc32c ((List.range 1024).flatMap (fun i => leBytes (spGet 0 (getU s u).store i).toNat 4))

/-- NBU_CFG (R129): staged to the next RUN while the unit is not IDLE. -/
def opNbuCfg (s : State) (u : Nat) (v : W32) : State :=
  if (getU s u).st = .idle then wrReg s (nbuPg u + 0x40) (v &&& 0xFFFF)
  else setU s u { getU s u with staged := some (v &&& 0xFFFF) }
def execNbuCfg (mid u : Nat) (v : W32) (s : State) : Res := .next (gatedWrite s mid .nbu u (fun x => opNbuCfg x u v))

/-! ### Issue (R134, R136) -/

/-- Reserved bits of an instruction word are zero, and its opcode is one of Table 5-7. -/
def mpOk (w : Nat) : Bool :=
  let z (hi lo : Nat) : Bool := fld w hi lo == 0
  match fld w 31 26 with
  | 0 | 1 | 2 | 3 => z 25 0
  | 4 | 5 => z 21 16
  | 6 => z 17 14
  | 7 => z 21 6
  | 8 => z 21 10
  | 9 => z 21 0
  | 0x10 | 0x11 => z 17 0
  | 0x12 => z 13 0
  | 0x13 => z 3 0
  | 0x14 => z 21 0
  | 0x15 => (match fld w 17 12 with
      | 6 => z 11 8
      | 9 => z 7 6
      | 1 | 2 | 3 | 4 | 5 | 7 | 8 => z 11 6
      | _ => false)
  | 0x16 => z 14 0 && decide (fld w 17 15 ≤ 2)
  | _ => false

/-- What a soft error in the unit does to an instruction (R125, R133, Table 2-10): the fault, if any. -/
def unitUp (up : Upset) : Option Nat :=
  match up with
  | .parity => some 5
  | .ue => some 2
  | .residue => some 1
  | _ => none

/-- The instruction at the pc issues: the unit runs, the word is well formed and of opcode `op` (and of the kind
`sel`), no soft error stops it. A malformed word, or a pc past the store, raises MPERR whatever command names it. -/
def uIssue (s : State) (u op : Nat) (up : Upset) (sel : Nat → Bool) (f : State → Nbu → Nat → State) : State :=
  let x := getU s u
  if x.st ≠ .running ∨ !isOn s .nbu u then s
  else if 1023 < x.pc then unitFault s u 6 x.pc
  else
    let w := (spGet 0 x.store x.pc).toNat
    if up = .parity then unitFault s u 5 x.pc
    else if !mpOk w then unitFault s u 6 x.pc
    else if fld w 31 26 ≠ op ∨ !sel w then s
    else match unitUp up with
      | some c => unitFault s u c x.pc
      | none => f (if up = .ce then errCe s .nbu u else s) x w

/-- The pc moves on. -/
def uNext (x : Nbu) : Nbu := { x with pc := x.pc + 1 }

/-- A pending refresh runs at a yield point (R150). -/
def yieldNow (s : State) (u : Nat) : State :=
  let x := getU s u
  if x.refDue then bump (setU s u { x with refDue := false, refRun := true }) (nbuPg u + 0x54) else s

/-! ### Synchronous instructions -/

/-- NOP. -/
def execNop (u : Nat) (up : Upset) (s : State) : Res :=
  .next (uIssue s u 0 up (fun _ => true) (fun s x _ => setU s u (uNext x)))
/-- END: waits for every outstanding instruction; a yield point. -/
def execMpEnd (u : Nat) (up : Upset) (s : State) : Res :=
  .next (uIssue s u 1 up (fun _ => true) (fun s x _ =>
    if x.outst.isEmpty then emit (yieldNow (setU s u (cmdDone (uNext x))) u) (.unitDone u x.cmdTag)
    else yieldNow s u))
/-- YIELD. -/
def execYieldPoint (u : Nat) (up : Upset) (s : State) : Res :=
  .next (uIssue s u 2 up (fun _ => true) (fun s x _ => yieldNow (setU s u (uNext x)) u))
/-- FENCE (R151): holds issue until no earlier WRL is outstanding. -/
def execFence (u : Nat) (up : Upset) (s : State) : Res :=
  .next (uIssue s u 3 up (fun _ => true) (fun s x _ =>
    if x.outst.any (fun o => o.op == 0x11) then yieldNow s u else setU s u (uNext x)))
/-- MOVI. -/
def execMovi (u : Nat) (up : Upset) (s : State) : Res :=
  .next (uIssue s u 4 up (fun _ => true) (fun s x w => setU s u (uNext (setG x (fld w 25 22) (fld w 15 0)))))
/-- MOVH. -/
def execMovh (u : Nat) (up : Upset) (s : State) : Res :=
  .next (uIssue s u 5 up (fun _ => true) (fun s x w =>
    setU s u (uNext (setG x (fld w 25 22) (getG x (fld w 25 22) % 65536 + 65536 * fld w 15 0)))))
/-- ADDI. -/
def execAddi (u : Nat) (up : Upset) (s : State) : Res :=
  .next (uIssue s u 6 up (fun _ => true) (fun s x w =>
    setU s u (uNext (setG x (fld w 25 22) (unsx 32 ((getG x (fld w 21 18) : Int) + sext 14 (fld w 13 0)))))))
/-- LDC. -/
def execLdc (u : Nat) (up : Upset) (s : State) : Res :=
  .next (uIssue s u 7 up (fun _ => true) (fun s x w => setU s u (uNext (setG x (fld w 25 22) (readCr s u (fld w 5 0))))))
/-- BNZ (R136: a target before instruction 0 raises MPERR). -/
def execBnz (u : Nat) (up : Upset) (s : State) : Res :=
  .next (uIssue s u 8 up (fun _ => true) (fun s x w =>
    let d := fld w 25 22
    let back := fld w 9 0
    if x.pc < back then unitFault s u 6 x.pc
    else
      let y := setG x d (unsx 32 ((getG x d : Int) - 1))
      setU s u (if getG y d = 0 then uNext y else { y with pc := y.pc - back })))
/-- The BEV condition of WAITB and BW. -/
def bevMet (x : Nbu) (t : Nat) : Bool := decide ((x.bev + 65536 - t % 65536) % 65536 < 32768)
/-- WAITB: a yield point while it waits. -/
def execWaitb (u : Nat) (up : Upset) (s : State) : Res :=
  .next (uIssue s u 9 up (fun _ => true) (fun s x w =>
    if bevMet x (getG x (fld w 25 22)) then setU s u (uNext x) else yieldNow s u))

/-! ### LB, ACCF, table slots and hazards -/

/-- A word of LB. -/
def lbRd (x : Nbu) (i : Nat) : BitVec 256 :=
  match spFind x.lb i with
  | some v => v
  | none => match x.lost with | none => 0 | some e => Config.freeLb e i
/-- R61, R125: the residues of a word's eight 32-bit parts, read as unsigned. -/
def resLb (v : BitVec 256) : List Nat := (List.range 8).map (fun i => v.toNat / 2 ^ (32 * i) % 2 ^ 32 % 7)
/-- A word of LB written, with its residues. -/
def lbWr (x : Nbu) (i : Nat) (v : BitVec 256) : Nbu := { x with lb := spSet x.lb i v, lbRes := spSet x.lbRes i (resLb v) }
def lbWrs (x : Nbu) (i : Nat) : List (BitVec 256) → Nbu
  | [] => x
  | v :: t => lbWrs (lbWr x i v) (i + 1) t
/-- Bytes of `n` words of LB. -/
def lbBytes (x : Nbu) (i n : Nat) : List Byte := (List.range n).flatMap (fun j => leBytes (lbRd x (i + j)).toNat 32)
/-- Words of a list of bytes, the last padded with 0. -/
def wordsOf (bs : List Byte) : List (BitVec 256) :=
  (chunks 32 ((bs.length + 31) / 32) bs).map (fun b => BitVec.ofNat 256 (leNat b))
/-- An entry of ACCF. -/
def accRd (x : Nbu) (i : Nat) : Int :=
  match spFind x.acc i with
  | some v => v
  | none => match x.lost with | none => 0 | some e => sext 32 (Config.freeWord e i).toNat
/-- An entry of ACCF written, with its residue (R125). -/
def accWr (x : Nbu) (i : Nat) (v : Int) : Nbu := { x with acc := spSet x.acc i v, accRes := spSet x.accRes i (resd v) }
/-- The value the table of an element names for a code (R58, R141): entries that no code names, and an escape's, are 0. -/
def tabVal (wf half c : Nat) : Int :=
  if half = 1 then sext 4 c
  else if half = 2 then (c % 16 : Nat)
  else if 2 ^ fmtBits wf ≤ c then 0
  else if fmtWeight wf then (if c = escCode wf then 0 else weightVal wf [] c)
  else codeVal wf c
/-- A slot built over 256 activations: each entry carries the residue of value(c) × a (R58, R125, Table 2-10). -/
def mkSlot (wf af half : Nat) (act : List Int) : TSlot :=
  { wfmt := wf, afmt := af, half := half, act := act
    res := act.map (fun a => packN 3 ((List.range 16).map (fun c => resd (tabVal wf half c) * resd a % 7))) }
/-- A table slot. -/
def tabRd (x : Nbu) (i : Nat) : TSlot :=
  match spFind x.tabs i with
  | some v => v
  | none => match x.lost with
    | none => {}
    | some e => mkSlot (Config.freeNat e i % 16) 6 (Config.freeNat e (8 + i) % 3)
        ((List.range 256).map (fun j => sext 8 (Config.freeInt e (i * 256 + j) % 256).toNat))
/-- Entry T[c] of table `i` of a slot, with the residue it carries. -/
def tabEnt (t : TSlot) (i c : Nat) : Int × Nat := (t.act.getD i 0 * tabVal t.wfmt t.half c, t.res.getD i 0 / 8 ^ c % 8)

/-- Two spans overlap where either side writes (R134). -/
def clash (a b : Span) : Bool :=
  a.space == b.space && (a.wr || b.wr) && decide (a.lo < b.lo + b.n) && decide (b.lo < a.lo + a.n)
/-- An asynchronous instruction may start: fewer than 8 are outstanding and none overlaps it. -/
def uReady (x : Nbu) (sp : List Span) : Bool :=
  decide (x.outst.length < 8) && !x.outst.any (fun o => o.spans.any (fun a => sp.any (clash a)))
/-- An asynchronous instruction goes out. -/
def uOut (x : Nbu) (op : Nat) (sp : List Span) : Nbu := { uNext x with outst := x.outst ++ [{ pc := x.pc, op := op, spans := sp }] }
/-- The engine of an opcode (R134). -/
def engineOf : Nat → Nat
  | 0x14 => 0x13
  | o => o

/-- ASYNC_INSTRUCTION_COMPLETE: an outstanding instruction completes in its engine, in issue order; an LMAC completes
by its last wave. -/
def execAsyncInstructionComplete (u k : Nat) (s : State) : Res :=
  let x := getU s u
  match x.outst[k]? with
  | none => .next s
  | some o =>
    if o.op = 0x13 ∨ (x.outst.take k).any (fun p => engineOf p.op == engineOf o.op) then .next s
    else .next (setU s u { x with outst := x.outst.eraseIdx k })

/-! ### The bank pair (R126, R127) -/

/-- The place of a pair offset of unit `u`. -/
def uPlace (u off : Nat) : Nat := place (u / 272) (u % 272 / 8) (u % 8) off
/-- The (logical channel, pair) that a unit serves. -/
def unitPair (s : State) (u : Nat) : Option (Nat × Nat) :=
  match lentTo s (u / 272) (u % 272 / 8) (u % 8) with
  | some x => some x
  | none => (logicalOf s (u / 272) (u % 272 / 8)).map (fun l => (l, u % 8))
/-- The first of the 128 regions whose C data the unit's bank pair holds (R127, R158, R159): those of the pair it has been lent to
or serves, `none` where the pair serves none or its C data lies in a joker pair. -/
def uBase (s : State) (u : Nat) : Option Nat :=
  let stk := u / 272
  match unitPair s u with
  | none => none
  | some (l, p) =>
    if (lentTo s stk (u % 272 / 8) (u % 8)).isNone ∧ (premapFind s stk l p).isSome then none
    else some (linAddr stk l p 0 / 2 ^ 21)
/-- The region of a pair offset. -/
def uRegion (s : State) (u off : Nat) : Option Nat := (uBase s u).map (fun b => b + off / 2 ^ 21)
/-- The faults of an access to `n` bytes at a pair offset (R127): E data, and a pair that holds no C data, is REGION; TRANSIT is
POISON, and so is OFFLINE, as Table 6-4 has it for near-bank units (log entry 139). -/
def tagFault (s : State) (u off n : Nat) : List Nat :=
  match uRegion s u off with
  | none => [9]
  | some r =>
    let rs := (List.range ((off + n - 1) / 2 ^ 21 + 1 - off / 2 ^ 21)).map (fun i => rgnClass s (r + i))
    (if rs.any (fun c => c == 1) then [9] else []) ++ (if rs.any (fun c => c == 2 || c == 3) then [10] else [])
/-- A read of the pair that meets a detection mismatch (R127, Table 6-10). -/
def uMismatch (s : State) (u off pc : Nat) : State :=
  let a := (uRegion s u off).getD 0 * 2 ^ 21 + off % 2 ^ 21
  unitFault (cMismatch s (uPlace u off) a) u 3 pc a

/-- RDL. -/
def opRdl (s : State) (u : Nat) (up : Upset) (x : Nbu) (w : Nat) : State :=
  let a := getG x (fld w 25 22)
  let b := getG x (fld w 21 18)
  let lo := fld b 8 0
  let n := fld b 18 9
  let sp : List Span := [⟨0, lo, n, true⟩]
  let fs := issueFaults (b / 2 ^ 19 != 0 || (decide (a < 2 ^ 28) && a % 32 != 0))
    (decide (2 ^ 28 ≤ a) || n == 0 || decide (512 < lo + n) || decide (2 ^ 28 < a + 32 * n)) false
  if !fs.isEmpty then unitFaults s u fs x.pc
  else if x.refRun ∨ !uReady x sp then s
  else match tagFault s u a (32 * n) with
    | f :: t => unitFaults s u (f :: t) x.pc
    | [] =>
      if up = .detect then uMismatch s u a x.pc
      else setU s u (uOut (lbWrs x lo (wordsOf (rdBytes s.mem.dram (uPlace u a) (32 * n)))) 0x10 sp)
def execRdl (u : Nat) (up : Upset) (s : State) : Res :=
  .next (uIssue s u 0x10 up (fun _ => true) (fun s x w => opRdl s u up x w))

/-- WRL. -/
def opWrl (s : State) (u : Nat) (x : Nbu) (w : Nat) : State :=
  let a := getG x (fld w 25 22)
  let b := getG x (fld w 21 18)
  let lo := fld b 8 0
  let n := fld b 18 9
  let sp : List Span := [⟨0, lo, n, false⟩]
  let fs := issueFaults (b / 2 ^ 19 != 0 || (decide (a < 2 ^ 28) && a % 32 != 0))
    (decide (2 ^ 28 ≤ a) || n == 0 || decide (512 < lo + n) || decide (2 ^ 28 < a + 32 * n)) false
  if !fs.isEmpty then unitFaults s u fs x.pc
  else if x.refRun ∨ !uReady x sp then s
  else match tagFault s u a (32 * n) with
    | f :: t => unitFaults s u (f :: t) x.pc
    | [] => setU (dramPut s (uPlace u a) none (lbBytes x lo n)) u (uOut x 0x11 sp)
def execWrl (u : Nat) (up : Upset) (s : State) : Res :=
  .next (uIssue s u 0x11 up (fun _ => true) (fun s x w => opWrl s u x w))

/-! ### Tables and lanes (R58 to R60, R138 to R141) -/

/-- Words of an activation group. -/
def gWords (afmt : Nat) : Nat := if fmtBits afmt = 8 then 8 else 4
/-- Slots a group takes: two for K8 and V8 (R141). -/
def slotsPer (wfmt : Nat) : Nat := if fmtBits wfmt = 8 then 2 else 1
/-- The 256 activations of a group at LB word `i`. -/
def lbAct (x : Nbu) (afmt i : Nat) : List Int :=
  (unpackN (fmtBits afmt) 256 (leNat (lbBytes x i (gWords afmt)))).map (codeVal afmt)

/-- TBLD (R139). -/
def opTbld (s : State) (u : Nat) (x : Nbu) (w : Nat) : State :=
  let g := getG x (fld w 25 22)
  let af := fld w 21 18
  let wf := fld w 17 14
  let lo := fld g 8 0
  let str := fld g 17 9
  let ng := fld g 20 18 + 1
  let ns := fld g 23 21 + 1
  let s0 := fld g 26 24
  let k := slotsPer wf
  let sp : List Span := (List.range ns).map (fun q => ⟨0, lo + q * str, ng * gWords af, false⟩) ++ [⟨2, s0, ng * ns * k, true⟩]
  let fs := issueFaults (g / 2 ^ 27 != 0)
    (decide (512 < lo + (ns - 1) * str + ng * gWords af) || decide (8 < s0 + ng * ns * k)) (wf == 4 || !pairOk wf af)
  if !fs.isEmpty then unitFaults s u fs x.pc
  else if !uReady x sp then s
  else
    let y := (List.range (ng * ns)).foldl (fun y i =>
      let act := lbAct x af (lo + i % ns * str + i / ns * gWords af)
      if k = 2 then
        { y with tabs := spSet (spSet y.tabs (s0 + 2 * i) (mkSlot wf af 1 act)) (s0 + 2 * i + 1) (mkSlot wf af 2 act) }
      else { y with tabs := spSet y.tabs (s0 + i) (mkSlot wf af 0 act) }) x
    setU s u (uOut y 0x12 sp)
def execTbld (u : Nat) (up : Upset) (s : State) : Res :=
  .next (uIssue s u 0x12 up (fun _ => true) (fun s x w => opTbld s u x w))

/-- The length of a unit-form record from its header word (Table 5-3); a key or value record is 256 packed codes
(log entry 19). `none` where the header's count makes no record. -/
def recLen (f hdr : Nat) : Option Nat :=
  if !fmtWeight f then some (grpBytes f)
  else if 8 < hdr % 16 then none
  else some ((4 + (if f = 4 then 16 else 0) + grpBytes f + 2 * (hdr % 16) + 3) / 4 * 4)
/-- A record is one the lanes may use (R128, Table 2-5). -/
def recOk (f : Nat) (b : List Byte) : Bool :=
  if !fmtWeight f then true
  else
    let hdr := leAt b 0 4
    let cbn := if f = 4 then 16 else 0
    let cs := groupCodes f ((b.drop (4 + cbn)).take (grpBytes f))
    hdr / 16 == 0 && groupOk f cs hdr ((b.drop 4).take cbn) &&
      (b.drop (4 + cbn + grpBytes f + 2 * (hdr % 16))).all (fun x => x == 0)
/-- A record's group: codes with the values of its escapes. -/
def recGroup (f : Nat) (b : List Byte) : List (Nat × Option Int) :=
  if !fmtWeight f then (groupCodes f (b.take (grpBytes f))).map (fun c => (c, none))
  else
    let cbn := if f = 4 then 16 else 0
    let cs := groupCodes f ((b.drop (4 + cbn)).take (grpBytes f))
    let side := (b.drop (4 + cbn + grpBytes f))
    (cs.foldl (fun (acc : List (Nat × Option Int) × Nat) c =>
      if c = escCode f then (acc.1 ++ [(c, some (sext 16 (leAt side (2 * acc.2) 2)))], acc.2 + 1)
      else (acc.1 ++ [(c, none)], acc.2)) ([], 0)).1
/-- A record's codebook. -/
def recCb (b : List Byte) : List Byte := (b.drop 4).take 16

/-- A lane's sum of one group (R58 to R60, R141) with its residue accumulator and its clamps: products by lookup under the clamp
of R49, escapes exactly; a CB4 group through its buckets, each with its residue (R61). `ent i c` is what the lookup of code `c` at
position `i` gives. -/
def laneSum (f : Nat) (cb : List Byte) (g : List (Nat × Option Int)) (act : List Int) (ent : Nat → Nat → Int × Nat) : Cell :=
  let ga := enumFrom 0 (List.zipWith (fun c a => (c, a)) g act)
  let esc (c : Cell) (e a : Int) : Cell := cellAcc c (e * a) (resd e * resd a % 7)
  if f = 4 then
    let r := ga.foldl (fun (acc : Cell × List (Int × Nat)) q =>
      match q.2.1.2 with
      | some e => (esc acc.1 e q.2.2, acc.2)
      | none => let o := acc.2.getD q.2.1.1 (0, 0)
                (acc.1, setAt acc.2 q.2.1.1 (o.1 + q.2.2, (o.2 + resd q.2.2) % 7))) ({ acc := 0 }, List.replicate 15 (0, 0))
    (List.range 15).foldl (fun c k =>
      let v : Int := sext 8 (cb.getD k 0).toNat
      let o := r.2.getD k (0, 0)
      cellAcc c (o.1 * v) (o.2 * resd v % 7)) r.1
  else
    ga.foldl (fun c q =>
      match q.2.1.2 with
      | some e => esc c e q.2.2
      | none => let o := ent q.1 q.2.1.1
                cellAcc c o.1 o.2) { acc := 0 }

/-- The records of an LMAC in LB (SRC = 1): its first `n` records, up to the one that passes word 511 (BOUNDS, 7) or whose header
makes no record (FORMAT, 8). -/
def lbRecs (f : Nat) : Nat → List Byte → List (List Byte) × Option Nat
  | 0, _ => ([], none)
  | n + 1, bs =>
    if bs.length < 4 then ([], some 7)
    else match recLen f (leAt bs 0 4) with
      | none => ([], some 8)
      | some l => if bs.length < l then ([], some 7) else
          let r := lbRecs f n (bs.drop l)
          (bs.take l :: r.1, r.2)

/-- LMAC: the plan is checked and its records start to be fetched (R138, R140). With BW = 1 the records of SRC = 1 may come by the
broadcast the first wave waits for, so they are looked at when a wave needs them; until then only their least length is known, and
the plan holds LB to word 511 (log entry 138). CB4 activations are A4 or A8, and no field says which (log entry 20). -/
def opLmac (s : State) (u : Nat) (x : Nbu) (w : Nat) : State :=
  let a := getG x (fld w 25 22)
  let p := getG x (fld w 21 18)
  let wf := fld w 17 14
  let src := fld w 13 13
  let qr := getG x (fld w 12 9)
  let bw := bitN w 4
  let bt := getG x (fld w 8 5)
  let nr := fld p 7 0
  let ng := fld p 13 8 + 1
  let ns := fld p 16 14 + 1
  let accb := fld p 24 17
  let s0 := fld p 27 25
  let k := slotsPer wf
  let af := if Config.freeBool s.free 0 then 6 else 5
  let gw := gWords af
  let inLb : Bool := src == 1 && decide (a / 512 = 0)
  let recs := if inLb && !bw then lbRecs wf (nr * ng) (lbBytes x a (512 - a)) else ([], none)
  let least := (nr * ng * (recLen wf 0).getD 0 + 31) / 32
  let rlen := if bw ∨ recs.2.isSome then 512 - a else (sumN (recs.1.map (fun b => b.length)) + 31) / 32
  let sp : List Span := [⟨1, accb, nr * ns, true⟩] ++
    (if wf = 4 then (List.range ns).map (fun q => ⟨0, fld qr 8 0 + q * fld qr 17 9, ng * gw, false⟩) else [⟨2, s0, ng * ns * k, false⟩]) ++
    (if src = 1 then [⟨0, a, rlen, false⟩] else [])
  let fs := issueFaults (p / 2 ^ 28 != 0 || (src == 1 && a / 512 != 0) || (wf == 4 && qr / 2 ^ 18 != 0) || (bw && bt / 65536 != 0))
    ((src == 0 && decide (2 ^ 28 ≤ a)) || nr == 0 || decide (256 < accb + nr * ns) || (wf != 4 && decide (8 < s0 + ng * ns * k)) ||
      (wf == 4 && s0 != 0) || (wf == 4 && decide (512 < fld qr 8 0 + (ns - 1) * fld qr 17 9 + ng * gw)) ||
      (inLb && decide (512 < a + least)))
    (!(fmtWeight wf || (decide (7 ≤ wf) && decide (wf ≤ 11))))
  if !fs.isEmpty then unitFaults s u fs x.pc
  else if !uReady x sp then s
  else if recs.2 = some 7 then unitFault s u 7 x.pc
  else if wf ≠ 4 ∧ (List.range (ng * ns * k)).any (fun i => (tabRd x (s0 + i)).wfmt != wf) then unitFault s u 8 x.pc
  else
    let pl : Plan := { pc := x.pc, wfmt := wf, src := src, a := a, nr := nr, ng := ng, ns := ns, accb := accb, slot0 := s0,
                       qw := fld qr 8 0, qs := fld qr 17 9, af := af, bw := if bw then some bt else none }
    useFree (setU s u { uOut x 0x13 sp with plans := x.plans ++ [pl] })
def execLmac (u : Nat) (up : Upset) (s : State) : Res :=
  .next (uIssue s u 0x13 up (fun _ => true) (fun s x w => opLmac s u x w))

/-- The first plan with records still to fetch, with its position. -/
def fetchPlan (x : Nbu) : Option (Nat × Plan) :=
  (enumFrom 0 x.plans).find? (fun e => e.2.src == 0 && decide (e.2.fetched < e.2.nr * e.2.ng))

/-- RECORD_FETCH (R140): the next record of the earliest plan that lacks one enters the FIFO, unless it is full. -/
def execRecordFetch (u : Nat) (up : Upset) (s : State) : Res :=
  let x := getU s u
  if x.st ≠ .running ∨ !isOn s .nbu u ∨ x.refRun then .next s
  else match fetchPlan x with
    | none => .next s
    | some (i, p) =>
      if up = .parity ∨ up = .ue ∨ up = .residue then .next (unitFault s u ((unitUp up).getD 2) p.pc)
      else if 2 ^ 28 < p.a + 4 then .next (unitFault s u 7 p.pc)
      else match tagFault s u p.a 4 with
        | f :: t => .next (unitFaults s u (f :: t) p.pc)
        | [] =>
          match recLen p.wfmt (leNat (rdBytes s.mem.dram (uPlace u p.a) 4)) with
          | none => .next (if up = .detect then uMismatch s u p.a p.pc else unitFault s u 8 p.pc)
          | some n =>
            if 2 ^ 28 < p.a + n then .next (unitFault s u 7 p.pc)
            else match tagFault s u p.a n with
              | f :: t => .next (unitFaults s u (f :: t) p.pc)
              | [] =>
                if up = .detect then .next (uMismatch s u p.a p.pc)
                else if 8192 < sumN (x.fifo.map (fun b => b.length)) + n then .next s
                else
                  let s1 := if up = .ce then errCe s .nbu u else s
                  .next (setU s1 u { x with fifo := x.fifo ++ [rdBytes s.mem.dram (uPlace u p.a) n]
                                            plans := setAt x.plans i { p with fetched := p.fetched + 1, a := p.a + n } })

/-- The activations of task (j, q) of a plan: of its first table slot, or of LB for CB4. -/
def taskAct (x : Nbu) (p : Plan) (j q : Nat) : List Int :=
  if p.wfmt = 4 then lbAct x p.af (p.qw + q * p.qs + j * gWords p.af)
  else (tabRd x (p.slot0 + slotsPer p.wfmt * (j * p.ns + q))).act
/-- What the lookup of code `c` at position `i` gives task (j, q), with its residue: T[c], or for K8 and V8
16 × T_h[h] + T_l[l] of the task's two slots (R58, R141). -/
def taskEnt (x : Nbu) (p : Plan) (j q i c : Nat) : Int × Nat :=
  let n := slotsPer p.wfmt
  let t0 := tabRd x (p.slot0 + n * (j * p.ns + q))
  if n = 2 then
    let h := tabEnt t0 i (c / 16)
    let l := tabEnt (tabRd x (p.slot0 + n * (j * p.ns + q) + 1)) i (c % 16)
    (16 * h.1 + l.1, (16 * h.2 + l.2) % 7)
  else tabEnt t0 i c

/-- The tasks of a wave accumulated into ACCF in task order (R138): the unit, the clamps, and whether every lane accumulator
agreed with its residue accumulator as it was drained (Table 2-10). -/
def waveGo (p : Plan) (recs : List (List Byte)) (r0 : Nat) : Nat → Nat → Nbu × Nat × Bool → Nbu × Nat × Bool
  | 0, _, acc => acc
  | n + 1, t, (x, c, ok) =>
    let r := t / p.ns
    let q := t % p.ns
    let b := recs.getD (r - r0) []
    let l := laneSum p.wfmt (recCb b) (recGroup p.wfmt b) (taskAct x p (r % p.ng) q) (taskEnt x p (r % p.ng) q)
    let i := p.accb + r / p.ng * p.ns + q
    let (a, t1) := satAdd (accRd x i) l.acc
    waveGo p recs r0 n (t + 1) (accWr x i a, c + l.sats + b2n t1, ok && resd l.acc == l.res)

/-- LMAC_WAVE (R138): the next wave of the oldest plan, once its records and the BEV condition are there. A record that Table 2-5
or R128 refuses is found before any product of the wave is added; records in LB that pass word 511 raise BOUNDS. -/
def execLmacWave (u : Nat) (up : Upset) (s : State) : Res :=
  let x := getU s u
  match x.plans with
  | [] => .next s
  | p :: rest =>
    if x.st ≠ .running ∨ !isOn s .nbu u then .next s
    else if p.next = 0 ∧ (match p.bw with | some t => !bevMet x t | none => false) = true then .next s
    else
      let total := p.nr * p.ng * p.ns
      let n := min 32 (total - p.next)
      let r0 := p.next / p.ns
      let r1 := (p.next + n - 1) / p.ns
      let lb := if p.src = 1 then lbRecs p.wfmt (r1 + 1) (lbBytes x p.a (512 - p.a)) else ([], none)
      let recs := if p.src = 1 then lb.1.drop r0 else if r1 < p.fetched then x.fifo.take (r1 + 1 - r0) else []
      let up1 := if up = .ce then errCe s .nbu u else s
      if p.src = 0 ∧ recs.isEmpty then .next s
      else if recs.any (fun b => !recOk p.wfmt b) then .next (unitFault s u 8 p.pc)
      else match lb.2, unitUp up with
        | some f, _ => .next (unitFault s u f p.pc)
        | none, some f => .next (unitFault s u f p.pc)
        | none, none =>
          let (y, c, ok) := waveGo p recs r0 n p.next (x, 0, true)
          let done := p.next + n
          let fifo := if p.src = 1 then y.fifo else y.fifo.drop (done / p.ns - r0)
          let z : Nbu := if done = total then
              { y with fifo := fifo, plans := rest, outst := y.outst.filter (fun o => !(o.op == 0x13 && o.pc == p.pc && o == (y.outst.find? (fun e => e.op == 0x13)).getD o)) }
            else { y with fifo := fifo, plans := { p with next := done } :: rest }
          let s1 := setU up1 u z
          if !ok then .next (unitFault up1 u 1 p.pc)
          else .next (if c = 0 then s1 else nbuStat (bumpBy s1 (nbuPg u + 0x48) c) u 0)

/-- ACCZ. -/
def opAccz (s : State) (u : Nat) (x : Nbu) (w : Nat) : State :=
  let g := getG x (fld w 25 22)
  let lo := fld g 7 0
  let n := fld g 16 8
  let sp : List Span := [⟨1, lo, n, true⟩]
  let fs := issueFaults (g / 2 ^ 17 != 0) (n == 0 || decide (256 < lo + n)) false
  if !fs.isEmpty then unitFaults s u fs x.pc
  else if !uReady x sp then s
  else setU s u (uOut ((List.range n).foldl (fun y i => accWr y (lo + i) 0) x) 0x14 sp)
def execAccz (u : Nat) (up : Upset) (s : State) : Res :=
  .next (uIssue s u 0x14 up (fun _ => true) (fun s x w => opAccz s u x w))

/-! ### The element unit (R142, R143) -/

/-- A TX32 row of 32 lanes in LB. -/
def lbRow (x : Nbu) (i : Nat) : List Int × Int :=
  let b := lbBytes x i 5
  ((List.range 32).map (fun l => sext 32 (leAt b (4 * l) 4)), sext 8 (leAt b 128 1))
/-- The five words of a row. -/
def rowWords (m : List Int) (e : Int) : List (BitVec 256) :=
  wordsOf (m.flatMap (fun v => leBytes (unsx 32 v) 4)) ++ [BitVec.ofNat 256 (unsx 8 e)]
/-- A scalar word. -/
def scalarWord (m e : Int) : BitVec 256 := BitVec.ofNat 256 (unsx 32 m + 2 ^ 32 * unsx 8 e)
def scalarVal (v : BitVec 256) : Int × Int := (sext 32 v.toNat, sext 8 (v.toNat / 2 ^ 32))

/-- The operands of an EOP as decoded. -/
structure Eop where
  efn : Nat
  len : Nat
  src : Nat
  dst : Nat
  nrow : Nat
  opw : Nat
  omode : Nat
  xf : Nat
  deriving DecidableEq, Repr

/-- LB words of the operand range. -/
def eopOpWords (e : Eop) : Nat :=
  match e.efn with
  | 1 | 7 | 8 => 0
  | 6 => 65
  | 9 => 1
  | _ => match e.omode with | 0 => 0 | 2 => 5 * e.nrow | _ => 5
/-- LB words of the destination range. -/
def eopDstWords (e : Eop) : Nat :=
  match e.efn with
  | 7 | 8 => 1
  | 9 => (e.nrow * 32 * fmtBits (fld e.xf 11 8) + 255) / 256
  | _ => 5 * e.nrow
/-- The spans of an EOP. -/
def eopSpans (e : Eop) : List Span :=
  (if e.efn = 1 then [⟨1, e.src, 32 * e.nrow, false⟩] else [⟨0, e.src, 5 * e.nrow, false⟩]) ++
  (if eopOpWords e = 0 then [] else [⟨0, e.opw, eopOpWords e, false⟩]) ++ [⟨0, e.dst, eopDstWords e, true⟩]
/-- Two LB ranges of one EOP overlap without being one (R134). -/
def halfOverlap (a b : Span) : Bool :=
  a.space == b.space && (a.wr || b.wr) && decide (a.lo < b.lo + b.n) && decide (b.lo < a.lo + a.n) && !(a.lo == b.lo && a.n == b.n)

/-- The operand row of row `k`: lanes with their exponent, and the raw words. With no operand named the lanes are not
stated. -/
def eopOperand (s : State) (x : Nbu) (e : Eop) (k : Nat) : List Int × Int :=
  match e.omode with
  | 0 => ((List.range 32).map (fun i => sext 32 (Config.freeWord s.free (32 * k + i)).toNat),
          sext 8 (Config.freeByte s.free k).toNat)
  | 1 => lbRow x e.opw
  | 2 => lbRow x (e.opw + 5 * k)
  | _ => let r := lbRow x e.opw; (List.replicate 32 (r.1.getD 0 0), r.2)

/-- Lanes at or above LEN are masked to 0. -/
def lenMask (len : Nat) (l : List (Int × Int)) : List (Int × Int) :=
  (enumFrom 0 l).map (fun p => if p.1 < len then p.2 else (0, p.2.2))

/-- One row of an element-wise function: the exact lane values, and whether a TABLE saturated. -/
def eopRow (s : State) (x : Nbu) (e : Eop) (k : Nat) : List (Int × Int) × Bool :=
  if e.efn = 1 then ((List.range 32).map (fun i => (if i < e.len then accRd x (e.src + 32 * k + i) else 0, (0 : Int))), false)
  else
    let (m, ex) := lbRow x (e.src + 5 * k)
    let b := eopOperand s x e k
    let pr := List.zipWith (fun a c => (a, c)) m b.1
    match e.efn with
    | 2 => (lenMask e.len (pr.map (fun p =>
        let w := unsx 32 p.2
        (rnd (p.1 * (w % 65536 : Nat)) ((fld w 21 16 : Int) - ex), (0 : Int)))), false)
    | 3 => (lenMask e.len (pr.map (fun p => addTx (p.1, ex) (p.2, b.2))), false)
    | 4 => (lenMask e.len (pr.map (fun p => addTx (p.1, ex) (-p.2, b.2))), false)
    | 5 => (lenMask e.len (pr.map (fun p => (p.1 * p.2, ex + b.2))), false)
    | _ =>
      let w := (lbRd x e.opw).toNat
      let segs := lbBytes x (e.opw + 1) 64
      let seg (i : Nat) : Int × Int := (sext 32 (leAt segs (8 * i) 4), sext 32 (leAt segs (8 * i + 4) 4))
      let rs := (enumFrom 0 m).map (fun p => if p.1 < e.len then tableEval (fld e.xf 7 6) (sext 8 (w / 256)) (sext 8 w) seg p.2 ex
        else ((0 : Int), sext 8 w, false))
      (rs.map (fun t => (t.1, t.2.1)), rs.any (fun t => t.2.2))

/-- The unmasked lanes of all rows of an EOP. -/
def eopLanes (x : Nbu) (e : Eop) : List (Int × Int) :=
  (List.range e.nrow).flatMap (fun k => let r := lbRow x (e.src + 5 * k); (r.1.take e.len).map (fun m => (m, r.2)))

/-- The effect of an EOP on LB, with TX_RANGE and the counts of QNT. -/
def eopRun (s : State) (x : Nbu) (e : Eop) : Nbu × Bool × Nat × Nat :=
  match e.efn with
  | 7 | 8 =>
    let ls := eopLanes x e
    let v := if e.efn = 7 then sumTx (ls.map (fun p => (p.1 * p.1, p.2 + p.2)))
      else ls.foldl (fun a p => if cmpTx (p.1.natAbs : Int) p.2 a.1 a.2 > 0 then ((p.1.natAbs : Int), p.2) else a) (0, (ls.headD (0, 0)).2)
    let (ms, ex, t) := txNorm v.2 [v.1]
    (lbWr x e.dst (scalarWord (ms.headD 0) ex), t, 0, 0)
  | 9 =>
    let f := fld e.xf 11 8
    let sc := (lbRd x e.opw).toNat % 2 ^ 32
    let cs := (List.range e.nrow).flatMap (fun k =>
      let r := lbRow x (e.src + 5 * k)
      (enumFrom 0 r.1).map (fun p => if p.1 < e.len then quantScaled f p.2 r.2 sc else (0, false)))
    let v := packN (fmtBits f) (cs.map (fun c => c.1))
    (lbWrs x e.dst (wordsOf (leBytes v (32 * eopDstWords e))), false, e.nrow * e.len, (cs.filter (fun c => c.2)).length)
  | _ =>
    (List.range e.nrow).foldl (fun (acc : Nbu × Bool × Nat × Nat) k =>
      let (ls, t0) := eopRow s x e k
      let (ms, e0) := commonExp ls
      let (m, ex, t) := txNorm e0 ms
      (lbWrs acc.1 (e.dst + 5 * k) (rowWords m ex), acc.2.1 || t || t0, 0, 0)) (x, false, 0, 0)

/-- EOP (R134, R136, R143). -/
def opEop (s : State) (u : Nat) (x : Nbu) (w : Nat) : State :=
  let g := getG x (fld w 25 22)
  let o := getG x (fld w 21 18)
  let e : Eop := { efn := fld w 17 12, len := fld w 5 0, src := fld g 8 0, dst := fld g 17 9, nrow := fld g 23 18,
                   opw := fld o 8 0, omode := fld o 10 9, xf := fld w 11 0 }
  let sp := eopSpans e
  let half := (enumFrom 0 sp).any (fun a => (enumFrom 0 sp).any (fun b => decide (a.1 < b.1) && halfOverlap a.2 b.2))
  let fs := issueFaults (g / 2 ^ 24 != 0 || o / 2 ^ 11 != 0 || decide (32 < e.len) || half)
    (e.nrow == 0 || e.len == 0 || sp.any (fun a => decide ((if a.space = 1 then 256 else 512) < a.lo + a.n)))
    (e.efn == 9 && !fmtCode (fld e.xf 11 8))
  if !fs.isEmpty then unitFaults s u fs x.pc
  else if !uReady x sp then s
  else if e.efn = 9 ∧ !scOk ((lbRd x e.opw).toNat % 2 ^ 32) then unitFault s u 8 x.pc
  else
    let (y, t, n, c) := eopRun s x e
    let s1 := useFree (setU s u (uOut y 0x15 sp))
    let s2 := if t then nbuStat s1 u 1 else s1
    if e.efn = 9 then bumpBy (bumpBy s2 (nbuPg u + 0x70) n) (nbuPg u + 0x74) c else s2
/-- An EOP command names its EFN. -/
def eopCmd (efn u : Nat) (up : Upset) (s : State) : State :=
  uIssue s u 0x15 up (fun w => fld w 17 12 == efn) (fun s x w => opEop s u x w)
/-- EOP CVT. -/
def execEopCvt (u : Nat) (up : Upset) (s : State) : Res := .next (eopCmd 1 u up s)
/-- EOP RESC. -/
def execEopResc (u : Nat) (up : Upset) (s : State) : Res := .next (eopCmd 2 u up s)
/-- EOP ADD. -/
def execEopAdd (u : Nat) (up : Upset) (s : State) : Res := .next (eopCmd 3 u up s)
/-- EOP SUB. -/
def execEopSub (u : Nat) (up : Upset) (s : State) : Res := .next (eopCmd 4 u up s)
/-- EOP MUL. -/
def execEopMul (u : Nat) (up : Upset) (s : State) : Res := .next (eopCmd 5 u up s)
/-- EOP TABLE. -/
def execEopTable (u : Nat) (up : Upset) (s : State) : Res := .next (eopCmd 6 u up s)
/-- EOP SSQ. -/
def execEopSsq (u : Nat) (up : Upset) (s : State) : Res := .next (eopCmd 7 u up s)
/-- EOP AMAX. -/
def execEopAmax (u : Nat) (up : Upset) (s : State) : Res := .next (eopCmd 8 u up s)
/-- EOP QNT. -/
def execEopQnt (u : Nat) (up : Upset) (s : State) : Res := .next (eopCmd 9 u up s)

/-! ### The base-die bus (R144 to R146) -/

/-- BSEND: the words go to the port under the tag. -/
def opBsend (s : State) (u : Nat) (x : Nbu) (w : Nat) : State :=
  let g := getG x (fld w 25 22)
  let t := getG x (fld w 21 18)
  let lo := fld g 8 0
  let n := fld g 16 9
  let sp : List Span := [⟨0, lo, n, false⟩]
  let fs := issueFaults (g / 2 ^ 17 != 0 || t / 256 != 0) (n == 0 || decide (512 < lo + n)) false
  if !fs.isEmpty then unitFaults s u fs x.pc
  else if !uReady x sp then s
  else
    let c : Contrib := { stk := u / 272, tag := t, lunit := lunit s u, unit := u, bop := fld w 17 15
                         words := (List.range n).map (fun i => lbRd x (lo + i)) }
    { setU s u (uOut x 0x16 sp) with bus := s.bus ++ [c] }
/-- A BSEND command names its BOP. -/
def bsendCmd (bop u : Nat) (up : Upset) (s : State) : State :=
  uIssue s u 0x16 up (fun w => fld w 17 15 == bop) (fun s x w => opBsend s u x w)
/-- BSEND GATHER. -/
def execBsendGather (u : Nat) (up : Upset) (s : State) : Res := .next (bsendCmd 0 u up s)
/-- BSEND SUM. -/
def execBsendSum (u : Nat) (up : Upset) (s : State) : Res := .next (bsendCmd 1 u up s)
/-- BSEND MAX. -/
def execBsendMax (u : Nat) (up : Upset) (s : State) : Res := .next (bsendCmd 2 u up s)

/-- A broadcast into one unit (R132, R144): a unit that is not RUNNING discards it and sets BDROP. -/
def broadcast1 (s : State) (u word : Nat) (data : List (BitVec 256)) : State :=
  let x := getU s u
  if x.st = .running then setU s u { lbWrs x word (data.take (512 - word)) with bev := (x.bev + 1) % 65536 }
  else nbuStat s u 14
/-- R262 on the thin path: at a broadcast to a stack and unit group the dealer marks the sequences dropped from the models that run
thin there. -/
def markDrops (s : State) (stk g : Nat) : State :=
  { s with deal := { s.deal with cur := s.deal.cur.map (fun t =>
      { t with entries := t.entries.map (fun e =>
          let b := (getM s e.model).b
          if e.dropped ∧ !e.prefill ∧ t.thin.contains e.model ∧ b.ugrp = g ∧ b.stks.contains stk then { e with marked := true } else e) }) } }
/-- The units of a group that receive a broadcast. -/
def broadcast (s : State) (stk g word : Nat) (data : List (BitVec 256)) : State :=
  (targets s (.group stk g)).foldl (fun x u => broadcast1 x u word data) (markDrops s stk g)
/-- BUS_BROADCAST. -/
def execBusBroadcast (stk g word : Nat) (data : List (BitVec 256)) (s : State) : Res := .next (broadcast s stk g word data)

/-- The participants of a tag on a stack (R145): the units in service whose UGRP it names. -/
def tagMembers (s : State) (stk g : Nat) : List Nat := (targets s (.group stk g)).filter (fun u => lunit s u != 0xFFF)
/-- The tag entry of a stack. -/
def tagEnt (s : State) (stk tag : Nat) : Nat × Nat :=
  ((spGet 0 s.mem.tag0 (256 * stk + tag)).toNat, (spGet 0 s.mem.tag1 (256 * stk + tag)).toNat)
/-- Scalar words combined word by word. -/
def busCombine2 (bop : Nat) (a b : List (BitVec 256)) : List (BitVec 256) :=
  List.zipWith (fun v w =>
    let x := scalarVal v
    let y := scalarVal w
    if bop = 1 then
      let z := addTx x y
      match txNorm z.2 [z.1] with | (ms, e, _) => scalarWord (ms.headD 0) e
    else if cmpTx x.1 x.2 y.1 y.2 ≥ 0 then v else w) a b

/-- MPERR at every participant of a tag. -/
def tagError (s : State) (us : List Nat) : State := us.foldl (fun x u => unitFault x u 6 (getU x u).pc) s

/-- BUS_COMBINE (R145, R146): once every participant of a tag has sent, the result goes to the scratchpad or back to
the groups. -/
def execBusCombine (stk tag : Nat) (s : State) : Res :=
  let (e0, e1) := tagEnt s stk tag
  let span := (List.range 8).filter (fun k => bitN e0 (4 + k) || k == stk)
  let g := fld e0 3 0
  let members := span.flatMap (fun k => tagMembers s k g)
  let first (u : Nat) : Option Contrib := s.bus.find? (fun c => c.unit == u && c.tag == tag)
  let cs := members.filterMap first
  if members.isEmpty ∨ cs.length ≠ members.length then .next s
  else
    let s1 := { s with bus := cs.foldl (fun l c => l.erase c) s.bus }
    let c0 := cs.headD { stk := 0, tag := 0, lunit := 0, unit := 0, bop := 0, words := [] }
    if span.any (fun k => tagEnt s k tag != (e0, e1)) ∨ cs.any (fun c => c.bop != c0.bop || c.words.length != c0.words.length) then
      .next (tagError s1 members)
    else
      let per := span.map (fun k =>
        let l := sortBy (fun (a b : Contrib) => decide (a.lunit ≤ b.lunit)) (cs.filter (fun c => c.stk == k))
        if c0.bop = 0 then l.flatMap (fun c => c.words) else (treeFold (busCombine2 c0.bop) 10 (l.map (fun c => c.words))).headD [])
      let r := if c0.bop = 0 then per.flatten else (treeFold (busCombine2 c0.bop) 4 (per.filter (fun l => !l.isEmpty))).headD []
      if bitN e0 12 then .next (span.foldl (fun x k => broadcast x k g (fld e0 21 13) r) s1)
      else
        let a := 0x010000000000 + 32 * fld e1 23 0
        let (k, w, _) := scrAt a
        if (getWay s k w).pend.isSome then .next s
        else .next (memWrite s1 (getWay s k w).owner a (r.flatMap (fun v => leBytes v.toNat 32))).1

/-! ### Refresh and pre-emption (R150) -/

/-- The unit waits at a yield point: WAITB unmet, FENCE with a WRL outstanding, END with anything outstanding. -/
def atYield (x : Nbu) : Bool :=
  let w := (spGet 0 x.store x.pc).toNat
  match fld w 31 26 with
  | 1 => true
  | 3 => x.outst.any (fun o => o.op == 0x11)
  | 9 => !bevMet x (getG x (fld w 25 22))
  | _ => false
/-- The pair has a unit access outstanding, or a record fetch that keeps a row open. -/
def pairBusy (x : Nbu) : Bool :=
  x.st == .running && (x.outst.any (fun o => o.op == 0x10 || o.op == 0x11) || (fetchPlan x).isSome)

/-- REFRESH_DUE: without a unit access the refresh runs at once; at a yield point too; else the unit is told. -/
def execRefreshDue (u : Nat) (s : State) : Res :=
  let x := getU s u
  if !isOn s .stk (u / 272) ∨ x.refRun ∨ x.refDue then .next s
  else if !pairBusy x then .next (setU s u { x with refRun := true })
  else if atYield x then .next (yieldNow (setU s u { x with refDue := true }) u)
  else .next (setU s u { x with refDue := true })
/-- PREEMPTION: the hold limit has passed. -/
def execPreemption (u : Nat) (s : State) : Res :=
  let x := getU s u
  if x.refDue then .next (bump (setU s u { x with refDue := false, refRun := true, preempt := true }) (nbuPg u + 0x50)) else .next s
/-- REFRESH_DONE. -/
def execRefreshDone (u : Nat) (s : State) : Res :=
  let x := getU s u
  if x.refRun then .next (setU s u { x with refRun := false }) else .next s

/-- UNIT_HANG (R154). -/
def execUnitHang (u : Nat) (s : State) : Res :=
  let x := getU s u
  if x.st = .running then .next (unitFault s u 4 x.pc) else .next s

end Sys2Proof.Machine
end

