-- ==== Sys2Proof/Machine/Wear.lean ====
section
/-!
DEFINITION. Training records and margins (R390 to R392), channel migration (R384 to R388), and the RAS FIFO's head
(R402).
-/
namespace Sys2Proof.Machine

/-! ### Temperature and activity class (R148, R183, R366, R390) -/

/-- A stack's temperature: its hottest die as last read (R183). -/
def stkTemp (s : State) (stk : Nat) : Nat := maxN (spGet [] s.mem.temps stk)
/-- The activation budget of a stack's temperature class (Table 5-10). -/
def tempBudget (t : Nat) : Nat := if t < 85 then 192 else if t < 95 then 160 else if t < 105 then 128 else 0
/-- The activation cap of a throttle level (Table 14-6). -/
def levelCap : Nat → Nat
  | 0 => 192 | 1 => 176 | 2 => 160 | 3 => 128 | _ => 96
/-- A stack's activation budget (R366). -/
def budget (s : State) (stk : Nat) : Nat := min (tempBudget (stkTemp s stk)) (levelCap s.thr.level)
/-- The activity class in force is LOW (R390). -/
def actLow (s : State) (stk : Nat) : Bool := decide (budget s stk < 160)

/-! ### Training records -/

/-- The record of a channel's slot. -/
def trainAt (s : State) (ch slot : Nat) : Option Train := spFind s.wear.train (ch * 8 + slot)
/-- The slot a new record takes (R390): the first empty one, else the one used least recently. -/
def trainSlot (s : State) (ch : Nat) : Nat :=
  match (List.range 8).find? (fun i => (trainAt s ch i).isNone) with
  | some i => i
  | none => ((List.range 8).foldl (fun (b : Nat × Nat) i =>
      match trainAt s ch i with
      | some t => if t.used < b.2 then (i, t.used) else b
      | none => b) (0, ((trainAt s ch 0).getD {}).used)).1
/-- A training record taken: stored and journalled. -/
def trainPut (s : State) (ch : Nat) (t : Train) : State :=
  let k := ch * 8 + trainSlot s ch
  jrnPut { s with wear := { s.wear with train := spSet s.wear.train k t } } (recTrain k t)

/-- How far apart two temperatures lie. -/
def tdist (a b : Nat) : Nat := if a ≤ b then b - a else a - b
/-- The valid record of a channel closest in temperature (R391); of equals, the lowest slot. -/
def trainBest (s : State) (ch : Nat) : Option Nat :=
  let t := stkTemp s (ch / 34)
  let low := actLow s (ch / 34)
  ((List.range 8).foldl (fun (b : Option (Nat × Nat)) i =>
    match trainAt s ch i with
    | some r =>
      if r.valid && r.low == low && decide (tdist r.temp t ≤ 10) then
        match b with
        | some (_, d) => if tdist r.temp t < d then some (i, tdist r.temp t) else b
        | none => some (i, tdist r.temp t)
      else b
    | none => b) none).map (fun x => x.1)

/-- R384: a channel whose probe failed (`probe`) or that has no valid record needs a new home, or, when it is a joker, a new record
in place. A joker being filled whose probe fails is retired (Table 15-4). -/
def chTrouble (s : State) (stk ch : Nat) (probe : Bool) : State :=
  match spFind s.wear.mig stk with
  | some m =>
    if m.joker = ch ∧ m.step < 6 ∧ probe = true then migJokerBad s stk
    else match logicalOf s stk ch with
      | some n => migRequest s stk n
      | none => if s.wear.retrain.contains (34 * stk + ch) ∨ m.old = ch then s
          else { s with wear := { s.wear with retrain := s.wear.retrain ++ [34 * stk + ch] } }
  | none => match logicalOf s stk ch with
    | some n => migRequest s stk n
    | none => if s.wear.retrain.contains (34 * stk + ch) ∨ s.wear.chRetired.contains (34 * stk + ch) then s
        else { s with wear := { s.wear with retrain := s.wear.retrain ++ [34 * stk + ch] } }

/-- R391: a channel switches to its best valid record, or R384 applies. -/
def trainSelect (s : State) (stk ch : Nat) : State :=
  let c := 34 * stk + ch
  match trainBest s c with
  | some i =>
    match trainAt s c i with
    | some t => { s with wear := { s.wear with trainUse := spSet s.wear.trainUse c i
                                               train := spSet s.wear.train (c * 8 + i) { t with used := s.time } } }
    | none => s
  | none => chTrouble { s with wear := { s.wear with trainUse := spDel s.wear.trainUse c } } stk ch false
/-- R391 for every channel of a stack that is ON; it ends when a request retires the stack. -/
def trainSelectStk (s : State) (stk : Nat) : State :=
  (List.range 34).foldl (fun x ch =>
    if isOn x .stk stk ∧ !x.wear.chRetired.contains (34 * stk + ch) then trainSelect x stk ch else x) s
/-- R391: a change of throttle level changes the class in force of every stack. -/
def trainSelectAll (s : State) : State := (List.range 8).foldl trainSelectStk s

/-! ### Probes (R392) -/

/-- MARGIN_PROBE: the margins read, and the data lanes found below the limit (R383). -/
def execMarginProbe (stk ch timing voltage : Nat) (lanes : List Nat) (s : State) : Res :=
  if 8 ≤ stk ∨ 34 ≤ ch ∨ !isOn s .stk stk ∨ s.wear.retrain.contains (34 * stk + ch) ∨
      s.wear.chRetired.contains (34 * stk + ch) then .next s
  else
    let c := 34 * stk + ch
    let pg := pageOf .ch c
    let t := timing % 256
    let v := voltage % 256
    let lo := rdN s (pg + 0x10C)
    let s1 := bump (wrReg s (pg + 0x108) (w32 (t + 65536 * v))) (pg + 0x110)
    let s2 := wrReg s1 (pg + 0x10C) (w32 (min t (fld lo 7 0) + 65536 * min v (fld lo 23 16)))
    let s3 := lanes.foldl (fun x l => if isOn x .stk stk then tsvFail x c (l % 64) else x) s2
    let lim := rdN s (0x4000 + 0x07C)
    if !isOn s3 .stk stk then .next s3
    else if t < fld lim 7 0 ∨ v < fld lim 23 16 then
      let s4 := match spFind s3.wear.trainUse c with
        | some i => match trainAt s3 c i with
          | some r => { s3 with wear := { s3.wear with train := spSet s3.wear.train (c * 8 + i) { r with valid := false }
                                                       trainUse := spDel s3.wear.trainUse c } }
          | none => s3
        | none => s3
      .next (chTrouble s4 stk ch true)
    else .next (trainSelect s3 stk ch)

/-! ### Migration (R384 to R388) -/

/-- MIG_CMD: a request by the PF (R384), decided by Table 15-4. A stack that is not ON takes none. -/
def opMigCmd (s : State) (v : W32) : State :=
  let n := v.toNat
  if bitN n 8 ∧ isOn s .stk (fld n 2 0) then migRequest s (fld n 2 0) (fld n 7 3) else s
def execMigCmd (mid : Nat) (v : W32) (s : State) : Res :=
  .next (pageAccess s mid .ras (fun x => opMigCmd x v))

/-- A unit of a physical channel runs. -/
def chanRunning (s : State) (stk ch : Nat) : Bool :=
  (List.range 8).any (fun p => (getU s (272 * stk + 8 * ch + p)).st == .running)

/-- MIGRATION_START (Table 15-5 steps 1 to 2): once no unit run on the channel remains, MIRROR and MTGT are set and the
copy begins. -/
def execMigrationStart (stk : Nat) (s : State) : Res :=
  match spFind s.wear.mig stk with
  | some m =>
    if m.step ≠ 1 ∨ chanRunning s stk m.old then .next s
    else
      let s1 := wrReg s (pageOf .stk stk + 0x80 + 4 * m.ch) (w32 (m.old + 64 + 128 * m.joker))
      .next { s1 with wear := { s1.wear with mig := spSet s1.wear.mig stk { m with step := 3 } } }
  | none => .next s

/-- The bytes and the poison of one physical channel copied to another (Table 15-5 step 3). -/
def copyChannel (s : State) (stk src dst : Nat) : State :=
  let lo := place stk src 0 0
  let dst0 := place stk dst 0 0
  let len := 2 ^ 31
  let pz := s.mem.poison.filter (fun b => decide (64 * b < dst0) || decide (dst0 + len ≤ 64 * b))
  let more := (s.mem.poison.filter (fun b => decide (lo ≤ 64 * b) && decide (64 * b < lo + len))).map (fun b => b - lo / 64 + dst0 / 64)
  { s with mem := { s.mem with dram := copyBytes s.mem.dram lo (lo + len) dst0, poison := pz ++ more } }

/-- MIGRATION_COPY_DONE (Table 15-5 steps 3 to 5): the channel copied, its units' state copied, REMAP flipped; the old
units then serve no logical pair, and their LUNIT is 0xFFF. -/
def execMigrationCopyDone (stk : Nat) (s : State) : Res :=
  match spFind s.wear.mig stk with
  | some m =>
    if m.step ≠ 3 then .next s
    else
      let u (ch p : Nat) : Nat := 272 * stk + 8 * ch + p
      let s1 := copyChannel s stk m.old m.joker
      let s2 := (List.range 8).foldl (fun x p => copyUnit x (u m.old p) (u m.joker p)) s1
      let s3 := (List.range 8).foldl (fun x p => wrFld x (pageOf .nbu (u m.old p) + 0x40) 11 0 0xFFF) s2
      let e := if fld (remap s stk 32) 5 0 = m.joker then 32 else 33
      let s4 := wrReg s3 (pageOf .stk stk + 0x80 + 4 * m.ch) (w32 m.joker)
      let s5 := wrReg s4 (pageOf .stk stk + 0x80 + 4 * e) (w32 m.old)
      .next { s5 with wear := { s5.wear with mig := spSet s5.wear.mig stk { m with step := 6 } } }
  | none => .next s

/-- A retrained physical channel that failed is retired (R388). -/
def chRetire (s : State) (stk ch : Nat) : State :=
  let e := if fld (remap s stk 32) 5 0 = ch then 32 else 33
  let s1 := wrBit s (pageOf .stk stk + 0x80 + 4 * e) 13 true
  rasPut { s1 with wear := { s1.wear with chRetired := s1.wear.chRetired ++ [34 * stk + ch] } } 0x0E 3 .ch (34 * stk + ch) 0 ch

/-- A retraining's outcome: a fresh record under the class in force and a joker, or retirement. -/
def retrained (s : State) (stk ch timing voltage : Nat) (ok : Bool) : State :=
  if ok then trainPut s (34 * stk + ch) { temp := stkTemp s stk, low := actLow s stk, timing := timing % 256,
                                          voltage := voltage % 256, valid := true, used := s.time }
  else chRetire s stk ch

/-- RETRAIN_DONE (R388): the old channel of the migration becomes a joker or is retired, CH_REMAP is journalled and a
queued request starts; with no migration at that step, the retraining of a joker in place ends (R384). -/
def execRetrainDone (stk timing voltage : Nat) (s : State) : Res :=
  let lim := rdN s (0x4000 + 0x07C)
  let ok := decide (fld lim 7 0 ≤ timing % 256) && decide (fld lim 23 16 ≤ voltage % 256)
  let inPlace : State :=
    match s.wear.retrain.find? (fun c => c / 34 == stk) with
    | some c => retrained { s with wear := { s.wear with retrain := s.wear.retrain.filter (fun x => x != c) } } stk (c % 34) timing voltage ok
    | none => s
  match spFind s.wear.mig stk with
  | some m =>
    if m.step ≠ 6 then .next inPlace
    else
      let s1 := retrained { s with wear := { s.wear with mig := spDel s.wear.mig stk, migQueue := spDel s.wear.migQueue stk } }
        stk m.old timing voltage ok
      let s2 := jrnRemap (rasPut s1 0x0D 2 .stk stk m.ch (m.old + 256 * b2n ok)) stk
      .next (match spFind s.wear.migQueue stk with
        | some n => migRequest s2 stk n
        | none => s2)
  | none => .next inPlace

/-! ### The RAS FIFO (R402) -/

/-- RAS_POP: a write of 1 drops the head record. -/
def opRasPop (s : State) (v : W32) : State := if bit v 0 then { s with ras := { s.ras with fifo := s.ras.fifo.drop 1 } } else s
def execRasPop (mid : Nat) (v : W32) (s : State) : Res :=
  .next (pageAccess s mid .ras (fun x => opRasPop x v))

end Sys2Proof.Machine
end

