-- ==== Sys2Proof/Machine/Throttle.lean ====
section
/-!
DEFINITION. Throttling (R366 to R371, R17): demands, the level in force, the power limiter, the throttle inputs, and
the views of THM_STS and THM_IN. The thermal readings themselves are in Power.lean.
-/
namespace Sys2Proof.Machine

/-- THM registers by offset. -/
def thm (off : Nat) : Nat := 0x3000 + off
/-- CCLK in MHz at a level (Table 14-6). -/
def levelMhz : Nat → Nat
  | 0 => 1750 | 1 => 1500 | 2 => 1250 | 3 => 1000 | _ => 750
/-- θ × 256 at a level (Table 14-6). -/
def levelTheta : Nat → Nat
  | 0 => 256 | 1 => 299 | 2 => 359 | 3 => 448 | _ => 598

/-- An input is treated as asserted (Table 14-9): its accepted level, or a storm. -/
def inOn (x : ThrIn) : Bool := x.asserted || x.storm
/-- Every demand with the code of its source (Table 14-12 THM_STS, R367). -/
def demands (s : State) : List (Nat × Nat) :=
  [(1, s.thr.thermDemand), (2, s.thr.powerDemand), (3, if inOn s.thr.brk then 4 else 0),
   (4, if inOn s.thr.ext then fld (rdN s (thm 0x4C)) 2 0 else 0), (5, if s.edge.inputLow then 4 else 0),
   (6, fld (rdN s (thm 0x48)) 2 0), (7, if s.thr.trips.isEmpty then 0 else 4)]
/-- The highest level demanded. -/
def demandMax (s : State) : Nat := maxN ((demands s).map (fun d => d.2))
/-- The source of the highest present demand: of several the largest code, 0 when none is above L0. -/
def demandSrc (s : State) : Nat :=
  if demandMax s = 0 then 0 else maxN (((demands s).filter (fun d => d.2 == demandMax s)).map (fun d => d.1))

/-- THM_STS (Table 14-12). -/
def thmSts (s : State) : Nat := s.thr.level + levelTheta s.thr.level * 2 ^ 8 + demandSrc s * 2 ^ 18
/-- THM_IN (Table 14-12). -/
def thmIn (s : State) : Nat :=
  b2n s.thr.brk.asserted + 2 * b2n s.thr.ext.asserted + 4 * b2n s.thr.brk.held + 8 * b2n s.thr.ext.held +
    16 * b2n s.thr.brk.storm + 32 * b2n s.thr.ext.storm + 64 * b2n s.edge.inputLow

/-- The level in force changes: CCLK hops, a capacity change, every stack's activity class is taken anew (R367, R391),
bit 7 of the THM page's BLK_ISR. -/
def setLevel (s : State) (l : Nat) : State :=
  let s1 := { s with thr := { s.thr with level := l, since := s.time } }
  let s2 := wrReg s1 (0x1000 + 0x80) (w32 (levelMhz l + 65536 * levelMhz l))
  trainSelectAll (capacity (raiseIsr s2 0x3000 (w32 128)))
/-- R367: a demand above the level in force raises it at once; THR_RAISE counts. -/
def raiseLevel (s : State) : State := if s.thr.level < demandMax s then setLevel (bump s (thm 0x5C)) (demandMax s) else s

/-- R367: the 10 ms of a fall are counted from the time when the last demand of the level in force ended. -/
def thrFell (before s : State) : State :=
  if s.thr.level ≤ demandMax before ∧ demandMax s < s.thr.level then { s with thr := { s.thr with since := s.time } } else s
/-- What follows a change of a demand: the level rises if it must, or the time below it begins. -/
def thrSettle (before s : State) : State := thrFell before (raiseLevel s)
/-- What follows a change of the throttle's inputs: the THM_IN bits that rose set their BLK_ISR bits, and the level
rises if it must. -/
def thrAfter (before s : State) : State :=
  let rose := (List.range 7).filter (fun i => bitN (thmIn s) i && !bitN (thmIn before) i)
  thrSettle before (if rose.isEmpty then s else raiseIsr s 0x3000 (w32 (sumN (rose.map (fun i => 2 ^ i)))))

/-- LEVEL_FALL (R367): one step down when every demand has been below the level in force for 10 ms. -/
def execLevelFall (s : State) : Res :=
  if hubUp s = true ∧ 0 < s.thr.level ∧ demandMax s < s.thr.level ∧ s.thr.since + 10000000 ≤ s.time then .next (setLevel s (s.thr.level - 1)) else .next s

/-- POWER_MEASURE (R368): the averages are stored; a limit exceeded demands one level above the one in force, again
every tenth measurement; a measurement that finds neither condition ends the demand. -/
def execPowerMeasure (now avg1 avg100 : Nat) (s : State) : Res :=
  let s1 := wrReg (wrReg s (0x2000 + 0x74) (w32 (now % 65536 + 65536 * (avg1 % 65536)))) (0x2000 + 0x78) (w32 (avg100 % 65536))
  let lim := rdN s (0x2000 + 0x7C)
  let exceeded := decide (95 * fld lim 27 16 < 100 * avg1) || decide (98 * fld lim 11 0 < 100 * avg100)
  let up (n : Nat) : Thr := { s1.thr with powerOn := true, powerDemand := min 4 (s1.thr.level + 1), powerAt := n }
  if !hubUp s then .next s
  else if !exceeded then .next (thrFell s { s1 with thr := { s1.thr with powerOn := false, powerDemand := 0, powerAt := 0 } })
  else if !s1.thr.powerOn ∨ 10 ≤ s1.thr.powerAt + 1 then .next (raiseLevel { s1 with thr := up 0 })
  else .next { s1 with thr := { s1.thr with powerAt := s1.thr.powerAt + 1 } }

/-- A new accepted level of an input (R371): transitions within the last second are counted, and more than 1,000 are a
storm. -/
def inEdge (s : State) (x : ThrIn) (a : Bool) (i : Nat) : ThrIn × Option MEvent :=
  let ed := (x.edges.filter (fun t => decide (s.time < t + 1000000000))) ++ [s.time]
  let st := x.storm || decide (1000 < ed.length)
  ({ x with asserted := a, held := x.held && a, storm := st, edges := ed },
   if st && !x.storm then some (.toggleStorm i) else none)
/-- The event of a storm, if one began. -/
def mgmtOpt (s : State) : Option MEvent → State
  | some e => mgmt s e
  | none => s

/-- PWRBRK (R371): a new accepted level of PWRBRK#. -/
def execPwrbrk (asserted : Bool) (s : State) : Res :=
  if s.thr.brk.asserted = asserted ∨ !hubUp s then .next s
  else
    let (x, e) := inEdge s s.thr.brk asserted 0
    .next (thrAfter s (mgmtOpt { s with thr := { s.thr with brk := x } } e))
/-- THROTTLE_N (R371): a new accepted level of THROTTLE_N. -/
def execThrottleN (asserted : Bool) (s : State) : Res :=
  if s.thr.ext.asserted = asserted ∨ !hubUp s then .next s
  else
    let (x, e) := inEdge s s.thr.ext asserted 1
    .next (thrAfter s (mgmtOpt { s with thr := { s.thr with ext := x } } e))
/-- An input has had no accepted transition for 1 s. -/
def inQuiet (s : State) (x : ThrIn) : Bool := match x.edges.getLast? with | some t => decide (t + 1000000000 ≤ s.time) | none => true
/-- THROTTLE_HELD (R371): an input asserted continuously for 1 s; input 0 is PWRBRK#, 1 THROTTLE_N. -/
def execThrottleHeld (inp : Nat) (s : State) : Res :=
  if !hubUp s then .next s
  else if inp = 0 then
    if s.thr.brk.asserted ∧ !s.thr.brk.held ∧ inQuiet s s.thr.brk then
      .next (thrAfter s (mgmt { s with thr := { s.thr with brk := { s.thr.brk with held := true } } } (.throttleHeld 0)))
    else .next s
  else if inp = 1 then
    if s.thr.ext.asserted ∧ !s.thr.ext.held ∧ inQuiet s s.thr.ext then
      .next (thrAfter s (mgmt { s with thr := { s.thr with ext := { s.thr.ext with held := true } } } (.throttleHeld 1)))
    else .next s
  else .next s
/-- STORM_END (R371): an input without an edge for 1 s; the filtered level applies. -/
def execStormEnd (inp : Nat) (s : State) : Res :=
  if !hubUp s then .next s
  else if inp = 0 ∧ inQuiet s s.thr.brk then .next (thrFell s { s with thr := { s.thr with brk := { s.thr.brk with storm := false } } })
  else if inp = 1 ∧ inQuiet s s.thr.ext then .next (thrFell s { s with thr := { s.thr with ext := { s.thr.ext with storm := false } } })
  else .next s

/-- THR_CAP (R367): the lowest level software demands, 5 to 7 stored as 4. -/
def opThrCap (s : State) (v : W32) : State := thrSettle s (wrReg s (thm 0x48) (w32 (min (fld v.toNat 2 0) 4)))
def execThrCap (mid : Nat) (v : W32) (s : State) : Res :=
  .next (pageAccess s mid .thm (fun x => opThrCap x v))

/-- INPUT_LOW (R17). -/
def execInputLow (s : State) : Res :=
  if s.edge.inputLow ∨ !hubUp s then .next s
  else .next (thrAfter s (mgmt { s with edge := { s.edge with inputLow := true } } .inputLow))
/-- INPUT_LOW_CLEAR (R17): the floor is lifted; the level falls by R367. -/
def execInputLowClear (s : State) : Res := .next (if hubUp s then thrFell s { s with edge := { s.edge with inputLow := false } } else s)

/-- TRIP_LOG and bit 8 of the THM page's BLK_ISR (R370, R428). -/
def tripLog (s : State) (ty inst temp : Nat) (shut : Bool) : State :=
  raiseIsr (wrReg s (thm 0x60) (w32 (ty + inst % 256 * 2 ^ 4 + temp % 256 * 2 ^ 12 + b2n shut * 2 ^ 20))) 0x3000 (w32 256)
/-- A trip to throttle is held for a sensor (kind × 256 + index): recorded when it begins (R370). -/
def tripHold (s : State) (ty idx inst temp : Nat) : State :=
  if s.thr.trips.contains (ty * 256 + idx) then s
  else tripLog { s with thr := { s.thr with trips := s.thr.trips ++ [ty * 256 + idx] } } ty inst temp false
/-- It ends. -/
def tripEnd (s : State) (ty idx : Nat) : State :=
  { s with thr := { s.thr with trips := s.thr.trips.filter (fun x => x != ty * 256 + idx) } }
/-- One sensor's reading against a trip to throttle at `thr` (R370): held until it reads 10 °C below. -/
def tripCheck (s : State) (ty idx inst temp thr : Nat) : State :=
  if thr ≤ temp then tripHold s ty idx inst temp else if temp + 10 ≤ thr then tripEnd s ty idx else s

end Sys2Proof.Machine
end

