-- ==== Sys2Proof/Machine/MemSys.lean ====
section
/-!
DEFINITION. The memory system's commands (chapter 06): reads and writes by every requester (R168 to R170), atomics
(R177), gather (R178), retagging (R165 to R167), golden reload (R181), the way configuration (R175), invalidation (R176), temperatures (R182,
R183).
-/
namespace Sys2Proof.Machine

/-! ### Host windows (R319, R321) -/

/-- A function exists for the host: the PF, or a VF while VF Enable is set. -/
def fnThere (s : State) (f : Nat) : Bool := f == 0 || (decide (f < 256) && s.host.vfEnable)
/-- The device address of an aperture offset, through the lowest-indexed valid window that covers its 2 MiB unit, when
that window permits the access. -/
def hostAddr (s : State) (f o : Nat) (rd wr : Bool) : Option Nat :=
  let u := o / 2 ^ 21
  match ((getFn s f).wins).find? (fun e => e.2.valid && decide (e.2.aper ≤ u) && decide (u < e.2.aper + e.2.len)) with
  | some (_, w) => if (!rd || w.rd) && (!wr || w.wr) then some ((w.dev + (u - w.aper)) * 2 ^ 21 + o % 2 ^ 21) else none
  | none => none
/-- A refused host read or AtomicOp: Completer Abort, counted (R321). -/
def hostAbort (s : State) (f : Nat) : State := emit (hostRef s) (.abort f)

/-! ### Reads and writes -/

/-- Which element a requester is, in a POISON report. -/
def rqBlk : Requester → Blk
  | .host _ => .pcie | .core _ => .clu | .engine _ => .llc | .dealer => .deal | .walker _ => .att | .fabric _ => .fab
/-- The model slot a device access is made for, as far as its function tells: the first slot in use that the function owns; 64, no
slot, where there is none. -/
def rqModel (s : State) (rq : Requester) : Nat :=
  ((List.range 64).find? (fun m => (getM s m).st != 0 && (getM s m).b.owner == reqFn rq)).getD 64
/-- An access outside every range (R156): a core's raises BOUNDS, any other requester of the device has an error. -/
def outsideOf (s : State) (rq : Requester) (a : Nat) : State :=
  match rq with
  | .core _ => report s { code := 3, blk := .clu, inst := 0, model := rqModel s rq, trick := s.deal.trick, addr := a }
  | _ => s
/-- A read's answer delivered (Table 6-8, R156, R170, R174, R321): a refused scratchpad read is POISON to every requester but the
host, whose refused reads end in Completer Abort (R321). -/
def deliver (s : State) (rq : Requester) (a : Nat) (r : MemRes) : State :=
  match r, rq with
  | .ok bs, _ => emit s (.mem rq bs)
  | .poison, .host _ => emit s (.memPoison rq 0)
  | _, .host f => hostAbort s f
  | .outside, _ => emit (outsideOf s rq a) (.memPoison rq 1)
  | _, .fabric _ => emit (bump s (0xB000 + 0x78)) (.memPoison rq 0)
  | _, _ => emit (reportPoison s (rqBlk rq) 0 0 (rqModel s rq) a) (.memPoison rq 0)

/-- A read at a device address; one that meets a way pending to its function waits (R175). -/
def doRead (s : State) (rq : Requester) (a n : Nat) (err : MemErr) : State :=
  if scrWaits s (reqFn rq) a n then { s with mem := { s.mem with waits := s.mem.waits ++ [.read rq a n] } }
  else
    let (s1, r) := memRead s (reqFn rq) true a n err
    deliver s1 rq a r

/-- A write refused: a host write is counted (R321), a core's outside every range raises BOUNDS (R156), another of the device's is
dropped where it was counted. -/
def writeRefused (s : State) (rq : Requester) (a : Nat) (r : MemRes) : State :=
  match rq, r with
  | .host _, _ => hostRef s
  | _, .outside => outsideOf s rq a
  | _, _ => s

/-- An LPDDR write goes to the tier itself: its line is not cached and none of the requester's ways takes it (R173). -/
def lpdThrough (s : State) (fn a : Nat) : Bool :=
  rangeOf a == .lpd && lpdUp s &&
    (!isOn s .llc (homeSlice a) || ((findLine s (a / 256 * 256)).isNone && (cacheWays s (homeSlice a) fn).isEmpty))
/-- What a write to the tier meets on the link (R179, Table 6-10): after a third failure its bytes are lost, and the first granule
of the span holds free values (log entry 180). -/
def lpdWriteErr (s : State) (a n : Nat) (err : MemErr) : State :=
  match lpdLink s a err with
  | (s1, false) => s1
  | (s1, true) =>
    let k := min n (256 - a % 256)
    useFree { s1 with mem := { s1.mem with lpd := wrBytes s1.mem.lpd (a - 0x008000000000) ((List.range k).map (Config.freeByte s1.free)) } }

/-- A write shorter than an E burst reads the burst first (Table 6-4), and meets what that read meets. -/
def doWrite (s : State) (rq : Requester) (a : Nat) (bs : List Byte) (err : MemErr) : State :=
  if scrWaits s (reqFn rq) a bs.length then { s with mem := { s.mem with waits := s.mem.waits ++ [.write rq a bs] } }
  else
    let isE := rangeOf a == .stack && rgnClass s (a / 2 ^ 21) == 1
    let s0 := if err ≠ .none ∧ isE ∧ (a % 64 ≠ 0 ∨ bs.length % 64 ≠ 0) then
        (cellsRead s (a / 64 * 64) 64 err).1 else s
    match memWrite s0 (reqFn rq) a bs with
    | (s1, .ok _) => if bs ≠ [] ∧ lpdThrough s (reqFn rq) a = true then lpdWriteErr s1 a bs.length err else s1
    | (s1, r) => writeRefused s1 rq a r

/-- MEMORY_READ (R169): the host's address is an aperture offset, every other requester's a device address. -/
def execMemoryRead (rq : Requester) (a len : Nat) (err : MemErr) (s : State) : Res :=
  match rq with
  | .host f =>
    if !s.host.linkUp ∨ !fnThere s f then .next s
    else match hostAddr s f a true false with
      | some d => .next (doRead s rq d len err)
      | none => .next (hostAbort s f)
  | _ => .next (doRead s rq a len err)
/-- MEMORY_WRITE (R169). -/
def execMemoryWrite (rq : Requester) (a : Nat) (data : List Byte) (err : MemErr) (s : State) : Res :=
  match rq with
  | .host f =>
    if !s.host.linkUp ∨ !fnThere s f then .next s
    else match hostAddr s f a false true with
      | some d => .next (doWrite s rq d data err)
      | none => .next (hostRef s)
  | _ => .next (doWrite s rq a data err)

/-! ### Atomics (R177) and the gather path (R178) -/

/-- An atomic at a device address; the host's refusal by R177 is Unsupported Request, any other Completer Abort. -/
def doAtomic (s : State) (rq : Requester) (op : AtomOp) (a n x swap : Nat) : State :=
  if scrWaits s (reqFn rq) a n then { s with mem := { s.mem with waits := s.mem.waits ++ [.atom rq a n op x swap] } }
  else match atomic s (reqFn rq) op a n x swap, rq with
    | (s1, .old v), _ => emit s1 (.atomic (reqFn rq) v)
    | (s1, .refused), .host f => emit (hostRef s1) (.unsupported f)
    | (s1, .denied), .host f => hostAbort s1 f
    | (s1, _), _ => emit s1 (.memPoison rq 1)
/-- An atomic by any requester: the host's through a window that permits reads and writes; the Idlum link carries none
(R305). -/
def opAtomic (s : State) (rq : Requester) (op : AtomOp) (a n x swap : Nat) : State :=
  match rq with
  | .fabric _ => s
  | .host f =>
    if !s.host.linkUp ∨ !fnThere s f then s
    else match hostAddr s f a true true with
      | some d => doAtomic s rq op d n x swap
      | none => hostAbort s f
  | _ => doAtomic s rq op a n x swap
/-- ATOMIC_ADD. -/
def execAtomicAdd (rq : Requester) (a size x : Nat) (s : State) : Res := .next (opAtomic s rq .add a size x 0)
/-- ATOMIC_SMIN. -/
def execAtomicSmin (rq : Requester) (a size x : Nat) (s : State) : Res := .next (opAtomic s rq .smin a size x 0)
/-- ATOMIC_SMAX. -/
def execAtomicSmax (rq : Requester) (a size x : Nat) (s : State) : Res := .next (opAtomic s rq .smax a size x 0)
/-- ATOMIC_UMIN. -/
def execAtomicUmin (rq : Requester) (a size x : Nat) (s : State) : Res := .next (opAtomic s rq .umin a size x 0)
/-- ATOMIC_UMAX. -/
def execAtomicUmax (rq : Requester) (a size x : Nat) (s : State) : Res := .next (opAtomic s rq .umax a size x 0)
/-- ATOMIC_CAS. -/
def execAtomicCas (rq : Requester) (a size x swap : Nat) (s : State) : Res := .next (opAtomic s rq .cas a size x swap)

/-- GATHER_READ (R178): a naturally aligned 32-byte read that never allocates. -/
def execGatherRead (rq : Requester) (a : Nat) (err : MemErr) (s : State) : Res :=
  if a % 32 ≠ 0 then .next s
  else if scrWaits s (reqFn rq) a 32 then .next { s with mem := { s.mem with waits := s.mem.waits ++ [.read rq a 32] } }
  else
    let (s1, r) := memRead1 s (reqFn rq) false a 32 err
    .next (deliver s1 rq a r)

/-! ### Retagging (R165 to R167) -/

/-- The regions of the E set of region `r` in a mode (Table 6-5). -/
def setOf (mode r : Nat) : List Nat :=
  match mode with
  | 0 => (List.range 128).map (fun m => r / 2 ^ 17 * 2 ^ 17 + m * 2 ^ 10 + r % 2 ^ 10)
  | 1 => (List.range 256).map (fun m => m * 2 ^ 10 + r % 2 ^ 10)
  | _ => (List.range 64).map (fun m => r / 2 ^ 16 * 2 ^ 16 + m * 2 ^ 10 + r % 2 ^ 10)

/-- What a retag command is decided to be. -/
inductive RetagRes | refused (code : Nat) | same | go (scope : List Nat)
  deriving DecidableEq, Repr

/-- R165, R167: INVALID and ABSENT first, then Table 6-7, then BUSY where the scope includes a stack with a retag in
progress. -/
def retagDecide (s : State) (target mode r : Nat) : RetagRes :=
  let cls := rgnClass s r
  let cur := rgnMode s r
  let scope := if target = 1 then (if cls = 1 ∧ cur ≠ mode then [r] else setOf mode r) else if cls = 1 then setOf cur r else [r]
  let absent (l : List Nat) : Bool := l.any (fun x => !isOn s .stk (x / 2 ^ 15))
  if target = 2 ∨ (target = 1 ∧ mode = 3) then .refused 5
  else if absent scope || (target == 1 && absent (setOf mode r)) then .refused 6
  else if cls = 2 then .refused 1
  else if target = 1 ∧ cls = 1 ∧ cur ≠ mode then .refused 3
  else if target = 1 ∧ cls ≠ 1 ∧ (setOf mode r).any (fun x => rgnClass s x == 1 || rgnClass s x == 2) then .refused 2
  else if s.mem.retags.any (fun e => e.2.scope.any (fun x => scope.any (fun y => y / 2 ^ 15 == x / 2 ^ 15))) then .refused 1
  else if target = 3 ∧ cls = 3 then .same
  else .go scope

/-- The result and region of RT_STS; its busy bit follows the retag in progress (Table 6-12). -/
def rtSts (s : State) (stk code rgn : Nat) : State :=
  wrReg s (pageOf .stk stk + 0x50) (w32 (2 * code + 16 * (rgn % 2 ^ 15)))

/-- RT_CMD (R165, R166): a refused command changes nothing but the result in RT_STS; an accepted one makes its scope TRANSIT and
drops the scope's cached lines. -/
def opRetag (s : State) (stk target mode rgn : Nat) : State :=
  let r := stk * 2 ^ 15 + rgn % 2 ^ 15
  match retagDecide s target mode r with
  | .refused c => rtSts s stk c rgn
  | .same => rtSts s stk 0 rgn
  | .go scope =>
    let s1 := dropLines s (fun l => decide (l.addr < 0x008000000000) && scope.contains (l.addr / 2 ^ 21))
    let s2 := scope.foldl (fun x g => setRgn x g (rgnEnt x g / 4 * 4 + 2)) s1
    let t : Retag := { target := target, mode := mode, rgn := rgn % 2 ^ 15, scope := scope }
    rtSts { s2 with mem := { s2.mem with retags := spSet s2.mem.retags stk t } } stk 0 rgn
/-- RETAG_C. -/
def execRetagC (mid stk rgn : Nat) (s : State) : Res :=
  .next (if 8 ≤ stk then s else gatedWrite s mid .stk stk (fun x => opRetag x stk 0 0 rgn))
/-- RETAG_E. -/
def execRetagE (mid stk rgn mode : Nat) (s : State) : Res :=
  .next (if 8 ≤ stk then s else gatedWrite s mid .stk stk (fun x => opRetag x stk 1 (mode % 4) rgn))
/-- RETAG_OFFLINE. -/
def execRetagOffline (mid stk rgn : Nat) (s : State) : Res :=
  .next (if 8 ≤ stk then s else gatedWrite s mid .stk stk (fun x => opRetag x stk 3 0 rgn))

/-- The place of a region's pair region, under class C (with PREMAP) or as a member of an E set. -/
def rgnPlace (s : State) (isC : Bool) (r : Nat) : Nat × Option Nat := linPlace s isC (r * 2 ^ 21)
/-- A pair region's bytes zeroed, its poison lifted. -/
def zeroRgn (s : State) (isC : Bool) (r : Nat) : State :=
  let z (x : State) (p : Nat) : State :=
    { x with mem := { x.mem with dram := zeroBytes x.mem.dram p (p + 2 ^ 21)
                                 poison := x.mem.poison.filter (fun b => decide (64 * b < p) || decide (p + 2 ^ 21 ≤ 64 * b)) } }
  match rgnPlace s isC r with
  | (p, none) => z s p
  | (p, some q) => z (z s p) q

/-- RETAG_DONE (R166): the scope leaves TRANSIT under its new class; contents are zero, or unspecified after a retag to
OFFLINE, where nothing can read them. RT_STS keeps the result of the last command, which may be a later one that was refused. -/
def execRetagDone (stk : Nat) (s : State) : Res :=
  match spFind s.mem.retags stk with
  | none => .next s
  | some t =>
    let s1 := t.scope.foldl (fun x r =>
      let y := if t.target = 3 then x else zeroRgn x (t.target == 0) r
      setClass y r t.target (if t.target = 1 then t.mode else 0)) s
    .next { s1 with mem := { s1.mem with retags := spDel s1.mem.retags stk } }

/-! ### Golden reload (R181) -/

/-- The dealer's report of a reload that failed. -/
def repGoldFail : Nat := 0x28

/-- A reload that failed: the region goes OFFLINE and the dealer is told. -/
def reloadFail (s : State) (stk rgn r : Nat) : State :=
  report (rtSts (setClass s r 3 0) stk 4 rgn) { code := repGoldFail, blk := .stk, inst := stk, addr := r * 2 ^ 21 }
/-- A reload of `n` bytes: the golden copy is read, its CRC checked against GCHK_BASE + 4 × GIDX, and written. -/
def opReload (s : State) (stk rgn n : Nat) (err : MemErr) : State :=
  let r := stk * 2 ^ 15 + rgn % 2 ^ 15
  let chk := rdPair s (pageOf .stk stk + 0x54) + 4 * fld (rgnEnt s r) 25 8
  match memRead s 256 false (goldAddr s r) n err with
  | (s1, .ok bs) =>
    match memRead s1 256 false chk 4 .none with
    | (s2, .ok c) =>
      if crc32c bs = leNat c then
        let s3 := setClass s2 r 0 0
        bump (dramPut s3 (rgnPlace s3 true r).1 (rgnPlace s3 true r).2 bs) (pageOf .stk stk + 0x64)
      else reloadFail s2 stk rgn r
    | (s2, _) => reloadFail s2 stk rgn r
  | (s1, _) => reloadFail s1 stk rgn r
/-- GOLDEN_RELOAD_DONE. -/
def execGoldenReloadDone (stk rgn : Nat) (err : MemErr) (s : State) : Res :=
  let r := stk * 2 ^ 15 + rgn % 2 ^ 15
  if !s.mem.reloads.contains r then .next s
  else .next (opReload { s with mem := { s.mem with reloads := s.mem.reloads.filter (fun x => x != r) } } stk rgn (2 ^ 21) err)

/-! ### Tables written by software -/

/-- REMAP (R158, R187): PHYS and MTGT held to the channels 0 to 33 (R424). -/
def opRemap (s : State) (stk n : Nat) (v : W32) : State :=
  if n < 34 then wrReg s (pageOf .stk stk + 0x80 + 4 * n) (regLimit .stk (0x80 + 4 * n) v) else s
def execRemap (mid stk n : Nat) (v : W32) (s : State) : Res :=
  .next (if 8 ≤ stk then s else gatedWrite s mid .stk stk (fun x => opRemap x stk n v))

/-- RGN_ENT (Table 6-3, R176) of the entry the master's RGN_IDX selects: CACHE, GOLD and GIDX; clearing CACHE first drops
the region's lines. -/
def opRgnEnt (s : State) (mid stk : Nat) (v : W32) : State :=
  let r := stk * 2 ^ 15 + rdSel s (pageOf .stk stk + 0x44) mid
  let e := rgnEnt s r
  let n := v.toNat
  let s1 := if bitN e 4 ∧ !bitN n 4 ∧ e % 4 = 0 then dropLines s (fun l => l.addr / 2 ^ 21 == r) else s
  setRgn s1 r (e % 16 + fld n 5 4 * 16 + fld e 7 6 * 64 + fld n 25 8 * 256)
def execRgnEnt (mid stk : Nat) (v : W32) (s : State) : Res :=
  .next (if 8 ≤ stk then s else gatedWrite s mid .stk stk (fun x => opRgnEnt x mid stk v))

/-- A way belongs to a TDI that is locked (R337). -/
def tdiLocked (s : State) (f : Nat) : Bool := (getFn s f).tdi == .locked || (getFn s f).tdi == .run

/-- WAY_CFG (R175) of the way the master's WAY_SEL selects. -/
def opWayCfg (s : State) (mid k : Nat) (v : W32) : State :=
  let w := rdSel s (pageOf .llc k + 0x40) mid
  let n := v.toNat
  let mode := fld n 1 0
  let own := fld n 10 2
  let x := getWay s k w
  if 48 ≤ w ∨ mode = 3 ∨ 256 < own ∨ x.phys = 0x3F then s
  else if x.owner < 256 ∧ tdiLocked s x.owner ∧ (x.mode ≠ mode ∨ x.owner ≠ own) then bump s (pageOf .llc k + 0x74)
  else if x.pend.isNone ∧ x.mode = mode ∧ x.owner = own then s
  else setWay s k w { x with pend := some (mode, own) }
def execWayCfg (mid k : Nat) (v : W32) (s : State) : Res :=
  .next (if 4 ≤ k then s else gatedWrite s mid .llc k (fun x => opWayCfg x mid k v))

/-- The scratchpad bytes of a way zeroed, its poison lifted (R175, R429). -/
def zeroWay (s : State) (k w : Nat) : State :=
  let lo := (k * 48 + w) * 2 ^ 21
  { s with mem := { s.mem with scratch := zeroBytes s.mem.scratch lo (lo + 2 ^ 21)
                               scrPoison := s.mem.scrPoison.filter (fun l => decide (256 * l < lo) || decide (lo + 2 ^ 21 ≤ 256 * l)) } }
/-- What a way held is gone: a CACHE way written back and invalidated, a SCRATCH way zeroed. -/
def clearWay (s : State) (k w : Nat) : State :=
  match (getWay s k w).mode with
  | 1 => flushLines s (fun l => l.way == k * 64 + w)
  | _ => zeroWay s k w

/-- One waiting access performed. -/
def runWait (s : State) : MemWait → State
  | .read rq a n => doRead s rq a n .none
  | .write rq a bs => doWrite s rq a bs .none
  | .atom rq a n op x swap => doAtomic s rq op a n x swap
/-- The accesses that waited, performed in arrival order; one that meets another pending way waits on. -/
def runWaits (s : State) : State :=
  s.mem.waits.foldl runWait { s with mem := { s.mem with waits := [] } }

/-- WAY_CFG_DONE (R175). -/
def execWayCfgDone (k way : Nat) (s : State) : Res :=
  match (getWay s k way).pend with
  | none => .next s
  | some (mode, own) =>
    if !isOn s .llc k then .next s
    else
      let s1 := clearWay s k way
      .next (runWaits (setWay s1 k way { getWay s1 k way with mode := mode, owner := own, pend := none }))

/-- INV_CMD (R176): the range of the page it is written to, in every slice. -/
def opInvCmd (s : State) (k : Nat) (v : W32) : State :=
  if bit v 0 then
    let pg := pageOf .llc k
    { s with mem := { s.mem with inv := s.mem.inv ++ [(pg, rdPair s (pg + 0x50), rdN s (pg + 0x58))] } }
  else s
def execInvCmd (mid k : Nat) (v : W32) (s : State) : Res :=
  .next (if 4 ≤ k then s else gatedWrite s mid .llc k (fun x => opInvCmd x k v))
/-- INV_CMD_DONE (R176): C lines dropped, E and LPDDR lines written back and dropped. -/
def execInvCmdDone (s : State) : Res :=
  match s.mem.inv with
  | [] => .next s
  | (_, base, len) :: rest =>
    .next (flushLines { s with mem := { s.mem with inv := rest } }
      (fun l => decide (base < l.addr + 256) && decide (l.addr < base + len)))

/-! ### Temperatures (R182, R183) -/

/-- A power-domain bit of PWR_ON. -/
def pwrOn (s : State) (d : Nat) (on : Bool) : State := wrBit s (0x2000 + 0x40 + 4 * (d / 32)) (d % 32) on

/-- The index of the hottest die, lowest of equals. -/
def hotDie (temps : List Nat) : Nat := ((enumFrom 0 temps).find? (fun e => e.2 == maxN temps)).elim 0 (fun e => e.1)

/-- R183: the stack's thermal trip. -/
def stackTrip (s : State) (stk : Nat) (temps : List Nat) : State :=
  let s1 := tripLog s 3 (16 * stk + hotDie temps) (maxN temps) false
  let s2 := setBlk (stackLost s1 stk) .stk stk .failed
  let s3 := pwrOn { s2 with ras := { s2.ras with degraded := true } } (72 + stk) false
  capacity (rasPut s3 0x10 4 .stk stk 0 (stk * 2 ^ 36))

/-- STACK_TEMP_READ (R183, R391, R370): the class follows the hottest die; at 105 °C the stack stops; a change of class
may change the channels' training records. -/
def execStackTempRead (stk : Nat) (temps : List Nat) (s : State) : Res :=
  if 8 ≤ stk ∨ temps = [] ∨ !hubUp s then .next s
  else
    let t := maxN temps
    let cls := if t < 85 then 0 else if t < 95 then 1 else if t < 105 then 2 else 3
    let s1 := { s with mem := { s.mem with temps := spSet s.mem.temps stk temps } }
    let s2 := wrReg s1 (pageOf .stk stk + 0x40) (w32 (t % 256 + cls * 2 ^ 8 + hotDie temps % 16 * 2 ^ 10))
    if !isOn s2 .stk stk then .next s2
    else
      let s3 := raiseLevel (tripCheck s2 3 stk (16 * stk + hotDie temps) t 100)
      if 105 ≤ t then .next (stackTrip s3 stk temps) else .next (trainSelectStk s3 stk)

/-- LPDDR_TEMPERATURE_REPORT (R182): the channel's refresh multiplier. -/
def execLpddrTemperatureReport (ch mult : Nat) (s : State) : Res :=
  let code : Option Nat := match mult with | 1 => some 0 | 2 => some 1 | 4 => some 2 | _ => none
  match code with
  | some c =>
    if ch < 16 ∧ isOn s .lpd (ch / 4) then
      .next (wrFld s (pageOf .lpd (ch / 4) + 0x40) (5 + 2 * (ch % 4)) (4 + 2 * (ch % 4)) c)
    else .next s
  | none => .next s

end Sys2Proof.Machine
end

