-- ==== Sys2Proof/Machine/Mailbox.lean ====
section
/-!
DEFINITION. Mailboxes (chapter 12): bindings, the lock, messages and acknowledgements (R331 to R334), and the framing
that the firmwares' commands and replies share (R268, R426).
-/
namespace Sys2Proof.Machine

/-! ### Bindings (R332) -/

def getMb (s : State) (ch : Nat) : Mbox := spGet {} s.mbx ch
def setMb (s : State) (ch : Nat) (x : Mbox) : State := { s with mbx := spSet s.mbx ch x }
/-- The MBX page of a channel. -/
def mbPg (ch : Nat) : Nat := pageOf .mbx ch
def mbA (s : State) (ch : Nat) : Nat := fld (rdN s (mbPg ch + 0x40)) 8 0
def mbB (s : State) (ch : Nat) : Nat := fld (rdN s (mbPg ch + 0x40)) 24 16
/-- A master bound to a channel. -/
def mbBound (s : State) (ch m : Nat) : Bool := m != 0 && (m == mbA s ch || m == mbB s ch)
/-- The bound party other than `m`. -/
def mbOther (s : State) (ch m : Nat) : Nat := if m = mbA s ch then mbB s ch else mbA s ch
/-- MB_DENY counts a refused access. -/
def mbDeny (s : State) (ch : Nat) : State := bump s (mbPg ch + 0x54)

/-- R337: the PF's access to the mailbox page of a TDI in CONFIG_LOCKED or RUN is refused, and R321: so is the access
of a TDI in RUN that lacks the IDE T bit. -/
def mbRefused (s : State) (mid ch : Nat) : Bool :=
  (midOf mid == 1 && decide (64 ≤ ch) && tdiLocked s (ch - 63)) ||
    (hostMid mid && decide (1 < midOf mid) && (getFn s (midOf mid - 1)).tdi == .run && !midT mid)

/-! ### Signals (R333, R353) -/

/-- A BLK_ISR bit of an MBX page for party `m`: a VF's event signals on its own vector 0, any other on PF vector 0; a
VF's FN_EVT bit is set as well (Table 12-3). `b` is 0 for a message and 2 for an acknowledgement. -/
def mbSignal (s : State) (ch m b : Nat) : State :=
  let bitNo := if m = mbA s ch then b else b + 1
  let pg := mbPg ch
  let vf := decide (2 ≤ m) && decide (m ≤ 0x100)
  let was := pageIrq s pg
  let s1 := orReg s (pg + 0x14) (w32 (2 ^ bitNo))
  let s2 := if !was && pageIrq s1 pg then msix s1 (if vf then m - 1 else 0) 0 else s1
  if vf then fnEvent s2 (m - 1) (b / 2) else s2

/-! ### The procedure of R333 -/

/-- What a read of MB_LOCK answers: 0 makes the reader the owner. -/
def opMbLock (s : State) (mid ch : Nat) : State × W32 :=
  let m := midOf mid
  let x := getMb s ch
  if !mbBound s ch m then (mbDeny s ch, 0xFFFFFFFF)
  else if x.full then (s, w32 x.sender)
  else if x.owner = 0 then (setMb s ch { x with owner := m }, 0)
  else (s, w32 x.owner)

/-- MB_LOCK (R333 step 1). -/
def execMbLock (mid ch : Nat) (s : State) : Res :=
  .next (if 319 ≤ ch ∨ !hubUp s then s
    else if mbRefused s mid ch then hostAbort s (midOf mid - 1)
    else
      let (s1, v) := opMbLock s mid ch
      emit s1 (.reg (midOf mid) (mbPg ch + 0x44) v))

/-- ACK (R333 step 4). -/
def opAck (s : State) (m ch : Nat) : State :=
  let x := getMb s ch
  if !x.full ∨ m ≠ mbOther s ch x.sender then mbDeny s ch
  else mbSignal (setMb s ch { x with full := false }) ch x.sender 2
/-- GO (R333 step 3). -/
def opGo (s : State) (m ch : Nat) : State :=
  let x := getMb s ch
  if x.owner ≠ m then mbDeny s ch
  else mbSignal (setMb s ch { x with owner := 0, full := true, sender := m, count := (x.count + 1) % 65536, discarded := false })
    ch (mbOther s ch m) 0
/-- RELEASE (R333). -/
def opRelease (s : State) (m ch : Nat) : State :=
  let x := getMb s ch
  if x.owner ≠ m then mbDeny s ch else setMb s ch { x with owner := 0 }

/-- A write of MB_CTL: its bits act in the order ACK, GO, RELEASE (R333). -/
def opMbCtl (s : State) (mid ch : Nat) (v : W32) : State :=
  let m := midOf mid
  if mbRefused s mid ch then hostRef s
  else if !mbBound s ch m then mbDeny s ch
  else
    let s1 := if bit v 1 then opAck s m ch else s
    let s2 := if bit v 0 then opGo s1 m ch else s1
    if bit v 2 then opRelease s2 m ch else s2
def execGo (mid ch : Nat) (s : State) : Res := .next (if 319 ≤ ch ∨ !hubUp s then s else opMbCtl s mid ch 1)
def execAck (mid ch : Nat) (s : State) : Res := .next (if 319 ≤ ch ∨ !hubUp s then s else opMbCtl s mid ch 2)
def execMbRelease (mid ch : Nat) (s : State) : Res := .next (if 319 ≤ ch ∨ !hubUp s then s else opMbCtl s mid ch 4)

/-- DATA[n] written: by the owner only (R333 step 2). -/
def opMbData (s : State) (mid ch n : Nat) (v : W32) : State :=
  let m := midOf mid
  if mbRefused s mid ch then hostRef s
  else if !mbBound s ch m then mbDeny s ch
  else if (getMb s ch).owner = m then setMb s ch { getMb s ch with data := setPad 0 (getMb s ch).data n v }
  else s

/-! ### Resets (Table 12-10) -/

/-- A FULL message discarded: MB_STS bit 10, the sender signalled as for ACK. -/
def mbDiscard (s : State) (ch : Nat) : State :=
  let x := getMb s ch
  if x.full then mbSignal (setMb s ch { x with full := false, discarded := true }) ch x.sender 2 else s
/-- A reset of function `f`: the locks it holds are released, the messages addressed to it discarded (R329 step 1). -/
def mbReset1 (s : State) (m ch : Nat) : State :=
  let s1 := if (getMb s ch).owner = m then setMb s ch { getMb s ch with owner := 0 } else s
  let x := getMb s1 ch
  if x.full ∧ mbOther s1 ch x.sender = m ∧ mbBound s1 ch m then mbDiscard s1 ch else s1
def mbFnReset (s : State) (f : Nat) : State := (List.range 319).foldl (fun x ch => mbReset1 x (f + 1) ch) s
/-- A soft reset of an MBX page (R350): its status and counters clear, its lock is released, its message discarded. -/
def mbSoftReset (s : State) (ch : Nat) : State :=
  let s0 := [0x14, 0x20, 0x24, 0x54].foldl (fun x o => wrReg x (mbPg ch + o) 0) s
  let s1 := mbDiscard (setMb s0 ch { getMb s0 ch with owner := 0 }) ch
  setMb s1 ch { getMb s1 ch with sender := 0, count := 0 }

/-! ### Firmware's messages (R268, R334, R426) -/

/-- DATA[n] of a channel. -/
def mbData (s : State) (ch n : Nat) : Nat := ((getMb s ch).data.getD n 0).toNat
/-- A message that waits for `self`: FULL, from the other party. -/
def mbWaits (s : State) (ch self : Nat) : Bool := (getMb s ch).full && (getMb s ch).sender != self && mbBound s ch self
/-- CMD of the message. -/
def mbCmd (s : State) (ch : Nat) : Nat := fld (mbData s ch 1) 7 0
/-- The index of the message. -/
def mbIdx (s : State) (ch : Nat) : Nat := fld (mbData s ch 1) 31 16
/-- The recipient acknowledges the message and sends its reply: CMD echoed, STATUS, then the reply's words from DATA[2]
up; the other words keep what they held. -/
def mbReply (s : State) (ch self status : Nat) (ws : List Nat) : State :=
  let hd := mbCmd s ch + 256 * status
  let s1 := opAck s self ch
  let x := getMb s1 ch
  let d := (enumFrom 1 (hd :: ws)).foldl (fun (d : List W32) e => setPad 0 d e.1 (w32 e.2)) x.data
  opGo (setMb s1 ch { x with owner := self, data := d }) self ch

end Sys2Proof.Machine
end

