-- ==== Sys2Proof/Machine/Tenant.lean ====
section
/-!
DEFINITION. Tenants (chapter 09): accounts, functions' sequence ranges, the admission computation (R274, R275), the
service commands of mailbox channel 0 (R268, R269), replenishment (R271), completion entries (R257, R258) and breach
episodes (R282).
-/
namespace Sys2Proof.Machine

/-- Registers of the DEAL and SVC pages. -/
def dl (off : Nat) : Nat := 0x8000 + off
def svc (off : Nat) : Nat := 0x9000 + off

/-! ### Accounts, ranges, settings -/

/-- An account; one never set holds the reset values of Table 9-3. -/
def getA (s : State) (a : Nat) : Acct := (spFind s.deal.accts a).getD { owner := a / 16 }
def setA (s : State) (a : Nat) (x : Acct) : State := { s with deal := { s.deal with accts := spSet s.deal.accts a x } }
/-- SEQ_BASE and SEQ_CNT of a function (Table 9-2). -/
def seqRange (s : State) (f : Nat) : Nat × Nat := (spFind s.deal.fnSeq f).getD (256 * f, 256)
/-- The admission settings of a model slot: those in effect, and those the next build brings into effect (R268). -/
def getAdm (s : State) (m : Nat) : AdmSet := spGet {} s.deal.adm m
def admSoon (s : State) (m : Nat) : AdmSet := (spFind s.deal.admNew m).getD (getAdm s m)
/-- An account with the settings the next build brings into effect (R273). -/
def acctSoon (a : Acct) : Acct :=
  match a.waits with
  | some t => { a with ante := t.ante, weight := t.weight, cmax := t.cmax, pfr := t.pfr, waits := none }
  | none => a

/-! ### Completion entries (R257, R258) -/

/-- A completion entry from its fields; PHASE is set when it is written. -/
def mkCqe (htag seq status info : Nat) (toks lps : List Nat) (trick : Nat) : BitVec 256 :=
  BitVec.ofNat 256 (htag % 2 ^ 32 + 2 ^ 32 * (seq % 65536) + 2 ^ 48 * (status % 256) + 2 ^ 56 * (info % 128) +
    2 ^ 64 * packN 24 (toks.take 4) + 2 ^ 160 * packN 16 (lps.take 4) + 2 ^ 224 * (trick % 2 ^ 32))
/-- An entry with a detail record: the reason in byte 0x08, the first trick of a range in bytes 0x0C to 0x0F. -/
def mkDetail (htag seq status reason first trick : Nat) : BitVec 256 :=
  BitVec.ofNat 256 (htag % 2 ^ 32 + 2 ^ 32 * (seq % 65536) + 2 ^ 48 * (status % 256) + 2 ^ 64 * (reason % 256) +
    2 ^ 96 * (first % 2 ^ 32) + 2 ^ 224 * (trick % 2 ^ 32))
/-- An entry waits to be written to its queue. -/
def cqAdd (s : State) (q gid commit : Nat) (ack : Bool) (e : BitVec 256) : State :=
  { s with deal := { s.deal with cq := s.deal.cq ++ [⟨q, gid, commit, ack, e⟩] } }
/-- An entry that no commit caused: what its TRICK field holds the spec does not say (a free value, log entry 3). -/
def cqDetail (s : State) (q gid htag seq status reason : Nat) (ack : Bool) : State :=
  cqAdd (useFree s) q gid 0 ack (mkDetail htag seq status reason 0 (Config.freeWord s.free 0).toNat)

/-! ### The admission computation (R274 to R276) -/

def cluCount (s : State) : Nat := ((List.range 68).filter (cluLive s)).length
/-- κ of the dense path; 0 stands for no cluster in service. -/
def kappa (s : State) : Nat := if cluCount s = 0 then 0 else (68 + cluCount s - 1) / cluCount s
/-- θ × 256. -/
def theta (s : State) : Nat := levelTheta s.thr.level
/-- DEAL_CFG takes effect at a trick build (R265). -/
def thinMax (s : State) : Nat := fld s.deal.cfg 3 0
def prefillFloor (s : State) : Nat := fld s.deal.cfg 10 4
def prefillWin (s : State) : Nat := fld s.deal.cfg 23 16

/-- Table 8-11, row 3: a unit of the model's unit group is retired with its substitution not complete, or a channel that
holds its C shards migrates. -/
def unitsBad (s : State) (b : Bundle) : Bool :=
  s.blk.st.any (fun e => e.2 == .retired && decide (0x1000000 ≤ e.1) && decide (e.1 < 0x1880000) &&
      (let u := (e.1 - 0x1000000) / 0x1000
       b.stks.contains (u / 272) && fld (rdN s (pageOf .nbu u + 0x40)) 15 12 == b.ugrp && (spFind s.wear.unitSub u).isNone)) ||
    b.shards.any (fun x => match spFind s.wear.mig (x / 34) with | some g => g.ch == x % 34 | none => false)
/-- The path at `r` decode rows (Table 8-11). -/
def thinPath (s : State) (m r : Nat) : Bool :=
  thinMax s != 0 && (getM s m).b.thin && decide (r ≤ thinMax s) && !unitsBad s (getM s m).b

/-- The layer time at `r` rows in ps × 256; on the dense path with no cluster in service there is none. -/
def lambda (s : State) (m r : Nat) : Option Nat :=
  let b := (getM s m).b
  if thinPath s m r then some ((b.tLA + b.tLB * r) * theta s)
  else if kappa s = 0 then none
  else some ((b.dLA + b.dLB * r) * kappa s * theta s)
/-- λ_m(r) ≤ 36 µs. -/
def lambdaOk (s : State) (m r : Nat) : Bool := match lambda s m r with | some x => decide (x ≤ 36000000 * 256) | none => false
/-- The head's time at `r` rows in ps × 256. -/
def headTime (s : State) (m r : Nat) : Nat :=
  let b := (getM s m).b
  (if thinPath s m r then b.tHA + b.tHB * r else b.dHA + b.dHB * r) * theta s
/-- e_m at `r` rows in ps × 256. -/
def estTime (s : State) (m r : Nat) : Nat := cxLayers (getM s m).ctx * (lambda s m r).getD 0 + headTime s m r

/-- R_m under settings `x`: the largest r up to RMAX whose layer time is within the limit. -/
def rowCap (s : State) (m : Nat) (x : AdmSet) : Nat :=
  match ((List.range x.rmax).map (· + 1)).reverse.find? (lambdaOk s m) with | some r => r | none => 0
def interCap (s : State) (m : Nat) (x : AdmSet) : Nat := min x.imax (rowCap s m x / (1 + x.draft))
def lowRows (s : State) (m : Nat) (x : AdmSet) : Nat := rowCap s m x - interCap s m x * (1 + x.draft)

/-- The model slots that count as LOADED, `also` among them (Table 9-6). -/
def loadedSlots (s : State) (also : Option Nat) : List Nat :=
  (List.range 64).filter (fun m => (getM s m).st == 1 || also == some m)
/-- D in ps × 256, under settings `adm`. -/
def durD (s : State) (adm : Nat → AdmSet) (also : Option Nat) : Nat :=
  let ms := (loadedSlots s also).filter (fun m => decide (1 ≤ rowCap s m (adm m)))
  let sum (thin : Bool) := sumN ((ms.filter (fun m => thinPath s m (rowCap s m (adm m)) == thin)).map (fun m => estTime s m (rowCap s m (adm m))))
  13000000 * 256 + max (sum false) (sum true)
/-- ⌈D × 100 ÷ (100 − PREFILL_FLOOR)⌉ in µs. -/
def periodOf (s : State) (d : Nat) : Nat :=
  let den := (100 - prefillFloor s) * 256 * 1000000
  (d * 100 + den - 1) / den
def pAof (s : State) (adm : Nat → AdmSet) (also : Option Nat) : Nat := periodOf s (durD s adm also)
/-- P_A in µs. -/
def pA (s : State) : Nat := pAof s (getAdm s) none
/-- ANTE_CAP. -/
def anteCapOf (s : State) (adm : Nat → AdmSet) (also : Option Nat) : Nat :=
  let ns := ((loadedSlots s also).filter (fun m => decide (1 ≤ rowCap s m (adm m)))).map (fun m => lowRows s m (adm m))
  match ns with
  | [] => 0
  | n :: t => s.deal.repPeriod * 1000 / pAof s adm also * t.foldl min n
/-- The sum of ANTE over enabled accounts, account `a` counted as `x` holds it; settings that wait for the next build count. -/
def anteSum (s : State) (a : Nat) (x : Acct) : Nat :=
  sumN (((s.deal.accts.filter (fun e => e.1 != a)).map (fun e => if e.2.enable then (acctSoon e.2).ante else 0))) +
    (if x.enable then (acctSoon x).ante else 0)

/-- R269: how far each condition of R275 fails: P_A beyond TPER_m for every counted model, and the antes beyond
ANTE_CAP. -/
def excess (s : State) (adm : Nat → AdmSet) (also : Option Nat) (antes : Nat) : List Nat :=
  let p := pAof s adm also
  (antes - anteCapOf s adm also) ::
    (loadedSlots s also).map (fun m => if (adm m).tper = 0 then 0 else p - (adm m).tper)
/-- A change that raises no excess. -/
def noWorse (before after : List Nat) : Bool := (before.zip after).all (fun e => decide (e.2 ≤ e.1))

/-! ### Requests in slots -/

/-- The class an account serves a request at (R270, Table 9-3): INTERACTIVE, code 0, is the highest class. -/
def servedCls (s : State) (r : Req) : Nat := max r.cls (getA s r.acct).cmax
/-- The slots that hold a request that is not on a FREEING slot. -/
def liveReqs (s : State) : List (Nat × Req) :=
  s.deal.slots.filterMap (fun e => if e.2.st = .active then e.2.req.map (fun r => (e.1, r)) else none)
/-- Every request that has not ended, those that wait on a FREEING slot among them. -/
def allReqs (s : State) : List (Nat × Req) := s.deal.slots.filterMap (fun e => e.2.req.map (fun r => (e.1, r)))
/-- A request changed. -/
def modReq (s : State) (g : Nat) (f : Req → Req) : State := setSlot s g { getSlot s g with req := (getSlot s g).req.map f }

/-- PAUSED entered: the state left is kept. -/
def enterPaused (r : Req) : Req := if r.st = .paused then r else { r with st := .paused, prev := r.st }
/-- Every pause cleared: the request leaves PAUSED (Table 8-8), after trick `commit` was committed. -/
def leavePaused (commit : Nat) (r : Req) : Req :=
  if r.st = .paused ∧ !r.host ∧ !r.budget then { r with st := r.prev, since := commit } else r

/-! ### Breach episodes (R282) -/

/-- One BREACH entry to the request's completion queue. -/
def breachOut (s : State) (g : Nat) (r : Req) (item first last : Nat) : State :=
  let s1 := setA s r.acct { getA s r.acct with breaches := (getA s r.acct).breaches + 1 }
  cqAdd s1 r.q g 0 false (mkDetail r.htag r.seq 0x03 item first last)
/-- The open episodes of a request end. -/
def breachEnd (s : State) (g : Nat) : State :=
  match (getSlot s g).req with
  | none => s
  | some r =>
    let s1 := match r.b3 with | some e => breachOut s g r 3 e.first e.last | none => s
    let s2 := match r.b4 with | some e => breachOut s1 g r 4 e.first e.last | none => s1
    modReq s2 g (fun r => { r with b3 := none, b4 := none })
/-- An episode at trick `t` in which the guarantee is or is not broken: what is left of it, and the entry to write. -/
def episodeAt (e : Option Episode) (t : Nat) (broken : Bool) : Option Episode × Option Episode :=
  match e, broken with
  | none, false => (none, none)
  | none, true => (some ⟨t, t, 1⟩, none)
  | some x, false => (none, some x)
  | some x, true => if 999 ≤ x.n then (none, some ⟨x.first, t, x.n + 1⟩) else (some ⟨x.first, t, x.n + 1⟩, none)

/-! ### Service commands (R268, R269) -/

/-- What a service command answers: STATUS and the reply's words, with the state it leaves. -/
abbrev Svc := State × Nat × List Nat
def svcOk (s : State) (ws : List Nat) : Svc := (s, 0, ws)
def svcNo (s : State) (status : Nat) : Svc := (s, status, [])
/-- Field hi:lo of DATA[n] of the message; other bits are reserved and ignored (R7). -/
def svcFld (s : State) (n hi lo : Nat) : Nat := fld (mbData s 0 n) hi lo

/-- FN_SET (Table 9-2, R269, R337). -/
def opFnSet (s : State) : Svc :=
  let f := mbIdx s 0
  let base := svcFld s 2 15 0
  let cnt := svcFld s 3 16 0
  let (b0, n0) := seqRange s f
  if 256 ≤ f ∨ 65536 < cnt then svcNo s 1
  else if 65536 < base + cnt ∨ (cnt ≠ 0 ∧ (List.range 256).any (fun g => g != f && (let (b, n) := seqRange s g
      n != 0 && decide (b < base + cnt) && decide (base < b + n))) = true) then svcNo s 2
  else if tdiLocked s f ∨ s.deal.slots.any (fun e => decide (b0 ≤ e.1) && decide (e.1 < b0 + n0) &&
      !(decide (base ≤ e.1) && decide (e.1 < base + cnt)) && e.2.st != .free) = true then svcNo s 3
  else svcOk { s with deal := { s.deal with fnSeq := spSet s.deal.fnSeq f (base, cnt) } } []

/-- ACCT_SET (Table 9-3, R269, R273, R337): ANTE, WEIGHT, CMAX and PFR take effect at the next build. -/
def opAcctSet (s : State) : Svc :=
  let a := mbIdx s 0
  let old := getA s a
  let t : Terms := { ante := svcFld s 2 23 0, weight := svcFld s 5 23 16, cmax := svcFld s 5 25 24, pfr := svcFld s 6 8 0 }
  let x : Acct := { old with
    ceil := svcFld s 3 23 0, burst := svcFld s 4 23 0, owner := svcFld s 5 7 0, enable := bitN (mbData s 0 5) 8, waits := some t
    -- an account set for the first time in a period has had no runnable sequence at the builds before (R282)
    demand := if (spFind s.deal.accts a).isSome then old.demand else decide (s.deal.next ≤ s.deal.perFirst) }
  if 4096 ≤ a ∨ x.ceil < t.ante ∨ t.weight = 0 ∨ 256 < t.pfr then svcNo s 1
  else if (x.owner ≠ old.owner ∨ x.enable ≠ old.enable) ∧ (tdiLocked s old.owner ∨ tdiLocked s x.owner) then svcNo s 3
  else if ((old.enable ∧ !x.enable) ∨ x.owner ≠ old.owner) ∧ (allReqs s).any (fun e => e.2.acct == a) = true then svcNo s 3
  else if !noWorse (excess s (admSoon s) none (anteSum s a old)) (excess s (admSoon s) none (anteSum s a x)) then svcNo s 4
  else svcOk (setA s a x) []

/-- ACCT_GET (Table 9-2). -/
def opAcctGet (s : State) : Svc :=
  let a := mbIdx s 0
  if 4096 ≤ a then svcNo s 1
  else svcOk s [unsx 32 (getA s a).bal, (getA s a).charged, (getA s a).breaches]

/-- MODEL_ADM (Table 9-2, R269, R276, Table 9-6): it takes effect at the next build, or for a LOADING model when it is LOADED. -/
def opModelAdm (s : State) : Svc :=
  let m := mbIdx s 0
  let x : AdmSet := { tper := svcFld s 2 23 0, rmax := svcFld s 3 10 0, imax := svcFld s 4 10 0, draft := svcFld s 4 19 16 }
  let also := if (getM s m).st = 3 then some m else none
  let adm' (k : Nat) : AdmSet := if k = m then x else admSoon s k
  let antes := anteSum s 0 (getA s 0)
  if 64 ≤ m ∨ x.rmax = 0 ∨ 1024 < x.rmax ∨ 1024 < x.imax ∨ 8 < x.draft then svcNo s 1
  else if ((getM s m).st = 1 ∨ (getM s m).st = 3) ∧ rowCap s m x = 0 then svcNo s 4
  else if !noWorse (excess s (admSoon s) also antes) (excess s adm' also antes) then svcNo s 4
  else svcOk { s with deal := { s.deal with admNew := spSet s.deal.admNew m x } } []

/-- ADM_GET (Table 9-2). With no cluster in service κ has no value (a free value, log entry 3). -/
def opAdmGet (s : State) : Svc :=
  let m := mbIdx s 0
  let x := getAdm s m
  let r := if (getM s m).st = 1 then rowCap s m x else 0
  let i := if (getM s m).st = 1 then interCap s m x else 0
  let n := if (getM s m).st = 1 then lowRows s m x else 0
  let thin := decide ((getM s m).st = 1) && thinPath s m r
  let k := if kappa s = 0 then Config.freeNat s.free 0 % 128 else kappa s
  if 64 ≤ m then svcNo s 1
  else svcOk (if kappa s = 0 then useFree s else s)
    [pA s, anteCapOf s (getAdm s) none, r + 2 ^ 16 * i, n + 2 ^ 16 * b2n thin, k + 2 ^ 8 * theta s]

/-- SVC_SET (Table 9-2): REP_PERIOD takes effect at the reply, the rest at the next build (R268). -/
def opSvcSet (s : State) : Svc :=
  let rep := svcFld s 2 15 0
  let age := svcFld s 3 7 0
  let stall := svcFld s 4 15 0
  if mbIdx s 0 ≠ 0 ∨ rep < 10 ∨ 10000 < rep ∨ age = 0 ∨ stall = 0 ∨ 1000 < stall then svcNo s 1
  else svcOk { s with deal := { s.deal with repPeriod := rep, svcNew := some (age, stall)
                                            perDue := max s.time (s.deal.perLast + rep * 1000000) } } []

/-- The dealer answers the message of channel 0: only the PF's, only while it runs (R334, R426, R406), BUSY between CFG_READY and DEVICE_READY (R408). A command by
another name than the message's has no effect. -/
def svcCmd (cmd : Nat) (f : State → Svc) (s : State) : State :=
  if !mbWaits s 0 0x101 then s
  else if !s.deal.running then (if s.boot.cfgReady ∧ !s.boot.devReady then mbReply s 0 0x101 3 [] else s)
  else if (getMb s 0).sender ≠ 1 ∨ mbCmd s 0 = 0 ∨ 6 < mbCmd s 0 then mbReply s 0 0x101 1 []
  else if mbCmd s 0 ≠ cmd then s
  else
    let (s1, st, ws) := f s
    mbReply s1 0 0x101 st ws
def execFnSet (s : State) : Res := .next (svcCmd 1 opFnSet s)
def execAcctSet (s : State) : Res := .next (svcCmd 2 opAcctSet s)
def execAcctGet (s : State) : Res := .next (svcCmd 3 opAcctGet s)
def execModelAdm (s : State) : Res := .next (svcCmd 4 opModelAdm s)
def execAdmGet (s : State) : Res := .next (svcCmd 5 opAdmGet s)
def execSvcSet (s : State) : Res := .next (svcCmd 6 opSvcSet s)

/-! ### Replenishment (R271) and item 5 of R282 -/

/-- Tokens charged above the ante. -/
def aboveAnte (x : Acct) : Nat := x.charged - x.ante
/-- Item 5: the accounts that had a runnable sequence at every build of the period and were charged too little; a
period in which no trick was built breaks nothing. -/
def shareBroken (s : State) : List Nat :=
  let en := s.deal.accts.filter (fun e => e.2.enable)
  let x := sumN (en.map (fun e => aboveAnte e.2))
  let dem := en.filter (fun e => e.2.demand)
  let w := sumN (dem.map (fun e => e.2.weight))
  if s.deal.next ≤ s.deal.perFirst then []
  else (dem.filter (fun e => decide (aboveAnte e.2 + 1024 < x * e.2.weight / w))).map (fun e => e.1)
/-- REPLENISH (R271): at the period boundary, which the hub's counter has reached. -/
def execReplenish (s : State) : Res :=
  if !s.deal.running ∨ s.time < s.deal.perDue then .next s
  else
    let bad := shareBroken s
    let s1 := (allReqs s).foldl (fun x e =>
      -- none is written to a queue that is paused on its own (R285)
      if bad.contains e.2.acct && (getQ s e.2.q).st != .paused then breachOut x e.1 e.2 5 s.deal.perFirst (s.deal.next - 1) else x) s
    let s2 := { s1 with deal := { s1.deal with
      perFirst := s1.deal.next, perLast := s.deal.perDue, perDue := s.deal.perDue + s.deal.repPeriod * 1000000
      accts := s1.deal.accts.map (fun e => if e.2.enable then
        (e.1, { e.2 with bal := min e.2.bal (e.2.burst : Int) + (e.2.ceil : Int), charged := 0, demand := true })
        else (e.1, { e.2 with demand := true })) } }
    let clear (x : State) (e : Nat × Req) : State :=
      if e.2.budget && (getA s2 e.2.acct).enable && decide (1 ≤ (getA s2 e.2.acct).bal) then
        modReq x e.1 (fun r => leavePaused s.deal.commit { r with budget := false })
      else x
    .next ((allReqs s2).foldl clear s2)

/-! ### Stalled queues (R285) -/

def qSize (s : State) (q : Nat) : Nat := 2 ^ (fld (rdN s (pageOf .que q + 0x10)) 3 0 + 4)
def cqSize (s : State) (q : Nat) : Nat := 2 ^ (fld (rdN s (pageOf .que q + 0x10)) 7 4 + 4)
/-- R326: a CQ is full while one slot stays empty. -/
def cqFull (s : State) (q : Nat) : Bool := ((getQ s q).cqTail + 1) % cqSize s q == (getQ s q).cqHead
/-- The queue has stayed full for longer than CQ_STALL_MAX, in ms. -/
def stallOver (s : State) (q : Nat) : Bool :=
  cqFull s q && (match (getQ s q).fullAt with | some t => decide (t + s.deal.cqStall * 1000000 < s.time) | none => false)
/-- CQ_STALL (R285): a queue that has stayed full for longer than CQ_STALL_MAX is paused on its own. -/
def execCqStall (q : Nat) (s : State) : Res :=
  if (getQ s q).st = .enabled ∧ stallOver s q = true then .next (setQ s q { getQ s q with st := .paused }) else .next s

/-! ### Model loads (R191, R265, R287) -/

/-- MODEL_LOAD: an EMPTY or FAULTED slot becomes LOADING with its bundle, and its attention context is read and checked;
a context out of its ranges marks the model FAULTED with FORMAT (R191). -/
def execModelLoad (slot : Nat) (b : Bundle) (s : State) : Res :=
  if 64 ≤ slot ∨ !s.deal.running ∨ !((getM s slot).st == 0 || (getM s slot).st == 2) then .next s
  else match readCtx s slot with
    | (s1, some c) =>
      if cxOk c then .next (setM s1 slot { getM s1 slot with st := 3, b := b, ctx := c })
      else .next (setM s1 slot { getM s1 slot with st := 2, b := b, ctx := c, fault := 4, ftrick := s1.deal.trick })
    | (s1, none) => .next (setM s1 slot { getM s1 slot with st := 2, b := b, fault := 8, ftrick := s1.deal.trick })

/-- The MODEL_ADM settings of a slot that wait come into effect. -/
def applyAdm (s : State) (m : Nat) : State :=
  match spFind s.deal.admNew m with
  | some x => { s with deal := { s.deal with adm := spSet s.deal.adm m x, admNew := spDel s.deal.admNew m } }
  | none => s

/-- MODEL_LOAD_DONE (R287): the slot becomes LOADED; a capacity recompute follows. -/
def execModelLoadDone (slot : Nat) (s : State) : Res :=
  if slot < 64 ∧ (getM s slot).st = 3 then .next (capacity (applyAdm (setM s slot { getM s slot with st := 1 }) slot)) else .next s

end Sys2Proof.Machine
end

