-- ==== Sys2Proof/Machine/Accept.lean ====
section
/-!
DEFINITION. Acceptance of descriptors (chapter 08): layouts (R231 to R236), the checks of Table 8-7 (R237), requests
created, paused, resumed, cancelled and expired (R238 to R240, R261), slots freed (R228).
-/
namespace Sys2Proof.Machine

/-! ### Descriptors (Tables 8-2 to 8-6) -/

/-- `n` bytes of a descriptor from `off`. -/
def dF (d : Desc) (off n : Nat) : Nat := d.toNat / 2 ^ (8 * off) % 2 ^ (8 * n)
def dOpc (d : Desc) : Nat := dF d 0 1
def dFlags (d : Desc) : Nat := dF d 1 1
def dSeq (d : Desc) : Nat := dF d 2 2
def dTag (d : Desc) : Nat := dF d 4 4
/-- DTOK[i] of a DRAFT. -/
def dTok (d : Desc) (i : Nat) : Nat := dF d (0x0C + 4 * i) 4
/-- A defined opcode with every reserved byte and bit 0. -/
def dRsvOk (d : Desc) : Bool :=
  match dOpc d with
  | 1 | 2 => !bitN (dFlags d) 7 && dF d 0x09 1 == 0 && dF d 0x1C 4 == 0 && dF d 0x38 8 == 0
  | 3 | 5 | 6 => dFlags d == 0 && dF d 0x08 56 == 0
  | 4 => dFlags d == 0 && dF d 0x0C 52 == 0
  | 7 => dFlags d == 0 && dF d 0x09 3 == 0 && dF d 0x2C 20 == 0 &&
      (List.range 8).all (fun i => decide (i < dF d 0x08 1) || dTok d i == 0)
  | _ => false

/-- A stop table as the dealer keeps it. -/
structure Stops where
  ids : List Nat := []
  seqs : List (List Nat) := []
  deriving DecidableEq, Repr
/-- Token `j` of stop sequence `i`. -/
def stopTok (bs : List Byte) (i j : Nat) : Nat := leAt bs (0x2C + 36 * i + 4 * j) 4
/-- R236: the counts, lengths and reserved bytes of a stop table, and its ids below the vocabulary. -/
def stopOk (bs : List Byte) (vocab : Nat) : Bool :=
  let n := leAt bs 0 1
  let k := leAt bs 1 1
  decide (n ≤ 8) && decide (k ≤ 4) && leAt bs 2 6 == 0 && leAt bs 0xB8 8 == 0 &&
    (List.range 8).all (fun i => if i < n then decide (leAt bs (8 + 4 * i) 4 < vocab) else leAt bs (8 + 4 * i) 4 == 0) &&
    (List.range 4).all (fun i =>
      let len := leAt bs (0x28 + 36 * i) 1
      leAt bs (0x29 + 36 * i) 3 == 0 && (if i < k then decide (1 ≤ len) && decide (len ≤ 8) else len == 0) &&
        (List.range 8).all (fun j => if j < len then decide (stopTok bs i j < vocab) else stopTok bs i j == 0))
def stopsOf (bs : List Byte) : Stops :=
  { ids := (List.range (leAt bs 0 1)).map (fun i => leAt bs (8 + 4 * i) 4)
    seqs := (List.range (leAt bs 1 1)).map (fun i => (List.range (leAt bs (0x28 + 36 * i) 1)).map (stopTok bs i)) }

/-- The span lies in E regions or in the LPDDR tier in service (R232, Table 8-7). -/
def spanReadable (s : State) (a n : Nat) : Bool :=
  n == 0 ||
  (decide (a + n ≤ 0x010000000000) && (List.range ((a + n + 2 ^ 21 - 1) / 2 ^ 21 - a / 2 ^ 21)).all (fun i =>
    let r := a / 2 ^ 21 + i
    if r * 2 ^ 21 < 0x008000000000 then rgnClass s r == 1 else lpdUp s))

/-- What reading a stop table gives: none asked for, unreadable, its bytes. -/
inductive StopTab | absent | unreadable | bytes (bs : List Byte)
  deriving DecidableEq, Repr
/-- R316: a request of the device's own to host memory for queue `q` of function `f`, under the queue's PASID when PASID_EN is set,
translated through ATS when the function's ATS is enabled. -/
def hostAsk (s : State) (f q : Nat) (wr : Bool) : State :=
  emit s (.hostReq f (if bit (rdReg s (pageOf .que q + 0x10)) 21 then some (fld (rdN s (pageOf .que q + 0x14)) 19 0) else none) (getFn s f).ats wr)

/-- R235, R236: the stop table read once, from device memory or as the host answers; one that is not 64-byte aligned
cannot be read (log entry 33). -/
def readStops (s : State) (q f : Nat) (d : Desc) (rd : StopRead) : State × StopTab :=
  let a := dF d 0x28 8
  if a = 0 then (s, .absent)
  else if a % 64 ≠ 0 then (s, .unreadable)
  else if bitN (dFlags d) 6 then
    if !spanReadable s a 192 then (s, .unreadable)
    else match memRead s f true a 192 .none with
      | (s1, .ok bs) => (s1, .bytes bs)
      | (s1, _) => (s1, .unreadable)
  else match rd with
    | .bytes bs => (hostAsk s f q false, if bs.length = 192 then .bytes bs else .unreadable)
    | _ => (hostAsk s f q false, .unreadable)

/-! ### The head of a queue -/

/-- The function that owns a queue set (R318). -/
def queOwner (s : State) (q : Nat) : Option Nat :=
  (List.range 256).find? (fun f => decide ((getFn s f).qbase ≤ q) && decide (q < (getFn s f).qbase + (getFn s f).qcnt))

/-- The descriptor at the head of the ready descriptors of a queue, when the dealer may accept one of kind `opc`: it
runs, and the queue is neither DISABLED nor PAUSED (R285). A reserved opcode is accepted, to be refused, under any
kind. -/
def headDesc (s : State) (q opc : Nat) : Option (Nat × Desc) :=
  let x := getQ s q
  if !s.deal.running ∨ 4096 ≤ q ∨ x.st = .disabled ∨ x.st = .paused then none
  else match x.ready, queOwner s q with
    | d :: _, some f => if dOpc d = opc ∨ dOpc d = 0 ∨ 7 < dOpc d then some (f, d) else none
    | _, _ => none
/-- The head is taken. -/
def popDesc (s : State) (q : Nat) : State := setQ s q { getQ s q with ready := (getQ s q).ready.drop 1 }

/-- The global sequence id a descriptor names, 65,536 when SEQ is beyond its function's range (R227). -/
def gidOf (s : State) (f : Nat) (d : Desc) : Nat :=
  let (b, n) := seqRange s f
  if dSeq d < n then b + dSeq d else 65536

/-- A descriptor refused by row `row` of Table 8-7. -/
def refuse (s : State) (q g : Nat) (d : Desc) (row status : Nat) : State :=
  cqDetail (bump s (svc 0x54)) q g (dTag d) (dSeq d) status row (2 < dOpc d)
/-- A control descriptor carried out, or answered ALREADY_DONE or NO_REQUEST. -/
def ackDesc (s : State) (q g : Nat) (d : Desc) (status : Nat) : State := cqDetail s q g (dTag d) (dSeq d) status 0 true

/-- The first row that matches. -/
def firstRow : List (Bool × Nat × Nat) → Option (Nat × Nat)
  | [] => none
  | (c, r, st) :: t => if c then some (r, st) else firstRow t

/-! ### GENERATE and APPEND -/

/-- SEQ_LIMIT of a context (R232). -/
def seqLimit (c : List Byte) : Nat := if cxRing c then 67108864 else 4194304

/-- The checks of Table 8-7 on a GENERATE or an APPEND. -/
def genRefusal (s : State) (f g : Nat) (d : Desc) (tab : StopTab) : Option (Nat × Nat) :=
  let app := dOpc d == 2
  let m := dF d 0x08 1
  let x := getSlot s g
  let plen := dF d 0x14 4
  let lim := seqLimit (getM s m).ctx
  let a := getA s (dF d 0x0A 2)
  -- the vocabulary of a slot that holds no model is not checked (log entry 34)
  let vocab := if (getM s m).st = 0 then 2 ^ 32 else (getM s m).b.vocab
  firstRow [
    (!dRsvOk d || g == 65536 || dF d 0x0C 2 == 0 || decide (256 < dF d 0x0C 2) || dF d 0x18 4 == 0 || (!app && plen == 0) ||
      (match tab with | .bytes bs => !stopOk bs vocab | _ => false), 1, 0x83),
    (tab == .unreadable || (bitN (dFlags d) 6 && !spanReadable s (dF d 0x20 8) (4 * plen)), 2, 0x88),
    (decide (64 ≤ m) || (getM s m).st != 1 || (app && (x.st == .active || x.st == .retained) && x.model != m), 3, 0x86),
    (decide (4096 ≤ dF d 0x0A 2) || a.owner != f || !a.enable, 4, 0x89),
    (decide (lim < plen + 1 + (if app then x.len else 0)), 5, 0x87),
    (!app && (x.st == .active || x.st == .retained || (x.st == .freeing && x.req.isSome)), 8, 0x84),
    (app && x.st != .retained, 9, 0x85)]

/-- The request a descriptor creates. -/
def mkReq (s : State) (q f : Nat) (d : Desc) (st : Stops) : Req :=
  let fl := dFlags d
  { fn := f, q := q, seq := dSeq d, htag := dTag d, cls := fl % 4, logp := bitN fl 2, pack := bitN fl 3, keep := bitN fl 4
    bend := bitN fl 5, pdev := bitN fl 6, app := dOpc d == 2, model := dF d 0x08 1, acct := dF d 0x0A 2, topk := dF d 0x0C 2
    temp := dF d 0x0E 2, topp := dF d 0x10 2, minp := dF d 0x12 2, plen := dF d 0x14 4, maxNew := dF d 0x18 4
    paddr := dF d 0x20 8, seed := dF d 0x30 8, stopIds := st.ids, stopSeqs := st.seqs, order := s.deal.order + 1, since := s.deal.commit
    st := if dOpc d = 2 ∧ dF d 0x14 4 = 0 then .decode else .queued }

/-- An accepted GENERATE or APPEND: on a FREE slot a new sequence, on a FREEING slot a request that waits, on a RETAINED
slot a request on its sequence. -/
def opCreate (s : State) (g : Nat) (r : Req) : State :=
  let s1 := bump { s with deal := { s.deal with order := s.deal.order + 1 } } (svc 0x50)
  let x := getSlot s g
  match x.st with
  | .free => newSeq (setSlot s1 g { st := .active, fn := r.fn, model := r.model, req := some r }) r.model g
  | .freeing => setSlot s1 g { x with req := some r }
  | _ => setSlot s1 g { x with st := .active, dlv := 0, req := some { r with lastCommit := x.lastCommit } }

/-- A GENERATE or APPEND at the head of a queue. -/
def acceptGen (opc q : Nat) (rd : StopRead) (s : State) : State :=
  match headDesc s q opc with
  | none => s
  | some (f, d) =>
    let s0 := popDesc s q
    let g := gidOf s f d
    -- a stop table in a way that is about to be the function's own (R175)
    if bitN (dFlags d) 6 && scrWaits s f (dF d 0x28 8) 192 then s else
    let (s1, tab) := readStops s0 q f d rd
    match genRefusal s1 f g d tab with
    | some (row, st) => refuse s1 q g d row st
    | none => opCreate s1 g (mkReq s1 q f d (match tab with | .bytes bs => stopsOf bs | _ => {}))
def execGenerate (q : Nat) (rd : StopRead) (s : State) : Res := .next (acceptGen 1 q rd s)
def execAppend (q : Nat) (rd : StopRead) (s : State) : Res := .next (acceptGen 2 q rd s)

/-! ### Slots and ends -/

/-- The trick at whose end a slot that enters FREEING now is freed (R228, R261). -/
def freeTrick (s : State) : Nat := match s.deal.cur with | some t => t.num | none => s.deal.next
/-- A slot enters FREEING: its pages fall due at the end of that trick. -/
def freeSlot (s : State) (g : Nat) : State :=
  let x := getSlot s g
  let t := freeTrick s
  let due := duePages s t x.model g 0 0
  setSlot { s with kv := { s.kv with due := s.kv.due ++ due } } g { x with st := .freeing, req := none, freeAt := t }

/-- The sequence is dropped from the trick in flight (R262). -/
def dropSeq (s : State) (g : Nat) : State :=
  { s with deal := { s.deal with cur := s.deal.cur.map (fun t =>
      { t with entries := t.entries.map (fun e => if e.gid = g then { e with dropped := true } else e) }) } }
/-- The trick in flight includes the sequence. -/
def inTrick (s : State) (g : Nat) : Bool :=
  match s.deal.cur with | some t => t.entries.any (fun e => e.gid == g && !e.dropped) | none => false

/-- One entry that carries tokens (R257): NTOK, LOGP valid, MORE. -/
def tokEntry (s : State) (g : Nat) (r : Req) (commit status : Nat) (ts : List (Nat × Int)) (more : Bool) (trick : Nat) : State :=
  let info := ts.length % 8 + 8 * b2n (r.logp && !ts.isEmpty) + 16 * b2n more
  cqAdd s r.q g commit false (mkCqe r.htag r.seq status info (ts.map (fun t => t.1))
    (if r.logp then ts.map (fun t => unsx 16 t.2) else []) trick)

/-- A request ends outside a commit: CANCELLED, EXPIRED or FAILED (R239): open breach episodes and tokens held by PACK are
written first, the sequence leaves the trick in flight, its slot enters FREEING. A request that waited on a FREEING slot
leaves the slot as it was. -/
def endReq (s : State) (g status reason ctr : Nat) : State :=
  match (getSlot s g).req with
  | none => s
  | some r =>
    let s1 := breachEnd s g
    let s2 := if r.packed.isEmpty then s1 else tokEntry s1 g r 0 0x01 r.packed false r.lastCommit
    let s3 := bump (cqDetail s2 r.q g r.htag r.seq status reason false) ctr
    if (getSlot s3 g).st = .active then freeSlot (dropSeq s3 g) g else setSlot s3 g { getSlot s3 g with req := none }
/-- A request ends FAILED for a cause of Table 8-14. -/
def failReq (s : State) (g cause : Nat) : State := endReq s g 0x40 cause (svc 0x64)

/-! ### Control descriptors -/

/-- A control descriptor at the head of a queue, judged by `rows` and carried out by `f`. -/
def acceptCtl (opc q : Nat) (s : State) (rows : State → Nat → Desc → List (Bool × Nat × Nat)) (f : State → Nat → Desc → State) : State :=
  match headDesc s q opc with
  | none => s
  | some (fn, d) =>
    let s0 := popDesc s q
    let g := gidOf s fn d
    match firstRow ((!dRsvOk d || g == 65536, 1, 0x83) :: rows s0 g d) with
    | some (row, st) => refuse s0 q g d row st
    | none => f s0 g d

/-- CANCEL, PAUSE and RESUME on a RETAINED or FREEING slot find a request that has ended (Table 8-7), a GENERATE that waits on the
slot notwithstanding (log entry 35). -/
def ended (s : State) (g : Nat) : Bool := (getSlot s g).st == .retained || (getSlot s g).st == .freeing
def rowsDone (s : State) (g : Nat) : List (Bool × Nat × Nat) :=
  [(ended s g, 6, 0x81), ((getSlot s g).st == .free, 7, 0x82)]
def reqOf (s : State) (g : Nat) : Option Req := (getSlot s g).req
def hostPaused (s : State) (g : Nat) : Bool := match reqOf s g with | some r => r.host | none => false
def isPaused (s : State) (g : Nat) : Bool := match reqOf s g with | some r => r.st == .paused | none => false

/-- CANCEL (R261). -/
def execCancel (q : Nat) (s : State) : Res :=
  .next (acceptCtl 3 q s (fun x g _ => rowsDone x g) (fun x g d => ackDesc (endReq x g 0x20 0 (svc 0x5C)) q g d 0x80))

/-- A host pause takes effect (R220, R238, R240): the entry, the pages' move, the time to live; a request that enters
PAUSED gives up its admission (R277). `commit` is the trick whose commit it is, 0 for none. -/
def hostPauseNow (s : State) (g commit : Nat) : State :=
  match reqOf s g with
  | none => s
  | some r =>
    let was := decide (r.st = .paused)
    let s1 := if was then s
      else if commit = 0 then cqDetail s r.q g r.htag r.seq 0x02 1 false
      else cqAdd s r.q g commit false (mkDetail r.htag r.seq 0x02 1 0 commit)
    let s2 := modReq s1 g (fun r => { enterPaused r with
      hostWait := false, ttlFrom := some s.time, adm := if was then r.adm else 0, withdrawn := r.withdrawn && was, lastTok := none })
    if (getSlot s2 g).st = .active then pauseMove s2 r.model g else s2

/-- PAUSE (R237, R238). -/
def opPause (s : State) (q g : Nat) (d : Desc) : State :=
  let s1 := modReq s g (fun r => { r with host := true, ttl := dF d 0x08 4, ttlFrom := none })
  let s2 := if inTrick s g then modReq s1 g (fun r => { r with hostWait := true }) else hostPauseNow s1 g 0
  ackDesc s2 q g d 0x80
def execPause (q : Nat) (s : State) : Res :=
  .next (acceptCtl 4 q s (fun x g _ => rowsDone x g ++ [(hostPaused x g && isPaused x g, 10, 0x85)]) (fun x g d => opPause x q g d))

/-- RESUME (R220, R238, R240). -/
def opResume (s : State) (q g : Nat) (d : Desc) : State :=
  let moved := isPaused s g && (getSlot s g).st == .active
  let s1 := modReq s g (fun r => leavePaused s.deal.commit { r with host := false, hostWait := false, ttl := 0, ttlFrom := none })
  let s2 := if moved then resumeMove s1 (getSlot s g).model g else s1
  ackDesc s2 q g d 0x80
def execResume (q : Nat) (s : State) : Res :=
  .next (acceptCtl 5 q s (fun x g _ => rowsDone x g ++ [(!hostPaused x g, 11, 0x85)]) (fun x g d => opResume x q g d))

/-- RELEASE (Table 8-1). -/
def execRelease (q : Nat) (s : State) : Res :=
  .next (acceptCtl 6 q s (fun x g _ => [((getSlot x g).st != .retained, 9, 0x85)]) (fun x g d => ackDesc (freeSlot x g) q g d 0x80))

/-- MODEL_VOCAB of the model a slot's request or sequence names; a slot that holds neither has none (log entry 34). -/
def reqVocab (s : State) (g : Nat) : Nat :=
  match reqOf s g with
  | some r => (getM s r.model).b.vocab
  | none => if (getSlot s g).st = .free then 2 ^ 32 else (getM s (getSlot s g).model).b.vocab
/-- DRAFT (R253): it replaces an earlier one and writes no completion. -/
def execDraft (q : Nat) (s : State) : Res :=
  .next (acceptCtl 7 q s
    (fun x g d => [(dF d 0x08 1 == 0 || decide (8 < dF d 0x08 1) ||
        (List.range (dF d 0x08 1)).any (fun i => decide (reqVocab x g ≤ dTok d i)), 1, 0x83),
      (!((getSlot x g).st == .active && (match reqOf x g with | some r => r.st == .decode | none => false)), 12, 0x85)])
    (fun x g d => modReq x g (fun r => { r with drafts := (List.range (dF d 0x08 1)).map (dTok d), draftSince := x.deal.commit })))

/-- The hub's counter has gone on by a time to live, in ms, since the commit at which the pause took effect (R240). -/
def ttlOver (s : State) (r : Req) : Bool := match r.ttlFrom with | some t => decide (t + r.ttl * 1000000 ≤ s.time) | none => false
/-- TTL_EXPIRY (R240, R220): the time to live of a host pause in effect has run out. -/
def execTtlExpiry (gid : Nat) (s : State) : Res :=
  match reqOf s gid with
  | some r =>
    if r.host ∧ r.st = .paused ∧ r.ttl ≠ 0 ∧ ttlOver s r = true then .next (bump (endReq s gid 0x30 0 (svc 0x60)) (att 0x80))
    else .next s
  | none => .next s

end Sys2Proof.Machine
end

