-- ==== Sys2Proof/Machine/Fabric.lean ====
section
/-!
DEFINITION. The Idlum fabric (chapter 11): engine states (R295), lanes (R294), the link layer (R296, R298), routing
(R299 to R302), packets (R303, R304), remote access (R305), NOTIFY (R306). Ring reductions are in Ring.lean.
-/
namespace Sys2Proof.Machine

/-! ### Configuration and engines -/

/-- FAB_CFG's fields. -/
def fabTopo (s : State) : Nat := fld (rdN s 0xB040) 1 0
def fabN (s : State) : Nat := fld (rdN s 0xB040) 6 2
def fabPos (s : State) : Nat := fld (rdN s 0xB040) 11 8
def fabRing (s : State) : Nat := fld (rdN s 0xB040) 23 16

def getE (s : State) (n : Nat) : Engine := spGet {} s.fab.eng n
def setE (s : State) (n : Nat) (x : Engine) : State := { s with fab := { s.fab with eng := spSet s.fab.eng n x } }

/-- The line clock of an engine is absent (Tables 1-7 and 14-3): FREF, its OCLK, or the NCLK of its die. -/
def engClkLost (s : State) (n : Nat) : Bool :=
  s.clk.lost.contains .fref || s.clk.lost.contains (.oclk n) || s.clk.lost.contains (.nclk (n / 8)) ||
    s.clk.lost.contains .crystal
/-- An engine is UP. -/
def engUp (s : State) (n : Nat) : Bool := isOn s .opt n && (getE s n).st == .up

/-- The port of an engine (Table 11-5): 0 E or X+, 1 W or X−, 2 Y+, 3 Y−. -/
def portOf (s : State) (n : Nat) : Nat :=
  if fabTopo s = 2 then (match n / 4 with | 0 => 0 | 1 => 2 | 2 => 1 | _ => 3) else n / 8
/-- The UP engines of a port, ascending. -/
def portUp (s : State) (p : Nat) : List Nat := (List.range 16).filter (fun n => portOf s n == p && engUp s n)

/-- The neighbour a port faces. -/
def neighbour (s : State) (p : Nat) : Nat :=
  let n := max 1 (fabN s)
  let q := fabPos s
  if fabTopo s = 2 then
    let x := q % 4
    let y := q / 4
    match p with
    | 0 => 4 * y + (x + 1) % 4
    | 1 => 4 * y + (x + 3) % 4
    | 2 => 4 * ((y + 1) % 4) + x
    | _ => 4 * ((y + 3) % 4) + x
  else if p = 0 then (q + 1) % n else (q + n - 1) % n

/-- The ports of the topology (Table 11-5). -/
def ports (s : State) : List Nat := if fabTopo s = 2 then [0, 1, 2, 3] else [0, 1]
/-- The span a port of this device looks on: in a ring span p lies between positions p and p + 1, in the torus 2p is the X+ span and
2p + 1 the Y+ span of position p. -/
def spanOf (s : State) (p : Nat) : Nat :=
  if fabTopo s = 2 then (match p with
    | 0 => 2 * fabPos s | 1 => 2 * neighbour s 1 | 2 => 2 * fabPos s + 1 | _ => 2 * neighbour s 3 + 1)
  else if p = 0 then fabPos s else neighbour s 1
/-- The spans that are down (R302): this device's own without an engine UP, and those elsewhere as last learnt. What tells a device of
a span it does not look on the spec does not say (log entry 128). -/
def spansDown (s : State) : List Nat :=
  let own := (ports s).map (spanOf s)
  (((ports s).filter (fun p => (portUp s p).isEmpty)).map (spanOf s) ++
    s.fab.farDown.filter (fun i => !own.contains i && decide (i < (if fabTopo s = 2 then 32 else fabN s)))).eraseDups
/-- R302: the fabric is up: in DUAL one span may be down. It is down while the NCLK of a compute die is lost (Table 14-3). -/
def fabUp (s : State) : Bool :=
  decide (2 ≤ fabN s) && !s.clk.lost.contains (.nclk 0) && !s.clk.lost.contains (.nclk 1) && (match fabTopo s with
    | 1 => decide ((spansDown s).length ≤ 1)
    | 3 => false
    | _ => (spansDown s).isEmpty)
/-- R302: traffic of a DUAL ring wraps round a span that is down. -/
def fabWrapped (s : State) : Bool := fabTopo s == 1 && fabUp s && !(spansDown s).isEmpty

/-- The port a packet to `dst` leaves by (Table 11-5): RING east; DUAL the shorter way, ties and KV east, the other way where a span
on that way is down; TORUS X first, then Y, ties to +. -/
def route (s : State) (dst vc : Nat) : Nat :=
  let n := max 1 (fabN s)
  let q := fabPos s
  match fabTopo s with
  | 0 => 0
  | 1 =>
    let e := (dst + n - q % n) % n
    let want := if vc = 2 ∨ e ≤ n - e then 0 else 1
    let way := if want = 0 then (List.range e).map (fun i => (q + i) % n) else (List.range (n - e)).map (fun i => (dst + i) % n)
    if way.any (fun i => (spansDown s).contains i) then 1 - want else want
  | _ =>
    let dx := (dst % 4 + 4 - q % 4) % 4
    let dy := (dst / 4 + 4 - q / 4) % 4
    if dx ≠ 0 then (if dx ≤ 2 then 0 else 1) else if dy ≤ 2 then 2 else 3

/-- The span a packet crosses by a port is a dateline (R299): it enters position 0, or coordinate 0. -/
def dateline (s : State) (p : Nat) : Bool :=
  let m := neighbour s p
  if fabTopo s = 2 then (match p with | 0 | 1 => m % 4 == 0 | _ => m / 4 == 0) else m == 0

/-! ### Packet headers (Table 11-6) -/

def pF (p : Packet) (hi lo : Nat) : Nat := fld p.hdr.toNat hi lo
def pType (p : Packet) : Nat := pF p 3 0
def pVc (p : Packet) : Nat := pF p 5 4
def pDl (p : Packet) : Nat := pF p 6 6
def pSrc (p : Packet) : Nat := pF p 11 8
def pDst (p : Packet) : Nat := pF p 15 12
def pLen (p : Packet) : Nat := pF p 19 16
def pStat (p : Packet) : Nat := pF p 23 20
def pTag (p : Packet) : Nat := pF p 47 32
def pAddr (p : Packet) : Nat := pF p 95 48
def pXw (p : Packet) : Nat := pF p 127 96
/-- The buffer class of a packet: VC × 2 + DL. -/
def pCls (p : Packet) : Nat := 2 * pVc p + pDl p
/-- KEY of R301. -/
def pKey (p : Packet) : Nat := if pType p = 1 ∨ pType p = 2 then fld (pAddr p) 15 12 else pTag p % 16
/-- The class bit replaced. -/
def withDl (p : Packet) (d : Nat) : Packet := { p with hdr := BitVec.ofNat 128 (p.hdr.toNat - pDl p * 64 + d % 2 * 64) }

/-- A header built from its fields. -/
def mkHdr (ty vc src dst len stat tag addr xw : Nat) : BitVec 128 :=
  BitVec.ofNat 128 (ty + vc * 2 ^ 4 + src % 16 * 2 ^ 8 + dst % 16 * 2 ^ 12 + len * 2 ^ 16 + stat * 2 ^ 20 +
    tag % 2 ^ 16 * 2 ^ 32 + addr % 2 ^ 48 * 2 ^ 48 + xw % 2 ^ 32 * 2 ^ 96)

/-- R303: a type on a VC the table allows, no reserved value (a LEVEL above 3 among them, Table 11-8), LEN at most 8. -/
def pktOk (p : Packet) : Bool :=
  let ty := pType p
  let vc := pVc p
  let vcOk := match ty with
    | 1 | 5 => vc == 0 || vc == 2
    | 2 | 7 => vc == 0
    | 3 | 4 => vc == 1
    | 6 => vc == 3
    | 0xF => true
    | _ => false
  let statOk := if ty = 3 ∨ ty = 4 ∨ ty = 6 then decide (pStat p ≤ 3) else pStat p == 0
  let xwOk := if ty = 2 ∨ ty = 5 ∨ ty = 6 ∨ ty = 0xF then true else pXw p == 0
  let redOk := ty != 6 || (decide (pF p 83 80 ≤ 6) && decide (pF p 87 84 ≤ 3) && pF p 89 88 != 3 && pF p 95 90 == 0)
  vcOk && decide (pLen p ≤ 8) && pF p 31 24 == 0 && statOk && xwOk && redOk && p.payload.length == 32 * pLen p

/-! ### Leaving UP (R295, R296) -/

/-- The report code of a change of the fabric that stops ring work (Table 11-10), and of own ring traffic refused. -/
def repFabDown : Nat := 0x26
def repFabRefused : Nat := 0x27

/-- A fabric state change reaches the dealer (R311): a capacity change, and, when the fabric has gone down, the end of
the running trick's ring work. -/
def fabChanged (before s : State) : State :=
  if fabUp before && !fabUp s then capacity (report s { code := repFabDown, blk := .fab, inst := 0 })
  else if fabUp before != fabUp s || fabWrapped before != fabWrapped s ||
      (List.range 4).any (fun p => (portUp before p).length != (portUp s p).length) then capacity s
  else s

/-- An engine leaves UP: its unacknowledged frames wait to be resent on the port's other engines, before later frames of
their flows (R296); link state and credits start afresh (log entry 25). -/
def engLeave (s : State) (n : Nat) (st : EngSt) : State :=
  let x := getE s n
  if x.st = st then s
  else
    let y : Engine := { x with st := st, seq := 0, rxSeq := 0, replay := [], nakked := none, used := [], owed := [] }
    let s1 := setE { s with fab := { s.fab with resend := s.fab.resend ++ x.replay.map (fun r => r.2) } } n y
    fabChanged s s1

/-- What an engine that is not UP is (R295): DARK without light or clock, else TRAINING. -/
def engRest (s : State) (n : Nat) : EngSt := if (getE s n).noLight || engClkLost s n then .dark else .training
/-- An engine of a domain that has come ON (R295). -/
def engStart (s : State) (n : Nat) : State := setE s n { getE s n with st := engRest s n, rxq := [] }
/-- An engine whose domain has gone off: its link state is lost (Table 14-4). -/
def engStop (s : State) (n : Nat) : State :=
  let s1 := engLeave s n .training
  setE s1 n { getE s1 n with rxq := [] }

/-- DATA_FIBRE_DISCONNECT (R295, R27). -/
def execDataFibreDisconnect (n : Nat) (s : State) : Res :=
  .next (if n < 16 ∧ engUp s n then engLeave s n .training else s)
/-- LASER_INPUT_LOST (R295, R25): the four engines of a laser connector become DARK. -/
def execLaserInputLost (conn : Nat) (s : State) : Res :=
  if 4 ≤ conn then .next s
  else .next ((List.range 4).foldl (fun x i =>
    let n := 4 * conn + i
    let y := setE x n { getE x n with noLight := true }
    if isOn y .opt n ∧ (getE y n).st ≠ .retired then engLeave y n .dark else y) s)
/-- LASER_INPUT_RESTORED (R295): a DARK engine trains again, unless its clock is absent. -/
def execLaserInputRestored (n : Nat) (s : State) : Res :=
  if 16 ≤ n then .next s
  else
    let y := setE s n { getE s n with noLight := false }
    .next (if isOn y .opt n ∧ (getE y n).st = .dark then engLeave y n (engRest y n) else y)
/-- FAR_END_LIGHT_LOST (R295). -/
def execFarEndLightLost (n : Nat) (s : State) : Res :=
  .next (if n < 16 ∧ engUp s n then engLeave s n .training else s)

/-- TRAINING_UP (R295): version, topology code, ring identity and position of the far end must be what this end
expects; a difference holds the engine in TRAINING and sets VER_ERR or TOPO_ERR. -/
def execTrainingUp (n ver topo ring pos : Nat) (s : State) : Res :=
  if 16 ≤ n ∨ !isOn s .opt n ∨ (getE s n).st ≠ .training ∨ engClkLost s n then .next s
  else
    let bad := decide (topo ≠ fabTopo s) || decide (ring ≠ fabRing s) ||
      (decide (2 ≤ fabN s) && decide (pos ≠ neighbour s (portOf s n)))
    let s1 := { s with fab := { s.fab with verErr := s.fab.verErr || decide (ver ≠ 0x100), topoErr := s.fab.topoErr || bad } }
    if ver ≠ 0x100 ∨ bad then .next s1
    else .next (fabChanged s1 (setE s1 n { getE s1 n with st := .up }))
/-- TRAINING_TIMEOUT (R295): the engine returns to TRAINING and keeps trying. -/
def execTrainingTimeout (n : Nat) (s : State) : Res :=
  if 16 ≤ n ∨ (getE s n).st ≠ .training then .next s else .next (setE s n { getE s n with st := .training })

/-! ### Lanes (R294) -/

def optPg (n : Nat) : Nat := pageOf .opt n
/-- Whether the direction's joker is still free. -/
def jokerFree (s : State) (n : Nat) (tx : Bool) : Bool :=
  let w := rdN s (optPg n + 0x44)
  if tx then fld w 3 0 != 0xF else fld w 7 4 != 0xF
/-- A lane of the direction is retired already. -/
def laneRetired (s : State) (n : Nat) (tx : Bool) (lane : Nat) : Bool :=
  let w := rdN s (optPg n + 0x44)
  if tx then bitN w 16 && fld w 11 8 == lane else bitN w 17 && fld w 15 12 == lane
/-- The lane's data moves to the joker lane (OPT_LMAP), a LANE_SWAP record is written and journalled. -/
def laneMove (s : State) (n : Nat) (tx : Bool) (lane : Nat) : State :=
  let w := rdReg s (optPg n + 0x44)
  let w1 := if tx then setBit (putFld (putFld w 3 0 0xF) 11 8 lane) 16 else setBit (putFld (putFld w 7 4 0xF) 15 12 lane) 17
  rasPut (wrReg s (optPg n + 0x44) w1) 0x07 2 .opt n lane lane
/-- An engine is retired in both directions. -/
def engRetire (s : State) (n : Nat) : State :=
  let s1 := engLeave s n .retired
  rasPut (capacity (setBlk s1 .opt n .retired)) 0x08 3 .opt n 0 0

/-- LANE_SWAP (R294): the far end has moved a lane of this engine to the joker; this end switches at the same boundary. -/
def execLaneSwap (n : Nat) (tx : Bool) (lane : Nat) (s : State) : Res :=
  if 16 ≤ n ∨ 9 ≤ lane ∨ !isOn s .opt n ∨ laneRetired s n tx lane then .next s
  else if jokerFree s n tx then .next (laneMove s n tx lane)
  else .next (engRetire s n)
/-- A lane direction this end has found bad is retired and the far end told; with no joker left the engine is retired. -/
def retireLane (s : State) (n : Nat) (tx : Bool) (lane : Nat) : State :=
  if laneRetired s n tx lane then s
  else if jokerFree s n tx then emit (laneMove s n tx lane) (.laneSwap n tx lane)
  else engRetire s n
/-- LANE_RETIRE (R294): a lane is retired, its wavelength low for 1 ms. -/
def execLaneRetire (n : Nat) (tx : Bool) (lane : Nat) (s : State) : Res :=
  .next (if 16 ≤ n ∨ 9 ≤ lane ∨ !isOn s .opt n then s else retireLane s n tx lane)
/-- R293, R294: a symbol that the FEC corrected on a receive lane: PREFEC_SYM and the lane's windowed count; at the block's threshold
the lane is retired. -/
def symCount (s : State) (n lane : Nat) : State :=
  if 9 ≤ lane then s
  else
    let (s1, x) := winAdd (bump s (optPg n + 0x70)) .opt n lane
    if x then retireLane s1 n false lane else s1

/-! ### The link layer (R296, R298) -/

/-- Receive buffers of a class (Table 11-4). -/
def vcFrames : Nat → Nat
  | 0 | 1 => 64 | 2 => 320 | _ => 160
/-- A credit of the class is held. -/
def creditHeld (x : Engine) (p : Packet) : Bool := decide (spGet 0 x.used (pCls p) < vcFrames (pVc p))
/-- Credits to return in a trailer: the first class with buffers freed, at most 31 (the order is the model's choice,
log entry 25). -/
def creditsBack (x : Engine) : Nat × Nat × Nat :=
  match x.owed.find? (fun e => decide (0 < e.2)) with
  | some (c, k) => (c / 2, c % 2, min 31 k)
  | none => (0, 0, 0)

/-- The trailer's CRC (Table 11-2): CRC-32C over the header, the payload and trailer bits 31:0. -/
def frameCrc (seq ack crv crdl crcnt : Nat) (p : Packet) : Nat :=
  crc32c (leBytes p.hdr.toNat 16 ++ p.payload ++
    leBytes (seq % 4096 + ack % 4096 * 2 ^ 12 + crv % 4 * 2 ^ 24 + crdl % 2 * 2 ^ 26 + crcnt % 32 * 2 ^ 27) 4)
/-- A frame as it goes out, with its CRC. -/
def mkFrame (n seq ack crv crdl crcnt : Nat) (p : Packet) : Out :=
  .frame n seq ack crv crdl crcnt (frameCrc seq ack crv crdl crcnt p) p

/-- The class bit a packet takes when it leaves this device by a port (R299). -/
def leaveDl (s : State) (port : Nat) (p : Packet) : Packet := if dateline s port then withDl p 1 else p

/-- A frame leaves on an engine: the class it takes by that port, SEQ, ACKSEQ, returned credits, CRC; a copy stays in the replay
buffer (R296). -/
def sendFrame (s : State) (n : Nat) (p : Packet) : State :=
  let x := getE s n
  let q := leaveDl s (portOf s n) p
  let (v, d, k) := creditsBack x
  let owed := if k = 0 then x.owed else spSet x.owed (2 * v + d) (spGet 0 x.owed (2 * v + d) - k)
  let used := if pType p = 0xF then x.used else spSet x.used (pCls q) (spGet 0 x.used (pCls q) + 1)
  emit (setE s n { x with seq := (x.seq + 1) % 4096, replay := x.replay ++ [(x.seq, p)], owed := owed, used := used })
    (mkFrame n x.seq ((x.rxSeq + 4095) % 4096) v d k q)

/-- The engines that carry a port's flows (R301): those UP, once the engines that carried them before have every frame acknowledged
or resent; until then those of before. -/
def flowEngs (s : State) (port : Nat) : List Nat :=
  match spFind s.fab.flows port with
  | none => portUp s port
  | some old =>
    if old.all (fun n => (getE s n).replay.isEmpty) && s.fab.resend.all (fun p => route s (pDst p) (pVc p) != port) then portUp s port
    else old
/-- The j-th engine of a list for a packet (R301). -/
def carrier (es : List Nat) (p : Packet) : Option Nat :=
  if es.isEmpty then none else es[(pDst p + 5 * pVc p + pKey p) % es.length]?

/-- The first element equal to `p` removed. -/
def removePkt (p : Packet) : List Packet → List Packet
  | [] => []
  | q :: t => if q = p then t else q :: removePkt p t
/-- Packets of one flow (R301): same SRC, DST, VC and KEY. -/
def sameFlow (a b : Packet) : Bool := pSrc a == pSrc b && pDst a == pDst b && pVc a == pVc b && pKey a == pKey b

/-- A packet waits to be sent by this device. -/
def enqueue (s : State) (p : Packet) : State := { s with fab := { s.fab with outq := s.fab.outq ++ [p] } }

/-- An outstanding request is entered (R304): an RD, or a WR on REQ, by its TAG. -/
def noteReq (s : State) (p : Packet) : State :=
  if pSrc p = fabPos s ∧ (pType p = 2 ∨ (pType p = 1 ∧ pVc p = 0)) then
    { s with fab := { s.fab with reqs := spSet s.fab.reqs (pTag p) p.hdr, reqAt := spSet s.fab.reqAt (pTag p) s.time } }
  else s
/-- Reads outstanding. -/
def readsOut (s : State) : Nat := (s.fab.reqs.filter (fun e => e.2.toNat % 16 == 2)).length

/-- R306: what this device has sent as WR payload to a destination on a VC since its last NOTIFY there. -/
def sentBytes (s : State) (p : Packet) : Nat := spGet 0 s.fab.sent (4 * pDst p + pVc p)
/-- A packet of this device's own is handed to the fabric: a WR adds to that count, a NOTIFY takes it. -/
def noteSent (s : State) (p : Packet) : State :=
  let put (n : Nat) : State := { s with fab := { s.fab with sent := spSet s.fab.sent (4 * pDst p + pVc p) n } }
  if pType p = 1 then put (sentBytes s p + 32 * pLen p) else if pType p = 5 then put 0 else s
/-- A NOTIFY as it leaves: BYTES is that count (R306). -/
def withBytes (s : State) (p : Packet) : Packet :=
  if pType p = 5 then { p with hdr := BitVec.ofNat 128 (p.hdr.toNat % 2 ^ 96 + sentBytes s p % 2 ^ 32 * 2 ^ 96) } else p

/-- What this device sends, and whether it is a frame resent: of the packet's flow the first frame to resend, else the first that
waits, else a WR, RD, NOTIFY (with the bytes it counts) or DMSG of its own, in class 0 until it crosses a dateline. -/
def toSend (s : State) (pkt : Packet) : Option (Packet × Bool) :=
  match s.fab.resend.find? (fun q => sameFlow q pkt), s.fab.outq.find? (fun q => sameFlow q pkt) with
  | some q, _ => if q = pkt then some (q, true) else none
  | none, some q => if q = pkt then some (q, false) else none
  | none, none =>
    if pktOk pkt ∧ [1, 2, 5, 7].contains (pType pkt) ∧ pSrc pkt = fabPos s ∧ pDst pkt ≠ fabPos s ∧
        (pType pkt ≠ 2 ∨ readsOut s < 64) then
      some (withBytes s (withDl pkt 0), false)
    else none

/-- FRAME_TRANSMIT (R298, R301): the packet is sent on engine `n` when that engine is the one that carries it, holds a
credit and has room in its replay buffer. A frame resent goes on the engines that are UP now. -/
def opTransmit (s : State) (n : Nat) (pkt : Packet) : State :=
  match toSend s pkt with
  | none => s
  | some (p, again) =>
    let port := route s (pDst p) (pVc p)
    let es := if again then portUp s port else flowEngs s port
    if !fabUp s ∨ carrier es p ≠ some n ∨ !engUp s n ∨ !creditHeld (getE s n) (leaveDl s port p) ∨
        512 ≤ (getE s n).replay.length then s
    else if again then sendFrame { s with fab := { s.fab with resend := removePkt p s.fab.resend } } n p
    else
      let s1 := { s with fab := { s.fab with outq := removePkt p s.fab.outq, flows := spSet s.fab.flows port es } }
      sendFrame (noteReq (if s.fab.outq.contains p then s1 else noteSent s1 p) p) n p

/-- Frames up to and with SEQ `ack` are acknowledged. -/
def acked (ack : Nat) : List (Nat × Packet) → List (Nat × Packet)
  | [] => []
  | (i, p) :: t => if i = ack then t else if t.any (fun e => e.1 == ack) then acked ack t else (i, p) :: t

/-- A packet that has left its buffer: the credit is owed to the far end. -/
def freeBuf (x : Engine) (p : Packet) : Engine :=
  if pType p = 0xF then x else { x with owed := spSet x.owed (pCls p) (spGet 0 x.owed (pCls p) + 1) }

/-- FAB_REFUSED. -/
def fabRefused (s : State) : State := bump s (0xB000 + 0x70)

/-- A packet forwarded (R299): it waits in the class it came in, which resets when it turns from X to Y. -/
def forwardPkt (s : State) (n : Nat) (p : Packet) : State :=
  enqueue s (if fabTopo s = 2 ∧ portOf s n < 2 ∧ 2 ≤ route s (pDst p) (pVc p) then withDl p 0 else p)

/-- A control packet of the link: what it tells of the spans this device does not look on the spec does not lay out; they take a
free choice (log entry 128). -/
def ctlNews (s : State) : State :=
  fabChanged s (useFree { s with fab := { s.fab with farDown := (List.range 32).filter (fun i => Config.freeBool s.free i) } })

/-- FRAME_RECEIVE (R293, R296, R303): the symbols its FEC corrected, by lane, and the codewords it could not are counted; the frame is checked by CRC and sequence;
its packet waits for its command, is forwarded, or is refused. -/
def execFrameReceive (n seq ack crv : Nat) (crdl : Bool) (crcnt : Nat) (rx : FrameRx) (pkt : Packet) (s : State) : Res :=
  if 16 ≤ n ∨ !engUp s n then .next s
  else
    let s := rx.syms.foldl (fun x l => symCount x n l) (bumpBy s (optPg n + 0x74) rx.uncorr)
    let x := getE s n
    if !engUp s n then .next s
    else if rx.crc ≠ frameCrc seq ack crv (b2n crdl) crcnt pkt ∨ seq ≠ x.rxSeq then
      .next (emit (bump s (optPg n + 0x7C)) (.nak n ((x.rxSeq + 4095) % 4096)))
    else
      let c := 2 * (crv % 4) + b2n crdl
      let left := acked ack x.replay
      let y : Engine := { x with rxSeq := (x.rxSeq + 1) % 4096, replay := left,
                                 nakked := x.nakked.filter (fun i => left.any (fun r => r.1 == i)),
                                 used := spSet x.used c (spGet 0 x.used c - crcnt % 32) }
      if !pktOk pkt then .next (fabRefused (setE s n (freeBuf y pkt)))
      else if pType pkt = 0xF then .next (ctlNews (setE s n y))
      else if pDst pkt = fabPos s then .next (setE s n { y with rxq := y.rxq ++ [pkt] })
      else .next (forwardPkt (setE s n (freeBuf y pkt)) n pkt)

/-- NAK (R296): every unacknowledged frame is resent in order; when the frame after the last good one has been resent for a NAK
already, it has failed a second time, and the engine goes to TRAINING. The symbols the FEC corrected as it came are counted (R293). -/
def execNak (n seq : Nat) (syms : List Nat) (s : State) : Res :=
  if 16 ≤ n ∨ !engUp s n then .next s
  else
    let s := syms.foldl (fun x l => symCount x n l) s
    let x := getE s n
    if !engUp s n then .next s else
    let left := acked seq x.replay
    let bad := (left.head?).map (fun r => r.1)
    let s1 := setE s n { x with replay := left, nakked := bad }
    if bad.isSome ∧ x.nakked = bad then .next (engLeave (bump s1 (optPg n + 0x78)) n .training)
    else .next (left.foldl (fun y r => emit y (mkFrame n r.1 ((x.rxSeq + 4095) % 4096) 0 0 0 (leaveDl s (portOf s n) r.2))) s1)

/-! ### Remote access (R304 to R306) -/

/-- The first packet of a type that waits at engine `n`. -/
def headOf (s : State) (n ty : Nat) : Option Packet := if n < 16 then (getE s n).rxq.find? (fun p => pType p == ty) else none
/-- That packet taken from its buffer. -/
def takePkt (s : State) (n : Nat) (p : Packet) : State :=
  let x := getE s n
  setE s n (freeBuf { x with rxq := removePkt p x.rxq } p)

/-- A field of RWIN[i]. -/
def rwin (s : State) (i off : Nat) : Nat := rdN s (0xB000 + off + 0x100000000 * (i + 1))
/-- The window that lets a packet reach the span (R305): valid, the source in its mask, the access permitted, every byte
in an E region or a scratchpad window. -/
def rwinFor (s : State) (src a n : Nat) (wr : Bool) : Option Nat :=
  let inE := match rangeOf a with
    | .stack => rangeOf (a + n - 1) == .stack &&
        (List.range ((a % 2 ^ 21 + n + 2 ^ 21 - 1) / 2 ^ 21)).all (fun j => rgnClass s (a / 2 ^ 21 + j) == 1)
    | .scratch => rangeOf (a + n - 1) == .scratch
    | _ => false
  if !inE then none
  else (List.range 16).find? (fun i =>
    let c := rwin s i 0x64
    let base := rwin s i 0x54 + 2 ^ 32 * rwin s i 0x58
    let lim := rwin s i 0x5C + 2 ^ 32 * rwin s i 0x60
    bitN c 27 && bitN c src && bitN c (if wr then 26 else 25) && decide (base ≤ a) && decide (a + n ≤ lim + 1))
/-- FN of a window. -/
def rwinFn (s : State) (i : Nat) : Nat := fld (rwin s i 0x64) 24 16

/-- A response enters the transmit queue. -/
def respond (s : State) (p : Packet) (ty stat : Nat) (bs : List Byte) : State :=
  let pad := bs ++ List.replicate ((32 - bs.length % 32) % 32) 0
  enqueue s { hdr := mkHdr ty 1 (fabPos s) (pSrc p) (pad.length / 32) stat (pTag p) 0 0, payload := pad }

/-- WR bytes of a source on a VC have completed or been refused (R306). -/
def addBytes (s : State) (src vc n : Nat) : State :=
  { s with fab := { s.fab with bytes := spSet s.fab.bytes (4 * src + vc) (spGet 0 s.fab.bytes (4 * src + vc) + n) } }

/-- WR (R305): performed through a window, or refused. A poisoned payload is not stored, and its response says POISON
(log entry 26). -/
def execWr (n : Nat) (s : State) : Res :=
  match headOf s n 1 with
  | none => .next s
  | some p =>
    let a := pAddr p
    let len := 32 * pLen p
    let fin (x : State) (stat : Nat) : State :=
      let y := addBytes x (pSrc p) (pVc p) len
      if pVc p = 0 ∨ stat = 1 then respond y p 4 stat [] else y
    match (if len = 0 ∨ a % 32 ≠ 0 then none else rwinFor s (pSrc p) a len true) with
    | none => .next (fin (fabRefused (takePkt s n p)) 1)
    | some i =>
      let f := rwinFn s i
      if scrWaits s f a len then .next s
      else if pF p 7 7 = 1 then .next (fin (takePkt s n p) 2)
      else match memWrite (takePkt s n p) f a p.payload with
        | (s1, .ok _) => .next (fin s1 0)
        | (s1, _) => .next (fin (fabRefused s1) 1)

/-- RD (R305): performed through a window and answered with RDRSP; POISON, and a scratchpad read that R174 refuses, answer STAT
POISON (Table 6-8). -/
def execRd (n : Nat) (s : State) : Res :=
  match headOf s n 2 with
  | none => .next s
  | some p =>
    let a := pAddr p
    let len := pXw p
    match (if len < 32 ∨ 256 < len ∨ a % 32 ≠ 0 then none else rwinFor s (pSrc p) a len false) with
    | none => .next (respond (fabRefused (takePkt s n p)) p 3 1 [])
    | some i =>
      let f := rwinFn s i
      if scrWaits s f a len then .next s
      else match memRead (takePkt s n p) f true a len .none with
        | (s1, .ok bs) => .next (respond s1 p 3 0 bs)
        | (s1, .outside) => .next (respond (fabRefused s1) p 3 1 [])
        | (s1, _) => .next (respond (bump s1 (0xB000 + 0x78)) p 3 2 [])

/-- A response completes its request (R304); a refusal of own ring traffic is told to the dealer (Table 11-10). -/
def opResponse (s : State) (n : Nat) (p : Packet) : State :=
  let s1 := takePkt s n p
  let s2 := { s1 with fab := { s1.fab with reqs := spDel s1.fab.reqs (pTag p) } }
  let s3 := if pStat p = 1 then report s2 { code := repFabRefused, blk := .fab, inst := 0, elem := pTag p } else s2
  emit s3 (.fabDone (pTag p) (pStat p) (if pStat p = 0 then p.payload else []))
/-- RDRSP (R304). A response whose request is no longer outstanding is dropped. -/
def execRdrsp (n : Nat) (s : State) : Res :=
  match headOf s n 3 with
  | none => .next s
  | some p => if (spFind s.fab.reqs (pTag p)).isSome then .next (opResponse s n p) else .next (takePkt s n p)
/-- WRRSP (R304): also the refusal of a posted WR, which has no outstanding request. -/
def execWrrsp (n : Nat) (s : State) : Res :=
  match headOf s n 4 with
  | none => .next s
  | some p =>
    if (spFind s.fab.reqs (pTag p)).isSome ∨ pStat p = 1 then .next (opResponse s n p) else .next (takePkt s n p)

/-- FAB_TIMEOUT (R304): a request without a response after FAB_TMO cycles of the hub's clock completes with STAT TIMEOUT. -/
def execFabTimeout (tag : Nat) (s : State) : Res :=
  match spFind s.fab.reqs tag with
  | none => .next s
  | some _ =>
    if s.time < spGet 0 s.fab.reqAt tag + rdN s (0xB000 + 0x4C) then .next s
    else .next (emit { bump s (0xB000 + 0x74) with fab := { (bump s (0xB000 + 0x74)).fab with reqs := spDel s.fab.reqs tag } }
      (.fabDone tag 3 []))

/-- NOTIFY (R306): held until the bytes it counts have completed. -/
def execNotify (n : Nat) (s : State) : Res :=
  match headOf s n 5 with
  | none => .next s
  | some p =>
    let h : Notify := { src := pSrc p, vc := pVc p, bytes := pXw p, sem := pF p 57 48, die := pF p 58 58, n := pF p 79 64 }
    let s1 := takePkt s n p
    .next { s1 with fab := { s1.fab with held := s1.fab.held ++ [h] } }

/-- The first element equal to `h` removed. -/
def removeHeld (h : Notify) : List Notify → List Notify
  | [] => []
  | x :: t => if x = h then t else x :: removeHeld h t

/-- NOTIFY_POST (R306): the oldest NOTIFY held of a source and VC posts N to its semaphore; a post that would overflow
leaves the value, sets NOTIFY_OVF and is counted. -/
def execNotifyPost (src vc : Nat) (s : State) : Res :=
  match s.fab.held.find? (fun h => h.src == src && h.vc == vc) with
  | none => .next s
  | some h =>
    let have_ := spGet 0 s.fab.bytes (4 * src + vc)
    if have_ < h.bytes then .next s
    else
      let s1 := { s with fab := { s.fab with held := removeHeld h s.fab.held
                                             bytes := spSet s.fab.bytes (4 * src + vc) (have_ - h.bytes) } }
      if 65535 < semVal s1 h.die h.sem + h.n then
        .next (fabRefused { s1 with fab := { s1.fab with ovf := true } })
      else .next (setSem s1 h.die h.sem (semVal s1 h.die h.sem + h.n))

/-! ### Views (R302, R427, R312, R313) -/

/-- FAB_STS. -/
def fabSts (s : State) : Nat :=
  let n := fabN s
  let up := fabUp s
  let reach := if n < 2 then 0 else if up then 2 ^ min n 16 - 1 else 2 ^ fabPos s % 2 ^ 16
  let own := if n < 2 then 0 else 2 ^ fabPos s
  b2n up + 2 * b2n (fabWrapped s) + 4 * b2n s.fab.topoErr + 8 * b2n s.fab.verErr + 16 * b2n s.fab.ovf +
    2 ^ 16 * Nat.lor reach own
/-- LASER_PWR (R293): the input power of a wavelength as measured now, signed, in 0.01 dBm. -/
def laserPwr (s : State) (n k : Nat) : Nat := unsx 16 (Config.laserPwr n k s.time)
/-- OPT_STS. -/
def optSts (s : State) (n : Nat) : Nat :=
  let x := getE s n
  let st := match blkState s .opt n with
    | .retired => 4
    | .on => (match x.st with | .dark => 1 | .training => 2 | .up => 3 | .retired => 4)
    | _ => 0
  let w := rdN s (optPg n + 0x44)
  let lanes (joker retd : Nat) (v : Bool) : Nat := (List.range 9).foldl (fun a i =>
    if i == joker || (v && i == retd) then a else a + 2 ^ i) 0
  let on := st == 1 || st == 2 || st == 3
  st + (if on then 8 * lanes (fld w 3 0) (fld w 11 8) (bitN w 16) + 2 ^ 12 * lanes (fld w 7 4) (fld w 15 12) (bitN w 17) else 0) +
    2 ^ 21 * portOf s n

end Sys2Proof.Machine
end

