-- ==== Sys2Proof/Machine/Dealer.lean ====
section
/-!
DEFINITION. Building a trick (chapters 08, 09, 10): admission of requests (R277), withdrawal (R281), holds (R278), the
length table (R242, R243, R253, R272), prefill chunks (R247 to R249), runs (R289), parameter blocks and core page
lists (R87, R198, R201).
-/
namespace Sys2Proof.Machine

/-! ### Who can run -/

/-- The class a sequence is scheduled in (R277): an INTERACTIVE one not admitted as such counts as STANDARD. -/
def effCls (s : State) (r : Req) : Nat := if servedCls s r = 0 then (if r.adm = 2 then 0 else 1) else servedCls s r
/-- Entries of an earlier commit of the sequence are not yet written (R260). -/
def unwritten (s : State) (g : Nat) : Bool := s.deal.cq.any (fun e => e.gid == g && e.commit != 0)

/-- R226 at trick start in descriptor mode: an entry met ABSENT, or 0 where no page holds a committed position. -/
def absentIn (ring : Bool) (len : Nat) : Nat → List Nat → Option Nat
  | cov, [] => if ring ∨ len ≤ cov then none else some 0
  | cov, e :: t =>
    if !pValid e ∨ pTier e = 0 then some e
    else if pFpos e ≤ cov then absentIn ring len (max cov (pFpos e + 2 ^ pSze e)) t
    else if ring then absentIn ring len cov t
    else if len ≤ cov then none else some 0
/-- R225, R198: a table of the sequence whose data is withheld, met as the dealer reads it for the trick: its address. -/
def tabsWithheld (s : State) (m g : Nat) : Option Nat :=
  let c := (getM s m).ctx
  ((List.range (cxLayers c)).find? (fun l => (pagesOf s (cxWalk c) g l).2.isNone)).map (tabAddr s g)
/-- A report is made once. -/
def reportOnce (s : State) (m a : Nat) : State :=
  if s.deal.reports.any (fun r => r.code == 8 && r.addr == a) then s else reportPoison s .deal 0 0 m a
def absentOf (s : State) (m g len : Nat) : Option Nat :=
  let c := (getM s m).ctx
  if cxWalk c then none
  else (List.range (cxLayers c)).findSome? (fun l =>
    match (pagesOf s false g l).2 with
    | some ps => absentIn (cxRing c) len 0 (ps.map (fun p => p.2))
    | none => none)

/-- A request whose sequence could enter a trick: on an ACTIVE slot, not in PAUSED, its model LOADED, nothing of an
earlier commit unwritten. -/
def runnable (s : State) (e : Nat × Req) : Bool := e.2.st != .paused && (getM s e.2.model).st == 1 && !unwritten s e.1
/-- The request is held whatever its budget: its completion queue is paused (R285), or its context is RING and the fabric
is down (R311). -/
def stalled (s : State) (r : Req) : Bool := (getQ s r.q).st == .paused || (cxRing (getM s r.model).ctx && !fabUp s)

/-- R242: accepted, or out of PAUSED, before the last commit; before the first commit there is none to wait for. -/
def early (s : State) (since : Nat) : Bool := s.deal.commit == 0 || decide (since < s.deal.commit)
/-- The drafts the trick may take: a DRAFT accepted after the last commit waits (R242, R253). -/
def draftsOf (s : State) (r : Req) : List Nat := if early s r.draftSince then r.drafts else []

/-- The order of R242 within the table. -/
def lex3 (a b : Nat × Nat × Nat) : Bool :=
  decide (a.1 < b.1) || (a.1 == b.1 && (decide (a.2.1 < b.2.1) || (a.2.1 == b.2.1 && decide (a.2.2 ≤ b.2.2))))
def key242 (s : State) (e : Nat × Req) : Nat × Nat × Nat := (effCls s e.2, (getSlot s e.1).lastCommit, e.1)
/-- The account as the last commit left it (R272, R278): a replenishment after it counts for the next build. -/
def acctLeft (s : State) (a : Nat) : Acct :=
  let x := getA s a
  if s.deal.commit = 0 then x else { x with bal := x.bal0, charged := x.charged0 }

/-! ### Admission (R277) and withdrawal (R281) -/

/-- The most lower-class requests of a model (Table 9-4). -/
def lowLimit (s : State) (m : Nat) : Nat := s.deal.pauseAge * (lowRows s m (getAdm s m) / 9)
def admCount (s : State) (m a : Nat) : Nat := ((liveReqs s).filter (fun e => e.2.model == m && e.2.adm == a)).length
/-- The requests of a model, oldest accepted first. -/
def byOrder (s : State) (m : Nat) : List (Nat × Req) :=
  sortBy (fun a b => decide (a.2.order ≤ b.2.order)) ((liveReqs s).filter (fun e => e.2.model == m))
/-- A request that a host pause keeps out of admission. -/
def outByPause (r : Req) : Bool := r.host && r.st == .paused
def setAdm (s : State) (g a : Nat) : State :=
  modReq { s with deal := { s.deal with admOrder := s.deal.admOrder + 1 } } g (fun r =>
    { r with adm := a, admAt := s.deal.admOrder + 1, withdrawn := r.withdrawn && a != 2 })
/-- Requests admitted in acceptance order as their class has room: INTERACTIVE first, which gives up a lower admission,
then the lower classes, and in them the INTERACTIVE ones that still wait. -/
def admitModel (s : State) (m : Nat) : State :=
  let pass (want : Nat) (can : State → Req → Bool) (lim : Nat) (x : State) : State :=
    (byOrder x m).foldl (fun y e => if can y e.2 && early y e.2.since && decide (admCount y m want < lim) then setAdm y e.1 want else y) x
  let s1 := pass 2 (fun y r => servedCls y r == 0 && r.adm != 2 && !outByPause r) (interCap s m (getAdm s m)) s
  pass 1 (fun _ r => r.adm == 0 && !outByPause r) (lowLimit s m) s1
/-- R281 step 2: the admissions beyond the limits are withdrawn, most recently admitted first. -/
def withdrawModel (s : State) (m : Nat) : State :=
  let drop (a lim : Nat) (x : State) : State :=
    ((sortBy (fun a b => decide (b.2.admAt ≤ a.2.admAt)) ((byOrder x m).filter (fun e => e.2.adm == a))).take (admCount x m a - lim)).foldl
      (fun y e => modReq y e.1 (fun r => { r with adm := 0, withdrawn := r.withdrawn || a == 2 })) x
  drop 1 (lowLimit s m) (drop 2 (interCap s m (getAdm s m)) s)
/-- An INTERACTIVE admission whose account no longer serves that class is given up. -/
def declass (s : State) : State :=
  (liveReqs s).foldl (fun x e => if e.2.adm = 2 ∧ servedCls s e.2 ≠ 0 then modReq x e.1 (fun r => { r with adm := 0 }) else x) s
/-- A condition of R275 fails at the present capacity. -/
def inadmissible (s : State) : Bool := (excess s (getAdm s) none (anteSum s 0 (getA s 0))).any (fun x => decide (0 < x))
/-- R276: a model that cannot run at the present capacity loses its INTERACTIVE admissions. -/
def withdrawInter (s : State) (m : Nat) : State :=
  (byOrder s m).foldl (fun y e => if e.2.adm = 2 then modReq y e.1 (fun r => { r with adm := 0, withdrawn := true }) else y) s
/-- What a build does to admissions: after a capacity change, withdrawals where the conditions of R275 fail or a model cannot run,
then admissions, model by model. -/
def admitAll (s : State) : State :=
  let ms := loadedSlots s none
  let s0 := declass s
  let s1 := if !s0.deal.capChange then s0 else if inadmissible s0 then ms.foldl withdrawModel s0
    else (ms.filter (fun m => rowCap s0 m (getAdm s0 m) == 0)).foldl withdrawInter s0
  ms.foldl admitModel { s1 with deal := { s1.deal with capChange := false } }

/-! ### Holds (R278) -/

/-- The drafts of a decode entry before its account is asked (R253): no more than MAX_NEW and SEQ_LIMIT leave, and none
at a position that would need a frame from an empty ring (R214). -/
def draftsMax (s : State) (e : Nat × Req) : Nat :=
  let c := (getM s e.2.model).ctx
  let len := (getSlot s e.1).len
  let n := min (draftsOf s e.2).length (min (e.2.maxNew - e.2.delivered - 1) (seqLimit c - len - 2))
  match ((List.range (n + 1)).reverse.find? (fun d => !framesShort s c e.1 len (len + 1 + d))) with | some d => d | none => 0
/-- The next position needs a frame from an empty free ring. -/
def frameHeld (s : State) (e : Nat × Req) : Bool :=
  framesShort s (getM s e.2.model).ctx e.1 (getSlot s e.1).len ((getSlot s e.1).len + 1)
/-- The account was charged less than its ante this period. -/
def anteShort (a : Acct) : Bool := decide (a.charged < a.ante)

/-- A candidate of the procedure of R278: the sequence, or its extra drafts; the rows it asks for; its rank and the
fraction its rank is ordered by; the order of R242. -/
structure Cnd where
  gid : Nat
  extra : Bool
  rows : Nat
  rank : Nat
  num : Int
  den : Nat
  tie : Nat × Nat × Nat
  deriving DecidableEq, Repr
def cndLe (a b : Cnd) : Bool :=
  decide (a.rank < b.rank) || (a.rank == b.rank &&
    (decide (a.num * b.den < b.num * a.den) || (decide (a.num * b.den = b.num * a.den) && lex3 a.tie b.tie)))
def cndOf (s : State) (e : Nat × Req) (extra : Bool) (rows : Nat) : Cnd :=
  let a := acctLeft s e.2.acct
  let (k, n, d) : Nat × Int × Nat :=
    if !extra ∧ s.deal.pauseAge ≤ e.2.age then (1, -(e.2.age : Int), 1)
    else if !extra ∧ anteShort a then (2, (a.charged : Int), a.ante)
    else (3, (a.charged : Int) - a.ante, a.weight)
  { gid := e.1, extra := extra, rows := rows, rank := k, num := n, den := d, tie := key242 s e }

/-- The procedure's result for a model: the sequences held, the sequences taken, the drafts kept by sequence. -/
structure Holds where
  held : List Nat := []
  taken : List Nat := []
  keep : Sparse Nat := []
  deriving DecidableEq, Repr
/-- The candidates taken while they fit. -/
def takeCnds (draft : Nat) : Nat → Holds → List Cnd → Holds
  | _, h, [] => h
  | room, h, c :: t =>
    if c.extra then
      let k := min c.rows room
      takeCnds draft (room - k) { h with keep := spSet h.keep c.gid (draft + k) } t
    else if c.rows ≤ room then takeCnds draft (room - c.rows) { h with taken := c.gid :: h.taken } t
    else takeCnds draft room { h with held := c.gid :: h.held } t

/-- R278 for one model. -/
def holdsOf (s : State) (m : Nat) : Holds :=
  let x := getAdm s m
  let live := (liveReqs s).filter (fun e => e.2.model == m && runnable s e && !stalled s e.2)
  let nofr := (live.filter (fun e => e.2.adm != 0)).filter (frameHeld s)
  let dec := live.filter (fun e => e.2.st == .decode && early s e.2.since && !frameHeld s e)
  let inter := dec.filter (fun e => effCls s e.2 == 0)
  let low := dec.filter (fun e => effCls s e.2 != 0 && e.2.adm == 1)
  let room := rowCap s m x - sumN (inter.map (fun e => 1 + min (draftsMax s e) x.draft))
  let cnds := (inter.filter (fun e => decide (x.draft < draftsMax s e))).map (fun e => cndOf s e true (draftsMax s e - x.draft)) ++
    low.map (fun e => cndOf s e false (1 + draftsMax s e))
  let h := takeCnds x.draft room {} (sortBy cndLe cnds)
  { h with held := h.held ++ nofr.map (fun e => e.1) }

/-- A request's hold for the build: held by the procedure (its age counts while its account can pay, R279), held because
it is not admitted, its model cannot run (R276) or its queue is paused, or not held. -/
def holdReq (s : State) (h : Holds) (cap : Nat) (e : Nat × Req) : Req :=
  let r := e.2
  let pays := decide (1 ≤ (acctLeft s r.acct).bal)
  let short := anteShort (acctLeft s r.acct)
  if !runnable s e || !early s r.since then { r with hold := false, short := false }
  else if h.held.contains e.1 then { r with hold := true, short := short, age := r.age + b2n pays }
  else if r.adm = 0 ∨ cap = 0 ∨ stalled s r then { r with hold := true, short := short && !stalled s r }
  else { r with hold := false, short := false, age := if h.taken.contains e.1 then 0 else r.age }

/-- Holds decided for every model; the drafts kept by sequence. -/
def holdAll (s : State) : State × Sparse Nat :=
  (loadedSlots s none).foldl (fun (acc : State × Sparse Nat) m =>
    let h := holdsOf acc.1 m
    let cap := rowCap acc.1 m (getAdm acc.1 m)
    (((liveReqs acc.1).filter (fun e => e.2.model == m)).foldl (fun x e => modReq x e.1 (fun _ => holdReq acc.1 h cap e)) acc.1,
      h.keep.foldl (fun k e => spSet k e.1 e.2) acc.2)) (s, [])

/-! ### The length table (R242, R243) -/

/-- A build in progress: the state, the entries so far, what each account has left, rows by model (decode, append), the
summed estimates of prefill chunks that run beside the decode runs and of those that lengthen the trick (ps × 256),
whether no further entry enters, the models whose append rows are full, and whether the floor lengthened the trick. -/
structure Build where
  s : State
  entries : List TEntry := []
  reserve : Sparse Int := []
  rows : Sparse Nat := []
  app : Sparse Nat := []
  beside : Nat := 0
  longer : Nat := 0
  stop : Bool := false
  full : List Nat := []
  floor : Bool := false

def resOf (b : Build) (a : Nat) : Int := (spFind b.reserve a).getD (acctLeft b.s a).bal
/-- The estimated duration of the decode runs at rows `rows`, in ps × 256, without the 13 µs. -/
def decodeEst (s : State) (rows : Sparse Nat) : Nat :=
  let sum (thin : Bool) := sumN ((rows.filter (fun e => thinPath s e.1 e.2 == thin)).map (fun e => estTime s e.1 e.2))
  max (sum false) (sum true)
/-- The estimated duration of the trick. -/
def trickEst (b : Build) : Nat := 13000000 * 256 + max (decodeEst b.s b.rows) b.beside + b.longer
/-- R275: the admitted period would be exceeded. -/
def overPeriod (s : State) (est : Nat) : Bool := decide (pA s < periodOf s est)

/-- What keeps a sequence out of the trick at its start: a page list whose data is withheld is reported (R225), an ABSENT position
counted and recorded (R226). -/
def seqOut (s : State) (m g len : Nat) : Option State :=
  match tabsWithheld s m g with
  | some a => some (reportOnce s m a)
  | none => (absentOf s m g len).map (fun p => walkErr (bump s (att 0x7C)) m g 2 (pGen p))

/-- A decode entry placed (R242, R253, R272), its drafts used up, or left out. -/
def placeDecode (keep : Sparse Nat) (b : Build) (e : Nat × Req) : Build :=
  let r := e.2
  let m := r.model
  let c := (getM b.s m).ctx
  let len := (getSlot b.s e.1).len
  let res := resOf b r.acct
  let d := min (min (draftsMax b.s e) ((spFind keep e.1).getD 8)) (res - 1).toNat
  let rows := spSet b.rows m (spGet 0 b.rows m + 1 + d)
  let x : TEntry := {
    gid := e.1, model := m, prefill := false, last := false, sample := true, cls := effCls b.s r, len := len, new := 1, draft := d
    approw := spGet 0 b.app m, toks := (getSlot b.s e.1).pend :: (draftsOf b.s r).take d, acct := r.acct, cost := 0 }
  if b.stop ∨ 1024 ≤ b.entries.length ∨ b.full.contains m = true ∨ res < 1 ∨ frameHeld b.s e = true then b
  else match seqOut b.s m e.1 len with
    | some s1 => { b with s := s1 }
    | none =>
      if cxRows c < spGet 0 b.app m + 1 + d then { b with full := m :: b.full }
      else if overPeriod b.s (trickEst { b with rows := rows }) then { b with stop := true }
      else match allocPages b.s (getM b.s m).b c e.1 len (len + 1 + d) with
      | (s1, false) => { b with s := s1 }
      | (s1, true) =>
        { b with
          s := modReq s1 e.1 (fun r => { r with drafts := if early s1 r.draftSince then [] else r.drafts })
          rows := rows
          app := spSet b.app m (spGet 0 b.app m + 1 + d)
          reserve := spSet b.reserve r.acct (res - 1 - d)
          entries := b.entries ++ [x] }

/-! ### Prefill (R234, R247 to R249) -/

/-- The positions a request's prompt fills: an APPEND's pending token comes first (log entry 36). -/
def promptPos (r : Req) : Nat := r.plen + b2n r.app
/-- The layer time of `rows` prefill rows of a model, on the dense path. -/
def chunkLayer (s : State) (m rows : Nat) : Option Nat :=
  if kappa s = 0 then none else some (((getM s m).b.dLA + (getM s m).b.dLB * rows) * kappa s * theta s)
def layerFits (s : State) (m rows : Nat) : Bool := match chunkLayer s m rows with | some x => decide (x ≤ 36000000 * 256) | none => false
/-- The estimate of a chunk, in ps × 256. -/
def chunkEst (s : State) (m rows : Nat) : Nat := cxLayers (getM s m).ctx * (chunkLayer s m rows).getD 0

/-- What reading a chunk's tokens gives: the answer has not come, the read failed, a token out of the vocabulary, the
tokens. -/
inductive Chunk | wait | failed | bad | toks (l : List Nat)
  deriving DecidableEq, Repr
/-- R234: the chunk's prompt tokens, from device memory or as the host answers, `n` tokens from index `i`. -/
def readChunk (s : State) (g : Nat) (r : Req) (i n : Nat) (prompts : List PromptRead) : State × Chunk :=
  let chk (l : List Nat) : Chunk := if l.all (fun t => decide (t < (getM s r.model).b.vocab)) then .toks l else .bad
  if n = 0 then (s, .toks [])
  else if r.pdev then
    if scrWaits s r.fn (r.paddr + 4 * i) (4 * n) then (s, .wait)
    else match memRead s r.fn true (r.paddr + 4 * i) (4 * n) .none with
    | (s1, .ok bs) => (s1, chk ((chunks 4 n bs).map leNat))
    | (s1, _) => (s1, .failed)
  else match prompts.find? (fun p => p.gid == g) with
    | none => (s, .wait)
    | some p => match p.toks with
      | none => (hostAsk s r.fn r.q false, .failed)
      | some l => (hostAsk s r.fn r.q false, if l.length = n then chk l else .wait)

/-- A cluster's own logical index; while it runs another's work besides, the one it had before (R95). -/
def ownIdx (s : State) (c : Nat) : Nat :=
  match s.deal.moved.find? (fun e => e.2.1 == c) with | some e => e.2.2 | none => lclu s c
/-- Logical clusters in service, highest number first: those of the clusters in service and those whose work another
cluster runs (R95); and n of R289. -/
def logicals (s : State) : List Nat :=
  sortBy (fun a b => decide (b ≤ a)) (((List.range 68).filter (cluLive s)).map (ownIdx s) ++ s.deal.moved.map (fun e => e.1)).eraseDups
def prefillN (s : State) : Nat := max 1 ((prefillFloor s * (logicals s).length + 99) / 100)
/-- lcm(1…68), the scale of prefill core time. -/
def coreScale : Nat := (List.range 68).foldl (fun a i => Nat.lcm a (i + 1)) 1
/-- R249, R290: the window's prefill share, this trick's estimate in µs × 256 × 10^6 among it, is below the floor. -/
def belowFloor (b : Build) (has : Bool) : Bool :=
  let s := b.s
  let w := s.deal.win.drop (s.deal.win.length - (prefillWin s - 1))
  let est := trickEst b / 256000
  let c := max 1 (logicals s).length
  let pre := sumN (w.map (fun x => x.1)) + (if has then est * coreScale * prefillN s / c else 0)
  let dur := sumN (w.map (fun x => x.2)) + est
  decide (pre * 100 < prefillFloor s * dur * coreScale)

/-- This device's part of a chunk of `n` positions (R223): all of it, or, of a RING context, the part of its ring position: its first
row and how many. -/
def ownRows (s : State) (cx : List Byte) (n : Nat) : Nat × Nat :=
  if !cxRing cx then (0, n)
  else
    let k := max 1 (fabN s)
    let lo := n * fabPos s / k
    (lo, n * (fabPos s + 1) / k - lo)

/-- A prefill chunk placed (R242, R247 to R249, R272), left out, or its request failed (R234). -/
def placeChunk (prompts : List PromptRead) (b : Build) (e : Nat × Req) : Build :=
  let r := e.2
  let m := r.model
  let cx := (getM b.s m).ctx
  let len := (getSlot b.s e.1).len
  let n := min 256 (promptPos r - r.done)
  let (off, own) := ownRows b.s cx n
  let lead := b2n (r.app && r.done == 0)
  let last := decide (r.done + n = promptPos r)
  let res := resOf b r.acct
  let cost := (n * (getA b.s r.acct).pfr + 255) / 256
  let est := chunkEst b.s m own
  let any := b.entries.any (fun x => x.prefill)
  let idle := (getM b.s m).b.stks.isEmpty && decide (b.beside + est ≤ decodeEst b.s b.rows)
  let floor := belowFloor b any
  let x (ts : List Nat) : TEntry := {
    gid := e.1, model := m, prefill := true, last := last, sample := last, cls := effCls b.s r, len := len, new := own, draft := 0
    approw := spGet 0 b.app m, toks := ts, acct := r.acct, cost := cost, start := len + off, chunk := n }
  let b' : Build := if (getM b.s m).b.stks.isEmpty then { b with beside := b.beside + est } else { b with longer := b.longer + est }
  if b.stop ∨ 1024 ≤ b.entries.length ∨ b.full.contains m = true ∨ res < 1 ∨ !layerFits b.s m own ∨ !(idle || floor) ∨
      framesShort b.s cx e.1 (len + off) (len + off + own) then b
  else match seqOut b.s m e.1 len with
    | some s1 => { b with s := s1 }
    | none =>
      if cxRows cx < spGet 0 b.app m + own then { b with full := m :: b.full }
      else if overPeriod b.s (trickEst b') then { b with stop := true }
      else match readChunk b.s e.1 r (r.done - b2n (r.app && r.done != 0)) (n - lead) prompts with
        | (s1, .wait) => { b with s := s1 }
        | (s1, .failed) => { b with s := failReq s1 e.1 5 }
        | (s1, .bad) => { b with s := failReq s1 e.1 4 }
        | (s1, .toks l) =>
          match allocPages s1 (getM s1 m).b cx e.1 (len + off) (len + off + own) with
          | (s2, false) => { b with s := s2 }
          | (s2, true) =>
          { b' with
            s := modReq s2 e.1 (fun r => { r with st := .prefill })
            app := spSet b.app m (spGet 0 b.app m + own)
            reserve := spSet b.reserve r.acct (res - cost - b2n last)
            floor := b.floor || !idle
            entries := b.entries ++ [x ((if lead = 1 then [(getSlot s1 e.1).pend] else []) ++ l)] }

/-- Every entry of the trick. -/
def buildEntries (s : State) (keep : Sparse Nat) (prompts : List PromptRead) : Build :=
  let ok (e : Nat × Req) : Bool := runnable s e && early s e.2.since && !e.2.hold
  let dec := sortBy (fun a b => lex3 (key242 s a) (key242 s b)) ((liveReqs s).filter (fun e => ok e && e.2.st == .decode))
  let pre := sortBy (fun a b => lex3 (effCls s a.2, a.2.order, 0) (effCls s b.2, b.2.order, 0))
    ((liveReqs s).filter (fun e => ok e && (e.2.st == .queued || e.2.st == .prefill)))
  pre.foldl (placeChunk prompts) (dec.foldl (placeDecode keep) { s := s })

/-! ### Length table, core page lists, parameter blocks -/

/-- The 16 bytes of an entry (Table 8-9). -/
def entryBytes (e : TEntry) : List Byte :=
  leBytes e.gid 2 ++ leBytes e.model 1 ++ leBytes (b2n e.prefill + 2 * b2n e.last + 4 * e.cls + 16 * b2n e.sample) 1 ++ leBytes e.len 4 ++
    leBytes e.new 2 ++ leBytes e.draft 1 ++ [0] ++ leBytes e.approw 4
/-- A model's section: decode entries, then prefill entries. -/
def sectionOf (es : List TEntry) (m : Nat) : List TEntry :=
  es.filter (fun e => e.model == m && !e.prefill) ++ es.filter (fun e => e.model == m && e.prefill)

/-- The length table: one section for each model, in ascending model slot (R242). -/
def tableOf (es : List TEntry) : List TEntry := (List.range 64).flatMap (sectionOf es)
/-- The models of a trick, in the order of their sections. -/
def trickModels (es : List TEntry) : List Nat := (List.range 64).filter (fun m => es.any (fun e => e.model == m))

/-- R198: the entries of every sequence of the trick's page tables, by sequence × 512 + layer; those of a reserved TIER stay, to
fail their sequence as they are cut (R203). -/
def snapshot (s : State) (es : List TEntry) : Sparse (List Nat) :=
  es.foldl (fun acc e =>
    let c := (getM s e.model).ctx
    (List.range (cxLayers c)).foldl (fun a l =>
      match (pagesOf s (cxWalk c) e.gid l).2 with
      | some ps => spSet a (e.gid * 512 + l) ((ps.map (fun p => p.2)).filter (fun p => pValid p && pTier p != 0))
      | none => a) acc) []

/-- A record of 32 bytes (Table 7-6). -/
def cplRec (kind lo : Nat) (toff tcnt : Nat) : List Byte := leBytes lo 16 ++ leBytes toff 2 ++ leBytes tcnt 2 ++ leBytes kind 1 ++ List.replicate 11 0
/-- A stretch of an entry's committed positions: a page's, or, in translation mode, one that no page of the snapshot holds
(R226). -/
structure Seg where
  page : Option Nat
  pos : Nat
  n : Nat
  deriving DecidableEq, Repr
/-- The stretches of `len` positions from `cov`, over the pages in ascending position; `gaps` says whether positions without a page
are among them. -/
def segsOf (gaps : Bool) (len : Nat) : Nat → List Nat → List Seg
  | cov, [] => if gaps ∧ cov < len then [⟨none, cov, len - cov⟩] else []
  | cov, p :: t =>
    let lo := min len (pFpos p)
    (if gaps ∧ cov < lo then [⟨none, cov, lo - cov⟩] else []) ++
      (if pFpos p < len then [⟨some p, pFpos p, min (2 ^ pSze p) (len - pFpos p)⟩] else []) ++ segsOf gaps len (max cov (lo + 2 ^ pSze p)) t
/-- The stretches cores attend: those outside HBM-C pages (R221). -/
def coreSegs (c : List Byte) (pages : List Nat) (e : TEntry) : List Seg :=
  (segsOf (cxWalk c && !cxRing c) e.len 0 pages).filter (fun g => match g.page with | some p => pTier p != 1 | none => true)
/-- The records of an entry and layer: its committed positions, page by page in descriptor mode or as ranges in translation mode,
then its append rows up to `upto`. -/
def cplRecs (c : List Byte) (pages : List Nat) (e : TEntry) (upto : Nat) : List (List Byte) :=
  ((coreSegs c pages e).map (fun g =>
    match cxWalk c, g.page with
    | false, some p => cplRec 0 p 0 g.n
    | _, _ => cplRec 1 (g.pos + 2 ^ 32 * g.n) 0 0)) ++
    [cplRec 2 (e.start + 2 ^ 32 * upto + 2 ^ 48 * e.approw) 0 0]
/-- The key groups of an entry's records, which give its block count. -/
def cplGroups (c : List Byte) (pages : List Nat) (e : TEntry) (upto : Nat) : Nat :=
  sumN ((coreSegs c pages e).map (fun g => (g.n + 63) / 64)) + (upto + 63) / 64
/-- One core page list (Table 7-5): up to eight head entries, `t` query tokens from row `from_` of the entry, its records and the
key groups they are cut into. -/
def cplBytes (e : TEntry) (layer : Nat) (heads : List (Nat × Nat)) (g t from_ : Nat) (rs : List (List Byte)) (groups : Nat) : List Byte :=
  leBytes e.gid 2 ++ leBytes layer 2 ++ leBytes heads.length 1 ++ leBytes g 1 ++ leBytes t 1 ++ [0] ++ leBytes (e.start + from_) 4 ++
    leBytes ((groups + 3) / 4) 2 ++ leBytes rs.length 2 ++ List.replicate 48 0 ++
    (heads.flatMap (fun h => leBytes h.1 1 ++ leBytes h.2 1 ++ [0, 0])) ++ List.replicate (4 * (8 - heads.length)) 0 ++
    List.replicate 32 0 ++ List.replicate 1024 0 ++ rs.flatten
/-- The head entries of a KV head's `q` query heads (R211): subsets of `g` heads, at most 32; the heads left over make a smaller
subset. Subsets of one size share lists. -/
def headSets (c : List Byte) : List (Nat × List (Nat × Nat)) :=
  let q := cxHq c / max 1 (cxHkv c)
  let g := max 1 (min 32 q)
  let full := (List.range (cxHkv c)).flatMap (fun h => (List.range (q / g)).map (fun i => (h, h * q + i * g)))
  let rest := (List.range (cxHkv c)).map (fun h => (h, h * q + q / g * g))
  (g, full) :: (if q % g = 0 then [] else [(q % g, rest)])
/-- The lists of one entry and layer over given records: by subset size, row set of G × T ≤ 32, and eight head entries each. -/
def cplSets (c : List Byte) (e : TEntry) (layer : Nat) (recs : Nat → List (List Byte) × Nat) : List (List Byte) :=
  let n := e.new + e.draft
  (headSets c).flatMap (fun hs =>
    let t := max 1 (32 / hs.1)
    (List.range ((n + t - 1) / t)).flatMap (fun k =>
      let m := min t (n - t * k)
      let r := recs (t * k + m)
      (chunks 8 ((hs.2.length + 7) / 8) hs.2).map (fun h => cplBytes e layer h hs.1 m (t * k) r.1 r.2)))
/-- The core page lists of one entry and layer. -/
def cplEntry (c : List Byte) (pages : List Nat) (e : TEntry) (layer : Nat) : List (List Byte) :=
  cplSets c e layer (fun upto => (cplRecs c pages e upto, cplGroups c pages e upto))

/-- The STAGED records of the block of a ring chunk that member `j` holds (R223): its pages' images, one after another from `at_`
(log entry 179). -/
def stagedRecs (c : List Byte) (at_ lo hi : Nat) : List (List Byte) :=
  ((ladders lo hi).foldl (fun (acc : List (List Byte) × Nat) z =>
    let a := max lo z.2
    let e := mkPte 2 z.1 (cxKmax c) (cxVmax c) 0 (min hi (z.2 + 2 ^ z.1) - z.2) z.2 acc.2
    (acc.1 ++ [cplRec 3 e (a - z.2) (min hi (z.2 + 2 ^ z.1) - a)], acc.2 + pgBytes c e)) ([], at_)).1
/-- The lists of the steps 1 to N − 1 of a ring chunk, one for each block that arrives (R223): the block that originated at member
(i − k) mod N. -/
def ringLists (s : State) (c : List Byte) (e : TEntry) (layer : Nat) : List (List Byte) :=
  if !e.prefill ∨ !cxRing c then []
  else
    let n := max 1 (fabN s)
    (List.range (n - 1)).flatMap (fun k =>
      let j := (fabPos s + n - (k + 1)) % n
      let lo := e.len + e.chunk * j / n
      let hi := e.len + e.chunk * (j + 1) / n
      let rs := stagedRecs c (getM s e.model).b.stagedAt lo hi
      cplSets c e layer (fun _ => (rs, (hi - lo + 63) / 64)))

/-- The place of the `i`-th list of a layer (R211): the lists go to the run's logical cores in ascending GIDX, round after round; a
list of round `r` for core GIDX lies at that core's place of the bundle's space (log entry 28). -/
def cplPlace (b : Bundle) (cores : List Nat) (round i : Nat) : Nat :=
  let g := cores.getD (i / 64 % cores.length) 0 * 64 + i % 64
  b.cplAt + 256 * b.cplUnits * ((round + i / (64 * cores.length)) * 4352 + g)
/-- A run's core page lists, layer by layer and entry by entry, from a round on; the round after them. -/
def putCpls (s : State) (snap : Sparse (List Nat)) (m : Nat) (cores : List Nat) (es : List TEntry) (round : Nat) : State × Nat :=
  let b := (getM s m).b
  let c := (getM s m).ctx
  if cores.isEmpty then (s, round)
  else (List.range (cxLayers c)).foldl (fun (acc : State × Nat) l =>
    let ls := es.flatMap (fun e => cplEntry c (spGet [] snap (e.gid * 512 + l)) e l ++ ringLists s c e l)
    ((enumFrom 0 ls).foldl (fun x p => (memWrite x 256 (cplPlace b cores acc.2 p.1) p.2).1) acc.1,
      acc.2 + (ls.length + 64 * cores.length - 1) / (64 * cores.length))) (s, round)

/-- The HBM-C pages of a trick by the near-bank unit of their bank pair (R221): a unit, an entry and layer, and the pages in
ascending FPOS, fixed by the snapshot. -/
def nearOf (s : State) (snap : Sparse (List Nat)) (es : List TEntry) : List (Nat × Nat × List Nat) :=
  es.flatMap (fun e =>
    (List.range (cxLayers (getM s e.model).ctx)).flatMap (fun l =>
      let ps := (spGet [] snap (e.gid * 512 + l)).filter (fun p => pLeaf p && pTier p == 1 && decide (pFpos p < e.len))
      let u (p : Nat) : Nat := pageUnit s p
      ((ps.map u).eraseDups).map (fun k => (k, e.gid * 512 + l, ps.filter (fun p => u p == k)))))

/-- A field written into a list of bytes. -/
def patch (bs : List Byte) (off : Nat) (v : List Byte) : List Byte := bs.take off ++ v ++ bs.drop (off + v.length)
/-- A run's trick-parameter block: the bundle's pattern with the fields the dealer sets (Table 3-13). -/
def tpbBytes (s : State) (num m : Nat) (sec es : List TEntry) (first : Nat) (thin prefill : Bool) (mask : List Byte) : List Byte :=
  let b := (getM s m).b
  let p := (b.tpb ++ List.replicate 1024 0).take 1024
  let fl := b2n thin + 2 * b2n prefill + 4 * b2n (es.any (fun e => decide (0 < e.draft)))
  patch (patch (patch (patch (patch (patch p 0 (leBytes num 8)) 8 (leBytes m 2)) 0xA (leBytes sec.length 2)) 0xC (leBytes fl 4)) 0x20
    (leBytes (b.tabAt + 16 * first) 8)) 0x100 mask

/-- The prefill entries of a model in runs whose layer estimate stays within 36 µs (R275). -/
def prefillRuns (s : State) (m : Nat) : List TEntry → List (List TEntry)
  | [] => []
  | e :: t => match prefillRuns s m t with
    | r :: rest => if layerFits s m (e.new + sumN (r.map (fun x => x.new))) then (e :: r) :: rest else [e] :: r :: rest
    | [] => [[e]]

/-- Runs of one model: the decode run and the prefill runs, with the index of their first entry in the section. -/
def runsOf (s : State) (es : List TEntry) (m : Nat) : List (Bool × Nat × List TEntry) :=
  let d := es.filter (fun e => e.model == m && !e.prefill)
  let ps := prefillRuns s m (es.filter (fun e => e.model == m && e.prefill))
  (if d.isEmpty then [] else [(false, 0, d)]) ++
    (ps.foldl (fun (acc : List (Bool × Nat × List TEntry) × Nat) r => (acc.1 ++ [(true, acc.2, r)], acc.2 + r.length)) ([], d.length)).1

/-- DROP_MASK of a run: bit n for a dropped entry n. -/
def maskOf (es : List TEntry) : List Byte := leBytes (sumN ((enumFrom 0 es).map (fun e => if e.2.dropped then 2 ^ e.1 else 0))) 128

/-- A run in which a loop-count field of the block would be 0 is omitted (R85). -/
def loopsOk (b : Bundle) (block : List Byte) : Bool := b.loops.all (fun n => leAt block (0x80 + 4 * n) 4 != 0)
/-- The length tables, core page lists and parameter blocks of a trick written, and its runs dealt (R289): prefill runs to
the n highest-numbered logical clusters in service, decode runs to the others. -/
def dealRuns (s : State) (t : Trick) : State × List TRun :=
  let ls := logicals s
  let n := if t.entries.any (fun e => e.prefill) then prefillN s else 0
  (trickModels t.entries).foldl (fun (acc : State × List TRun) m =>
    let b := (getM acc.1 m).b
    let sec := sectionOf t.entries m
    let s1 := (memWrite acc.1 256 b.tabAt (sec.flatMap entryBytes)).1
    let r := (enumFrom 0 (runsOf s t.entries m)).foldl (fun (a : State × Nat × List TRun) r =>
      let at_ := b.tpbAt + 1024 * r.1
      let (pre, first, es) := r.2
      let cs := if pre then ls.take n else ls.drop n
      let block := tpbBytes a.1 t.num m sec es first (!pre && t.thin.contains m) pre (maskOf es)
      if !loopsOk b block then a
      else
        let p := putCpls a.1 t.snap m cs.reverse es a.2.1
        ((memWrite p.1 256 at_ block).1, p.2, a.2.2 ++ [{ model := m, prefill := pre, clusters := cs, tpb := at_ }])) (s1, 0, acc.2)
    (r.1, r.2.2)) (s, [])

/-! ### TRICK_BUILD -/

/-- R191: the contexts of the LOADED models read anew; one that cannot be read or is out of its ranges is kept as last
read (log entry 37). -/
def rereadCtx (s : State) : State :=
  (loadedSlots s none).foldl (fun x m =>
    match readCtx x m with
    | (y, some c) => if cxOk c then setM y m { getM y m with ctx := c } else y
    | (y, none) => y) s

/-- R282 item 5: accounts with a runnable sequence at this build; those of queues that are paused on their own do not count
(R285). -/
def noteDemand (s : State) : State :=
  let has (a : Nat) : Bool := (liveReqs s).any (fun e => e.2.acct == a && runnable s e && early s e.2.since && (getQ s e.2.q).st != .paused)
  { s with deal := { s.deal with accts := s.deal.accts.map (fun e => (e.1, { e.2 with demand := e.2.demand && has e.1 })) } }

/-- The settings that wait for a build come into effect (R265, R268, R273). A MODEL_ADM of a LOADING slot waits until it is
LOADED. -/
def applyWaits (s : State) : State :=
  let s1 := ((s.deal.admNew.map (fun e => e.1)).filter (fun m => (getM s m).st != 3)).foldl applyAdm s
  let (age, stall) := s1.deal.svcNew.getD (s1.deal.pauseAge, s1.deal.cqStall)
  { s1 with deal := { s1.deal with
      accts := s1.deal.accts.map (fun e => (e.1, acctSoon e.2)), pauseAge := age, cqStall := stall, svcNew := none, cfg := rdN s1 (dl 0x40) } }
/-- R214: where a sequence's next position finds a free ring empty, its model spills first. -/
def spillFirst (s : State) : State :=
  (loadedSlots s none).foldl (fun x m =>
    if cxSpill (getM x m).ctx && (liveReqs x).any (fun e => e.2.model == m && runnable x e && frameHeld x e) then spillGo x m else x) s
/-- R89: before the first run of a trick the semaphores of each model's range are 0, on both dies. -/
def clearSems (s : State) (ms : List Nat) : State :=
  { s with sync := { s.sync with sem := s.sync.sem.filter (fun e => !(ms.any (fun m =>
      let p := (getM s m).b.tpb
      decide (leAt p 0x28 2 ≤ e.1 % 1024) && decide (e.1 % 1024 < leAt p 0x28 2 + leAt p 0x2A 2)))) } }

/-- TRICK_BUILD (R241, R242, R245): the next trick, when the dealer runs and none is in flight. -/
def opBuild (s : State) (prompts : List PromptRead) : State :=
  let num := s.deal.next
  -- what a pending invalidation names is gone before the trick's first walk (R200)
  let s0 := invalDrop (applyWaits { s with deal := { s.deal with trick := num } }) s.kv.inval
  let (s1, keep) := holdAll (admitAll (spillFirst (rereadCtx s0)))
  let b := buildEntries (noteDemand s1) keep prompts
  let thin := (b.rows.filter (fun e => thinPath b.s e.1 e.2)).map (fun e => e.1)
  let pre := b.entries.any (fun e => e.prefill)
  let es := tableOf b.entries
  let snap := snapshot b.s es
  let t0 : Trick := { num := num, built := s.time, entries := es, thin := thin, snap := snap, near := nearOf b.s snap es,
                      preN := if pre then prefillN b.s else 0, preC := max 1 (logicals b.s).length }
  let (s2, runs) := dealRuns b.s t0
  let s3 := if b.floor then bump s2 (dl 0x70) else s2
  let s4 := { s3 with deal := { s3.deal with next := num + 1, cur := some { t0 with runs := runs } } }
  (trickModels es).foldl (fun x m => layerBegin x m 0) (clearSems s4 (trickModels es))
/-- R175: a place the dealer writes for a trick lies in a way that is about to be its own; the build waits until it is. -/
def buildWaits (s : State) : Bool :=
  (loadedSlots s none).any (fun m =>
    let b := (getM s m).b
    scrWaits s 256 b.tpbAt (1024 * 64) || scrWaits s 256 b.tabAt (16 * 1024) || scrWaits s 256 b.cplAt (256 * b.cplUnits * 4352))
def execTrickBuild (prompts : List PromptRead) (s : State) : Res :=
  .next (if !s.deal.running ∨ s.deal.cur.isSome ∨ buildWaits s = true then s else opBuild s prompts)

end Sys2Proof.Machine
end

