-- ==== Sys2Proof/Machine/Commit.lean ====
section
/-!
DEFINITION. The commit (chapter 08): the generator and sampling (R250 to R252), verification of drafts (R254), stop
detection (R255), charges (R272), what becomes of requests and pages (R256, R238), completion entries (R257 to R260),
breach episodes (R282), the end of a trick (R215, R228) and the writing of entries (R260, R326).
-/
namespace Sys2Proof.Machine

/-! ### The generator (R250) -/

def rotMul (x sh k : Nat) : Nat := Nat.xor x (x / 2 ^ sh) * k % 2 ^ 64
/-- rand(seed, pos). -/
def randOf (seed pos : Nat) : Nat :=
  let x := (seed + 0x9E3779B97F4A7C15 * (pos + 1)) % 2 ^ 64
  let y := rotMul (rotMul x 30 0xBF58476D1CE4E5B9) 27 0x94D049BB133111EB
  Nat.xor y (y / 2 ^ 31)
/-- The draw of a position: 40 bits. -/
def drawOf (seed pos : Nat) : Nat := randOf seed pos / 2 ^ 24

/-! ### Weights (R251) -/

/-- The exact difference of two values in extended form. -/
def subTx (a b : Int × Int) : Int × Int :=
  if a.2 ≤ b.2 then (a.1 - b.1 * (2 ^ (b.2 - a.2).toNat : Nat), a.2) else (a.1 * (2 ^ (a.2 - b.2).toNat : Nat) - b.1, b.2)
/-- RT of a temperature: 4096 ÷ TEMP as a normalised SC32 word. -/
def rtOf (temp : Nat) : Nat := scRound 4096 temp 0
/-- W of up to 64 candidates of one row of ranks, against the first logit: d is normalised row by row (R52; log entry
38). -/
def rowWeights (z0 : Int × Int) (rt : Nat) (l : List Cand) : List Nat :=
  let d := (normL (l.map (fun c => mulTx (subTx (c.m, c.e) z0) (scVal rt)))).1
  (lanesOf d).map (fun v =>
    let (m, e, _) := expOf (segOf expPoint) v.1 v.2
    let w := norm1 (m, e)
    (rnd (w.m.headD 0) (-(w.e + 30))).toNat)
/-- W of every candidate. -/
def weights (temp : Nat) (l : List Cand) : List Nat :=
  match l with
  | [] => []
  | c :: _ => (chunks 64 ((l.length + 63) / 64) l).flatMap (rowWeights (c.m, c.e) (rtOf temp))

/-- The least j with the running sum above the target. -/
def pickFrom : Nat → Nat → Nat → List Nat → Nat
  | _, j, _, [] => j - 1
  | target, j, sum, w :: t => if target < sum + w then j else pickFrom target (j + 1) (sum + w) t
/-- The least count whose sum reaches the top-p bound. -/
def topCount (topp bound : Nat) : Nat → Nat → List Nat → Nat
  | n, _, [] => n
  | n, sum, w :: t => if topp * bound ≤ (sum + w) * 65536 then n + 1 else topCount topp bound (n + 1) (sum + w) t
/-- The rank chosen among weights `ws` for draw `u`. -/
def chooseRank (minp topp u : Nat) (ws : List Nat) : Nat :=
  let kept := if minp = 0 then ws else ws.takeWhile (fun w => decide (minp * ws.headD 0 ≤ w * 65536))
  let n := if topp = 0 then kept.length else topCount topp (sumN kept) 0 0 kept
  pickFrom (u * sumN (kept.take n) / 2 ^ 40) 0 0 (kept.take n)

/-! ### Log-probabilities (R252) -/

/-- Forty bits of log₂ of a value in [1, 2) held × 2^160, by repeated squaring. -/
def log2Bits : Nat → Nat → Nat → Nat
  | 0, _, acc => acc
  | k + 1, x, acc =>
    let y := x * x / 2 ^ 160
    if 2 ^ 161 ≤ y then log2Bits k (y / 2) (2 * acc + 1) else log2Bits k y (2 * acc)
/-- P[i] of the dealer's LOG2 table. -/
def log2Point (i : Nat) : Nat := if 256 ≤ i then 2 ^ 30 else (log2Bits 40 ((256 + i) * 2 ^ 152) 0 + 512) / 1024
/-- lg(v), in units of 2^−30. -/
def lgOf (v : Nat) : Int :=
  let n := Nat.log2 v
  let a := if n ≤ 29 then v * 2 ^ (29 - n) else v / 2 ^ (n - 29)
  let i := (a - 2 ^ 29) / 2 ^ 21
  let f : Int := ((a - 2 ^ 29) % 2 ^ 21 * 2 : Nat)
  let sg := segOf log2Point i
  ((n * 2 ^ 30 : Nat) : Int) + sg.1 + rnd (sg.2 * f) 22
/-- LOGP of a weight among the sum of all weights. -/
def logpOf (w sum : Nat) : Int := max (rnd (256 * (lgOf w - lgOf sum)) 30) (-32768)

/-- A sampling row's token and its LOGP (R251, R252): greedy with TEMP 0 or TOPK 1. -/
def sampleRow (r : Req) (pos : Nat) (cs : List Cand) : Nat × Int :=
  let l := cs.take r.topk
  let greedy := r.temp == 0 || r.topk == 1
  let ws := weights (if greedy then 4096 else r.temp) l
  let j := if greedy then 0 else chooseRank r.minp r.topp (drawOf r.seed pos) ws
  ((l.getD j ⟨0, 0, 0⟩).tok, if r.logp then logpOf (ws.getD j 1) (sumN ws) else 0)

/-- R254: rows sampled in order until the first that differs from its draft: the tokens, oldest first. `pos` is the
position of the token the first row produces. -/
def verify (r : Req) : Nat → List Nat → List (List Cand) → List (Nat × Int)
  | _, _, [] => []
  | pos, drafts, row :: rows =>
    let t := sampleRow r pos row
    match drafts with
    | d :: ds => if t.1 = d then t :: verify r (pos + 1) ds rows else [t]
    | [] => [t]

/-! ### Stop detection (R255, Table 8-12) -/

/-- The outcome of a token: none, a terminal status, or the budget's pause. -/
inductive Stop | none_ | fin (status : Nat) | pause
  deriving DecidableEq, Repr
/-- What a delivered token meets, first row first. `last` are the request's last delivered tokens, newest first and the
token among them, `n` how many it has delivered, `pos` the token's position, `bal` the account's balance after the
charge. -/
def stopOf (r : Req) (lim tok : Nat) (last : List Nat) (n pos : Nat) (bal : Int) : Stop :=
  if r.stopIds.contains tok then .fin 0x10
  else if r.stopSeqs.any (fun q => !q.isEmpty && last.take q.length == q.reverse && decide (q.length ≤ last.length)) then .fin 0x11
  else if r.maxNew ≤ n then .fin 0x12
  else if lim - 1 ≤ pos then .fin 0x13
  else if bal < 1 then (if r.bend then .fin 0x14 else .pause)
  else .none_

/-- Delivery of produced tokens up to the first that stops: those delivered, and the outcome. -/
def deliverGo (r : Req) (lim : Nat) : Nat → Int → List Nat → Nat → List (Nat × Int) → List (Nat × Int) × Stop
  | _, _, _, _, [] => ([], .none_)
  | pos, bal, last, n, t :: ts =>
    let last' := t.1 :: last
    match stopOf r lim t.1 last' (n + 1) pos (bal - 1) with
    | .none_ =>
      let (l, o) := deliverGo r lim (pos + 1) (bal - 1) last' (n + 1) ts
      (t :: l, o)
    | o => ([t], o)

/-! ### Entries of a commit (R259) -/

/-- Entries of up to four tokens, MORE on all but the last; the last carries `status`, the others are TOKENS. -/
def tokEntries (s : State) (g : Nat) (r : Req) (num status : Nat) : List (List (Nat × Int)) → State
  | [] => s
  | [l] => tokEntry s g r num status l false num
  | l :: t => tokEntries (tokEntry s g r num 0x01 l true num) g r num status t
/-- Tokens in entries of four; a terminal entry is written even without a token. -/
def fours (l : List (Nat × Int)) : List (List (Nat × Int)) := if l.isEmpty then [[]] else chunks 4 ((l.length + 3) / 4) l
/-- TOKENS entries of a request that goes on: with PACK only whole fours, the rest held. -/
def outTokens (s : State) (g : Nat) (r : Req) (num : Nat) (ts : List (Nat × Int)) : State × List (Nat × Int) :=
  let all := r.packed ++ ts
  if r.pack then
    let k := all.length / 4 * 4
    let more := decide (k < all.length)
    ((enumFrom 0 (chunks 4 (k / 4) (all.take k))).foldl (fun x p =>
      tokEntry x g r num 0x01 p.2 (more || decide (p.1 + 1 < k / 4)) num) s, all.drop k)
  else (if all.isEmpty then s else tokEntries s g r num 0x01 (fours all), [])

/-! ### One entry of the length table at the commit -/

/-- A request that finished (Table 8-1): breach entries first, then its last tokens with the terminal status. -/
def finishReq (s : State) (g : Nat) (r : Req) (num status : Nat) (ts : List (Nat × Int)) : State :=
  let s1 := bump (tokEntries (breachEnd s g) g r num status (fours (r.packed ++ ts))) (svc 0x58)
  if r.keep then setSlot s1 g { getSlot s1 g with st := .retained, req := none } else freeSlot s1 g

/-- A sampling entry: tokens delivered, charged, stopped, the sequence's length and pages brought up to date (R253 to
R256). `rows` are its sampling rows' candidates. -/
def commitSample (s : State) (num : Nat) (e : TEntry) (rows : List (List Cand)) : State :=
  match reqOf s e.gid with
  | none => s
  | some r0 =>
    let c := (getM s e.model).ctx
    let base := e.len + e.chunk
    let made := verify r0 base (e.toks.drop 1) (if e.prefill then rows.take 1 else rows)
    let a := getA s e.acct
    let (ts, out) := deliverGo r0 (seqLimit c) base (a.bal - e.cost) r0.last r0.delivered made
    let k := ts.length
    let len := if e.prefill then base else e.len + k
    let s1 := setA s e.acct { a with bal := a.bal - e.cost - k, charged := a.charged + e.cost + k }
    let s2 := bumpBy s1 (svc 0x68) k
    let s3 := if e.prefill then s2 else bumpBy (bumpBy s2 (svc 0x6C) e.draft) (svc 0x70) (made.length - 1)
    let s4 := if e.prefill then writeUsed s3 c e.gid e.start (e.start + e.new) else writeUsed s3 c e.gid e.len len
    let s5 := setSlot s4 e.gid { getSlot s4 e.gid with
      len := len, pend := ((ts.getLast?).getD (0, 0)).1, dlv := r0.delivered + k, lastCommit := num }
    let s6 := { s5 with kv := { s5.kv with due := s5.kv.due ++ duePages s5 num e.model e.gid 1 len } }
    let r : Req := { r0 with delivered := r0.delivered + k, last := ((ts.map (fun t => t.1)).reverse ++ r0.last).take 8, lastCommit := num
                             done := r0.done + (if e.prefill then e.chunk else 0), st := .decode }
    match out with
    | .fin st => finishReq (modReq s6 e.gid (fun _ => r)) e.gid r num st ts
    | o =>
      let (s7, held) := outTokens s6 e.gid r num ts
      let r1 := { r with packed := held, lastTok := if s7.deal.cq.length = s6.deal.cq.length then r.lastTok else some s.time }
      if o = .pause then
        modReq (cqAdd s7 r.q e.gid num false (mkDetail r.htag r.seq 0x02 2 0 num)) e.gid (fun _ => { enterPaused { r1 with budget := true } with lastTok := none })
      else modReq s7 e.gid (fun _ => r1)

/-- A prefill chunk that is not the last: charged, and its positions stand (R229, R272). -/
def commitChunk (s : State) (num : Nat) (e : TEntry) : State :=
  let a := getA s e.acct
  let s1 := setA s e.acct { a with bal := a.bal - e.cost, charged := a.charged + e.cost }
  let s2 := writeUsed s1 (getM s1 e.model).ctx e.gid e.start (e.start + e.new)
  let s3 := setSlot s2 e.gid { getSlot s2 e.gid with len := e.len + e.chunk, lastCommit := num }
  modReq s3 e.gid (fun r => { r with done := r.done + e.chunk, lastCommit := num })

/-- How many sampling rows an entry has. -/
def rowCount (e : TEntry) : Nat := if e.dropped ∨ !e.sample then 0 else if e.prefill then 1 else 1 + e.draft
/-- The entries in table order, with the rows each takes. -/
def commitGo (num : Nat) : State → List TEntry → List (List Cand) → State
  | s, [], _ => s
  | s, e :: es, rows =>
    let n := rowCount e
    let s1 := if e.dropped then s else if e.sample then commitSample s num e (rows.take n) else commitChunk s num e
    commitGo num s1 es (rows.drop n)

/-! ### COMMIT (R245, R256) -/

/-- Host pauses that waited for the commit take effect (R220). -/
def commitPauses (s : State) (t : Trick) : State :=
  (t.entries.filter (fun e => !e.dropped)).foldl (fun x e =>
    match reqOf x e.gid with
    | some r => if r.hostWait ∧ r.host then hostPauseNow x e.gid t.num else x
    | none => x) s

/-- Items 3 and 4 of R282 for one request in trick `t`, as the trick found it, before its commit writes entries: the bound on the
interval between TOKENS entries holds with PACK clear and no more drafts than ADM_DRAFT (Table 9-5). A queue that is paused on
its own gets none (R285). -/
def breachStep (t : Trick) (s : State) (e : Nat × Req) : State :=
  let r := e.2
  let p := pA s
  let x := getAdm s r.model
  let few := t.entries.all (fun y => y.gid != e.1 || decide (y.draft ≤ x.draft))
  let late := match r.lastTok with | some t => !r.pack && few && decide (t + (p + 40) * 1000 < s.time) | none => false
  let b3 := r.cls == 0 && r.st == .decode && runnable s e && (r.adm == 2 || r.withdrawn) &&
    (r.withdrawn || late || (x.tper != 0 && decide (x.tper < p)))
  let (n3, o3) := episodeAt r.b3 t.num b3
  let (n4, o4) := episodeAt r.b4 t.num (r.hold && r.short)
  let s1 := match o3 with | some x => breachOut s e.1 r 3 x.first x.last | none => s
  let s2 := match o4 with | some x => breachOut s1 e.1 r 4 x.first x.last | none => s1
  if (getQ s r.q).st = .paused then s else modReq s2 e.1 (fun r => { r with b3 := n3, b4 := n4 })

/-- The window of R290 takes the trick: prefill core time × lcm(1…68), and its duration from the commit before, or for the first
trick from its build. -/
def noteWin (s : State) (t : Trick) : State :=
  let d := s.time - s.deal.commitAt.getD t.built
  let w := s.deal.win ++ [(d * coreScale * t.preN / t.preC, d)]
  { s with deal := { s.deal with win := w.drop (w.length - 255) } }

/-- The counters of Table 8-19 that a trick moves; a model with prefill entries alone counts as dense. -/
def countTrick (s : State) (t : Trick) : State :=
  let ms := (t.entries.map (fun e => e.model)).eraseDups
  let th := (ms.filter (fun m => t.thin.contains m)).length
  bumpBy (bumpBy (bumpBy s (dl 0x64) th) (dl 0x68) (ms.length - th)) (dl 0x6C) (t.entries.filter (fun e => e.prefill && !e.dropped)).length

/-- The account state the commit leaves, for the next build (R272, R278). -/
def noteAccts (s : State) : State :=
  { s with deal := { s.deal with accts := s.deal.accts.map (fun e => (e.1, { e.2 with bal0 := e.2.bal, charged0 := e.2.charged })) } }
/-- The commit of the trick in flight. -/
def opCommit (s : State) (t : Trick) (cands : List (List Cand)) : State :=
  let s1 := (liveReqs s).foldl (fun x e => breachStep t x e) s
  let s2 := commitGo t.num s1 t.entries cands
  let s3 := wrPair (countTrick (noteWin s2 t) t) (dl 0x48) t.num
  let s4 := { s3 with deal := { s3.deal with
    commit := t.num, commitAt := some s3.time, cur := none, ending := s3.deal.ending ++ (s3.deal.cur.toList) } }
  noteAccts (commitPauses s4 t)
/-- Candidates in the order of R251: descending logits, ties by the lower id first. -/
def candsSorted : List Cand → Bool
  | a :: b :: t => (let o := cmpTx a.m a.e b.m b.e; decide (0 < o) || (o == 0 && decide (a.tok < b.tok))) && candsSorted (b :: t)
  | _ => true
/-- What the logits head delivers for a row of an entry (R251): TOPK candidates of the vocabulary, each once, in order. -/
def candsOk (s : State) (e : TEntry) (l : List Cand) : Bool :=
  let v := (getM s e.model).b.vocab
  match reqOf s e.gid with
  | some r => l.length == min r.topk v && l.all (fun c => decide (c.tok < v)) && decide ((l.map (fun c => c.tok)).Nodup) && candsSorted l
  | none => !l.isEmpty
/-- The candidates of every sampling row, in table order. -/
def rowsOk (s : State) : List TEntry → List (List Cand) → Bool
  | [], rows => rows.isEmpty
  | e :: es, rows =>
    decide (rowCount e ≤ rows.length) && (rows.take (rowCount e)).all (candsOk s e) && rowsOk s es (rows.drop (rowCount e))
/-- COMMIT: after every run of the trick has ended, with the candidates of every sampling row. -/
def execCommit (cands : List (List Cand)) (s : State) : Res :=
  match s.deal.cur with
  | none => .next s
  | some t =>
    if !s.deal.running ∨ !runsEnded t ∨ !rowsOk s t.entries cands then .next s
    else .next (opCommit s t cands)

/-! ### Writing entries (R260, R322, R325, R326) -/

/-- The function of a queue reaches host memory (R330): the queue lies in device memory, or the link is up and Bus
Master Enable is set. -/
def hostReach (s : State) (q : Nat) : Bool :=
  bit (rdReg s (pageOf .que q + 0x10)) 20 ||
    (match queOwner s q with | some f => (getFn s f).bme && !(getFn s f).d3hot && s.host.linkUp | none => false)
/-- The entry must wait for the terminal entry its descriptor caused (R259). -/
def ackWaits (cq : List CqOut) (o : CqOut) : Bool :=
  o.ack && (cq.takeWhile (fun x => x != o)).any (fun x => x.gid == o.gid && !x.ack &&
    (let c := fld x.e.toNat 55 52
     decide (1 ≤ c) && decide (c ≤ 4)))
/-- An entry cannot be written now: its queue is full, has lost its translation, or its memory is out of reach. -/
def cqHeldNow (s : State) (o : CqOut) : Bool := cqFull s o.q || !hostReach s o.q || (getQ s o.q).xlatErr

/-- The bytes of an entry with PHASE. -/
def cqePhase (e : BitVec 256) (ph : Bool) : BitVec 256 := if ph then e ||| BitVec.ofNat 256 (2 ^ 63) else e
/-- COMPLETION_WRITE: the first waiting entry of the queue is written, in one aligned 32-byte write, when there is room;
`ok` is the host's answer to a translation. -/
def execCompletionWrite (q : Nat) (ok : Bool) (s : State) : Res :=
  match s.deal.cq.find? (fun o => o.q == q) with
  | none => .next s
  | some o =>
    let x := getQ s q
    let loc := bit (rdReg s (pageOf .que q + 0x10)) 20
    let ask (y : State) : State := match queOwner s q with | some f => hostAsk y f q true | none => y
    if cqFull s q ∨ !hostReach s q ∨ ackWaits s.deal.cq o then .next s
    else if !ok ∧ !loc then .next (setQ (ask s) q { x with xlatErr := true })
    else
      let e := cqePhase o.e x.phase
      let s1 := { s with deal := { s.deal with cq := s.deal.cq.erase o } }
      let s2 := if loc then (memWrite s1 ((queOwner s q).getD 256) (rdPair s (pageOf .que q + 0x08) + 32 * x.cqTail) (leBytes e.toNat 32)).1
        else emit (ask s1) (.cqe q x.cqTail e)
      let t := (x.cqTail + 1) % cqSize s q
      .next (setQ s2 q { x with cqTail := t, phase := if t = 0 then !x.phase else x.phase, unsig := x.unsig + 1
                                unsigAt := if x.unsig = 0 then s.time else x.unsigAt
                                fullAt := if (t + 1) % cqSize s q = x.cqHead then some s.time else none })

/-! ### TRICK_END (R200, R215, R228, R245) -/

/-- Every append row of every layer of the trick is copied. -/
def copiesDone (s : State) (t : Trick) : Bool :=
  ((t.entries.filter (fun e => !e.dropped)).map (fun e => e.model)).all (fun m =>
    (List.range (cxLayers (getM s m).ctx)).all (fun l => t.copied.contains (m * 512 + l)))
/-- No entry of its commit waits but such as the queue holds. -/
def entriesDone (s : State) (t : Trick) : Bool := s.deal.cq.all (fun o => o.commit != t.num || cqHeldNow s o)
/-- The frees of a trick made, its slots freed. -/
def opTrickEnd (s : State) (t : Trick) : State :=
  let due := s.kv.due.filter (fun d => decide (d.trick ≤ t.num))
  let s1 := { s with
    deal := { s.deal with ending := s.deal.ending.drop 1, ended := t.num }
    kv := { s.kv with due := s.kv.due.filter (fun d => decide (t.num < d.trick)) } }
  let s2 := wrPair s1 (att 0x60) t.num
  let s3 := due.foldl (fun x d => makeFree x t.num d) s2
  let s4 := (s3.deal.slots.map (fun e => e.1)).foldl slotFree s3
  invalDone s4 t.num
/-- TRICK_END: the oldest committed trick's last append copy and last completion entry are done. -/
def execTrickEnd (s : State) : Res :=
  match s.deal.ending with
  | [] => .next s
  | t :: _ => if copiesDone s t ∧ entriesDone s t then .next (opTrickEnd s t) else .next s

end Sys2Proof.Machine
end

