-- ==== Sys2Proof/Machine/Host.lean ====
section
/-!
DEFINITION. The host interface (chapter 12): doorbells and descriptor fetches (R325), queue states (R324), MSI-X
(R328), function reset (R329, R330), queue ranges (R318), the link, and the messages of DOE, IDE and TDISP (R335 to
R337).
-/
namespace Sys2Proof.Machine

/-! ### Reaching a queue set (R318, R321, R337, Table 13-5) -/

/-- The page of a queue set. -/
def qPg (q : Nat) : Nat := pageOf .que q
/-- A master's access to a queue set. -/
def queReach (s : State) (mid q : Nat) : Reach :=
  let own := queOwner s q
  if 4096 ≤ q ∨ !present s .que then .no
  else if midOf mid = 1 then (match own with | some f => if tdiLocked s f then .refused else .yes | none => .yes)
  else if hostMid mid then
    let f := midOf mid - 1
    if own ≠ some f ∨ ((getFn s f).tdi = .run ∧ !midT mid) then .refused else .yes
  else .no
/-- An access carried out when it may be. -/
def queAccess (s : State) (mid q : Nat) (f : State → State) : State :=
  match queReach s mid q with | .yes => f s | .refused => hostRef s | .no => s
/-- The owner of a queue set is being reset: its doorbells are ignored (R329). -/
def qResetting (s : State) (q : Nat) : Bool := match queOwner s q with | some f => (getFn s f).resetRun | none => false

/-- An ENABLED queue goes to ERROR (Table 12-5); FN_EVT bit 2 of its VF is set. In another state it stays (log entry 40). -/
def qError (s : State) (q : Nat) : State :=
  if (getQ s q).st ≠ .enabled then s
  else
    let s1 := setQ s q { getQ s q with st := .error }
    match queOwner s q with | some f => if f = 0 then s1 else fnEvent s1 f 2 | none => s1

/-! ### Doorbells (R325) -/

/-- An SQ_TAIL doorbell. -/
def opSqTail (s : State) (q : Nat) (v : W32) : State :=
  let s1 := bump s (0x7000 + 0x6C)
  let x := getQ s q
  let t := fld v.toNat 15 0
  if qResetting s q ∨ (x.st ≠ .enabled ∧ x.st ≠ .paused) then s1
  else if qSize s q ≤ t then qError (setQ s1 q { x with errTail := true }) q
  else setQ s1 q { x with sqTail := t }
/-- SQ_TAIL. -/
def execSqTail (mid q : Nat) (v : W32) (s : State) : Res := .next (queAccess s mid q (fun x => opSqTail x q v))

/-- A CQ_HEAD doorbell: a head between the old head and CQ_TAIL frees slots, and room ends a pause (R285). -/
def opCqHead (s : State) (q : Nat) (v : W32) : State :=
  let s1 := bump s (0x7000 + 0x6C)
  let x := getQ s q
  let n := cqSize s q
  let h := fld v.toNat 15 0
  if qResetting s q ∨ x.st = .disabled then s1
  else if n ≤ h ∨ (x.cqTail + n - x.cqHead) % n < (h + n - x.cqHead) % n then qError (setQ s1 q { x with errHead := true }) q
  else
    let s2 := setQ s1 q { x with cqHead := h, fullAt := if (x.cqTail + 1) % n = h then x.fullAt else none }
    if x.st = .paused ∧ !cqFull s2 q then setQ s2 q { getQ s2 q with st := .enabled } else s2
/-- CQ_HEAD. -/
def execCqHead (mid q : Nat) (v : W32) (s : State) : Res := .next (queAccess s mid q (fun x => opCqHead x q v))

/-! ### Descriptor fetch (R325, R327) -/

/-- The outstanding count: requests not ended, control descriptors not acknowledged. -/
def outstanding (s : State) (q : Nat) : Nat :=
  ((allReqs s).filter (fun e => e.2.q == q)).length + (s.deal.cq.filter (fun o => o.q == q && o.ack)).length
/-- The outstanding limit. -/
def qLimit (s : State) (q : Nat) : Nat := fld (rdN s (qPg q + 0x1C)) 15 0
/-- How many descriptors a fetch may read now: up to the last tail, within Q_LIMIT, descriptors read and not yet accepted
among the count. -/
def fetchable (s : State) (q : Nat) : Nat :=
  let x := getQ s q
  min ((x.sqTail + qSize s q - x.sqHead) % qSize s q) (qLimit s q - outstanding s q - x.ready.length)
/-- `n` descriptors from SQ_HEAD on, out of device memory; none when one of them cannot be read. -/
def devDescs (s : State) (q : Nat) : Nat → Nat → State × Option (List Desc)
  | 0, _ => (s, some [])
  | n + 1, h =>
    match memRead s ((queOwner s q).getD 256) true (rdPair s (qPg q) + 64 * h) 64 .none with
    | (s1, .ok bs) =>
      match devDescs s1 q n ((h + 1) % qSize s q) with
      | (s2, some ds) => (s2, some (BitVec.ofNat 512 (leNat bs) :: ds))
      | (s2, none) => (s2, none)
    | (s1, _) => (s1, none)
/-- DESCRIPTOR_FETCH: `descs` is what host memory holds from SQ_HEAD on, `ok` whether the read succeeded. -/
def execDescriptorFetch (q : Nat) (descs : List Desc) (ok : Bool) (s : State) : Res :=
  let x := getQ s q
  let n := fetchable s q
  let loc := bit (rdReg s (qPg q + 0x10)) 20
  let fail (y : State) : Res := .next (qError (setQ y q { getQ y q with xlatErr := true }) q)
  let ask : State := match queOwner s q with | some f => hostAsk s f q false | none => s
  if 4096 ≤ q ∨ x.st ≠ .enabled ∨ n = 0 ∨ !hostReach s q ∨ qResetting s q then .next s
  else if loc then
    match devDescs s q n x.sqHead with
    | (s1, some ds) => .next (setQ s1 q { x with ready := x.ready ++ ds, sqHead := (x.sqHead + n) % qSize s q })
    | (s1, none) => fail s1
  else if !ok then fail ask
  else
    let ds := descs.take n
    .next (setQ ask q { x with ready := x.ready ++ ds, sqHead := (x.sqHead + ds.length) % qSize s q })

/-! ### Queue states (R324, Table 12-5) -/

/-- A queue base lies in an E region or in the LPDDR tier. -/
def baseOk (s : State) (a : Nat) : Bool :=
  if a < 0x008000000000 then rgnClass s (a / 2 ^ 21) == 1 else rangeOf a == .lpd
/-- The configuration of a queue set is valid. -/
def qCfgOk (s : State) (q : Nat) : Bool :=
  let c := rdN s (qPg q + 0x10)
  match queOwner s q with
  | none => false
  | some f => decide (fld c 3 0 ≤ 12) && decide (fld c 7 4 ≤ 12) && decide (fld c 19 8 < (if f = 0 then 4096 else 16)) &&
      qLimit s q != 0 && (!bitN c 21 || (getFn s f).pasid) &&
      (!bitN c 20 || (baseOk s (rdPair s (qPg q)) && baseOk s (rdPair s (qPg q + 8))))
/-- EN written to a queue set. Before DEVICE_READY an enable is latched (R408). -/
def opQueueEn (s : State) (q : Nat) (on : Bool) : State :=
  let x := getQ s q
  let s1 := wrReg s (qPg q + 0x20) (w32 (b2n on))
  match x.st, on with
  | .disabled, true =>
    if !s.boot.devReady then setQ s1 q { x with st := .pendingOn }
    else if qCfgOk s q then setQ s1 q { st := .enabled } else setQ s1 q { x with cfgErr := true }
  | .draining, true => setQ s1 q { x with st := .pendingOn }
  | .pendingOn, false => setQ s1 q { x with st := if s.boot.devReady then .draining else .disabled }
  | .enabled, false | .paused, false | .error, false => setQ s1 q { x with st := .draining }
  | _, _ => s1
/-- QUEUE_ENABLE. -/
def execQueueEnable (mid q : Nat) (s : State) : Res := .next (queAccess s mid q (fun x => opQueueEn x q true))
/-- QUEUE_DISABLE. -/
def execQueueDisable (mid q : Nat) (s : State) : Res := .next (queAccess s mid q (fun x => opQueueEn x q false))
/-- Nothing more can be written to the queue: no request's entries go to it, no acknowledgement, no entry waits, no
descriptor it has read waits for acceptance. -/
def qDrained (s : State) (q : Nat) : Bool :=
  outstanding s q == 0 && s.deal.cq.all (fun o => o.q != q) && (getQ s q).ready.isEmpty
/-- QUEUE_DRAIN_COMPLETE. -/
def execQueueDrainComplete (q : Nat) (s : State) : Res :=
  let x := getQ s q
  if !qDrained s q then .next s
  else match x.st with
    | .draining => .next (setQ s q { x with st := .disabled })
    | .pendingOn => .next (if s.boot.devReady then setQ s q { st := .enabled } else s)
    | _ => .next s

/-! ### MSI-X (R328) -/

/-- The interrupt of a queue's entries. -/
def qInterrupt (s : State) (q : Nat) : State :=
  match queOwner s q with
  | none => s
  | some f => msix (setQ s q { getQ s q with unsig := 0 }) f (fld (rdN s (qPg q + 0x10)) 19 8)
/-- MSI_X_INTERRUPT: CNT entries have been written since the queue's last interrupt; a CNT of 0 acts as 1. -/
def execMsiXInterrupt (q : Nat) (s : State) : Res :=
  .next (if max 1 (fld (rdN s (qPg q + 0x18)) 7 0) ≤ (getQ s q).unsig then qInterrupt s q else s)
/-- COALESCE_TIMEOUT: TIME µs have passed since the first entry not signalled. -/
def execCoalesceTimeout (q : Nat) (s : State) : Res :=
  let t := fld (rdN s (qPg q + 0x18)) 23 8
  .next (if t ≠ 0 ∧ (getQ s q).unsig ≠ 0 ∧ (getQ s q).unsigAt + 1000 * t ≤ s.time then qInterrupt s q else s)
/-- Held interrupts of a function whose vectors are unmasked are sent, once it can send. -/
def msixFlush (s : State) (f : Nat) : State :=
  let x := getFn s f
  if !fnCanSend s f then s
  else
    let due := x.msixPend.filter (fun v => x.msixUnmasked.contains v)
    if due.isEmpty then s
    else due.foldl (fun y v => emit y (.msix f v)) (setFn s f { x with msixPend := x.msixPend.filter (fun v => !x.msixUnmasked.contains v) })
/-- A vector's mask bit written. -/
def opMask (s : State) (f v : Nat) (masked : Bool) : State :=
  let x := getFn s f
  let others := x.msixUnmasked.filter (fun u => u != v)
  if masked then setFn s f { x with msixUnmasked := others }
  else msixFlush (setFn s f { x with msixUnmasked := others ++ [v] }) f
/-- VECTOR_UNMASK. -/
def execVectorUnmask (f v : Nat) (s : State) : Res :=
  .next (if !fnThere s f ∨ (if f = 0 then 4096 else 16) ≤ v ∨ !s.host.linkUp then s else opMask s f v false)

/-! ### Function reset (R329, R330) -/

/-- The requests and sequences of a function end without an entry. -/
def fnEndAll (s : State) (f : Nat) : State :=
  s.deal.slots.foldl (fun x e =>
    let y := match e.2.req with
      | some r => if r.fn = f then bump (dropSeq (setSlot x e.1 { getSlot x e.1 with req := none }) e.1) (svc 0x5C) else x
      | none => x
    if e.2.fn = f ∧ (e.2.st = .active ∨ e.2.st = .retained) then freeSlot y e.1 else y) s
/-- The function's CACHE ways are written back and invalidated, its SCRATCH ways zeroed. -/
def fnWays (s : State) (f : Nat) : State :=
  (List.range 192).foldl (fun x i =>
    let w := getWay x (i / 48) (i % 48)
    if w.owner = f ∧ w.mode ≠ 0 then clearWay x (i / 48) (i % 48) else x) s
/-- A TDI that is locked or runs goes to ERROR (R337). -/
def tdiErr : Tdi → Tdi
  | .locked | .run => .error
  | t => t
/-- Steps 1 to 4 of R329 for one function. Its Bus Master Enable and its PASID and ATS enables clear, as the PCI Express
specification has it for a function-level reset (R315, log entry 41). -/
def fnReset1 (s : State) (f : Nat) : State :=
  let x := getFn s f
  if x.resetRun then setFn s f { x with resetPend := true }
  else
    let s1 := setFn s f { x with resetRun := true, bme := false, pasid := false, ats := false, d3hot := false, tdi := tdiErr x.tdi }
    let s2 := fnEndAll (mbFnReset s1 f) f
    let s3 := { s2 with
      deal := { s2.deal with cq := s2.deal.cq.filter (fun o => queOwner s2 o.q != some f) }
      host := { s2.host with queues := s2.host.queues.map (fun e => if queOwner s2 e.1 = some f then (e.1, { e.2 with ready := [] }) else e) } }
    fnWays s3 f
/-- VF Enable cleared: every VF is reset. -/
def vfDisable (s : State) : State :=
  if !s.host.vfEnable then s
  else ((List.range 255).map (· + 1)).foldl fnReset1 { s with host := { s.host with vfEnable := false } }
/-- A function reset; the PF's also clears VF Enable. -/
def opFnReset (s : State) (f : Nat) : State := if f = 0 then fnReset1 (vfDisable s) 0 else fnReset1 s f
/-- FUNCTION_RESET. -/
def execFunctionReset (f : Nat) (s : State) : Res := .next (if !fnThere s f then s else opFnReset s f)
/-- Step 5: the queue sets and the MSI-X table at their reset values, FN_EVT bit 3. -/
def fnResetEnd (s : State) (f : Nat) : State :=
  let x := getFn s f
  let gone (a : Nat) : Bool := match locate a with
    | .blk .que q _ => decide (x.qbase ≤ q) && decide (q < x.qbase + x.qcnt)
    | .msix g _ _ => g == f
    | _ => false
  let s1 := { s with
    regs := { s.regs with file := s.regs.file.filter (fun e => !gone e.1) }
    host := { s.host with queues := s.host.queues.filter (fun e => !(decide (x.qbase ≤ e.1) && decide (e.1 < x.qbase + x.qcnt))) } }
  let s2 := setFn s1 f { x with resetRun := false, resetPend := false, msixPend := [], msixUnmasked := [] }
  if f = 0 then s2 else fnEvent s2 f 3
/-- FUNCTION_RESET_COMPLETE: a pending further reset then runs. -/
def execFunctionResetComplete (f : Nat) (s : State) : Res :=
  let x := getFn s f
  if !x.resetRun then .next s
  else .next (if x.resetPend then fnReset1 (fnResetEnd s f) f else fnResetEnd s f)

/-! ### Queue ranges (R318) -/

/-- A write of FN_Q for a function; QCNT is held to 256 (R424). A range beyond QUE[4095] is refused (log entry 42). -/
def opFnQ (s : State) (f : Nat) (v : W32) : State :=
  let b := fld v.toNat 11 0
  let n := min 256 (fld v.toNat 20 12)
  let x := getFn s f
  let clash := n ≠ 0 ∧ (List.range 256).any (fun g => g != f && (getFn s g).qcnt != 0 &&
      decide ((getFn s g).qbase < b + n) && decide (b < (getFn s g).qbase + (getFn s g).qcnt)) = true
  let busy := (List.range x.qcnt).any (fun i => (getQ s (x.qbase + i)).st != .disabled)
  if 4096 < b + n ∨ clash ∨ busy = true ∨ tdiLocked s f = true then setFn s f { x with fnErr := true }
  else setFn s f { x with qbase := b, qcnt := n, fnErr := false }
/-- FN_Q: a PCIE page register, reachable from the PF (R338). -/
def execFnQ (mid : Nat) (v : W32) (s : State) : Res :=
  .next (pageAccess s mid .pcie (fun x =>
    if !isOn x .pcie 0 then hostRef x else opFnQ x (rdSel x (0x7000 + 0x44) mid % 256) v))

/-! ### AtomicOps, Bus Master Enable, the link -/

/-- HOST_ATOMICOP (R321, R177): FetchAdd and CAS only (Table 12-1); any other is an Unsupported Request. -/
def execHostAtomicop (f a size : Nat) (op : AtomOp) (x swap : Nat) (s : State) : Res :=
  if !s.host.linkUp ∨ !fnThere s f then .next s
  else if op ≠ .add ∧ op ≠ .cas then .next (emit (hostRef s) (.unsupported f))
  else .next (opAtomic s (.host f) op a size x swap)

/-- BUS_MASTER_ENABLE (R330): what was held proceeds. -/
def execBusMasterEnable (f : Nat) (s : State) : Res :=
  .next (if !s.host.linkUp ∨ !fnThere s f then s else msixFlush (setFn s f { getFn s f with bme := true }) f)

/-- LINK_UP (R330, Table 12-9, R24): with REFCLK absent the link does not train; else the link comes up at a speed and width of Table 12-1; FLIT mode is that of 64 GT/s. -/
def execLinkUp (speed width : Nat) (flit : Bool) (s : State) : Res :=
  if s.host.linkUp ∨ s.edge.perst ∨ !hubUp s ∨ s.clk.lost.contains .refclk ∨ !isOn s .pcie 0 ∨ !(speed = 4 ∨ speed = 5 ∨ speed = 6) ∨ flit ≠ decide (speed = 6) ∨
      [1, 2, 4, 8, 16].contains width = false then .next s
  else .next ((List.range 256).foldl msixFlush { s with host := { s.host with linkUp := true, speed := speed, width := width, flit := flit } })
/-- The link goes down: host-memory accesses and interrupts are held (R330). -/
def linkDown (s : State) : State := { s with host := { s.host with linkUp := false } }
/-- PCIE_LINK_DOWN. -/
def execPcieLinkDown (s : State) : Res := .next (linkDown s)

/-- ATS_INVALIDATION (R315): the request is performed and completed; the device keeps no translation past the access it
was made for, so there is nothing else to change. -/
def execAtsInvalidation (f : Nat) (s : State) : Res :=
  .next (if !s.host.linkUp ∨ !fnThere s f then s else emit s (.atsDone f))

/-- LANE_MARGIN_COMMAND (R419): traffic is not disturbed. What the receiver measures, and how a command outside L0 or
beyond Table 16-8 is answered, the spec does not say (a free value, log entry 3). -/
def execLaneMarginCommand (lane : Nat) (_timing : Bool) (_steps : Nat) (s : State) : Res :=
  .next (if 16 ≤ lane ∨ !s.host.linkUp then s else emit (useFree s) (.margin lane (Config.freeNat s.free 0)))

/-! ### DOE, IDE, TDISP (R335 to R337) -/

/-- DOE_DISCOVERY (R335): DOE Discovery, CMA/SPDM and Secured CMA/SPDM, by their PCI-SIG numbers (log entry 43). -/
def execDoeDiscovery (idx : Nat) (s : State) : Res :=
  if !s.host.linkUp then .next s
  else match idx with
    | 0 => .next (emit s (.doe 1 0 1))
    | 1 => .next (emit s (.doe 1 1 2))
    | 2 => .next (emit s (.doe 1 2 0))
    | _ => .next (emit s (.doe 0xFFFF 0xFF 0))

/-- IDE_KM (R336), over an open session (R335): keys for one of nine streams; a stream whose keys are programmed is set going or stopped. -/
def execIdeKm (rq : IdeReq) (s : State) : Res :=
  if !s.host.linkUp ∨ !s.sec.session then .next s
  else match rq with
    | .keyProg n => .next (if 9 ≤ n ∨ s.sec.ideKeys.contains n = true then s
        else { s with sec := { s.sec with ideKeys := s.sec.ideKeys ++ [n] } })
    | .setGo n => .next (if !s.sec.ideKeys.contains n ∨ s.sec.ideActive.contains n = true then s
        else { s with sec := { s.sec with ideActive := s.sec.ideActive ++ [n] } })
    | .setStop n => .next { s with sec := { s.sec with
        ideActive := s.sec.ideActive.filter (fun m => m != n), ideKeys := s.sec.ideKeys.filter (fun m => m != n) } }

/-- TDISP (R337), over an open session (R335): each VF is a TDI; a request that its state does not allow changes nothing. None reaches
RUN before DEVICE_READY (R417) or while debug is unlocked (R421). The state is answered. -/
def execTdisp (f : Nat) (rq : TdispReq) (s : State) : Res :=
  if !s.host.linkUp ∨ !s.sec.session ∨ f = 0 ∨ !fnThere s f then .next s
  else
    let x := getFn s f
    let t : Tdi := match rq, x.tdi with
      | .lock, .unlocked => .locked
      | .start, .locked => if s.boot.devReady && !s.sec.unlocked then .run else .locked
      | .stop, _ => .unlocked
      | _, t => t
    .next (emit (setFn s f { x with tdi := t }) (.tdi f t))

end Sys2Proof.Machine
end

