-- ==== Sys2Proof/Machine/Recovery.lean ====
section
/-!
DEFINITION. What the dealer does about a fault (R263, Table 8-17): abort and replay (R244), model faults, losses of
sequences (R170, R183, R389), forced retirement (R377), the substitution of cores (R94), clusters (R95) and units
(R153), ring work under faults (R311).
-/
namespace Sys2Proof.Machine

/-! ### Abort and replay (R244) -/

/-- A run of the trick has begun since its last start. -/
def trickBegun (s : State) (t : Trick) : Bool :=
  !t.done.isEmpty || s.clu.any (fun e => e.2.active || (e.2.ran && !e.2.aborted && e.2.trick == t.num))

/-- The dealer aborts the running trick: ABORT to its clusters (R91) and to the units that run or stand FAULTED (R137);
the aborted run's other transient faults are past. -/
def abortTrick (s : State) : State :=
  let s1 := ((s.clu.filter (fun e => e.2.active)).map (fun e => e.1)).foldl abortRun s
  let us := (s.nbu.filter (fun e => (e.2.st == .running || e.2.st == .faulted) && blkState s .nbu e.1 == .on)).map (fun e => e.1)
  let s2 := us.foldl (fun x u => unitAbort1 x u (getU x u).cmdTag) s1
  { s2 with deal := { s2.deal with reports := s2.deal.reports.filter (fun r => !(decide (16 ≤ r.code) && decide (r.code < 0x20)) && r.code != repAbort) } }

/-- The entries of `gs` set in the drop masks of the trick's runs: dropped at layer 0 (R263). The rest of a
trick-parameter block stays as it was (R244). -/
def dropAtStart (s : State) (t : Trick) (gs : List Nat) : State :=
  t.runs.foldl (fun x r =>
    match memRead x 256 true (r.tpb + 0x20) 8 .none, memRead x 256 true (r.tpb + 0x100) 128 .none with
    | (_, .ok a), (y, .ok m) =>
      let es := (sectionOf t.entries r.model).drop ((leNat a - (getM x r.model).b.tabAt) / 16)
      let add := sumN ((enumFrom 0 es).map (fun e => if gs.contains e.2.gid then 2 ^ e.1 else 0))
      if add = 0 then x else (memWrite y 256 (r.tpb + 0x100) (leBytes (Nat.lor (leNat m) add) 128)).1
    | _, _ => x) s

/-- The trick in flight starts again under its number (R244), without the entries of `gs` (R263). A trick none of whose
runs has begun is not replayed. -/
def replayTrick (s : State) (gs : List Nat) : State :=
  match s.deal.cur with
  | none => s
  | some t =>
    let s0 := { s with deal := { s.deal with cur := some { t with entries := t.entries.map (fun e => if gs.contains e.gid then { e with dropped := true } else e) } } }
    let s1 := if gs.isEmpty then s0 else dropAtStart s0 t gs
    if !trickBegun s t then s1
    else
      let s2 := abortTrick s1
      match s2.deal.cur with
      | none => s2
      | some u =>
        let s3 := bump { s2 with deal := { s2.deal with cur := some { u with replays := u.replays + 1, layers := [], copied := [], done := [] } } } (dl 0x50)
        (trickModels u.entries).foldl (fun x m => layerBegin x m 0) (clearSems s3 (trickModels u.entries))

/-- The fault code a record names: a unit's is that of Table 5-13; for a core's transient fault the spec gives none (a free
value, log entry 3). -/
def recCode (s : State) (r : Report) : State × Nat :=
  match r.blk, r.code with
  | .nbu, 16 => (s, 1) | .nbu, 20 => (s, 2) | .nbu, 19 => (s, 3) | .nbu, 18 => (s, 4) | .nbu, 21 => (s, 5)
  | _, _ => (useFree s, (Config.freeWord s.free 0).toNat)

/-! ### Model faults and lost sequences -/

/-- A model is FAULTED (R263, Table 8-20): every request of it ends FAILED (MODEL). -/
def modelFault (s : State) (m code trick : Nat) : State :=
  if (getM s m).st = 0 ∨ (getM s m).st = 2 then s
  else
    let s1 := setM s m { getM s m with st := 2, fault := code % 16, ftrick := trick % 2 ^ 32 }
    (((allReqs s1).filter (fun e => e.2.model == m)).map (fun e => e.1)).foldl (fun x g => failReq x g 1) s1
/-- A model fault to which Table 8-20 gives no code: the field is a free value (log entry 3). -/
def modelFaultFree (s : State) (m trick : Nat) : State := modelFault (useFree s) m (Config.freeNat s.free 0) trick

/-- The entries of the trick in flight that belong to models in `ms` or to sequences in `gs`. -/
def entriesOf (s : State) (ms gs : List Nat) : List Nat :=
  match s.deal.cur with
  | none => []
  | some t => ((t.entries.filter (fun e => ms.contains e.model || gs.contains e.gid)).map (fun e => e.gid)).eraseDups

/-- The model slots that run on a unit: those of its unit group with weights in its stack. -/
def modelsOfUnit (s : State) (u : Nat) : List Nat :=
  (List.range 64).filter (fun m => (getM s m).st != 0 && (getM s m).b.thin && (getM s m).b.ugrp == ugrp s u &&
    (getM s m).b.stks.contains (u / 272))

/-- The sequences with a page that `f` picks. -/
def seqsWith (s : State) (f : List Byte → Nat → Bool) : List Nat :=
  (s.deal.slots.filter (fun e => e.2.st != .free && (let c := (getM s e.2.model).ctx
    (List.range (cxLayers c)).any (fun l => match (pagesOf s (cxWalk c) e.1 l).2 with
      | none => false
      | some ps => ps.any (fun p => pLeaf p.2 && f c p.2))))).map (fun e => e.1)
/-- The sequences with a page, or a table, that holds an address (R170, R225). -/
def seqsHolding (s : State) (a : Nat) : List Nat :=
  let gs := seqsWith s (fun c e => decide (pBase e ≤ a) && decide (a < pBase e + pgBytes c e))
  gs ++ ((s.deal.slots.filter (fun e => e.2.st != .free && !gs.contains e.1 && tabsHold s (getM s e.2.model).ctx e.1 a)).map (fun e => e.1))

/-- A model has a place the dealer needs in an OFFLINE region: its context, its blocks and tables. -/
def modelOffline (s : State) (m : Nat) : Bool :=
  let b := (getM s m).b
  [rdPair s (att 0x40) + 64 * m, b.tpbAt, b.tabAt, b.cplAt, b.dirAt, b.lstAt].any (fun a =>
    decide (a < 0x008000000000) && a != 0 && rgnClass s (a / 2 ^ 21) == 3)

/-- A stack's contents are lost (R183, R389): its models and the sequences with pages there. -/
def stackGone (s : State) (stk trick : Nat) : State :=
  let ms := (List.range 64).filter (fun m => (getM s m).st != 0 && ((getM s m).b.stks.contains stk || modelOffline s m))
  let gs := (seqsWith s (fun _ e => decide (pBase e < 0x008000000000) && rgnClass s (pBase e / 2 ^ 21) == 3)).filter
    (fun g => !ms.contains (getSlot s g).model)
  let es := entriesOf s ms gs
  let s1 := ms.foldl (fun x m => modelFaultFree x m trick) s
  replayTrick (gs.foldl (fun x g => failReq x g 3) s1) es

/-- The model slots whose weights an address holds: a plane of a weight tensor that the model's parameter block names (Tables 2-3,
3-14; a side plane counted at its greatest, eight escapes to the group). -/
def modelsHolding (s : State) (a : Nat) : List Nat :=
  let within (b n : Nat) : Bool := b != 0 && decide (b ≤ a) && decide (a < b + n)
  (List.range 64).filter (fun m => (getM s m).st != 0 && (List.range 16).any (fun n =>
    let t := tdOf { tpb := (getM s m).b.tpb } n
    let g := t.rows * t.gpr
    fmtWeight t.fmt && (within t.code (g * grpBytes t.fmt) || within t.hdr (4 * g) || within t.cb (16 * g) || within t.side (16 * g))))

/-- POISON met by the device (R170, Table 8-17). -/
def poisoned (s : State) (r : Report) : State :=
  if decide (r.addr < 0x008000000000) && rgnGold s (r.addr / 2 ^ 21) then replayTrick s []
  else
    let gs := seqsHolding s r.addr
    if gs.isEmpty then
      let held := modelsHolding s r.addr
      -- a fetch of a cluster that is no tensor's is of its decks and tables
      let ms := if r.blk = .nbu then modelsOfUnit s r.inst else if held.isEmpty ∧ r.blk = .clu then [r.model] else held
      replayTrick (ms.foldl (fun x m => modelFault x m 8 r.trick) s) (entriesOf s ms [])
    else replayTrick (gs.foldl (fun x g => failReq x g 3) s) (entriesOf s [] gs)

/-! ### Cores and clusters (R94, R95) -/

/-- The journal's CORE_MAP record of a cluster (Table 15-9). -/
def recCoreMap (s : State) (c : Nat) : JRec :=
  ⟨0x01, c, (List.range 16).flatMap (fun m => leBytes (coreMapNext s c m) 4) ++
      (List.range 3).flatMap (fun m => leBytes (rdN s (pageOf .clu c + 0xA0 + 4 * m)) 4)⟩

/-- The work of logical cluster `l` goes to a cluster in service: the one that runs the least besides its own, the lowest
of those (log entry 39). With none in service it waits. -/
def hostFor (s : State) : Option Nat :=
  let load (c : Nat) : Nat := (s.deal.moved.filter (fun e => e.2.1 == c)).length
  ((List.range 68).filter (cluLive s)).foldl (fun b c =>
    match b with | none => some c | some d => if load c < load d then some c else some d) none
/-- The QS registers of logical cluster `l`, which cluster `c` ran: its registers, or, while it ran another index, those it
kept for `l`. -/
def qsOf (s : State) (c l : Nat) (h : Nat) : QsRec :=
  match spFind s.deal.qs l with
  | some q => if lclu s c = l then qsTake s c h else { q with host := h }
  | none => qsTake s c h
/-- The work of index `l`, and with it the QS registers of the cluster `c` that ran it (R115), go to a host. -/
def moveWork (s : State) (c : Option Nat) (l : Nat) : State :=
  match hostFor s with
  | some h =>
    let qs := match c with | some c => spSet s.deal.qs l (qsOf s c l h) | none => s.deal.qs
    { s with deal := { s.deal with moved := spSet s.deal.moved l (h, ownIdx s h), qs := qs } }
  | none => { s with deal := { s.deal with moved := spDel s.deal.moved l } }
/-- Cluster `c` is out of service (R95): the trick that runs on it starts again, and its logical index, with those it ran
besides, goes to other clusters. -/
def clusterOut (s : State) (c : Nat) : State :=
  let own := ownIdx s c
  let more := (s.deal.moved.filter (fun e => e.2.1 == c)).map (fun e => e.1)
  let s1 := (own :: more).foldl (fun x l => moveWork x (some c) l) (capacity s)
  { s1 with clu := spDel s1.clu c }
/-- Cluster `c` is in service again: it takes its own index back (Table 14-3). -/
def clusterBack (s : State) (c : Nat) : State :=
  let waits := s.deal.cur.map (fun t => t.runs.flatMap (fun r => r.clusters))
  let s0 := match spFind s.deal.moved (lclu s c) with | some (h, _) => qsPut s c (qsOf s h (lclu s c) c) | none => s
  let s1 := capacity { s0 with deal := { s0.deal with moved := spDel s0.deal.moved (lclu s c) } }
  -- an index that no cluster could take while none was in service
  ((waits.getD []).eraseDups).foldl (fun x l => if (logicals x).contains l then x else moveWork x none l) s1

/-- R95: the cluster is retired. -/
def retireCluster (s : State) (c : Nat) : State :=
  let l := ownIdx s c
  clusterOut (rasPut (setBlk (replayTrick s []) .clu c .retired) 0x03 3 .clu c 0 l) c

/-- R94: a free joker takes the place of logical core `q`; a joker that fails its test is retired and the next one is
tested. `tests` are the verdicts, a test not listed passes. -/
def subCore (q : Option Nat) (c : Nat) : Nat → List Bool → State → State
  | 0, _, s => s
  | n + 1, tests, s =>
    match q with
    | none => jrnPut s (recCoreMap s c)
    | some q =>
      match freeJokers s c with
      | [] => retireCluster (jrnPut s (recCoreMap s c)) c
      | j :: _ =>
        if tests.headD true then
          let s1 := stageCore s c q j
          rasPut (jrnPut s1 (recCoreMap s1 c)) 0x02 2 .clu c (nextCore s c q) j
        else subCore (some q) c n (tests.drop 1) (wrBit s (pageOf .clu c + 0xA0 + 4 * (j / 32)) (j % 32) true)
/-- R94: physical core `p` of cluster `c` is retired. -/
def retireCore (s : State) (c p : Nat) (tests : List Bool) : State :=
  if blkState s .clu c ≠ .on ∨ coreRetired s c p = true then s
  else
    let s1 := replayTrick s []
    let s2 := wrBit s1 (pageOf .clu c + 0xA0 + 4 * (p / 32)) (p % 32) true
    subCore ((List.range 64).find? (fun q => nextCore s2 c q == p)) c 68 tests s2

/-! ### Units (R153) -/

/-- R153: a joker unit takes the place of unit `u`, whose pair is (lch, pair); a joker that fails its test is retired and
the next one is tested. With none left the substitution does not complete (R374). -/
def subUnit (u lch pair : Nat) : Nat → List Bool → State → State
  | 0, _, s => s
  | n + 1, tests, s =>
    let stk := u / 272
    let e := match premapFind s stk lch pair with | some k => some k | none => freePremap s stk
    match freePair s stk, e with
    | some (jc, jp), some k =>
      let ju := 272 * stk + 8 * jc + jp
      if tests.headD true then
        let l := lunit s u
        let s1 := movePair s stk lch pair jc jp k
        let s2 := wrFld s1 (pageOf .nbu u + 0x40) 11 0 0xFFF
        let s3 := setBlk { s2 with wear := { s2.wear with unitSub := spSet s2.wear.unitSub u ju } } .nbu u .retired
        rasPut (jrnPut s3 ⟨0x02, u, leBytes ju 2 ++ leBytes l 2⟩) 0x04 2 .nbu u 0 ju
      else subUnit u lch pair n (tests.drop 1) (setBlk s .nbu ju .retired)
    | _, _ => setBlk s .nbu u .retired
/-- R153: a unit is retired. -/
def retireUnit (s : State) (u : Nat) (tests : List Bool) : State :=
  if blkState s .nbu u = .retired then s
  else match unitPair s u with
    | some (lch, pair) => subUnit u lch pair 17 tests s
    | none => setBlk s .nbu u .retired

/-! ### Forced retirement (R377) -/

/-- The element that raised a transient fault goes through the next step of its path, as though it had crossed its
threshold. -/
def forceRetire (s : State) (r : Report) (tests : List Bool) : State :=
  let s1 := match r.blk with
    | .nbu =>
      if r.code = 19 then
        let ch := 34 * (r.inst / 272) + r.inst % 272 / 8
        rowFail s (linPlace s true (rdPair s (pageOf .ch ch + 0x44))).1
      else retireUnit s r.inst tests
    | .clu => if r.elem = 64 then retireCluster s r.inst else retireCore s r.inst (physCore s r.inst r.elem) tests
    | _ => s
  let (s2, c) := recCode s1 r
  rasPut s2 0x12 3 r.blk r.inst r.elem c

/-- A transient fault (R263, R377): the trick is aborted and replayed; REPLAY_MAX runs aborted one after another force the
element's retirement, and the count starts again. -/
def transient (s : State) (r : Report) (tests : List Bool) : State :=
  match s.deal.cur with
  | none => s
  | some t =>
    if r.trick ≠ t.num then s
    else
      let (s1, c) := recCode s r
      let s2 := replayTrick (rasPut s1 0x01 1 r.blk r.inst r.elem c) []
      let n := t.aborts + 1
      let force := decide (fld (rdN s (0x4000 + 0x74)) 3 0 ≤ n)
      let s3 := { s2 with deal := { s2.deal with cur := s2.deal.cur.map (fun u => { u with aborts := if force then 0 else n }) } }
      if force then forceRetire s3 r tests else s3

/-! ### FAULT_REPORT -/

/-- The thin images with shards in a C pair that was lost are cleared (R381). -/
def pairLost (s : State) (stk lch pair : Nat) : State :=
  let u := 272 * stk + 8 * fld (remap s stk lch) 5 0 + pair
  (modelsOfUnit s u).foldl (fun x m => setM x m { getM x m with b := { (getM x m).b with thin := false } }) s

/-- A unit's detection mismatch in a region without a golden copy: the sequences with pages in the region fail (Table 6-10). -/
def ccodeLost (s : State) (a : Nat) : State :=
  if rgnGold s (a / 2 ^ 21) then s
  else
    let lo := a / 2 ^ 21 * 2 ^ 21
    (seqsWith s (fun c e => decide (pBase e < lo + 2 ^ 21) && decide (lo < pBase e + pgBytes c e))).foldl (fun x g => failReq x g 3) s

/-- One report acted on. -/
def actOn (s : State) (r : Report) (tests : List Bool) : State :=
  let ms := if r.blk = .nbu then modelsOfUnit s r.inst else [r.model]
  match r.code with
  | 0x20 => stackGone s r.inst s.deal.trick
  | 0x21 => pairLost s r.inst (r.elem / 8) (r.elem % 8)
  | 0x22 => replayTrick s []
  | 0x23 => retireCore s r.inst r.elem tests
  | 0x24 => retireCluster s r.inst
  | 0x25 => retireUnit s r.inst tests
  | 0x26 =>
    let ring := match s.deal.cur with | some t => (t.entries.filter (fun e => cxRing (getM s e.model).ctx)).map (fun e => e.gid) | none => []
    if ring.isEmpty then s else replayTrick s ring
  | 0x27 =>
    let rm := match s.deal.cur with | some t => ((t.entries.map (fun e => e.model)).eraseDups).filter (fun m => cxRing (getM s m).ctx) | none => []
    replayTrick (rm.foldl (fun x m => modelFaultFree x m s.deal.trick) s) (entriesOf s rm [])
  | 0x28 =>
    let gm := modelsOfUnit s ((fun p => 272 * plStk p + 8 * plCh p + plPair p) (linPlace s true r.addr).1)
    replayTrick (gm.foldl (fun x m => modelFaultFree x m s.deal.trick) s) (entriesOf s gm [])
  | 0x29 => failReq s r.addr 2
  | 0x2A => dropSeq s r.addr
  | 0x2B => replayTrick (failReq s r.addr 3) [r.addr]
  | 8 => poisoned s r
  | c =>
    if 16 ≤ c then transient (if r.blk = .nbu ∧ c = 19 then ccodeLost s r.addr else s) r tests
    else replayTrick (ms.foldl (fun x m => modelFault x m c r.trick) s) (entriesOf s ms [])

/-- FAULT_REPORT (R263): the dealer acts on the oldest fault reported to it. `tests` are the verdicts of the jokers'
self-tests. -/
def execFaultReport (tests : List Bool) (s : State) : Res :=
  match s.deal.reports with
  | [] => .next s
  | r :: t =>
    if !s.deal.running then .next s
    else .next (actOn { s with deal := { s.deal with reports := t } } r tests)

end Sys2Proof.Machine
end

