-- ==== Sys2Proof/Machine/Power.lean ====
section
/-!
DEFINITION. Power domains and clocks (chapter 14), with BLK_CTL (R343): starts and stops of domains (R360 to R365), soft
resets, clock gates (R357, R358), lost clocks (R359), the sensors' readings (R369, R370, R428).
-/
namespace Sys2Proof.Machine

/-! ### Reaching a page (R344, R350, Table 13-5) -/

/-- A master's access to the header of a page. -/
def hdrReach (s : State) (mid : Nat) (b : Blk) (i : Nat) : Reach :=
  if Blk.count b ≤ i ∨ !blkHeader b ∨ !hubUp s then .no
  else if b = .mbx then (if mbRefused s mid i then .no else .yes)
  else pgReach s mid b
/-- A header access carried out when it may be; a mailbox page counts a refusal in MB_DENY (R332). -/
def hdrAccess (s : State) (mid : Nat) (b : Blk) (i : Nat) (f : State → State) : State :=
  match hdrReach s mid b i with
  | .yes => f s
  | .refused => hostRef s
  | .no => if b = .mbx ∧ i < 319 ∧ hubUp s = true then mbDeny s i else s

/-! ### Domains (Table 14-4) -/

/-- The domain of a block with an enable. -/
def domOf : Blk → Nat → Option Nat
  | .clu, i => some i
  | .llc, i => some (68 + i)
  | .stk, i => some (72 + i)
  | .opt, i => some (80 + i / 2)
  | .lpd, i => some (88 + i)
  | .pcie, _ => some 94
  | .sec, _ | .jrn, _ => some 95
  | _, _ => none
/-- The member blocks with an enable. -/
def domMembers (d : Nat) : List (Blk × Nat) :=
  if d < 68 then [(.clu, d)] else if d < 72 then [(.llc, d - 68)] else if d < 80 then [(.stk, d - 72)]
  else if d < 88 then [(.opt, 2 * (d - 80)), (.opt, 2 * (d - 80) + 1)] else if d < 92 then [(.lpd, d - 88)]
  else if d = 94 then [(.pcie, 0)] else if d = 95 then [(.sec, 0), (.jrn, 0)] else []
/-- The compute die of a domain (R363). -/
def domDie (d : Nat) : Option Nat :=
  if d < 68 then some (d / 34) else if d < 72 then some ((d - 68) / 2) else if d < 80 then some ((d - 72) / 4)
  else if d < 88 then some ((d - 80) / 4) else none
/-- PWR_ON of a domain. -/
def isPwr (s : State) (d : Nat) : Bool := bit (rdReg s (0x2000 + 0x40 + 4 * (d / 32))) (d % 32)
/-- A domain's switch opens; the bridge domain of its die follows when it was the last (R363). -/
def pwrOff (s : State) (d : Nat) : State :=
  let s1 := pwrOn s d false
  match domDie d with
  | some k => if (List.range 88).any (fun e => domDie e == some k && isPwr s1 e) then s1 else pwrOn s1 (92 + k) false
  | none => s1
/-- A domain's switch closes, the bridge domain of its die before it. -/
def pwrUp (s : State) (d : Nat) : State :=
  match domDie d with
  | some k => pwrOn (pwrOn s (92 + k) true) d true
  | none => pwrOn s d true

/-- EN of a page. -/
def enBit (s : State) (b : Blk) (i : Nat) : Bool := bit (rdReg s (pageOf b i + 0x0C)) 0
def setEn (s : State) (b : Blk) (i : Nat) (on : Bool) : State := wrBit s (pageOf b i + 0x0C) 0 on

/-! ### The gating tree (R357, R358) -/

/-- The nodes on the way to a block, root first (Table 14-2). -/
def nodePath : Blk → Nat → List Nat
  | .clu, c => [dieOf c, 0x10 + c]
  | .llc, k => [0x60 + k / 2, 0x64 + k]
  | .stk, k => [0x70 + k, 0x78 + k]
  | .lpd, k => [0x80, 0x84 + k]
  | .opt, n => [0x90 + n]
  | _, _ => []
/-- The leaves a stop gates, in order. -/
def leaves : Blk → Nat → List Nat
  | .stk, k => [0x78 + k, 0x70 + k]
  | b, i => (nodePath b i).drop ((nodePath b i).length - 1)
def gated (s : State) (n : Nat) : Bool := bit (rdReg s (0x1000 + 0x60 + 4 * (n / 32))) (n % 32)
def setGate (s : State) (n : Nat) (on : Bool) : State := wrBit s (0x1000 + 0x60 + 4 * (n / 32)) (n % 32) on
/-- A node number exists. -/
def nodeOk (n : Nat) : Bool :=
  decide (n < 2) || (decide (0x10 ≤ n) && decide (n < 0x54)) || n == 0x60 || n == 0x61 || (decide (0x64 ≤ n) && decide (n < 0x68)) ||
    (decide (0x70 ≤ n) && decide (n < 0x81)) || (decide (0x84 ≤ n) && decide (n < 0x88)) || (decide (0x90 ≤ n) && decide (n < 0xA0))
/-- A node's children. -/
def children (n : Nat) : List Nat :=
  if n < 2 then (List.range 34).map (fun i => 0x10 + 34 * n + i)
  else if n = 0x60 then [0x64, 0x65] else if n = 0x61 then [0x66, 0x67]
  else if 0x70 ≤ n ∧ n < 0x78 then [n + 8] else if n = 0x80 then [0x84, 0x85, 0x86, 0x87] else []
/-- The block a node clocks directly. -/
def clocks (n : Nat) : Option (Blk × Nat) :=
  if 0x10 ≤ n ∧ n < 0x54 then some (.clu, n - 0x10) else if 0x64 ≤ n ∧ n < 0x68 then some (.llc, n - 0x64)
  else if 0x70 ≤ n ∧ n < 0x78 then some (.stk, n - 0x70) else if 0x78 ≤ n ∧ n < 0x80 then some (.stk, n - 0x78)
  else if 0x84 ≤ n ∧ n < 0x88 then some (.lpd, n - 0x84) else if 0x90 ≤ n ∧ n < 0xA0 then some (.opt, n - 0x90) else none
/-- STARTING, ON or STOPPING. -/
def live : BState → Bool
  | .starting | .on | .stopping => true
  | _ => false
def nodeUsed (s : State) (n : Nat) : Bool :=
  (children n).any (fun c => !gated s c) || (match clocks n with | some (b, i) => live (blkState s b i) | none => false)
/-- CLK_GATE_STS after a command. -/
def gateSts (s : State) (n code : Nat) : State := wrReg s (0x1000 + 0x54) (w32 (2 * code + 256 * (n % 256)))
/-- A gate or ungate request. -/
def opGate (s : State) (n : Nat) (gate : Bool) : State :=
  if !nodeOk n then gateSts s n 2
  else if gate ∧ nodeUsed s n then gateSts s n 1
  else gateSts (setGate s n gate) n 0
/-- CLOCK_GATE. -/
def execClockGate (mid node : Nat) (s : State) : Res :=
  .next (pageAccess s mid .clk (fun x => opGate x (node % 256) true))
/-- CLOCK_UNGATE. -/
def execClockUngate (mid node : Nat) (s : State) : Res :=
  .next (pageAccess s mid .clk (fun x => opGate x (node % 256) false))

/-! ### BUSY, block contents, starts -/

/-- BLK_STS.BUSY: the block has accepted work that is not finished. -/
def blkBusy (s : State) (b : Blk) (i : Nat) : Bool :=
  match b with
  | .clu => (getC s i).active || !(getC s i).held.isEmpty
  | .nbu => !((getU s i).st == .idle || (getU s i).st == .faulted)
  | .stk => (spFind s.mem.retags i).isSome || (spFind s.wear.mig i).isSome
  | .llc => (List.range 48).any (fun w => (getWay s i w).pend.isSome) || !s.mem.inv.isEmpty
  | .opt => !(getE s i).replay.isEmpty || !(getE s i).rxq.isEmpty
  | .fab => !s.fab.outq.isEmpty || !s.fab.reqs.isEmpty
  | .jrn => !s.jrn.queue.isEmpty || s.jrn.compaction.isSome || s.jrn.erasing
  | .sec => s.sec.burn.isSome || s.sec.flashOp.isSome
  | .deal => s.deal.cur.isSome
  | _ => false

/-- An optical pair has an engine whose sensor reads `t` or more (R428). -/
def pairHot (s : State) (j t : Nat) : Bool := decide (t ≤ s.thr.opt.getD (2 * j) 0) || decide (t ≤ s.thr.opt.getD (2 * j + 1) 0)

/-- A start (R343, R361): held while the domain stops on another member's account (R363) or while the pair is hot
(R428); else the clock path is ungated, bridge and switch are on, and the block is STARTING. -/
def startBlk (s : State) (b : Blk) (i : Nat) : State :=
  match domOf b i with
  | none => s
  | some d =>
    if d < 94 ∧ s.edge.power ≠ .up then s
    else if (domMembers d).any (fun m => blkState s m.1 m.2 == .stopping) || (b == .opt && pairHot s (i / 2) 75) then setBlk s b i .pendingOn
    else setBlk (pwrUp ((nodePath b i).foldl (fun x n => setGate x n false) s) d) b i .starting

/-- A stop begins (R361 step 1): the slice writes its lines back. -/
def stopBlk (s : State) (b : Blk) (i : Nat) : State :=
  let s1 := setBlk (capacity s) b i .stopping
  if b = .llc then flushLines s1 (fun l => l.way / 64 == i) else s1

/-- The registers of a block that keep their values while it is off (R361); a stack's remapping and its banks' spares are
repairs, which stand (R379, R384). -/
def keptReg (b : Blk) (off : Nat) : Bool :=
  match b with
  | .clu => off == 0x40 || (decide (0x60 ≤ off) && decide (off ≤ 0xA8)) || off == 0x4C || off == 0x204 || off == 0x208
  | .opt => off == 0x44
  | .stk => decide (0x80 ≤ off) && decide (off < 0x150)
  | .ch => decide (0x118 ≤ off) && decide (off < 0x128)
  | _ => false
/-- An address is a block-specific register of the block, or of a page of its stack. -/
def ofBlock (b : Blk) (i a : Nat) : Option (Blk × Nat) :=
  match locate a with
  | .blk c j off =>
    if off < 0x40 ∧ blkHeader c then none
    else if c = b ∧ j = i then some (c, off)
    else if b = .stk ∧ ((c = .ch ∧ j / 34 = i) ∨ (c = .nbu ∧ j / 272 = i)) then some (c, off) else none
  | _ => none
/-- Block-specific registers back at their reset values, but those kept (R344, R361). -/
def resetRegs (s : State) (b : Blk) (i : Nat) : State :=
  let drop (a : Nat) : Bool := match ofBlock b i a with | some (c, off) => !keptReg c off | none => false
  { s with regs := { s.regs with
      file := s.regs.file.filter (fun e => !drop e.1)
      sel := s.regs.sel.filter (fun e => !(ofBlock b i (e.1 / 512)).isSome) } }
/-- A soft reset's part in the registers (R343): status, event and counter fields of types RO, RC and W1C clear. -/
def softRegs (s : State) (b : Blk) (i : Nat) : State :=
  let drop (a : Nat) : Bool := match locate a with
    | .blk c j off => decide (c = b) && j == i && (match regRow c off with
        | some r => r.acc == .ro || r.acc == .rc || r.acc == .w1c
        | none => false)
    | _ => false
  { s with regs := { s.regs with file := s.regs.file.filter (fun e => !drop e.1) } }

/-! ### Bring-up of stacks and links (R390, R418) -/

/-- A margin that passes its limit: what is measured the spec does not give (a free value, log entry 3). -/
def freeMargin (k lim : Nat) : Nat := max lim (Config.freeNat k 0 % 256)
/-- A fresh record of a channel in one class, with its margins in CH_MARGIN. -/
def trainFresh (s : State) (c temp : Nat) (low : Bool) : State :=
  let lim := rdN s (0x4000 + 0x07C)
  let t := freeMargin s.free (fld lim 7 0)
  let v := freeMargin (s.free + 1) (fld lim 23 16)
  let s1 := wrReg (useFree (useFree s)) (pageOf .ch c + 0x108) (w32 (t + 65536 * v))
  trainPut s1 c { temp := temp, low := low, timing := t, voltage := v, valid := true, used := s.time }
/-- A field of MARG_SUM gains 1, as far as it holds. -/
def margSum (s : State) (hi lo : Nat) : State :=
  let v := fld (rdN s (0x6000 + 0xB0)) hi lo
  wrFld s (0x6000 + 0xB0) hi lo (min (v + 1) (2 ^ (hi + 1 - lo) - 1))
/-- A channel that fails its margins at bring-up (Table 16-7). -/
def chBad (s : State) (stk ch : Nat) (boot : Bool) : State :=
  let c := 34 * stk + ch
  if !isOn s .stk stk ∧ blkState s .stk stk ≠ .starting then s
  else match logicalOf s stk ch with
    | none =>
      let e := if fld (remap s stk 32) 5 0 = ch then 32 else 33
      let s1 := wrBit s (pageOf .stk stk + 0x80 + 4 * e) 13 true
      jrnRemap { s1 with wear := { s1.wear with chRetired := s1.wear.chRetired ++ [c] } } stk
    | some n =>
      match usableJokers s stk with
      | [] => retireStack s stk
      | j :: _ =>
        let e := if fld (remap s stk 32) 5 0 = j then 32 else 33
        let s1 := wrReg s (pageOf .stk stk + 0x80 + 4 * n) (w32 j)
        let s2 := wrReg s1 (pageOf .stk stk + 0x80 + 4 * e) (w32 (ch + 2 ^ 13))
        let s3 := jrnRemap { s2 with wear := { s2.wear with chRetired := s2.wear.chRetired ++ [c] } } stk
        if boot then margSum s3 7 0 else s3
/-- The LUNIT of a unit by the remapping in force (R123, R129, R153). -/
def lunitOf (s : State) (u : Nat) : Nat :=
  let stk := u / 272
  match lentTo s stk (u % 272 / 8) (u % 8), logicalOf s stk (u % 272 / 8) with
  | some (l, p), _ => 256 * stk + 8 * l + p
  | none, some l => if (premapFind s stk l (u % 8)).isSome ∨ spFind s.blk.st (pageOf .nbu u) = some .retired then 0xFFF
      else 256 * stk + 8 * l + u % 8
  | none, none => 0xFFF
/-- A stack's bring-up: every channel trained in both classes at the temperature found, those that fail remapped, the
units' LUNITs as the remapping has them. -/
def stackInit (s : State) (stk : Nat) (br : Bring) (boot : Bool) : State :=
  let s0 := { s with
    mem := { s.mem with temps := spSet s.mem.temps stk [br.temp] }
    wear := { s.wear with retrain := s.wear.retrain.filter (fun c => c / 34 != stk) } }
  let bad := (List.range 34).filter (fun ch => br.badCh.contains (34 * stk + ch) && !s.wear.chRetired.contains (34 * stk + ch))
  let good := (List.range 34).filter (fun ch => !bad.contains ch && !s.wear.chRetired.contains (34 * stk + ch))
  let s1 := good.foldl (fun x ch => trainFresh (trainFresh x (34 * stk + ch) br.temp false) (34 * stk + ch) br.temp true) s0
  let jk := bad.filter (fun ch => (logicalOf s stk ch).isNone)
  let s2 := (jk ++ bad.filter (fun ch => !jk.contains ch)).foldl (fun x ch => chBad x stk ch boot) s1
  (List.range 272).foldl (fun x i => wrFld x (pageOf .nbu (272 * stk + i) + 0x40) 11 0 (lunitOf x (272 * stk + i))) s2
/-- An engine's bring-up (Table 16-7): a receive lane that fails takes the joker lane, a second one retires the engine. -/
def engInit (s : State) (n : Nat) (br : Bring) (boot : Bool) : State :=
  ((List.range 9).filter (fun k => br.badOpt.contains (9 * n + k))).foldl (fun x k =>
    if (getE x n).st = .retired then x
    else if jokerFree x n false then (if boot then margSum (laneMove x n false k) 15 8 else laneMove x n false k)
    else (if boot then margSum (engRetire x n) 23 20 else engRetire x n)) (engStart s n)
/-- RAS_STS.DEGRADED once a stack is ON again (R183, R389). -/
def degradedNow (s : State) : State :=
  { s with ras := { s.ras with degraded := !s.ras.stacksRetired.isEmpty || (List.range 8).any (fun k => blkState s .stk k == .failed) } }

/-- A block that was starting is ON. -/
def onNow (s : State) (b : Blk) (i : Nat) : State := if blkState s b i = .starting then setBlk s b i .on else s
/-- What a block's start does to its contents and its neighbours. -/
def startBody (s : State) (b : Blk) (i : Nat) (br : Bring) (boot : Bool) : State :=
  match b with
  | .clu => clusterBack (onNow (setC s i {}) b i) i
  | .llc => capacity (onNow ((List.range 48).foldl (fun x w => if (getWay x i w).mode = 2 then zeroWay x i w else x) s) b i)
  | .stk => degradedNow (capacity (onNow (stackInit s i br boot) b i))
  | .lpd =>
    if br.badLpd.any (fun c => c / 4 == i) then
      let y := pwrOff (setBlk s .lpd i .failed) (88 + i)
      if boot then (br.badLpd.filter (fun c => c / 4 == i)).foldl (fun x _ => margSum x 19 16) y else y
    else onNow s b i
  | .opt => capacity (onNow (engInit s i br boot) b i)
  | _ => onNow s b i
/-- A block's start finishes (R361 steps 4 and 5). -/
def finishStart (s : State) (b : Blk) (i : Nat) (br : Bring) (boot : Bool) : State :=
  let pg := pageOf b i
  let s1 := if s.blk.cycle.contains pg then s else resetRegs s b i
  let s2 := startBody { s1 with blk := { s.blk with cycle := s.blk.cycle.filter (fun p => p != pg) } } b i br boot
  if s2.blk.stopNext.contains pg then
    let s3 := { s2 with blk := { s2.blk with stopNext := s2.blk.stopNext.filter (fun p => p != pg) } }
    if blkState s3 b i = .on then stopBlk s3 b i else s3
  else s2
/-- A block's start fails. -/
def failStart (s : State) (b : Blk) (i : Nat) : State :=
  let pg := pageOf b i
  setBlk { s with blk := { s.blk with stopNext := s.blk.stopNext.filter (fun p => p != pg), cycle := s.blk.cycle.filter (fun p => p != pg) } } b i .failed
/-- A domain's switch opens unless a member still needs it. -/
def openIfIdle (s : State) (d : Nat) : State :=
  if (domMembers d).any (fun m => live (blkState s m.1 m.2)) then s else pwrOff s d

/-- The members STARTING of a domain finish. -/
def domainStarted (s : State) (d : Nat) (ok : Bool) (br : Bring) (boot : Bool) : State :=
  let ms := (domMembers d).filter (fun m => blkState s m.1 m.2 == .starting)
  if ms.isEmpty then s
  else if ok ∧ !br.badDom.contains d then ms.foldl (fun x m => finishStart x m.1 m.2 br boot) s
  else openIfIdle (capacity (ms.foldl (fun x m => failStart x m.1 m.2) s)) d
/-- DOMAIN_START_DONE (R361). -/
def execDomainStartDone (d : Nat) (ok : Bool) (br : Bring) (s : State) : Res := .next (domainStarted s d ok br false)

/-! ### Stops -/

/-- What a block loses when its stop is done (Table 14-4). -/
def drainBlk (s : State) (b : Blk) (i : Nat) : State :=
  match b with
  | .clu => clusterOut s i
  | .stk => forgetStack s i
  | .opt => engStop s i
  | .pcie => linkDown s
  | .jrn => jrnFlush (s.jrn.queue.length + 2) s
  | _ => s
/-- DOMAIN_STOP_DONE (R361): once no member that stops is BUSY, the drains are done, the leaves gated, the members OFF and
the switch open unless another member is ON; latched starts follow. The journal writes its queue out first. -/
def execDomainStopDone (d : Nat) (s : State) : Res :=
  let ms := (domMembers d).filter (fun m => blkState s m.1 m.2 == .stopping || (blkState s m.1 m.2 == .pendingOn && isPwr s d))
  if ms.isEmpty ∨ ms.any (fun m => blkBusy s m.1 m.2 && m.1 != .jrn) = true then .next s
  else
    let again (m : Blk × Nat) : Bool := blkState s m.1 m.2 == .pendingOn || s.blk.cycle.contains (pageOf m.1 m.2)
    let s1 := ms.foldl (fun x m =>
      let y := (leaves m.1 m.2).foldl (fun z n => setGate z n true) (drainBlk x m.1 m.2)
      let pg := pageOf m.1 m.2
      setBlk { y with blk := { y.blk with srst := y.blk.srst.filter (fun p => p != pg) } } m.1 m.2 .off) s
    .next ((ms.filter again).foldl (fun x m => startBlk x m.1 m.2) (openIfIdle s1 d))

/-! ### BLK_CTL (R343, R362, Table 13-3) -/

/-- PWR_REFUSE. -/
def pwrRefuse (s : State) (d cause : Nat) (start : Bool) : State := wrReg s (0x2000 + 0x70) (w32 (d + 2 ^ 8 * cause + 2 ^ 12 * b2n start))
/-- Why a stop is refused (Table 14-7). -/
def stopRefused (s : State) (mid : Nat) (b : Blk) (i : Nat) : Option Nat :=
  match b with
  | .stk =>
    let regs := s.mem.rgn.any (fun e => fld e.2.toNat 1 0 != 3 && (e.1 / 2 ^ 15 == i ||
        (fld e.2.toNat 1 0 == 1 && (let md := fld e.2.toNat 3 2
          md == 1 || (md == 0 && e.1 / 2 ^ 17 == i / 4) || (md == 2 && e.1 / 2 ^ 16 == i / 2))))) || s.mem.bootE.contains (i / 4)
    if regs then some 1 else if (spFind s.wear.mig i).isSome then some 2 else none
  | .llc => if (List.range 48).any (fun w => (getWay s i w).mode == 2) then some 3 else none
  | .pcie | .sec | .jrn => if midOf mid = 0x102 then none else some 4
  | _ => none

/-- A start written to a FAILED stack waits for its hottest die to read below 95 °C (R183). -/
def tooHot (s : State) (b : Blk) (i : Nat) : Bool := b == .stk && blkState s b i == .failed && decide (95 ≤ stkTemp s i)
/-- EN written 1. -/
def opEnOn (s : State) (mid : Nat) (b : Blk) (i : Nat) : State :=
  match domOf b i with
  | none => s
  | some d =>
    if 94 ≤ d ∧ midOf mid ≠ 0x102 then pwrRefuse s d 4 true
    else match blkState s b i with
      | .off | .failed => if tooHot s b i then s else startBlk (setEn s b i true) b i
      | .stopping => setBlk (setEn s b i true) b i .pendingOn
      | _ => s
/-- EN written 0. -/
def opEnOff (s : State) (mid : Nat) (b : Blk) (i : Nat) : State :=
  match domOf b i with
  | none => s
  | some d =>
    match stopRefused s mid b i with
    | some c => if blkState s b i = .retired then s else pwrRefuse s d c false
    | none =>
      let pg := pageOf b i
      let s1 := setEn s b i false
      match blkState s b i with
      | .off => s1
      | .starting => { s1 with blk := { s1.blk with stopNext := s1.blk.stopNext.filter (fun p => p != pg) ++ [pg] } }
      | .on => stopBlk s1 b i
      | .pendingOn => setBlk s1 b i (if isPwr s d then .stopping else .off)
      | .failed => setBlk s1 b i .off
      | .stopping => { s1 with blk := { s1.blk with cycle := s1.blk.cycle.filter (fun p => p != pg) } }
      | .retired => s
/-- SRST written 1: held while the block is BUSY. -/
def opSrst (s : State) (b : Blk) (i : Nat) : State :=
  let pg := pageOf b i
  if !blkSrst b ∨ !isOn s b i ∨ s.blk.srst.contains pg then s
  else wrBit { s with blk := { s.blk with srst := s.blk.srst ++ [pg] } } (pg + 0x0C) 1 true
/-- The security engine firmware also starts and stops PCIE (R362). -/
def enAccess (s : State) (mid : Nat) (b : Blk) (i : Nat) (f : State → State) : State :=
  if midOf mid = 0x102 ∧ b = .pcie ∧ i = 0 ∧ hubUp s = true then f s else hdrAccess s mid b i f
/-- BLK_CTL_EN_ON. -/
def execBlkCtlEnOn (mid : Nat) (b : Blk) (i : Nat) (s : State) : Res := .next (enAccess s mid b i (fun x => opEnOn x mid b i))
/-- BLK_CTL_EN_OFF. -/
def execBlkCtlEnOff (mid : Nat) (b : Blk) (i : Nat) (s : State) : Res := .next (enAccess s mid b i (fun x => opEnOff x mid b i))
/-- SRST. -/
def execSrst (mid : Nat) (b : Blk) (i : Nat) (s : State) : Res := .next (hdrAccess s mid b i (fun x => opSrst x b i))

/-- What a soft reset in place clears besides the registers: a unit as CLEAR does, keeping its micro-program store and
its command parameters; the fabric's requests and reductions; a mailbox's lock and message. -/
def softBlock (s : State) (b : Blk) (i : Nat) : State :=
  match b with
  | .nbu => setU s i { store := (getU s i).store, staged := (getU s i).staged }
  | .fab => { s with fab := { eng := s.fab.eng } }
  | .mbx => mbSoftReset s i
  | _ => s
/-- SOFT_RESET_DONE (R343): a held soft reset runs once the block is not BUSY: in place for NBU and unswitched pages,
else the block stops and starts again. -/
def execSoftResetDone (b : Blk) (i : Nat) (s : State) : Res :=
  let pg := pageOf b i
  if !s.blk.srst.contains pg ∨ blkBusy s b i ∨ !isOn s b i then .next s
  else
    let s1 := wrBit { s with blk := { s.blk with srst := s.blk.srst.filter (fun p => p != pg) } } (pg + 0x0C) 1 false
    if b = .nbu ∨ !blkPwr b then .next (softBlock (softRegs s1 b i) b i)
    else
      let s2 := softRegs s1 b i
      .next (stopBlk { s2 with blk := { s2.blk with cycle := s2.blk.cycle ++ [pg] } } b i)

/-! ### Domain faults (R365) -/

/-- A member of a domain whose switch has opened (R364, R365): FAILED, unless it is RETIRED. -/
def faultMember (s : State) (b : Blk) (i : Nat) : State :=
  let s0 := if blkState s b i = .retired then s else failStart s b i
  match b with
  | .clu => clusterOut s0 i
  | .stk => stackLost s0 i
  | .llc =>
    let sc := (List.range 48).filter (fun w => (getWay s0 i w).mode == 2)
    let s1 := sc.foldl (fun x w => zeroWay (rasPut x 0x10 4 .llc i w (getWay x i w).owner) i w) s0
    capacity (dropLines s1 (fun l => l.way / 64 == i))
  | .opt => capacity (engStop s0 i)
  | .pcie => linkDown s0
  | _ => s0
/-- DOMAIN_FAULT: a domain whose switch is closed opens; the dealer aborts the running trick. -/
def execDomainFault (d : Nat) (s : State) : Res :=
  if 96 ≤ d ∨ !isPwr s d then .next s
  else
    let s1 := bump (orReg (replayTrick s []) (0x2000 + 0x60 + 4 * (d / 32)) (w32 (2 ^ (d % 32)))) (0x2000 + 0x80)
    .next ((domMembers d).foldl (fun x m => faultMember x m.1 m.2) (pwrOff s1 d))

/-! ### Lost clocks (R359, Table 14-3) -/

/-- The bit of a source in CLK_LOSS_PLL or, for a reference, in CLK_LOSS_REF. -/
def lossBit : ClkSrc → Option (Bool × Nat)
  | .crystal => some (true, 0) | .refclk => some (true, 1) | .fref => some (true, 2)
  | .cclk d => if d < 2 then some (false, d) else none
  | .nclk d => if d < 3 then some (false, 2 + d) else none
  | .hclk => some (false, 5)
  | .bclk k => if k < 8 then some (false, 6 + k) else none
  | .mclk k => if k < 8 then some (false, 14 + k) else none
  | .lclk => some (false, 22)
  | .sclk => some (false, 23)
  | .oclk _ => none
/-- The source exists. -/
def srcOk : ClkSrc → Bool
  | .oclk n => decide (n < 16)
  | c => (lossBit c).isSome
/-- The loss's sticky bit and its management event. -/
def noteLoss (s : State) (c : ClkSrc) : State :=
  match lossBit c with
  | some (r, i) => mgmt (orReg s (0x1000 + (if r then 0x4C else 0x48)) (w32 (2 ^ i))) (.clockLoss r i)
  | none => s
/-- The clusters of a die leave service; the trick that runs on them starts again. -/
def dieOut (s : State) (d : Nat) : State :=
  let cs := (List.range 34).map (fun i => 34 * d + i)
  (cs.filter (fun c => isOn s .clu c)).foldl clusterOut (replayTrick s [])
/-- The clusters of a die, reset, return to service. -/
def dieBack (s : State) (d : Nat) : State :=
  ((List.range 34).map (fun i => 34 * d + i)).foldl (fun x c => if cluLive x c then clusterBack (setC x c {}) c else x) (capacity s)
/-- The engines whose line clock is gone are dark; those whose clock is back train. -/
def engClocks (s : State) : State :=
  (List.range 16).foldl (fun x n =>
    if !isOn x .opt n ∨ (getE x n).st = .retired then x
    else if engClkLost x n then engLeave x n .dark
    else if (getE x n).st = .dark ∧ !(getE x n).noLight then engLeave x n .training else x) s
/-- What a lost clock does. -/
def clockOut (s : State) (c : ClkSrc) : State :=
  match c with
  | .crystal => linkDown (engClocks { s with deal := { s.deal with running := false }, boot := { s.boot with running := false } })
  | .refclk => linkDown s
  | .fref | .oclk _ => engClocks s
  | .cclk d => dieOut s d
  | .nclk d => if d < 2 then fabChanged { s with clk := { s.clk with lost := s.clk.lost.filter (fun x => x != c) } } (engClocks (dieOut s d)) else s
  | .bclk k | .mclk k => if isOn s .stk k then capacity (stackLost s k) else s
  | .lclk => { s with mem := { s.mem with lpd := [], lines := s.mem.lines.filter (fun l => rangeOf l.addr != .lpd) } }
  | .hclk | .sclk => s
/-- CLOCK_LOSS. The detectors of an unpowered hub see nothing until hub power-good (R19). -/
def execClockLoss (src : ClkSrc) (s : State) : Res :=
  if !srcOk src ∨ s.clk.lost.contains src then .next s
  else if !hubPowered s then .next { s with clk := { s.clk with lost := s.clk.lost ++ [src] } }
  else .next (clockOut (noteLoss { s with clk := { s.clk with lost := s.clk.lost ++ [src] } } src) src)
/-- What the return of a clock other than the crystal does. -/
def clockBack (s : State) (c : ClkSrc) (br : Bring) : State :=
  match c with
  | .cclk d => dieBack s d
  | .nclk d => if d < 2 then engClocks (dieBack s d) else s
  | .fref | .oclk _ => engClocks s
  | .bclk k | .mclk k => if isOn s .stk k && !stkClkLost s k then capacity (stackInit s k br false) else s
  | _ => s

/-! ### Sensors (R369, R370, R428) -/

/-- The rails removed before the hub's, in the order of R22: the compute dies and optics, then the LPDDR5X and stack rails in
the reverse of their power-up order. -/
def dieRails : List Rail :=
  [.optics, .compute1, .compute0, .lpVddq, .lpVdd2l, .lpVdd2h, .lpVdd1, .baseDie, .stackVddq, .stackVdd, .stackVpp]
/-- The hub's rails in the order they are removed. -/
def hubRails : List Rail := [.hub3v3, .hub1v8, .hub1v2, .hubCore]
/-- The first part of a power-down (R22): FAULT_N, the modulators, and the rails of the dies. -/
def railsRemoved (s : State) : State :=
  dieRails.foldl (fun x r => emit x (.rail r false)) (emit (emit s (.faultPin true)) .modulatorsDark)
/-- The engines whose laser input is lost: what is remembered of them when the rest is gone. -/
def darkEngines (s : State) : Sparse Engine :=
  (s.fab.eng.filter (fun e => e.2.noLight)).map (fun e => (e.1, { noLight := true }))
/-- The rails of compute dies, optics, stacks and LPDDR5X are removed: every domain from 0 to 93 is off and nothing they
held remains. -/
def railsOff (before : State) : State :=
  let s := railsRemoved before
  let s1 := (List.range 92).foldl (fun x d => (domMembers d).foldl (fun y m =>
    if blkState y m.1 m.2 = .retired ∨ blkState y m.1 m.2 = .off then y else setBlk y m.1 m.2 .off) x) s
  let s2 := (List.range 94).foldl (fun x d => pwrOn x d false) s1
  { s2 with
    clu := [], sync := {}, nbu := [], bus := [], fab := { eng := darkEngines s }
    mem := { dram := [], lpd := [], scratch := [] }
    blk := { s2.blk with srst := [], cycle := [], stopNext := [], thermal := [] } }
/-- The dealer stops; no completion is written any more (R370, R405). -/
def dealerStop (s : State) : State :=
  { s with deal := { s.deal with running := false, cur := none, cq := [], reports := [] } }
/-- A trip to shutdown of a sensor other than a stack's (R370). -/
def shutdown (s : State) (ty inst temp : Nat) : State :=
  if s.edge.power = .tripped then s
  else
    let s1 := tripLog s ty inst temp true
    { railsOff (dealerStop s1) with edge := { s1.edge with power := .tripped, fatal := true } }

/-- The first reading at or above `thr`. -/
def overAt (l : List Nat) (thr : Nat) : Option (Nat × Nat) := (enumFrom 0 l).find? (fun e => decide (thr ≤ e.2))
/-- Trips to throttle of one group of sensors. -/
def tripAll (s : State) (ty thr : Nat) (l : List Nat) : State :=
  (enumFrom 0 l).foldl (fun x e => tripCheck x ty e.1 e.1 e.2 thr) s

/-- THM_HOT and THM_COOL. -/
def thmReadings (s : State) (rd : Sensors) : State :=
  let old := rdN s (thm 0x54)
  let f (l : List Nat) (hi lo : Nat) : Nat := (if l.isEmpty then fld old hi lo else min 255 (maxN l)) * 2 ^ lo
  let stk := s.mem.temps.flatMap (fun e => e.2)
  wrReg (wrReg s (thm 0x54) (w32 (f rd.compute 7 0 + f rd.hub 15 8 + f stk 23 16 + f rd.optical 31 24)))
    (thm 0x58) (w32 (rd.inlet % 256 + 256 * (rd.outlet % 256) + 65536 * (maxN rd.board % 256)))

/-- R369: the thermal controller's demand after a reading. Readings come every 100 µs: 100 of them span a raise, 101 in a
row stand for 10 ms of cool. -/
def thermCtl (s : State) (compute : List Nat) : State :=
  let set := fld (rdN s (thm 0x50)) 7 0
  let hot := compute.any (fun t => decide (set < t))
  let cool := if compute.all (fun t => decide (t + 5 ≤ set)) then s.thr.cool + 1 else 0
  let up (l : Nat) : Nat := min 4 (l + 1)
  let x := s.thr
  if hot then
    if x.thermDemand = 0 then { s with thr := { x with thermDemand := up x.level, thermAt := 0, cool := cool } }
    else if 99 ≤ x.thermAt then { s with thr := { x with thermDemand := up x.thermDemand, thermAt := 0, cool := cool } }
    else { s with thr := { x with thermAt := x.thermAt + 1, cool := cool } }
  else if 101 ≤ cool then { s with thr := { x with thermDemand := 0, thermAt := 0, cool := cool } }
  else { s with thr := { x with thermAt := x.thermAt + 1, cool := cool } }

/-- R428 for one pair: a hot engine stops the pair's domain, a cool pair starts again. A member whose start is held stays
PENDING_ON until then. -/
def pairTherm (s : State) (j : Nat) : State :=
  let d := 80 + j
  let ms := domMembers d
  let hot := [2 * j, 2 * j + 1].find? (fun n => decide (85 ≤ s.thr.opt.getD n 0))
  match hot with
  | some n =>
    if s.blk.thermal.contains j ∨ !isPwr s d then s
    else
      let s1 := capacity (tripLog { s with blk := { s.blk with thermal := s.blk.thermal ++ [j] } } 5 n (s.thr.opt.getD n 0) false)
      ms.foldl (fun x m =>
        let pg := pageOf m.1 m.2
        match blkState x m.1 m.2 with
        | .on => setBlk x m.1 m.2 .stopping
        | .starting => { x with blk := { x.blk with stopNext := x.blk.stopNext.filter (fun p => p != pg) ++ [pg] } }
        | _ => x) s1
  | none =>
    if pairHot s j 75 ∨ ms.any (fun m => blkState s m.1 m.2 == .stopping || s.blk.stopNext.contains (pageOf m.1 m.2)) then s
    else
      let was := s.blk.thermal.contains j
      let s1 := { s with blk := { s.blk with thermal := s.blk.thermal.filter (fun k => k != j) } }
      ms.foldl (fun x m =>
        if blkState x m.1 m.2 = .pendingOn ∨ (was ∧ blkState x m.1 m.2 = .off ∧ enBit x m.1 m.2 = true) then startBlk x m.1 m.2 else x) s1

/-- THERMAL_READ. -/
def execThermalRead (rd : Sensors) (s : State) : Res :=
  if !hubUp s then .next s
  else
    let s1 := thmReadings { s with thr := { s.thr with opt := if rd.optical.isEmpty then s.thr.opt else rd.optical } } rd
    let down : Option (Nat × Nat × Nat) := match overAt rd.compute 115, overAt rd.hub 120, overAt rd.board 110 with
      | some (i, t), _, _ => some (1, i, t)
      | _, some (i, t), _ => some (2, i, t)
      | _, _, some (i, t) => some (4, i, t)
      | _, _, _ => none
    match down with
    | some (ty, i, t) => .next (shutdown s1 ty i t)
    | none =>
      let s2 := tripAll (tripAll s1 1 105 rd.compute) 2 110 rd.hub
      let s3 := if rd.compute.isEmpty then s2 else thermCtl s2 rd.compute
      .next (thrSettle s ((List.range 8).foldl pairTherm s3))

end Sys2Proof.Machine
end

