-- ==== Sys2Proof/Machine/Trust.lean ====
section
/-!
DEFINITION. Boot images and trust (chapter 16): the boot control block (R413), image verification (R411), flash commands
(R414), the fused security version (R415), signed commands and the firmwares' mailbox commands (R412, R426), attestation
(R416, R417), the TAP (R420, R421), and management over MCTP (R11 to R13).
-/
namespace Sys2Proof.Machine

/-! ### Views of the SEC, RAS and DEAL status registers -/

/-- SEC page registers by offset. -/
def sec (off : Nat) : Nat := 0x6000 + off
/-- BOOT_STS (Table 16-9). -/
def bootSts (s : State) : Nat :=
  (if s.boot.recovery then 0xF else s.boot.stage % 16) + 2 ^ 4 * s.boot.slot + 2 ^ 5 * b2n s.boot.fallback + 2 ^ 6 * b2n s.boot.cfgReady +
    2 ^ 7 * b2n s.boot.devReady + 2 ^ 8 * b2n s.sec.burn.isSome
/-- BOOT_FAIL. -/
def bootFail (s : State) : Nat := s.boot.failA + 16 * s.boot.failB
/-- IMG_SVN. -/
def imgSvn (s : State) : Nat := s.boot.svn + 2 ^ 8 * s.fuses.svn + 2 ^ 16 * slotSvn s 0 + 2 ^ 24 * slotSvn s 1
/-- KEY_STS. -/
def keySts (s : State) : Nat := s.boot.keyIdx + 2 ^ 4 * s.fuses.programmed.toNat + 2 ^ 8 * s.fuses.keyrev.toNat
/-- DBG_STS. -/
def dbgSts (s : State) : Nat :=
  b2n s.fuses.dbgOff + 2 * b2n s.sec.unlocked + 4 * b2n s.sec.unlockPending + 8 * b2n s.sec.jtagRef
/-- FLASH_STS: busy while a command runs, else the status of the last. -/
def flashSts (s : State) : Nat := if s.sec.flashOp.isSome then 1 else rdN s (sec 0x6C)
/-- RAS_STS (Table 15-11). -/
def rasSts (s : State) : Nat :=
  b2n s.ras.degraded + 2 * b2n (!s.ras.fifo.isEmpty) + sumN (s.ras.stacksRetired.map (fun k => 2 ^ (8 + k)))
/-- DEAL_STS (Table 8-19). -/
def dealSts (s : State) : Nat :=
  b2n s.deal.running + 2 * b2n s.deal.cur.isSome + 4 * b2n (match s.deal.cur with | some t => decide (0 < t.replays) | none => false)

/-! ### The boot control block (R413; its layout is the model's, log entry 44) -/

/-- PREF, TRY and TRYCNT. -/
structure Ctl where
  pref : Nat := 0
  try_ : Bool := false
  cnt : Nat := 0
  deriving DecidableEq, Repr
def ctlBase (k : Nat) : Nat := 0x08000000 + 0x1000 * k
/-- A valid copy: its sequence number. -/
def ctlSeq (s : State) (k : Nat) : Option Nat :=
  let b := fRd s (ctlBase k) 12
  if crc32c (b.take 8) = leAt b 8 4 then some (leAt b 0 4) else none
/-- The copy in use. -/
def ctlActive (s : State) : Option Nat :=
  match ctlSeq s 0, ctlSeq s 1 with
  | some a, some b => some (if a < b then 1 else 0)
  | some _, none => some 0
  | none, some _ => some 1
  | none, none => none
/-- What it holds; with no valid copy: slot A, no try. -/
def ctlRead (s : State) : Ctl :=
  match ctlActive s with
  | none => {}
  | some k =>
    let b := leNat (fRd s (ctlBase k + 4) 1)
    { pref := b % 2, try_ := bitN b 1, cnt := fld b 3 2 }
/-- The other copy. -/
def ctlInactive (s : State) : Nat := match ctlActive s with | some 0 => 1 | _ => 0
/-- A new control block goes to the inactive copy, with the next sequence number. -/
def ctlWrite (s : State) (c : Ctl) : State :=
  let k := ctlInactive s
  let seq := match ctlActive s with | some a => ((ctlSeq s a).getD 0 + 1) % 2 ^ 32 | none => 1
  let b := leBytes seq 4 ++ leBytes (c.pref % 2 + 2 * b2n c.try_ + 4 * (c.cnt % 4)) 4
  { s with flash := fProg (fErase s.flash (ctlBase k) (ctlBase k + 0x1000)) (ctlBase k) (b ++ leBytes (crc32c b) 4) }
/-- BOOT_PREF as it reads. -/
def bootPref (s : State) : Nat := (ctlRead s).pref + 2 * b2n (ctlRead s).try_ + 4 * (ctlRead s).cnt

/-! ### Verifying a slot (R410, R411) -/

/-- A header field of a slot. -/
def hdrN (s : State) (slot off n : Nat) : Nat := leNat (fRd s (slot * 0x4000000 + off) n)
def hdrB (s : State) (slot off n : Nat) : List Byte := fRd s (slot * 0x4000000 + off) n
/-- Bytes that are all 0. -/
def zeroAt (s : State) (slot off n : Nat) : Bool := (hdrB s slot off n).all (fun b => b == 0)
/-- A segment: target, payload offset, length, load offset. -/
def segAt (s : State) (slot i : Nat) : Nat × Nat × Nat × Nat :=
  (hdrN s slot (0x40 + 16 * i) 1, hdrN s slot (0x44 + 16 * i) 4, hdrN s slot (0x48 + 16 * i) 4, hdrN s slot (0x4C + 16 * i) 4)
def segs (s : State) (slot : Nat) : List (Nat × Nat × Nat × Nat) := (List.range (hdrN s slot 0x1C 2)).map (segAt s slot)
/-- Two spans share a byte. -/
def spansMeet (a n b m : Nat) : Bool := n != 0 && m != 0 && decide (a < b + m) && decide (b < a + n)
/-- Two segments overlap, in the payload or in one target. -/
def segsMeet (x y : Nat × Nat × Nat × Nat) : Bool :=
  spansMeet x.2.1 x.2.2.1 y.2.1 y.2.2.1 || (x.1 == y.1 && spansMeet x.2.2.2 x.2.2.1 y.2.2.2 y.2.2.1)
def anyMeet : List (Nat × Nat × Nat × Nat) → Bool
  | [] => false
  | x :: t => t.any (segsMeet x) || anyMeet t
/-- Code 8: a segment leaves the payload or its target, or two overlap. -/
def segsBad (s : State) (slot : Nat) : Bool :=
  let len := hdrN s slot 8 4
  (segs s slot).any (fun x => decide (2 < x.1) || decide (len < x.2.1 + x.2.2.1) || decide (Config.targetSize x.1 < x.2.2.2 + x.2.2.1)) ||
    anyMeet (segs s slot)
/-- The payload's bytes. -/
def payload (s : State) (slot : Nat) : List Byte := fRd s (slot * 0x4000000 + 0x2000) (hdrN s slot 8 4)
/-- Code 1. -/
def hdrBad (s : State) (slot : Nat) : Bool :=
  hdrN s slot 0 4 != 0x4B445849 || hdrN s slot 4 2 != 1 || hdrN s slot 6 2 != 8192 || hdrN s slot 8 4 % 4096 != 0 ||
    decide (0x4000000 - 0x2000 < hdrN s slot 8 4) || decide (127 < hdrN s slot 0xC 2) || hdrN s slot 0x1C 2 == 0 ||
    decide (16 < hdrN s slot 0x1C 2) || !zeroAt s slot 0xF 1 || !zeroAt s slot 0x1E 34 || !zeroAt s slot 0xBA0 96 ||
    !zeroAt s slot 0x1E13 493 || (List.range 16).any (fun i => !zeroAt s slot (0x41 + 16 * i) 3)
/-- Code 3. -/
def keyBad (s : State) (slot : Nat) : Bool :=
  let k := hdrN s slot 0xE 1
  decide (3 < k) || !s.fuses.programmed.getLsbD k || s.fuses.keyrev.getLsbD k ||
    Config.sha3 (hdrB s slot 0x140 2592) != s.fuses.keyhash.getD k 0
/-- Code 4. -/
def sigBad (s : State) (slot : Nat) : Bool :=
  !Config.mlDsaVerify (hdrB s slot 0x140 2592) (Config.sha3 (hdrB s slot 0 0xC00)) (hdrB s slot 0xC00 4627)
/-- Code 5. -/
def payBad (s : State) (slot : Nat) : Bool := Config.sha3 (payload s slot) != BitVec.ofNat 512 (hdrN s slot 0xB60 64)
/-- R411: the code of the first failing check, 0 when the slot verifies. A header or payload that cannot be read gives 7. -/
def verifySlot (s : State) (br : Bring) (slot : Nat) : Nat :=
  if br.badHdr.contains slot then 7
  else if hdrBad s slot then 1
  else if hdrN s slot 0x18 4 ≠ 0xD512 then 2
  else if keyBad s slot then 3
  else if sigBad s slot then 4
  else if hdrN s slot 0xC 2 < s.fuses.svn then 6
  else if segsBad s slot then 8
  else if br.badPay.contains slot then 7
  else if payBad s slot then 5 else 0

/-! ### Masters of the SEC page (R422) -/

/-- A SEC register carried out when the master reaches the page and the block is ON (R344). -/
def secAccess (s : State) (mid : Nat) (f : State → State) : State := gatedWrite s mid .sec 0 f
/-- The security engine's firmware runs: from boot stage 2, in recovery as well (R422, R426; log entry 46). -/
def secFw (s : State) : Bool := isOn s .sec 0 && (s.boot.recovery || decide (2 ≤ s.boot.stage)) && hubUp s

/-! ### BOOT_CONFIRM, BOOT_PREF -/

/-- BOOT_CONFIRM (R413): before DEVICE_READY it is ignored. -/
def opBootConfirm (s : State) (v : W32) : State :=
  if bit v 0 ∧ s.boot.devReady then ctlWrite s { ctlRead s with try_ := false, cnt := 0 } else s
def execBootConfirm (mid : Nat) (v : W32) (s : State) : Res := .next (secAccess s mid (fun x => opBootConfirm x v))
/-- BOOT_PREF (R413, Table 16-9): TRYCNT is read-only. -/
def opBootPref (s : State) (v : W32) : State := ctlWrite s { ctlRead s with pref := b2n (bit v 0), try_ := bit v 1 }
def execBootPref (mid : Nat) (v : W32) (s : State) : Res := .next (secAccess s mid (fun x => opBootPref x v))

/-! ### Flash commands (R414) -/

/-- The end of the permitted target that holds a byte: the slot that is not running (in recovery none runs), the inactive copy
of the control block, the certificate store while it is open. -/
def flashMay (s : State) (a : Nat) : Option Nat :=
  if a < 0x08000000 then
    (if s.boot.recovery ∨ a / 0x4000000 ≠ s.boot.slot then some ((a / 0x4000000 + 1) * 0x4000000) else none)
  else if a < 0x08002000 then (if (a - 0x08000000) / 0x1000 = ctlInactive s then some (ctlBase (ctlInactive s) + 0x1000) else none)
  else if 0x08100000 ≤ a ∧ a < 0x09000000 then (if s.sec.certsOpen then some 0x09000000 else none)
  else none
/-- A write of FLASH_CMD: 1 program, 2 erase, 3 read. Ignored while a command runs; a target that is not permitted or not
aligned is refused (log entry 45). -/
def opFlash (s : State) (code : Nat) : State :=
  let a := fld (rdN s (sec 0x64)) 27 0
  let data := (List.range 16).flatMap (fun i => leBytes (rdN s (sec 0x70 + 4 * i)) 4)
  let start (d : List Byte) : State := { s with sec := { s.sec with flashOp := some (code, a, d) } }
  let refused := wrReg s (sec 0x6C) 2
  if s.sec.flashOp.isSome then s
  else match code with
    | 1 => if a % 64 = 0 ∧ (flashMay s a).isSome then start data else refused
    | 2 => if a % 4096 = 0 ∧ (flashMay s a).isSome then start [] else refused
    | 3 => start []
    | _ => s
/-- FLASH_PROGRAM. -/
def execFlashProgram (mid : Nat) (s : State) : Res := .next (secAccess s mid (fun x => opFlash x 1))
/-- FLASH_ERASE. -/
def execFlashErase (mid : Nat) (s : State) : Res := .next (secAccess s mid (fun x => opFlash x 2))
/-- FLASH_READ. -/
def execFlashRead (mid : Nat) (s : State) : Res := .next (secAccess s mid (fun x => opFlash x 3))

/-- `n` bytes from `a` on whose contents nothing fixes. -/
def flashOpen (s : State) (a n : Nat) : State :=
  { s with
    flash := (List.range n).foldl (fun m i => spPut 0xFF m (a + i) (Config.freeByte s.free i)) s.flash
    free := s.free + n }
/-- The bytes a command concerns: an erase clears 64 KiB within its target. -/
def flashSpan (s : State) (code a : Nat) : Nat := if code = 2 then min (a + 0x10000) ((flashMay s a).getD a) - a else 64
/-- A flash command cut off by a lost supply or clock, or failed: what a program or an erase has left is open (R423). -/
def flashCut (s : State) : State :=
  match s.sec.flashOp with
  | some (code, a, _) =>
    let s1 := { s with sec := { s.sec with flashOp := none } }
    if code = 3 then s1 else flashOpen s1 a (flashSpan s code a)
  | none => s
/-- FLASH_CMD_DONE. -/
def execFlashCmdDone (ok : Bool) (s : State) : Res :=
  match s.sec.flashOp with
  | none => .next s
  | some (code, a, d) =>
    let s1 := wrReg { s with sec := { s.sec with flashOp := none } } (sec 0x6C) (if ok then 0 else 4)
    if !ok then .next (wrReg (flashCut s) (sec 0x6C) 4)
    else match code with
      | 1 => .next { s1 with flash := fProg s1.flash a d }
      | 2 => .next { s1 with flash := fErase s1.flash a (a + flashSpan s 2 a) }
      | _ =>
        let past (i : Nat) : Bool := decide (0x10000000 ≤ a + i)
        let w (i : Nat) : W32 := w32 (leNat ((List.range 4).map (fun j =>
          if past (4 * i + j) then Config.freeByte s.free (4 * i + j) else spGet 0xFF s.flash (a + 4 * i + j))))
        .next ((List.range 16).foldl (fun x i => wrReg x (sec 0x70 + 4 * i) (w i)) (takeFree s1 (if past 63 then 64 else 0)))

/-! ### The fused security version (R415) -/

/-- SEC_ERR gains a bit. -/
def secErr (s : State) (i : Nat) : State := orReg s (sec 0xB8) (w32 (2 ^ i))
/-- SVN_COMMIT: a target above the fused version and not above the running image's is journalled with STATE 1; any other
is ignored. -/
def opSvnCommit (s : State) (v : W32) : State :=
  let t := fld v.toNat 6 0
  if !bit v 31 then s
  else if s.fuses.svn < t ∧ t ≤ s.boot.svn ∧ s.sec.burn.isNone ∧ !s.boot.recovery then
    jrnPut { s with sec := { s.sec with burn := some (t, false) } } (recRollback s t 1)
  else secErr s 0
def execSvnCommit (mid : Nat) (v : W32) (s : State) : Res := .next (secAccess s mid (fun x => opSvnCommit x v))
/-- The burn ends: the fuses hold `t`, and a record with STATE 0 is written. -/
def burnEnd (s : State) (t : Nat) : State :=
  let s1 := { s with fuses := { s.fuses with svn := max s.fuses.svn t }, sec := { s.sec with burn := none } }
  jrnPut s1 (recRollback s1 t 0)
/-- FUSE_BURN_DONE: a burn whose STATE 1 record is durable. -/
def execFuseBurnDone (s : State) : Res :=
  match s.sec.burn with
  | some (t, true) => .next (burnEnd s t)
  | _ => .next s
/-- A burn cut off: how many of its fuses are blown is open; boot completes it from the record (R423). -/
def burnCut (s : State) : State :=
  match s.sec.burn with
  | some (t, true) => { useFree s with fuses := { s.fuses with svn := s.fuses.svn + Config.freeNat s.free 0 % max 1 (t + 1 - s.fuses.svn) } }
  | _ => s

/-! ### The firmwares' mailbox commands (R426) -/

/-- A message on a channel answered by its firmware: only its sender of Table 12-7 is served, and only the commands
listed. -/
def fwCmd (s : State) (ch self sender : Nat) (up : Bool) (listed : List Nat) (cmd : Nat) (f : State → State × Nat × List Nat) : State :=
  if !mbWaits s ch self ∨ !up then s
  else if (getMb s ch).sender ≠ sender ∨ listed.contains (mbCmd s ch) = false then mbReply s ch self 1 []
  else if mbCmd s ch ≠ cmd then s
  else
    let (s1, st, ws) := f s
    mbReply s1 ch self st ws

/-- A signed command object performed (R412): what it changes, if its signature and its action hold. -/
def secPerform (s : State) (o : SecObj) : Option State :=
  let fz := s.fuses
  if !o.sigOk ∨ 3 < o.keySlot ∨ !fz.programmed.getLsbD o.keySlot ∨ fz.keyrev.getLsbD o.keySlot then none
  else match o.act with
    | .program k h =>
      if (k = 2 ∨ k = 3) ∧ !fz.programmed.getLsbD k then
        some { s with fuses := { fz with keyhash := setAt fz.keyhash k h, programmed := fz.programmed ||| BitVec.ofNat 4 (2 ^ k) } }
      else none
    | .revoke k =>
      if 3 < k ∨ (!s.boot.recovery ∧ k = s.boot.keyIdx) then none
      else some { s with fuses := { fz with keyrev := fz.keyrev ||| BitVec.ofNat 4 (2 ^ k) } }
    | .openCerts => some { s with sec := { s.sec with certsOpen := true } }
/-- SEC_CMD: the object is read from an E region; `obj` is what its bytes say. -/
def opSecCmd (obj : SecObj) (s : State) : State × Nat × List Nat :=
  let a := mbData s 1 2 + 2 ^ 32 * fld (mbData s 1 3) 15 0
  let n := mbData s 1 4
  let inE := decide (64 ≤ n) && decide (n ≤ 16384) && rangeOf a == .stack && rangeOf (a + n - 1) == .stack &&
    (List.range ((a + n - 1) / 2 ^ 21 + 1 - a / 2 ^ 21)).all (fun i => rgnClass s (a / 2 ^ 21 + i) == 1)
  let no : State × Nat × List Nat := (secErr s 1, 5, [])
  if !inE then no
  else match memRead s 256 true a n .none with
    | (s1, .ok _) => (match secPerform s1 obj with | some s2 => (s2, 0, []) | none => (secErr s1 1, 5, []))
    | (s1, _) => (secErr s1 1, 5, [])
/-- SEC_CMD. -/
def execSecCmd (obj : SecObj) (s : State) : Res := .next (fwCmd s 1 0x102 1 (secFw s) [0x10] 0x10 (opSecCmd obj))
/-- GET_BOOT. -/
def execGetBoot (s : State) : Res :=
  .next (fwCmd s 2 0x102 0x103 (secFw s) [0x20, 0x21] 0x20 (fun x => (x, 0, [bootSts x, bootFail x, imgSvn x, keySts x, dbgSts x])))
/-- GET_SERIAL. -/
def execGetSerial (s : State) : Res :=
  .next (fwCmd s 2 0x102 0x103 (secFw s) [0x20, 0x21] 0x21 (fun x =>
    (x, 0, [Config.serial.toNat % 2 ^ 32, Config.serial.toNat / 2 ^ 32])))
/-- The dealer's firmware runs: from boot stage 3, not in recovery (R426). -/
def dealFw (s : State) : Bool := !s.boot.recovery && decide (3 ≤ s.boot.stage) && s.edge.power == .up
/-- GET_HEALTH. -/
def execGetHealth (s : State) : Res :=
  .next (fwCmd s 3 0x101 0x103 (dealFw s) [0x30] 0x30 (fun x =>
    (x, 0, [rasSts x, thmSts x, dealSts x, rdN x (0x2000 + 0x78), x.deal.commit % 2 ^ 32])))

/-! ### Attestation (R416, R417) -/

/-- The bytes of the segments of some targets of a slot, in order. -/
def segBytesOf (s : State) (slot : Nat) (ts : List Nat) : List Byte :=
  ((segs s slot).filter (fun x => ts.contains x.1)).flatMap (fun x => fRd s (slot * 0x4000000 + 0x2000 + x.2.1) x.2.2.1)
/-- The public DeviceID key. -/
def deviceKey : BitVec 384 := Config.deriveKey (Config.uds.zeroExtend 512)
/-- The CDI of R416; the widths of its last two parts are the model's, one byte each (log entry 44). -/
def cdi (s : State) (d : BitVec 384) : BitVec 512 :=
  Config.sha3 (leBytes Config.uds.toNat 32 ++ leBytes Config.romDigest.toNat 48 ++ leBytes d.toNat 48 ++ leBytes s.fuses.svn 1 ++
    leBytes (dbgSts s % 4) 1)
/-- Stage 2: measurements taken, identity keys derived. -/
def identity (s : State) : State :=
  let d := Config.sha384 (segBytesOf s s.boot.slot [0])
  { s with sec := { s.sec with
      measSec := some d, measDeal := some (Config.sha384 (segBytesOf s s.boot.slot [1, 2])), cdiKey := some (Config.deriveKey (cdi s d)) } }
/-- What a measurement reports (Table 16-6). -/
def measurement (s : State) (i : Nat) : List (BitVec 384) × List Nat :=
  match i with
  | 1 => ([Config.romDigest], [])
  | 2 => (s.sec.measSec.toList, [])
  | 3 => (s.sec.measDeal.toList, [])
  | 4 => ([], [s.fuses.svn, s.boot.svn, s.boot.slot, b2n s.boot.fallback])
  | 5 => ([], [dbgSts s % 4, s.fuses.keyrev.toNat, s.boot.keyIdx])
  | 6 => ([], b2n s.boot.locked :: (List.range 64).map (fun c => rdN s (pageOf .mbx c + 0x40)))
  | _ => ([], [])
/-- SPDM_REQUEST: before CFG_READY it completes with RRS. A chain is answered by the public keys it certifies, root
first. -/
def execSpdmRequest (rq : SpdmReq) (s : State) : Res :=
  if !s.host.linkUp then .next s
  else if !s.boot.cfgReady then .next (emit s (.rrs 0))
  else match rq with
    | .getCertificate 0 => .next (emit s (.spdm [Config.rootKey, deviceKey] []))
    | .getCertificate 1 => .next (emit s (.spdm ([Config.rootKey, deviceKey] ++ s.sec.cdiKey.toList) []))
    | .getCertificate _ => .next (emit s (.spdm [] []))
    | .getMeasurement i => .next (emit s (.spdm (measurement s i).1 (measurement s i).2))
    | .openSession => .next (emit { s with sec := { s.sec with session := true } } (.session true))
    | .endSession => .next (emit { s with sec := { s.sec with session := false } } (.session false))

/-! ### The TAP (R420, R421) -/

/-- The TAP works from hub power-good on. -/
def tapOn (s : State) : Bool := hubPowered s
/-- An instruction that drives pins. -/
def tapDrives : Tap → Bool
  | .extest | .extestPulse | .extestTrain | .clamp | .highz => true
  | _ => false
/-- An instruction loaded: leaving one that drives pins returns them. -/
def tapLoad (s : State) (t : Tap) : State :=
  let s1 := { s with tap := t }
  if tapDrives t then emit s1 (.pins true) else if tapDrives s.tap then emit s1 (.pins false) else s1
/-- A pin-driving instruction: while PERST# is released it acts as BYPASS and sets JTAG_REF. -/
def tapPins (s : State) (t : Tap) : State :=
  if !tapOn s then s
  else if s.edge.perst then tapLoad s t
  else tapLoad { s with sec := { s.sec with jtagRef := true } } .bypass
/-- BYPASS. -/
def execBypass (s : State) : Res := .next (if tapOn s then tapLoad s .bypass else s)
/-- IDCODE. -/
def execIdcode (s : State) : Res := .next (if tapOn s then emit (tapLoad s .idcode) (.tdo 0x1D512A6F) else s)
/-- SAMPLE_PRELOAD. -/
def execSamplePreload (s : State) : Res := .next (if tapOn s then tapLoad s .sample else s)
/-- EXTEST. -/
def execExtest (s : State) : Res := .next (tapPins s .extest)
/-- EXTEST_PULSE. -/
def execExtestPulse (s : State) : Res := .next (tapPins s .extestPulse)
/-- EXTEST_TRAIN. -/
def execExtestTrain (s : State) : Res := .next (tapPins s .extestTrain)
/-- CLAMP. -/
def execClamp (s : State) : Res := .next (tapPins s .clamp)
/-- HIGHZ. -/
def execHighz (s : State) : Res := .next (tapPins s .highz)
/-- JTAG_TRST_N: Test-Logic-Reset, where IEEE 1149.1 has IDCODE in effect. -/
def execJtagTrstN (s : State) : Res := .next (if tapOn s then tapLoad s .idcode else s)
/-- DEBUG_UNLOCK (R421): a challenge signed by a key of an unrevoked slot; it takes effect at the next fundamental
reset. -/
def execDebugUnlock (key : Nat) (sigOk : Bool) (s : State) : Res :=
  .next (if !tapOn s ∨ !secFw s ∨ s.fuses.dbgOff ∨ 3 < key ∨ !s.fuses.programmed.getLsbD key ∨ s.fuses.keyrev.getLsbD key ∨ !sigOk then s
    else { s with sec := { s.sec with unlockPending := true } })
/-- DEBUG_INSTRUCTION (R421): refused unless debug is unlocked; what it then does the spec does not say. -/
def execDebugInstruction (code : Nat) (s : State) : Res :=
  if tapOn s ∧ s.sec.unlocked then .refused (.debugInstruction code) else .next s

/-! ### Management (R11 to R13) -/

/-- MODID_CHANGED (R11): the strap changes while the module is powered. -/
def execModidChanged (_straps : Nat) (s : State) : Res :=
  .next (if s.edge.power ≠ .up ∧ s.edge.power ≠ .tripped then s
    else mgmt { s with edge := { s.edge with modidChanged := true } } .modidChanged)
/-- The SMBus target answers: the hub is powered and not held in reset. -/
def smbusOn (s : State) : Bool := hubUp s
/-- MCTP_REQUEST (R12, R31, R370, Table 16-4). -/
def execMctpRequest (rq : MctpReq) (s : State) : Res :=
  .next (if !smbusOn s then s
    else match rq with
      | .coolant => emit s (.mctp [fld (rdN s (thm 0x58)) 7 0, fld (rdN s (thm 0x58)) 15 8])
      | .serial => emit s (.mctp [Config.serial.toNat % 2 ^ 32, Config.serial.toNat / 2 ^ 32])
      | .trip => emit s (.mctp [rdN s (thm 0x60)]))
/-- MCTP_EVENT_READ (R13): one read takes one pending event. Which of several the spec does not say; the model answers the
oldest (DESIGN CHOICE, log entry 163). -/
def execMctpEventRead (s : State) : Res :=
  match s.edge.events with
  | [] => .next s
  | e :: t => .next (if !smbusOn s then s else emit { s with edge := { s.edge with events := t } } (.mctpEvent e))

end Sys2Proof.Machine
end

