-- ==== Sys2Proof/Machine/Boot.lean ====
section
/-!
DEFINITION. Power, reset and boot (chapters 01 and 16): the power sequence (R20, R22, R23), reset entry (R405), the boot
stages (R406 to R408, R413, R418), PERST# release and configuration requests (R407, R425), and the return of a lost clock
(R359).
-/
namespace Sys2Proof.Machine

/-! ### The hub's reset state (R405 step 5) -/

/-- The hub back at its reset state: what stays is the time, the fuses, the flash, the TAP, the pins and the latched strap,
the sources that are lost, the engines without light, and debug unlock, which a request makes effective (R421). -/
def freshHub (s : State) (post : Bool) : State :=
  { pending := s.pending
    free := s.free
    out := s.out
    time := s.time
    edge := { power := s.edge.power, modid := s.edge.modid, modidChanged := s.edge.modidChanged, perst := s.edge.perst, post := post }
    fuses := s.fuses
    flash := s.flash
    boot := { running := s.edge.power == .up && !s.clk.lost.contains .crystal, t0 := s.time, reference := s.time }
    sec := { unlocked := s.sec.unlocked || s.sec.unlockPending }
    tap := s.tap
    clk := s.clk
    fab := { eng := darkEngines s } }
/-- The detectors see again what is still lost (R359): sticky bits and management events. -/
def noteLosses (s : State) : State := s.clk.lost.foldl noteLoss s
/-- The blocks of domains 94 and 95. -/
def hubBlks : List (Blk × Nat) := [(.pcie, 0), (.sec, 0), (.jrn, 0)]
/-- Reset entry leaves domains 94 and 95 on (R360, R405). -/
def keepHubOn (s : State) : State :=
  hubBlks.foldl (fun x m => setEn { x with blk := { x.blk with st := spSet x.blk.st (pageOf m.1 m.2) .on } } m.1 m.2 true)
    (pwrOn (pwrOn s 94 true) 95 true)
/-- The journal engine runs on a mounted journal. -/
def jrnMounted (s : State) : Bool := isOn s .jrn 0 && s.boot.cfgReady && !s.boot.recovery && !s.jrn.notDurable
/-- Every queued record programmed. -/
def flushAll (s : State) : State := if jrnMounted s then jrnFlush (s.jrn.queue.length + 2) s else s
/-- Steps 1 to 5 of R405. A burn whose record is durable completes; otherwise there is none (Table 16-10). -/
def resetHub (s : State) : State :=
  let s1 := flushAll s
  let s2 := match s1.sec.burn with | some (t, true) => flushAll (burnEnd s1 t) | _ => s1
  keepHubOn (noteLosses (freshHub (flashCut s2) false))

/-! ### Boot stages (Table 16-1) -/

/-- Stage 0: the self-test ends; domains 95 and 94 are switched on. -/
def bootRom (s : State) : State :=
  let s1 := pwrOn (pwrOn { s with edge := { s.edge with post := false } } 95 true) 94 true
  hubBlks.foldl (fun x m => setBlk (setEn x m.1 m.2 true) m.1 m.2 .on) s1

/-- CFG_READY rises. -/
def cfgReadyNow (s : State) : State := { s with boot := { s.boot with cfgReady := true, tCfg := (s.time - s.boot.t0) / 1000 } }
/-- A slot tried at stage 1: its code goes to BOOT_FAIL. -/
def tried (s : State) (slot code : Nat) : State :=
  { s with boot := if slot = 0 then { s.boot with failA := code } else { s.boot with failB := code } }
/-- The verified slot runs. -/
def slotRuns (s : State) (slot : Nat) (fallback : Bool) : State :=
  { s with boot := { s.boot with slot := slot, fallback := fallback, svn := hdrN s slot 0xC 2, keyIdx := hdrN s slot 0xE 1, stage := 2 } }
/-- Neither slot verifies: recovery (R413). -/
def bootRecovery (s : State) : State :=
  let s1 := cfgReadyNow s
  { s1 with boot := { s1.boot with recovery := true, running := false } }
/-- Stage 1: slot selection (Table 16-5) and verification. -/
def bootVerify (s : State) (br : Bring) : State :=
  let c := ctlRead s
  let last := c.try_ && c.cnt == 3
  let first := if last then 1 - c.pref else c.pref
  let s1 := if last then ctlWrite s { c with try_ := false, pref := first }
    else if c.try_ then ctlWrite s { c with cnt := c.cnt + 1 } else s
  let a := verifySlot s1 br first
  let s2 := tried s1 first a
  if a = 0 then slotRuns s2 first false
  else
    let s3 := if c.try_ ∧ !last then ctlWrite s2 { ctlRead s2 with try_ := false } else s2
    let b := verifySlot s3 br (1 - first)
    let s4 := tried s3 (1 - first) b
    if b = 0 then slotRuns s4 (1 - first) true else bootRecovery s4

/-- Stage 3: the journal is scanned; a last ROLLBACK record with STATE 1 has its burn completed (R415); CFG_READY. -/
def bootDealer (s : State) : State :=
  let s1 := jrnMount s
  let rb := ((jrnRecords s1 s1.jrn.seg).filter (fun r => r.rec_.type == 0x0B)).getLast?
  let s2 := match rb with
    | some r => if leAt r.rec_.payload 4 1 = 1 then burnEnd s1 (leAt r.rec_.payload 2 2) else s1
    | none => s1
  cfgReadyNow s2

/-- A cluster one of whose logical cores maps to a retired core was retired for want of jokers (R95). -/
def restoreClu (s : State) (c : Nat) : State :=
  if (List.range 64).any (fun q => coreRetired s c (physCore s c q)) then
    { s with blk := { s.blk with st := spSet s.blk.st (pageOf .clu c) .retired } }
  else s
/-- The channels the restored remapping shows as retired (R388). -/
def restoreCh (s : State) (k : Nat) : State :=
  let gone := ([32, 33].filter (fun e => bitN (remap s k e) 13)).map (fun e => 34 * k + fld (remap s k e) 5 0)
  { s with wear := { s.wear with chRetired := s.wear.chRetired ++ gone } }
/-- A domain started at boot, but for blocks the journal records as RETIRED. -/
def bootDomain (br : Bring) (s : State) (d : Nat) : State :=
  let s1 := (domMembers d).foldl (fun x m =>
    match blkState x m.1 m.2 with
    | .off | .failed => startBlk (setEn x m.1 m.2 true) m.1 m.2
    | _ => x) s
  domainStarted s1 d true br true
/-- What the scan of an optical receive lane finds is open (log entry 3). -/
def eyes (s : State) : State :=
  (List.range 144).foldl (fun x k => wrReg (useFree x) (0x6200 + 4 * k) (Config.freeWord x.free 0 &&& 0x0FFF0FFF)) s
/-- Stage 4 (R406, R418). -/
def bootDomains (s : State) (br : Bring) : State :=
  let s1 := (List.range 68).foldl restoreClu (jrnRestore s)
  let s2 := (List.range 8).foldl restoreCh s1
  eyes ((List.range 92).foldl (bootDomain br) s2)

/-- Stage 5: a half whose four stacks are in service is retagged E HALF; RETIRED bits stay. -/
def bootHalf (s : State) (h : Nat) : State :=
  if (List.range 4).all (fun i => isOn s .stk (4 * h + i)) then
    let s1 := { s with mem := { s.mem with bootE := s.mem.bootE ++ [h] } }
    (s.mem.rgn.filter (fun e => decide (e.1 / 2 ^ 17 = h))).foldl (fun x e => setRgn x e.1 (e.2.toNat / 16 * 16 + 1)) s1
  else s
def bootRegions (s : State) : State := [0, 1].foldl bootHalf s

/-- A queue whose enable was latched before DEVICE_READY (R408). -/
def latchedQueue (s : State) (q : Nat) : State :=
  if (getQ s q).st = .pendingOn then
    (if qCfgOk s q then setQ s q { st := .enabled } else setQ s q { getQ s q with st := .disabled, cfgErr := true })
  else s
/-- Stage 6: every page locked, DEVICE_READY (R406, R408). -/
def bootLock (s : State) : State :=
  let s1 := { s with
    boot := { s.boot with locked := true, devReady := true, running := false, tRdy := (s.time - s.boot.t0) / 1000 }
    deal := { s.deal with running := true, perLast := s.time, perDue := s.time + s.deal.repPeriod * 1000000 } }
  let s2 := (s1.host.queues.map (fun e => e.1)).foldl latchedQueue (raiseIsr s1 0x6000 1)
  ((List.range 255).map (· + 1)).foldl (fun x f => fnEvent x f 3) s2

/-- The stage that runs ends. -/
def bootStage (s : State) (br : Bring) : State :=
  let next (x : State) : State := { x with boot := { x.boot with stage := s.boot.stage + 1 } }
  if !s.boot.running ∨ s.edge.power ≠ .up ∨ s.clk.lost.contains .crystal then s
  else match s.boot.stage with
    | 0 => next (bootRom s)
    | 1 => bootVerify s br
    | 2 => next (identity s)
    | 3 => next (bootDealer s)
    | 4 => next (bootDomains s br)
    | 5 => next (bootRegions s)
    | _ => bootLock s
/-- `n` stages end. -/
def bootRun (br : Bring) : Nat → State → State
  | 0, s => s
  | n + 1, s => bootRun br n (bootStage s br)

/-- The block with no command waiting (log entry 1): while its rails are up and its crystal runs, the hub's clock goes on by
one, and the stage of boot that runs ends, with every measurement of bring-up good. -/
def idle (s : State) : State :=
  if (s.edge.power = .up ∨ s.edge.power = .tripped) ∧ s.clk.lost.contains .crystal = false then
    bootStage { s with time := s.time + 1 } {}
  else s

/-! ### Power and reset -/

/-- POWER_UP (R20, R23): the sequencer brings up the rails of a module that is down. -/
def execPowerUp (s : State) : Res :=
  .next (if s.edge.power = .off then { s with edge := { s.edge with power := .ramping } } else s)
/-- HUB_POWER_GOOD (R11, Table 1-6): the strap is latched and boot starts; `stages` stages of it end meanwhile. -/
def execHubPowerGood (straps stages : Nat) (br : Bring) (s : State) : Res :=
  if s.edge.power ≠ .ramping then .next s
  else
    let s1 := { s with
      time := 0, tap := .idcode, edge := { s.edge with power := .up, modid := straps % 8, modidChanged := false }
      sec := { s.sec with unlocked := false, unlockPending := false } }
    let s2 := (hubRails.reverse ++ dieRails.reverse).foldl (fun x r => emit x (.rail r true)) s1
    .next (bootRun br stages (noteLosses (freshHub s2 true)))
/-- What a power-down shows at the edge (R22): FAULT_N, dark modulators, the rails in their order, the hub's last. After a
trip the dies' rails are gone already, and before hub power-good none but the hub's can be up. -/
def powerDownSteps (s : State) : State :=
  let s1 := if s.edge.power = .up then railsRemoved s else emit s (.faultPin true)
  hubRails.foldl (fun x r => emit x (.rail r false)) s1
/-- POWER_DOWN (R22): the steps of the sequence, then only fuses and flash keep what they hold; the pins are the board's. -/
def execPowerDown (s : State) : Res :=
  if s.edge.power = .off then .next s
  else
    let s1 := powerDownSteps (flashCut (burnCut s))
    let s2 := { s1 with
      tap := .idcode, edge := { s1.edge with power := .off, modidChanged := false }
      sec := { s1.sec with unlocked := false, unlockPending := false } }
    .next (freshHub s2 false)
/-- RESET_ENTRY (R404, R405): PERST# is asserted. Before hub power-good, after a trip to shutdown, and while the crystal is
lost it is the pin's level alone. -/
def execResetEntry (stages : Nat) (br : Bring) (s : State) : Res :=
  if s.edge.perst then .next s
  else
    let s1 := { s with edge := { s.edge with perst := true } }
    if s.edge.power ≠ .up ∨ s.clk.lost.contains .crystal then .next s1
    else .next (bootRun br stages (resetHub s1))
/-- PERST_RELEASE (R404, R407): the readiness reference; a pin-driving TAP instruction is left (R420). -/
def execPerstRelease (stages : Nat) (br : Bring) (s : State) : Res :=
  if !s.edge.perst then .next s
  else
    let s1 := if tapDrives s.tap then tapLoad s .bypass else s
    .next (bootRun br stages { s1 with edge := { s1.edge with perst := false }, boot := { s1.boot with reference := s.time } })

/-- CLOCK_RETURN (R359, Table 14-3): the crystal's return is a fundamental reset and a boot, but not after a trip to
shutdown (R404); the hub was held in reset, so nothing it had queued is written. -/
def execClockReturn (src : ClkSrc) (stages : Nat) (br : Bring) (s : State) : Res :=
  if !s.clk.lost.contains src then .next s
  else
    let s1 := { s with clk := { s.clk with lost := s.clk.lost.filter (fun c => c != src) } }
    if !hubPowered s then .next s1
    else if src ≠ .crystal then .next (clockBack s1 src br)
    else if s.edge.power ≠ .up then .next s1
    else .next (bootRun br stages (keepHubOn (noteLosses (freshHub (flashCut (burnCut s1)) false))))

/-! ### Configuration requests (R407, R425, R316, R317, R329, R330) -/

/-- The identity a function reports: vendor, device, class code, revision, subsystem vendor, subsystem, and the PF's VF Device
ID. A VF's vendor and device read all ones, as the PCI Express specification has it. -/
def fnIdent (f : Nat) : List Nat :=
  if f = 0 then [0x1F3D, 0xD512, 0x120000, 0x01, 0x1F3D, 0x0001, 0xD513] else [0xFFFF, 0xFFFF, 0x120000, 0x01, 0x1F3D, 0x0001]
/-- The PF aperture resized: window 0 follows while it still is the one of reset. -/
def opPfBar (s : State) (n : Nat) : State :=
  let w (m : Nat) : Win := { len := 2 ^ (m - 21), valid := true, rd := true, wr := true }
  let x := getFn s 0
  let x' := if spGet {} x.wins 0 = w s.host.pfAper then { x with wins := spSet x.wins 0 (w n) } else x
  setFn { s with host := { s.host with pfAper := n } } 0 x'
/-- What a configuration request does, and what it answers. -/
def cfgDo (s : State) (f : Nat) (rq : CfgReq) : State × List Nat :=
  let x := getFn s f
  match rq with
  | .readId => (s, fnIdent f)
  | .bme on => (if on then msixFlush (setFn s f { x with bme := true }) f else setFn s f { x with bme := false }, [])
  | .power true => (setFn s f { x with d3hot := true }, [])
  | .power false => (if x.d3hot then fnReset1 (setFn s f { x with d3hot := false }) f else s, [])
  | .vfEnable on => (if f ≠ 0 then s else if on then { s with host := { s.host with vfEnable := true } } else vfDisable s, [])
  | .pasid on => (setFn s f { x with pasid := on }, [])
  | .ats on => (setFn s f { x with ats := on }, [])
  | .pfBar n => (if f = 0 ∧ 30 ≤ n ∧ n ≤ 39 then opPfBar s n else s, [])
  | .vfBar n => (if f = 0 ∧ 20 ≤ n ∧ n ≤ 36 then { s with host := { s.host with vfAper := n } } else s, [])
/-- CONFIG_REQUEST: `stages` boot stages end before it arrives. -/
def execConfigRequest (f : Nat) (rq : CfgReq) (stages : Nat) (br : Bring) (s : State) : Res :=
  let s1 := bootRun br stages s
  if !s1.host.linkUp then .next s1
  else if !s1.boot.cfgReady then .next (emit s1 (.rrs f))
  else if !fnThere s1 f then .next (emit s1 (.unsupported f))
  else
    let (s2, v) := cfgDo s1 f rq
    .next (emit s2 (.cfg f v))

end Sys2Proof.Machine
end

