-- ==== Sys2Proof/Machine/Views.lean ====
section
/-!
DEFINITION. What a register reads as: its stored value, or, where the device maintains it, the value it has from the
state (Tables 3-19, 4-8, 5-4, 5-5, 6-12 to 6-14, 7-9, 8-19, 8-20, 11-11, 11-12, 12-3, 12-4, 12-8, 12-9, 13-1, 13-2, 13-6,
14-10 to 14-12, 15-11 to 15-13, 16-9).
-/
namespace Sys2Proof.Machine

/-! ### The common header (Tables 13-1, 13-2) -/

/-- BLK_CAP. -/
def blkCap (b : Blk) (i : Nat) : Nat :=
  b2n (blkPwr b) + 2 * b2n (blkSrst b) + 4 * b2n (blkErr b).isSome +
    8 * b2n (match b with | .ch => decide (32 ≤ i % 34) | .nbu => decide (32 ≤ i % 272 / 8) | _ => false) +
    16 * b2n (blkEn b) + 2 ^ 16 * Blk.count b
/-- A header register. -/
def hdrView (s : State) (b : Blk) (i off : Nat) : Nat :=
  match off with
  | 0x000 => blkType b * 2 ^ 16 + i
  | 0x008 => blkCap b i
  | 0x010 => bstCode (blkState s b i) + 8 * b2n (blkBusy s b i)
  | 0x030 => b2n (locked s (pageOf b i))
  | _ => rdN s (pageOf b i + off)

/-! ### HUB (Table 13-6, R352, R353) -/

/-- The block directory: type, instances, the first instance. -/
def directory : List (Blk × Nat × Nat) :=
  [(.hub, 1, 0), (.clk, 1, 0), (.pwr, 1, 0), (.thm, 1, 0), (.ras, 1, 0), (.jrn, 1, 0), (.sec, 1, 0), (.pcie, 1, 0), (.deal, 1, 0),
   (.svc, 1, 0), (.att, 1, 0), (.fab, 1, 0), (.clu, 68, 0), (.stk, 8, 0), (.llc, 4, 0), (.lpd, 4, 0), (.opt, 16, 0), (.mbx, 64, 0),
   (.ch, 272, 0), (.que, 4096, 0), (.nbu, 2176, 0), (.mbx, 255, 64)]
/-- An entry's instance `k` has an enabled pending event. -/
def entryIrq (s : State) (e : Blk × Nat × Nat) (k : Nat) : Bool :=
  blkHeader e.1 && decide (k < e.2.1) && pageIrq s (pageOf e.1 (e.2.2 + k))
/-- IRQ_TYPE. -/
def irqType (s : State) : Nat :=
  sumN ((enumFrom 0 directory).map (fun x => b2n ((List.range x.2.2.1).any (entryIrq s x.2)) * 2 ^ x.1))
/-- IRQ_INST[w] of an entry. -/
def irqInst (s : State) (e w : Nat) : Nat :=
  match directory[e]? with
  | some d => sumN ((List.range 32).map (fun k => b2n (entryIrq s d (32 * w + k)) * 2 ^ k))
  | none => 0
/-- A word of the directory; entries from 22 on read 0. -/
def dirWord (e w : Nat) : Nat :=
  match directory[e]?, w with
  | some d, 0 => blkType d.1 + 2 ^ 16 * d.2.1
  | some d, 1 => pageOf d.1 d.2.2
  | some d, 2 => if d.2.1 = 1 then 0 else (blkBase d.1).2
  | some d, 3 => b2n (blkHeader d.1) + 2 * b2n (e == 19 || e == 21)
  | _, _ => 0
def hubView (s : State) (mid off : Nat) : Nat :=
  if off = 0x44 then s.edge.modid + 2 ^ 8 * b2n s.edge.modidChanged + 2 ^ 16 * (0x60 + s.edge.modid)
  else if off = 0x48 then s.time % 2 ^ 32
  else if off = 0x4C then s.time / 2 ^ 32 % 2 ^ 32
  else if off = 0x60 then irqType s
  else if 0x80 ≤ off ∧ off < 0x280 then irqInst s (rdSel s 0x64 mid) ((off - 0x80) / 4)
  else if 0x400 ≤ off ∧ off < 0x600 then dirWord ((off - 0x400) / 16) (off % 16 / 4)
  else rdN s off

/-! ### CLK, PWR, THM (Tables 14-10 to 14-12) -/

/-- A PLL is locked (R356): its die's rails are up, its reference and itself are not lost. -/
def pllUp (s : State) (hub : Bool) (c : ClkSrc) : Bool :=
  (s.edge.power == .up || (hub && s.edge.power == .tripped)) && !s.clk.lost.contains .crystal && !s.clk.lost.contains c
/-- CLK_PLL_STS. -/
def pllSts (s : State) : Nat :=
  let bits := [(false, ClkSrc.cclk 0), (false, .cclk 1), (false, .nclk 0), (false, .nclk 1), (true, .nclk 2), (true, .hclk)] ++
    (List.range 8).map (fun k => (false, ClkSrc.bclk k)) ++ (List.range 8).map (fun k => (false, ClkSrc.mclk k)) ++
    [(true, .lclk), (true, .sclk)]
  sumN ((enumFrom 0 bits).map (fun x => b2n (pllUp s x.2.1 x.2.2) * 2 ^ x.1))
/-- CLK_REF_STS. -/
def refSts (s : State) : Nat :=
  b2n (!s.clk.lost.contains .crystal) + 2 * b2n (!s.clk.lost.contains .refclk) + 4 * b2n (!s.clk.lost.contains .fref)
def clkView (s : State) (off : Nat) : Nat :=
  match off with
  | 0x40 => pllSts s
  | 0x44 => refSts s
  | _ => rdN s (0x1000 + off)
/-- PWR_PEND[w]. -/
def pwrPend (s : State) (w : Nat) : Nat :=
  sumN ((List.range 32).map (fun i => b2n ((domMembers (32 * w + i)).any (fun m => blkState s m.1 m.2 == .pendingOn)) * 2 ^ i))
def pwrView (s : State) (off : Nat) : Nat :=
  if 0x50 ≤ off ∧ off ≤ 0x58 then pwrPend s ((off - 0x50) / 4) else rdN s (0x2000 + off)
def thmView (s : State) (off : Nat) : Nat :=
  match off with
  | 0x40 => thmSts s
  | 0x44 => thmIn s
  | _ => rdN s (0x3000 + off)

/-! ### RAS, JRN, SEC (Tables 15-11, 15-12, 16-9) -/

/-- JOKER_A: free core jokers, free joker units. -/
def jokerA (s : State) : Nat :=
  sumN ((List.range 68).map (fun c => (freeJokers s c).length)) + 2 ^ 16 * sumN ((List.range 8).map (fun k =>
    sumN ((lendingJokers s k).map (fun c => ((List.range 8).filter (fun p =>
      (lentTo s k c p).isNone && blkState s .nbu (272 * k + 8 * c + p) != .retired)).length))))
/-- JOKER_B: usable joker channels, free joker ways, optical lanes free. -/
def jokerB (s : State) : Nat :=
  sumN ((List.range 8).map (fun k => (usableJokers s k).length)) + 2 ^ 8 * (8 - s.mem.jokers.length) +
    2 ^ 16 * sumN ((List.range 16).map (fun n => b2n (jokerFree s n true) + b2n (jokerFree s n false)))
def rasView (s : State) (off : Nat) : Nat :=
  if off = 0x40 then rasSts s
  else if off = 0x44 then s.ras.fifo.length
  else if 0x50 ≤ off ∧ off < 0x70 then (match s.ras.fifo with | r :: _ => leAt (rasBytes r) (off - 0x50) 4 | [] => 0)
  else if off = 0x88 then sumN (s.wear.mig.map (fun e => 2 ^ e.1)) + sumN (s.wear.migQueue.map (fun e => 2 ^ (8 + e.1)))
  else if off = 0x8C then jokerA s
  else if off = 0x90 then jokerB s
  else rdN s (0x4000 + off)
def jrnView (s : State) (off : Nat) : Nat :=
  match off with
  | 0x40 => s.jrn.seg + 2 * b2n s.jrn.compaction.isSome + 4 * b2n s.jrn.erasing + 8 * b2n s.jrn.notDurable + 16 * b2n s.jrn.resync
  | 0x44 => (s.jrn.fill + 4095) / 4096
  | 0x48 => s.jrn.segseq % 2 ^ 32
  | 0x4C => s.jrn.segseq / 2 ^ 32 % 2 ^ 32
  | 0x50 => s.jrn.rseq
  | 0x54 => s.jrn.queue.length
  | _ => rdN s (0x5000 + off)
def secView (s : State) (off : Nat) : Nat :=
  match off with
  | 0x40 => bootSts s
  | 0x44 => bootFail s
  | 0x48 => imgSvn s
  | 0x50 => bootPref s
  | 0x58 => s.boot.tCfg
  | 0x5C => s.boot.tRdy
  | 0x60 => keySts s
  | 0x6C => flashSts s
  | 0xB4 => dbgSts s
  | _ => rdN s (0x6000 + off)

/-! ### PCIE, queues, function pages (Tables 12-3, 12-4, 12-9) -/

/-- The window the master's FN_SEL and WIN_SEL show. -/
def selWin (s : State) (mid : Nat) : Win := spGet {} (getFn s (rdSel s 0x7044 mid)).wins (rdSel s 0x7050 mid)
def pcieView (s : State) (mid off : Nat) : Nat :=
  let f := getFn s (rdSel s 0x7044 mid)
  let w := selWin s mid
  match off with
  | 0x40 => s.host.speed + 2 ^ 4 * s.host.width + 2 ^ 10 * b2n s.host.flit + 2 ^ 11 * b2n s.host.linkUp
  | 0x48 => f.qbase + 2 ^ 12 * f.qcnt
  | 0x4C => b2n f.resetRun + 2 * b2n f.resetPend + 4 * b2n (f.tdi == .locked || f.tdi == .run) + 8 * b2n f.fnErr + 16 * b2n f.bme
  | 0x54 => w.aper
  | 0x58 => w.dev
  | 0x5C => w.len
  | 0x60 => b2n w.valid + 2 * b2n w.rd + 4 * b2n w.wr
  | 0x64 => s.host.pfAper + 2 ^ 8 * s.host.vfAper
  | 0x70 => sumN (s.sec.ideActive.map (fun n => 2 ^ n))
  | _ => rdN s (0x7000 + off)
/-- The code of Q_STS. -/
def qstCode : QState → Nat
  | .disabled => 0 | .enabled => 1 | .draining => 2 | .error => 3 | .paused => 4 | .pendingOn => 5
def queView (s : State) (q off : Nat) : Nat :=
  let x := getQ s q
  match off with
  | 0x24 => qstCode x.st + 8 * b2n x.errTail + 16 * b2n x.errHead + 32 * b2n x.cfgErr + 64 * b2n x.xlatErr + 2 ^ 16 * outstanding s q
  | 0x48 => x.sqHead
  | 0x4C => x.cqTail + 2 ^ 16 * b2n x.phase
  | _ => rdN s (qPg q + off)
/-- SEQ_STS of a slot (Table 8-20). -/
def seqSts (s : State) (g : Nat) : Nat :=
  let x := getSlot s g
  let st := match x.st with | .free => 0 | .active => 1 | .retained => 2 | .freeing => 3
  let rq := match x.req with
    | some r => (match r.st with | .queued => 0 | .prefill => 1 | .decode => 2 | .paused => 3) * 4 + 32 * b2n r.host + 64 * b2n r.budget + 128 * b2n r.hold
    | none => 0
  -- a FREE slot is its range's (R227); one in no function's range has no owner
  let own := if x.st = .free then ((List.range 256).find? (fun f => decide ((seqRange s f).1 ≤ g) && decide (g < (seqRange s f).1 + (seqRange s f).2))).getD 0 else x.fn
  st + rq + 2 ^ 8 * own
/-- SEQ_DLV of a slot. -/
def seqDlv (s : State) (g : Nat) : Nat := match (getSlot s g).req with | some r => r.delivered | none => (getSlot s g).dlv
/-- A function page. -/
def fnView (s : State) (f off : Nat) : Nat :=
  let x := getFn s f
  let (b, n) := seqRange s f
  let on := decide (x.seqSel < n)
  match off with
  | 0x000 => f
  | 0x004 => x.qbase + 2 ^ 12 * x.qcnt
  | 0x008 => b
  | 0x00C => n
  | 0x010 => x.evt
  | 0x014 => x.evtEn
  | 0x020 => x.seqSel
  | 0x024 => if on then seqSts s (b + x.seqSel) else 0
  | 0x028 => if on then (getSlot s (b + x.seqSel)).len else 0
  | 0x02C => if on then seqDlv s (b + x.seqSel) else 0
  | _ => 0

/-! ### DEAL, SVC, ATT, FAB (Tables 7-9, 8-19, 8-20, 11-11) -/

def dealView (s : State) (mid off : Nat) : Nat :=
  let m := getM s (rdSel s 0x8054 mid)
  match off with
  | 0x44 => dealSts s
  | 0x48 => s.deal.commit % 2 ^ 32
  | 0x4C => s.deal.commit / 2 ^ 32 % 2 ^ 32
  | 0x58 => m.st + 4 * b2n (m.st != 0 && m.b.thin) + 16 * m.fault
  | 0x5C => if m.st = 0 then 0 else m.b.vocab
  | 0x60 => m.ftrick % 2 ^ 32
  | _ => rdN s (0x8000 + off)
def svcView (s : State) (mid off : Nat) : Nat :=
  let g := rdSel s 0x9040 mid
  match off with
  | 0x44 => seqSts s g
  | 0x48 => (getSlot s g).len
  | 0x4C => seqDlv s g
  | 0x74 => (s.deal.cq.filter (fun o => cqFull s o.q)).length % 2 ^ 16
  | _ => rdN s (0x9000 + off)
def attView (s : State) (off : Nat) : Nat :=
  match off with
  | 0x60 => s.deal.ended % 2 ^ 32
  | 0x64 => s.deal.ended / 2 ^ 32 % 2 ^ 32
  | 0x90 => appSts s
  | 0x94 => s.kv.deferred.length
  | _ => rdN s (0xA000 + off)
/-- RWIN registers act on the window the master's RWIN_IDX names (R349). -/
def rwinAt (s : State) (mid off : Nat) : Nat := 0xB000 + off + 0x100000000 * (rdSel s 0xB050 mid + 1)
def fabView (s : State) (mid off : Nat) : Nat :=
  if off = 0x44 then fabSts s
  else if 0x54 ≤ off ∧ off ≤ 0x64 then rdN s (rwinAt s mid off)
  else rdN s (0xB000 + off)

/-! ### CLU (Tables 3-19, 4-8) -/

/-- DBG_PC of a sequencer. -/
def dbgPc (k : Cluster) (q : Nat) : Nat :=
  let x := getS k q
  let (run, wait) : Bool × Option Nat := match x.st with
    | .idle | .ended | .stopped _ => (false, none)
    | .issue => (true, none)
    | .waitEvent _ _ => (true, some 0)
    | .waitSem _ _ => (true, some 1)
    | .waitBar _ => (true, some 2)
  x.pc + 2 ^ 16 * b2n (k.active && run) + 2 ^ 17 * b2n wait.isSome + 2 ^ 18 * wait.getD 0
/-- The VEC step to run next waits for rows that are not all FULL. -/
def veWaits (k : Cluster) : Bool :=
  match k.cseq.arr with
  | a :: _ => k.active && seqLive k.cseq && !k.xr.isSome &&
      (match vecOf k a.w with | some o => (vopReads o (fld a.w 38 32)).any (fun r => !k.full.contains r) | none => false)
  | [] => false
/-- VE_STS. While a combine is pending the spec does not say which stage is current (a free value, log entry 3). -/
def veSts (k : Cluster) : Nat :=
  b2n k.xr.isSome + 2 * b2n (veWaits k) + 4 * b2n k.xr.isSome + 2 ^ 8 * (if k.xr.isSome then Config.freeNat k.epoch 0 % 8 else 0)
def cluView (s : State) (mid c off : Nat) : Nat :=
  let k := getC s c
  let pg := pageOf .clu c
  let sel := min 64 (rdSel s (pg + 0xB0) mid)
  if off = 0xAC then (freeJokers s c).length
  else if off = 0xB4 then dbgPc k sel
  else if 0xB8 ≤ off ∧ off < 0xD8 then
    let i := (off - 0xB8) / 4
    (getS k sel).ev.getD (2 * i) 0 + 2 ^ 16 * (getS k sel).ev.getD (2 * i + 1) 0
  else if off = 0xE4 then (if c = 0 ∨ c = 34 then semVal s (c / 34) (rdSel s (pg + 0xE0) mid) else 0)
  else if off = 0x200 then veSts k
  else if 0x210 ≤ off ∧ off < 0x230 then
    sumN ((List.range 32).map (fun i => b2n (k.full.contains (32 * ((off - 0x210) / 4) + i)) * 2 ^ i))
  else rdN s (pg + off)

/-! ### STK, LLC, LPD, OPT, MBX, CH, NBU (Tables 5-4, 5-5, 6-12 to 6-14, 11-12, 12-8, 15-13) -/

def stkView (s : State) (mid k off : Nat) : Nat :=
  let pg := pageOf .stk k
  let t := 256 * k + rdSel s (pg + 0x150) mid
  match off with
  | 0x48 => rgnEnt s (k * 2 ^ 15 + rdSel s (pg + 0x44) mid)
  | 0x50 => rdN s (pg + 0x50) + b2n (spFind s.mem.retags k).isSome
  | 0x154 => (spGet 0 s.mem.tag0 t).toNat
  | 0x158 => (spGet 0 s.mem.tag1 t).toNat
  | _ => rdN s (pg + off)
def llcView (s : State) (mid k off : Nat) : Nat :=
  let pg := pageOf .llc k
  let x := getWay s k (rdSel s (pg + 0x40) mid)
  match off with
  | 0x44 => (match x.pend with | some (m, o) => m + 4 * o | none => x.mode + 4 * x.owner)
  | 0x48 => b2n x.pend.isSome + 2 * b2n x.pend.isSome + 4 * x.phys
  | 0x60 => b2n (s.mem.inv.any (fun e => e.1 == pg))
  | _ => rdN s (pg + off)
def lpdView (s : State) (k off : Nat) : Nat :=
  let v := rdN s (pageOf .lpd k + off)
  if off = 0x40 then v / 16 * 16 + (if isOn s .lpd k ∧ !s.clk.lost.contains .lclk then 15 else 0) else v
def mbxView (s : State) (ch off : Nat) : Nat :=
  let x := getMb s ch
  if off = 0x4C then x.owner + 2 ^ 9 * b2n x.full + 2 ^ 10 * b2n x.discarded
  else if off = 0x50 then x.sender + 2 ^ 16 * x.count
  else if 0x80 ≤ off ∧ off < 0xC0 then mbData s ch ((off - 0x80) / 4)
  else rdN s (mbPg ch + off)
/-- CH_MAP (R384 to R388). -/
def chMap (s : State) (c : Nat) : Nat :=
  let k := c / 34
  let ch := c % 34
  let moving := match spFind s.wear.mig k with | some m => m.old == ch && decide (3 ≤ m.step) | none => false
  match logicalOf s k ch with
  | some n => n + 2 ^ 6 * (if moving then 2 else 0)
  | none => 0x3F + 2 ^ 6 * (if moving then 2 else if s.wear.chRetired.contains c then 3 else 1)
def chView (s : State) (c off : Nat) : Nat :=
  let use := spFind s.wear.trainUse c
  let rec_ := use.bind (trainAt s c)
  let lanes := spGet [] s.wear.tsv c
  if off = 0x40 then chMap s c
  else if off = 0x100 then
    use.getD 0 + 8 * b2n (match rec_ with | some r => r.valid | none => false) +
      32 * b2n (s.wear.retrain.contains c || (match spFind s.wear.mig (c / 34) with | some m => m.old == c % 34 && m.step == 6 | none => false)) + 64 * b2n (actLow s (c / 34))
  else if off = 0x104 then (match rec_ with | some r => r.temp % 256 | none => 0) + 2 ^ 8 * (stkTemp s (c / 34) % 256)
  else if off = 0x114 then lanes.getD 0 0x7F + 2 ^ 8 * lanes.getD 1 0x7F
  else if 0x140 ≤ off ∧ off < 0x160 then
    (match trainAt s c ((off - 0x140) / 4) with | some r => r.temp % 256 + 2 ^ 8 * b2n r.low + 2 ^ 15 * b2n r.valid | none => 0)
  else rdN s (pageOf .ch c + off)
/-- The code of CSTAT.STATE (Table 5-5). -/
def ustCode : UState → Nat
  | .idle => 0 | .running => 1 | .fencing => 2 | .aborting => 3 | .faulted => 4 | .clearing => 5 | .testing => 6
def nbuView (s : State) (mid u off : Nat) : Nat :=
  let x := getU s u
  let pg := pageOf .nbu u
  if off = 0x64 then mpCrc s u
  else if off = 0x68 then
    x.pc % 1024 + 2 ^ 16 * b2n (x.st == .running) + 2 ^ 17 * b2n (x.st == .running && fld (spGet 0 x.store x.pc).toNat 31 26 == 9) + 2 ^ 18 * b2n x.refDue
  else if off = 0x6C then x.bev
  else if 0x80 ≤ off ∧ off < 0xBC then (spGet 0 x.g ((off - 0x80) / 4 + 1)).toNat
  else if off = 0x104 then ustCode x.st + 8 * b2n x.done + 2 ^ 16 * x.tag
  else if 0x800 ≤ off then (spGet 0 x.store ((off - 0x800) / 4 + 512 * (rdSel s (pg + 0x60) mid % 2))).toNat
  else rdN s (pg + off)

/-! ### Any register -/

/-- What a block-specific register that can be reached reads as; write-only registers read 0 (R5). -/
def regView (s : State) (mid : Nat) (b : Blk) (i off : Nat) : Nat :=
  match regRow b off with
  | none => 0
  | some r =>
    if blkHeader b ∧ off < 0x40 then (if r.acc = .wo then 0 else hdrView s b i off)
    else if r.acc = .wo then 0
    else if r.acc = .sel then rdSel s (pageOf b i + off) mid
    else match b with
      | .hub => hubView s mid off
      | .clk => clkView s off
      | .pwr => pwrView s off
      | .thm => thmView s off
      | .ras => rasView s off
      | .jrn => jrnView s off
      | .sec => secView s off
      | .pcie => pcieView s mid off
      | .deal => dealView s mid off
      | .svc => svcView s mid off
      | .att => attView s off
      | .fab => fabView s mid off
      | .clu => cluView s mid i off
      | .stk => stkView s mid i off
      | .llc => llcView s mid i off
      | .lpd => lpdView s i off
      | .opt => if off = 0x40 then optSts s i else if 0x48 ≤ off ∧ off < 0x6C then laserPwr s i ((off - 0x48) / 4) else rdN s (pageOf .opt i + off)
      | .mbx => mbxView s i off
      | .ch => chView s i off
      | .que => queView s i off
      | .nbu => nbuView s mid i off

end Sys2Proof.Machine
end

