-- ==== Sys2Proof/Machine/Registers.lean ====
section
/-!
DEFINITION. Register accesses (chapter 13): writes by access type (R5, R7, R424), the rows with an effect of their own,
64-bit pairs (R347), selectors (R349), read-to-clear (R5, R6), BLK_ISET and BLK_LOCK (R342, R346), and who reaches what (R318,
R321, R332, R337, R340, R341, R344, R350, R354).
-/
namespace Sys2Proof.Machine

/-! ### Who reaches a register -/

/-- A VF's own pages outside the register blocks: its function page and its MSI-X table (R354); a TDI in RUN needs the IDE T
bit (R321). The PF reaches its own MSI-X table. -/
def fnReach (s : State) (mid f : Nat) : Reach :=
  if !hostMid mid ∨ !hubUp s ∨ s.boot.recovery ∨ !fnThere s f then .no
  else if midOf mid ≠ f + 1 then (if midOf mid = 1 then .no else .refused)
  else if (getFn s f).tdi = .run ∧ !midT mid then .refused else .yes
/-- An access to a block-specific register: a switched block answers only while it is ON (R344). -/
def ownReach (s : State) (mid : Nat) (b : Blk) (i : Nat) : Reach :=
  match b with
  | .que => queReach s mid i
  | .mbx => if !hubUp s then .no else if mbRefused s mid i then .refused else if mbBound s i (midOf mid) then .yes else .no
  | _ => if blkPwr b && !isOn s b i then (match pgReach s mid b with | .yes => .no | r => r) else pgReach s mid b
/-- A write to a block-specific register, carried out when it may be: one dropped because the block is not ON counts in
HOST_REF when the host makes it, one by a party not bound counts in MB_DENY. -/
def ownWrite (s : State) (mid : Nat) (b : Blk) (i : Nat) (f : State → State) : State :=
  match ownReach s mid b i with
  | .yes => f s
  | .refused => hostRef s
  | .no =>
    if !hubUp s then s
    else if b = .mbx then mbDeny s i
    else if hostMid mid ∧ b ≠ .que ∧ pgReach s mid b = .yes then hostRef s else s

/-! ### Interrupts of a page (R353) -/

/-- The vector of a page whose pending and enabled events have just become any: PF vector 0, or, for a mailbox event of a VF,
that VF's. -/
def pageSignal (s : State) (b : Blk) (i : Nat) : State :=
  let pend := rdReg s (pageOf b i + 0x14) &&& rdReg s (pageOf b i + 0x18)
  let vf (m : Nat) : Bool := decide (2 ≤ m) && decide (m ≤ 0x100)
  if b = .mbx then
    let a := mbA s i
    let c := mbB s i
    let forA := bit pend 0 || bit pend 2
    let forB := bit pend 1 || bit pend 3
    let s1 := if forA && vf a then msix s (a - 1) 0 else s
    let s2 := if forB && vf c then msix s1 (c - 1) 0 else s1
    if (forA && !vf a) || (forB && !vf c) || (pend &&& 0xFFFFFFF0) != 0 then msix s2 0 0 else s2
  else msix s 0 0
/-- After a change of BLK_ISR or BLK_IER: the vector fires when the page goes from no enabled pending event to one. -/
def irqAfter (before s : State) (b : Blk) (i : Nat) : State :=
  if !pageIrq before (pageOf b i) && pageIrq s (pageOf b i) then pageSignal s b i else s

/-! ### The header (R342, R346) -/

/-- BLK_ISET. BLK_ISR and BLK_IER hold every bit: which of bits 27:0 a block's chapter leaves undefined are reserved the spec
does not say, and the model lets BLK_ISET and BLK_IER set them all (DESIGN CHOICE, log entry 162). -/
def opIset (s : State) (b : Blk) (i : Nat) (v : W32) : State := irqAfter s (orReg s (pageOf b i + 0x14) v) b i
def execBlkIset (mid : Nat) (b : Blk) (i : Nat) (v : W32) (s : State) : Res := .next (hdrAccess s mid b i (fun x => opIset x b i v))
/-- BLK_LOCK. -/
def opLock (s : State) (b : Blk) (i : Nat) (v : W32) : State := if bit v 0 then wrBit s (pageOf b i + 0x30) 0 true else s
def execBlkLock (mid : Nat) (b : Blk) (i : Nat) (v : W32) (s : State) : Res := .next (hdrAccess s mid b i (fun x => opLock x b i v))
/-- BLK_CTL: EN where it is implemented, then SRST. -/
def opBlkCtl (s : State) (mid : Nat) (b : Blk) (i : Nat) (v : W32) : State :=
  let s1 := if blkEn b then (if bit v 0 then opEnOn s mid b i else opEnOff s mid b i) else s
  if bit v 1 then opSrst s1 b i else s1
/-- A write stored by its access type; RWL fields keep their value once the page is locked. -/
def storeWrite (s : State) (mid : Nat) (b : Blk) (i off : Nat) (v : W32) : State :=
  let a := pageOf b i + off
  match regRow b off with
  | none => s
  | some r =>
    let m := w32 r.mask
    match r.acc with
    | .rw => wrReg s a (regLimit b off v &&& m)
    | .rwl => if locked s (pageOf b i) then s else wrReg s a (regLimit b off v &&& m)
    | .w1c => wrReg s a (rdReg s a &&& ~~~ (v &&& m))
    | .w1s => orReg s a (v &&& m)
    | .sel => wrSel s a mid (regLimit b off v &&& m)
    | .ro | .wo | .rc => s
/-- A write of the error window: UNIT 11b is reserved and ignored. -/
def hdrWrite (s : State) (mid : Nat) (b : Blk) (i off : Nat) (v : W32) : State :=
  match off with
  | 0x0C => enAccess s mid b i (fun x => opBlkCtl x mid b i v)
  | 0x1C => hdrAccess s mid b i (fun x => opIset x b i v)
  | 0x28 => hdrAccess s mid b i (fun x => if fld v.toNat 29 28 = 3 then x else storeWrite x mid b i off v)
  | 0x30 => hdrAccess s mid b i (fun x => opLock x b i v)
  | _ => hdrAccess s mid b i (fun x => irqAfter x (storeWrite x mid b i off v) b i)

/-! ### Registers with an effect of their own -/

/-- The window the master's FN_SEL and WIN_SEL name (R319); a TDI that is locked takes no window write (R337). -/
def opWin (s : State) (mid off : Nat) (v : W32) : State :=
  let f := rdSel s 0x7044 mid
  let n := rdSel s 0x7050 mid
  let x := getFn s f
  let w := spGet {} x.wins n
  let u := v.toNat
  let w' : Win := match off with
    | 0x54 => { w with aper := fld u 17 0 }
    | 0x58 => { w with dev := fld u 26 0 }
    | 0x5C => { w with len := fld u 18 0 }
    | _ => { w with valid := bitN u 0, rd := bitN u 1, wr := bitN u 2 }
  if tdiLocked s f then setFn s f { x with fnErr := true } else setFn s f { x with wins := spSet x.wins n w', fnErr := false }
/-- RT_CMD (Table 6-12): the TARGET and the MODE are encodings, judged by the retag. -/
def opRtCmd (s : State) (k : Nat) (v : W32) : State :=
  let n := v.toNat
  opRetag s k (fld n 16 15) (fld n 18 17) (fld n 14 0)
/-- TAG_ENT0 and TAG_ENT1 (R145) of the tag the master's TAG_IDX names. -/
def opTag (s : State) (mid k : Nat) (one : Bool) (v : W32) : State :=
  let t := 256 * k + rdSel s (pageOf .stk k + 0x150) mid
  if one then { s with mem := { s.mem with tag1 := spSet s.mem.tag1 t (v &&& 0xFFFFFF) } }
  else { s with mem := { s.mem with tag0 := spSet s.mem.tag0 t (v &&& 0x3FFFFF) } }
/-- FLASH_CMD. -/
def opFlashCmd (s : State) (v : W32) : State := opFlash s (fld v.toNat 1 0)

/-- A write to a cluster's register. SEM_SEL is reserved but on the pages of CLU[0] and CLU[34] (Table 3-19, R7). -/
def cluWrite (s : State) (mid c off : Nat) (v : W32) : State :=
  if off = 0x40 then opCluCfg s c v
  else if 0x60 ≤ off ∧ off < 0xA0 then opCoreMap s c ((off - 0x60) / 4) v
  else if 0xA0 ≤ off ∧ off < 0xAC then opCoreRet s c ((off - 0xA0) / 4) v
  else if off = 0xE8 then opDcacheInv s c v
  else if off = 0xE0 ∧ c ≠ 0 ∧ c ≠ 34 then s
  else storeWrite s mid .clu c off v
/-- A write to a stack's register. -/
def stkWrite (s : State) (mid k off : Nat) (v : W32) : State :=
  if off = 0x48 then opRgnEnt s mid k v
  else if off = 0x4C then opRtCmd s k v
  else if 0x80 ≤ off ∧ off < 0x108 then opRemap s k ((off - 0x80) / 4) v
  else if off = 0x154 ∨ off = 0x158 then opTag s mid k (off == 0x158) v
  else storeWrite s mid .stk k off v
/-- A write to a unit's register. -/
def nbuWrite (s : State) (mid u off : Nat) (v : W32) : State :=
  if off = 0x40 then opNbuCfg s u v
  else if off = 0x100 then opUnitCmd s u v
  else if 0x110 ≤ off ∧ off < 0x200 then opCrWrite s u ((off - 0x100) / 4) v
  else if 0x800 ≤ off then opMpWindow s mid u ((off - 0x800) / 4) v
  else storeWrite s mid .nbu u off v
/-- A write to a security register. -/
def secWrite (s : State) (mid off : Nat) (v : W32) : State :=
  match off with
  | 0x4C => opSvnCommit s v
  | 0x50 => opBootPref s v
  | 0x54 => opBootConfirm s v
  | 0x68 => opFlashCmd s v
  | 0xB4 => if bit v 3 then { s with sec := { s.sec with jtagRef := false } } else s
  | _ => storeWrite s mid .sec 0 off v
/-- A write to the fabric's registers: a reserved TOPO is ignored; RWIN registers act on the selected window. -/
def fabWrite (s : State) (mid off : Nat) (v : W32) : State :=
  if off = 0x40 then (if fld v.toNat 1 0 = 3 then s else fabChanged s (storeWrite s mid .fab 0 off v))
  else if off = 0x44 then (if bit v 4 then { s with fab := { s.fab with ovf := false } } else s)
  else if off = 0x64 then wrReg s (rwinAt s mid off) (regLimit .fab off v &&& 0x0FFFFFFF)
  else storeWrite s mid .fab 0 off v
/-- A write to a queue set: 0x00 to 0x1C only while it is DISABLED (R323). -/
def queWrite (s : State) (mid q off : Nat) (v : W32) : State :=
  if off < 0x20 then
    (if (getQ s q).st = .disabled then storeWrite s mid .que q off v else setQ s q { getQ s q with cfgErr := true })
  else match off with
    | 0x20 => opQueueEn s q (bit v 0)
    | 0x40 => opSqTail s q v
    | 0x44 => opCqHead s q v
    | _ => s
/-- A write to a mailbox page: MB_BIND of a VF page is fixed (R332). -/
def mbxWrite (s : State) (mid ch off : Nat) (v : W32) : State :=
  if off = 0x40 then (if 64 ≤ ch then s else storeWrite s mid .mbx ch off v)
  else if off = 0x48 then opMbCtl s mid ch v
  else if 0x80 ≤ off ∧ off < 0xC0 then opMbData s mid ch ((off - 0x80) / 4) v
  else s

/-- A write to a block-specific register that can be reached. -/
def regWrite (s : State) (mid : Nat) (b : Blk) (i off : Nat) (v : W32) : State :=
  match b with
  | .clu => cluWrite s mid i off v
  | .stk => stkWrite s mid i off v
  | .nbu => nbuWrite s mid i off v
  | .sec => secWrite s mid off v
  | .fab => fabWrite s mid off v
  | .que => queWrite s mid i off v
  | .mbx => mbxWrite s mid i off v
  | .llc => if off = 0x44 then opWayCfg s mid i v else if off = 0x5C then opInvCmd s i v else storeWrite s mid b i off v
  | .clk => if off = 0x50 then opGate s (fld v.toNat 7 0) (bit v 8) else storeWrite s mid b i off v
  | .thm => if off = 0x48 then opThrCap s v else if off = 0x4C then thrSettle s (storeWrite s mid b i off v) else storeWrite s mid b i off v
  | .ras => if off = 0x48 then opRasPop s v else if off = 0x84 then opMigCmd s v else storeWrite s mid b i off v
  | .jrn => if off = 0x58 then opJrnCompact s v else storeWrite s mid b i off v
  | .pcie => if off = 0x48 then opFnQ s (rdSel s 0x7044 mid % 256) v
      else if 0x54 ≤ off ∧ off ≤ 0x60 then opWin s mid off v else storeWrite s mid b i off v
  | .att => if off = 0x50 then opKvInval s v else storeWrite s mid b i off v
  | _ => storeWrite s mid b i off v

/-! ### 64-bit pairs (R347) -/

/-- The offset of NAME_LO of every pair of a block. -/
def pairLos : Blk → List Nat
  | .hub => [0x48] | .clu => [0x50] | .stk => [0x54] | .llc => [0x50] | .lpd => [0x48] | .ch => [0x44, 0x4C] | .que => [0x00, 0x08]
  | .att => [0x40, 0x48, 0x58, 0x60] | .jrn => [0x48] | .deal => [0x48] | .fab => [0x54, 0x5C]
  | _ => []
/-- The key of a pair's staging or capture copy: the _LO register, of the selected window where there is one. -/
def pairKey (s : State) (mid : Nat) (b : Blk) (i off : Nat) : Nat :=
  (if b = .fab then rwinAt s mid off else pageOf b i + off) * 512 + midOf mid
/-- Where a pair's half is stored. -/
def pairAt (s : State) (mid : Nat) (b : Blk) (i off : Nat) : Nat := if b = .fab then rwinAt s mid off else pageOf b i + off
/-- A half that software writes: its access type and mask. -/
def pairMask (b : Blk) (off : Nat) : Option (Bool × W32) :=
  match regRow b off with
  | some r => match r.acc with | .rw => some (false, w32 r.mask) | .rwl => some (true, w32 r.mask) | _ => none
  | none => none
/-- A pair that can be written now: not locked, and in a queue set only while it is DISABLED. -/
def pairOpen (s : State) (b : Blk) (i off : Nat) : Bool :=
  match pairMask b off with
  | some (lk, _) => !(lk && locked s (pageOf b i)) && (b != .que || (getQ s i).st == .disabled)
  | none => false
/-- NAME_HI written: the writer's staging copy. -/
def opHiWrite (s : State) (mid : Nat) (b : Blk) (i lo : Nat) (v : W32) : State :=
  match pairMask b (lo + 4) with
  | none => s
  | some (_, m) =>
    if b = .que ∧ (getQ s i).st ≠ .disabled then setQ s i { getQ s i with cfgErr := true }
    else if !pairOpen s b i (lo + 4) then s
    else { s with regs := { s.regs with stage := spSet s.regs.stage (pairKey s mid b i lo) (v &&& m) } }
/-- NAME_LO written: the pair committed with the writer's staged upper half, or the current one. -/
def opLoWrite (s : State) (mid : Nat) (b : Blk) (i lo : Nat) (v : W32) : State :=
  match pairMask b lo with
  | none => s
  | some (_, m) =>
    if b = .que ∧ (getQ s i).st ≠ .disabled then setQ s i { getQ s i with cfgErr := true }
    else if !pairOpen s b i lo then s
    else
      let k := pairKey s mid b i lo
      let s1 := wrReg s (pairAt s mid b i lo) (v &&& m)
      match spFind s.regs.stage k with
      | some h => wrReg { s1 with regs := { s1.regs with stage := spDel s1.regs.stage k } } (pairAt s mid b i (lo + 4)) h
      | none => s1

/-- A write to any block-specific register, the halves of a pair as R347 has them. -/
def anyWrite (s : State) (mid : Nat) (b : Blk) (i off : Nat) (v : W32) : State :=
  if (pairLos b).contains off then opLoWrite s mid b i off v
  else if 4 ≤ off ∧ (pairLos b).contains (off - 4) then opHiWrite s mid b i (off - 4) v
  else regWrite s mid b i off v

/-- The pair half an address names: its page, and the offset of NAME_LO. -/
def pairOf (a : Nat) (hi : Bool) : Option (Blk × Nat × Nat) :=
  match locate a with
  | .blk b i off =>
    let lo := if hi then off - 4 else off
    if a % 4 = 0 ∧ (pairLos b).contains lo ∧ (hi = false ∨ 4 ≤ off) ∧ i < Blk.count b then some (b, i, lo) else none
  | _ => none
/-- NAME_HI_WRITE. -/
def execNameHiWrite (mid a : Nat) (v : W32) (s : State) : Res :=
  match pairOf a true with
  | some (b, i, lo) => .next (ownWrite s mid b i (fun x => opHiWrite x mid b i lo v))
  | none => .next s
/-- NAME_LO_WRITE. -/
def execNameLoWrite (mid a : Nat) (v : W32) (s : State) : Res :=
  match pairOf a false with
  | some (b, i, lo) => .next (ownWrite s mid b i (fun x => opLoWrite x mid b i lo v))
  | none => .next s

/-- A read answered: the value, 0 where there is nothing to reach, Completer Abort for a host read that is refused (R321,
R332). -/
def answerRead (s : State) (mid : Nat) (b : Blk) (i a : Nat) (f : State → State × W32) : State :=
  match ownReach s mid b i with
  | .yes => let (s1, v) := f s; emit s1 (.reg (midOf mid) a v)
  | .refused => hostAbort s (midOf mid - 1)
  | .no => if !hubUp s then s else emit (if b = .mbx then mbDeny s i else s) (.reg (midOf mid) a 0)
/-- NAME_LO_READ: the lower half, the upper half of the same moment captured. -/
def execNameLoRead (mid a : Nat) (s : State) : Res :=
  match pairOf a false with
  | some (b, i, lo) => .next (answerRead s mid b i a (fun x =>
      ({ x with regs := { x.regs with capt := spSet x.regs.capt (pairKey x mid b i lo) (w32 (regView x mid b i (lo + 4))) } },
       w32 (regView x mid b i lo))))
  | none => .next s
/-- NAME_HI_READ: the captured half, or the current one. -/
def execNameHiRead (mid a : Nat) (s : State) : Res :=
  match pairOf a true with
  | some (b, i, lo) => .next (answerRead s mid b i a (fun x =>
      match spFind x.regs.capt (pairKey x mid b i lo) with
      | some h => ({ x with regs := { x.regs with capt := spDel x.regs.capt (pairKey x mid b i lo) } }, h)
      | none => (x, w32 (regView x mid b i (lo + 4)))))
  | none => .next s

/-! ### Read to clear (R5, R6) -/

/-- What an RC register holds after a read: what the device counted in the same cycle; the lowest margins start afresh
(Table 15-13). -/
def rcAfter (b : Blk) (off : Nat) (event : W32) : W32 := if b = .ch ∧ off = 0x10C ∧ event = 0 then 0x00FF00FF else event
/-- READ_TO_CLEAR: `event` is what the device sets in the cycle of the read. -/
def execReadToClear (mid a : Nat) (event : W32) (s : State) : Res :=
  match locate a with
  | .blk b i off =>
    match regRow b off with
    | some r =>
      if r.acc ≠ .rc ∨ Blk.count b ≤ i ∨ a % 4 ≠ 0 then .next s
      else
        let rd (x : State) : State × W32 := (wrReg x a (rcAfter b off event), rdReg x a)
        if blkHeader b ∧ off < 0x40 then
          match hdrReach s mid b i with
          | .yes => let (s1, v) := rd s; .next (emit s1 (.reg (midOf mid) a v))
          | .refused => .next (hostAbort s (midOf mid - 1))
          | .no => .next (if !hubUp s then s else emit (if b = .mbx then mbDeny s i else s) (.reg (midOf mid) a 0))
        else .next (answerRead s mid b i a rd)
    | none => .next s
  | _ => .next s

/-! ### Any other write (R5, R320, R328, R340, R341) -/

/-- A write to a function page. -/
def fnWrite (s : State) (f off : Nat) (v : W32) : State :=
  let x := getFn s f
  let n := v.toNat
  match off with
  | 0x10 => setFn s f { x with evt := (BitVec.ofNat 4 x.evt &&& ~~~ (BitVec.ofNat 4 n)).toNat }
  | 0x14 =>
    let s1 := setFn s f { x with evtEn := n % 16 }
    if Nat.land x.evt x.evtEn = 0 ∧ Nat.land x.evt (n % 16) ≠ 0 then msix s1 f 0 else s1
  | 0x20 => setFn s f { x with seqSel := n % 2 ^ 16 }
  | _ => s
/-- A write to an entry of an MSI-X table. -/
def msixWrite (s : State) (f v word : Nat) (x : W32) : State :=
  if (if f = 0 then 4096 else 16) ≤ v then s
  else if word = 3 then opMask (wrReg s (msixEntry f v + 12) (x &&& 1)) f v (bit x 0)
  else wrReg s (msixEntry f v + 4 * word) (if word = 0 then x &&& 0xFFFFFFFC else x)
/-- One 4-byte write of a register (R341). -/
def regWrite4 (s : State) (mid a : Nat) (v : W32) : State :=
  let reach (r : Reach) (y : State) : State := match r with | .yes => y | .refused => hostRef s | .no => s
  match locate a with
    | .blk b i off =>
      if Blk.count b ≤ i then s
      else if blkHeader b ∧ off < 0x40 then hdrWrite s mid b i off v
      else ownWrite s mid b i (fun x => anyWrite x mid b i off v)
    | .fn f off => reach (fnReach s mid f) (if f = 0 then s else fnWrite s f off v)
    | .msix f n word => reach (fnReach s mid f) (msixWrite s f n word v)
    | .none_ => if hostMid mid ∧ midOf mid ≠ 1 then hostRef s else s
/-- The 32-bit words of a write, lowest address first. -/
def regWords (bs : List Byte) : List W32 := (chunks 4 (bs.length / 4) bs).map (fun w => w32 (leNat w))
/-- REGISTER_WRITE (R341, R347): 4 or 8 bytes aligned to their length, 8 bytes at NAME_LO in one action; a longer write is performed
as 4-byte writes in ascending order. Any other is refused. -/
def opRegisterWrite (s : State) (mid a : Nat) (bs : List Byte) : State :=
  if !hubUp s then s
  else if bs.isEmpty ∨ bs.length % 4 ≠ 0 ∨ a % 4 ≠ 0 ∨ (bs.length = 8 ∧ a % 8 ≠ 0) then (if hostMid mid then hostRef s else s)
  else match pairOf a false, regWords bs with
    | some _, [lo, hi] => regWrite4 (regWrite4 s mid (a + 4) hi) mid a lo
    | _, ws => (enumFrom 0 ws).foldl (fun x w => regWrite4 x mid (a + 4 * w.1) w.2) s
def execRegisterWrite (mid a : Nat) (bs : List Byte) (s : State) : Res := .next (opRegisterWrite s mid a bs)

end Sys2Proof.Machine
end

