-- ==== Sys2Proof/Machine/Ring.lean ====
section
/-!
DEFINITION. Ring work (chapters 07 and 11): frames this device sends (R298), ring reductions (R307, R308), ring attention
(R310), ring prefill (R223, R309).
-/
namespace Sys2Proof.Machine

/-! ### The tree of R119 over the participants -/

/-- The participants named by a mask, in ascending position. -/
def ringList (mask : Nat) : List Nat := (List.range 16).filter (fun p => bitN mask p)
/-- The members that still hold a partial at a level of the tree: of each pair the later one. -/
def ringLevel (l : List Nat) : Nat → List Nat
  | 0 => l
  | k + 1 => treeLevel (fun _ b => b) (ringLevel l k)

/-- What a member does at a level of the tree: send its partial, receive one, pass up unchanged, or hold the result. -/
inductive RingRole | send (dst : Nat) | recv (src : Nat) | pass | top
  deriving DecidableEq, Repr
def ringRole (mask level pos : Nat) : RingRole :=
  let l := ringLevel (ringList mask) level
  let j := l.findIdx (fun p => p == pos)
  if l.length ≤ 1 then .top
  else if j % 2 = 1 then .recv (l.getD (j - 1) 0)
  else if j + 1 < l.length then .send (l.getD (j + 1) 0)
  else .pass

/-! ### Partials as packets (Tables 11-7 and 11-8) -/

/-- A TX32 row in a packet: 64 mantissas, lane 0 lowest; the exponent goes in EXP. -/
def rowPkt (i : Nat) (r : Row) : RedPkt :=
  { part := 0, row := i, exp := unsx 8 r.e, data := (List.range 64).flatMap (fun j => leBytes (unsx 32 (r.m.getD j 0)) 4) }
def pktRow (p : RedPkt) : Row := { m := (List.range 64).map (fun j => sext 32 (leAt p.data (4 * j) 4)), e := sext 8 p.exp }
/-- One row's m and l in a scalar block. -/
def scalBytes (m l : Int × Int) : List Byte :=
  leBytes (unsx 32 m.1) 4 ++ leBytes (unsx 8 m.2) 4 ++ leBytes (unsx 32 l.1) 4 ++ leBytes (unsx 8 l.2) 4
def scalM (d : List Byte) (i : Nat) : Int × Int := (sext 32 (leAt d (16 * i) 4), sext 8 (leAt d (16 * i + 4) 1))
def scalL (d : List Byte) (i : Nat) : Int × Int := (sext 32 (leAt d (16 * i + 8) 4), sext 8 (leAt d (16 * i + 12) 1))
/-- The packet of a partial with a PART and a ROW. -/
def redFind (l : List RedPkt) (part row : Nat) : Option RedPkt := l.find? (fun p => p.part == part && p.row == row)

/-! ### The combine functions -/

/-- What R209 gives for the statistics of one row: the combined m and l, and the weights wa and wb. -/
def attScal (a b : (Int × Int) × (Int × Int)) : (Int × Int) × (Int × Int) × (Int × Int) × (Int × Int) :=
  if a.2.1 = 0 then (b.1, b.2, (0, 0), (1, 0))
  else if b.2.1 = 0 then (a.1, a.2, (1, 0), (0, 0))
  else
    let m := if cmpTx b.1.1 b.1.2 a.1.1 a.1.2 > 0 then b.1 else a.1
    let w (x l : Int × Int) : Int × Int :=
      let d := val1 (norm1 (addTx x (-m.1, m.2)))
      let e := expOf (segOf expPoint) d.1 d.2
      val1 (norm1 (mulTx l (val1 (norm1 (e.1, e.2.1)))))
    let wa := w a.1 a.2
    let wb := w b.1 b.2
    (m, val1 (norm1 (addTx wa wb)), wa, wb)
/-- The output row of R209; each product and sum is formed exactly and rounded once (R52, log entry 47). -/
def attRow (sa sb : (Int × Int) × (Int × Int)) (oa ob : Row) : Row :=
  if sa.2.1 = 0 then ob
  else if sb.2.1 = 0 then oa
  else
    let (_, l, wa, wb) := attScal sa sb
    let r := tableEval 2 0 (-30) (segOf recipPoint) l.1 l.2
    let rc := val1 (norm1 (r.1, r.2.1))
    let num := (normL (List.zipWith (fun x y => addTx (mulTx wa x) (mulTx wb y)) (lanesOf oa) (lanesOf ob))).1
    (normL ((lanesOf num).map (fun v => mulTx v rc))).1

/-- ATT: the partials of every row combined by R209. Output row `i` of a partial of `dh` rows per query row belongs to
query row `i / dh` (log entry 48). -/
def combineAtt (dh : Nat) (a b : List RedPkt) : List RedPkt :=
  let scal (l : List RedPkt) (q : Nat) : (Int × Int) × (Int × Int) :=
    match redFind l 1 (q / 16) with
    | some p => (scalM p.data (q % 16), scalL p.data (q % 16))
    | none => ((0, 0), (0, 0))
  a.map (fun p =>
    if p.part = 0 then
      match redFind b 0 p.row with
      | some o => rowPkt p.row (attRow (scal a (p.row / max dh 1)) (scal b (p.row / max dh 1)) (pktRow p) (pktRow o))
      | none => p
    else
      { p with data := (List.range 16).flatMap (fun i =>
          let x := attScal (scal a (16 * p.row + i)) (scal b (16 * p.row + i))
          scalBytes x.1 x.2.1) })

/-- The positions of a row (PART 10b): 64 raw words. -/
def pktPos (p : RedPkt) : List Nat := (List.range 64).map (fun j => leAt p.data (4 * j) 4)
def posPkt (i : Nat) (l : List Nat) : RedPkt :=
  { part := 2, row := i, exp := 0, data := (List.range 64).flatMap (fun j => leBytes (l.getD j 0xFFFFFFFF) 4) }
/-- Every row of a partial with its positions, in row order. -/
def rowsOf (l : List RedPkt) : List (Nat × Row × List Nat) :=
  (l.filter (fun p => p.part == 0)).map (fun p => (p.row, pktRow p, match redFind l 2 p.row with | some q => pktPos q | none => []))

/-- SUM, SUMSQ, MAX, MIN and ARGMAX (R119), row by row. -/
def combineRows (op : Nat) (a b : List RedPkt) : List RedPkt :=
  (rowsOf a).flatMap (fun x =>
    match (rowsOf b).find? (fun y => y.1 == x.1) with
    | none => []
    | some y =>
      let r := combine (op + 1) 64 ⟨[x.2.1], x.2.2, false⟩ ⟨[y.2.1], y.2.2, false⟩
      [rowPkt x.1 (r.rows.headD {})] ++ (if op = 4 then [posPkt x.1 r.pos] else []))
/-- TOPK (R119): the KTOP largest of the union, over all rows of the partials. -/
def combineTopk (ktop : Nat) (a b : List RedPkt) : List RedPkt :=
  let part (l : List RedPkt) : Partial := ⟨(rowsOf l).map (fun x => x.2.1), (rowsOf l).flatMap (fun x => x.2.2), false⟩
  let r := combine 6 ktop (part a) (part b)
  (List.range (rowsOf a).length).flatMap (fun i => [rowPkt i (r.rows.getD i {}), posPkt i ((r.pos.drop (64 * i)).take 64)])

/-- The combine function of a reduction (R307). KTOP is not in the header: it is a free value. -/
def redCombine (s : State) (r : Red) (a b : List RedPkt) : List RedPkt :=
  match r.op with
  | 6 => combineAtt r.dh a b
  | 5 => combineTopk (1 + Config.freeNat s.free 0 % 256) a b
  | op => combineRows op a b

/-! ### A member's part -/

def getR (s : State) (rid : Nat) : Option Red := spFind s.fab.red rid
def setR (s : State) (rid : Nat) (r : Red) : State := { s with fab := { s.fab with red := spSet s.fab.red rid r } }

/-- The packets of a partial sent to a member (Table 11-8). -/
def redSend (s : State) (rid : Nat) (r : Red) (dst : Nat) : State :=
  r.own.foldl (fun x p =>
    let addr := rid % 2 ^ 16 + p.row % 256 * 2 ^ 16 + p.exp % 256 * 2 ^ 24 + r.op * 2 ^ 32 + min 3 r.level * 2 ^ 36 + p.part * 2 ^ 40
    enqueue x { hdr := mkHdr 6 3 (fabPos s) dst (p.data.length / 32) r.stat 0 addr (r.pmask + 2 ^ 16 * r.npkt), payload := p.data }) s

/-- The report code of a ring partial that met POISON (Table 11-10); the sequence is in ADDR. -/
def repRingPoison : Nat := 0x2B
/-- The sequences of the running trick whose contexts are sharded over a ring. -/
def ringSeqs (s : State) : List Nat :=
  match s.deal.cur with
  | none => []
  | some t => ((t.entries.filter (fun e => !e.dropped && cxRing (getM s e.model).ctx)).map (fun e => e.gid)).eraseDups

/-- The reduction ends at its destination: a REFUSED one is a model fault, a poisoned one fails its sequence
(Table 11-10). Which sequence a RID stands for is the dealer's: a free choice among the trick's ring sequences. -/
def redResult (s : State) (rid : Nat) (r : Red) : State :=
  let s1 := bump (setR s rid { r with done := true, got := [] }) (0xB000 + 0x7C)
  if r.stat = 0 then s1
  else if r.stat = 2 then
    let gs := ringSeqs s
    if gs.isEmpty then s1
    else report (useFree s1) { code := repRingPoison, blk := .fab, inst := 0, elem := rid, trick := s.deal.trick,
                               addr := gs.getD (Config.freeNat s.free 0 % gs.length) 0 }
  else report s1 { code := repFabRefused, blk := .fab, inst := 0, elem := rid }

/-- The member holds the result, or completes with a status: it goes to the destination. -/
def redFinish (s : State) (rid : Nat) (r : Red) : State :=
  if r.dest = fabPos s then redResult s rid r
  else bump (setR (redSend s rid r r.dest) rid { r with done := true, got := [] }) (0xB000 + 0x7C)

/-- A member whose partial of a level is ready goes up the tree until it has to wait for one, has passed its own on, or
holds the result. -/
def redGo (rid : Nat) : Nat → State → Red → State
  | 0, s, r => setR s rid r
  | f + 1, s, r =>
    match ringRole r.pmask r.level (fabPos s) with
    | .top => redFinish s rid r
    | .pass => redGo rid f s { r with level := r.level + 1 }
    | .recv _ => setR s rid r
    | .send dst =>
      let s1 := redSend s rid r dst
      if r.dest = fabPos s then setR s1 rid { r with level := 5 }
      else bump (setR s1 rid { r with done := true, got := [] }) (0xB000 + 0x7C)

/-- The number of packets of an attention partial (Table 11-7). -/
def attPkts (nrow dh : Nat) : Nat := nrow * dh + (nrow + 15) / 16
/-- An attention partial from what its decks compute: values the spec leaves to them (free values), or, with nothing to
attend to, R208's empty rows. -/
def attOwn (free : Option Nat) (nrow dh : Nat) : List RedPkt :=
  (List.range (nrow * dh)).map (fun i =>
    match free with
    | some k => { part := 0, row := i % 256, exp := Config.freeNat k (1 + i) % 256
                  data := (List.range 256).map (fun j => Config.freeByte k (i * 256 + j)) }
    | none => rowPkt (i % 256) { m := List.replicate 64 0 }) ++
  (List.range ((nrow + 15) / 16)).map (fun i =>
    { part := 1, row := i, exp := 0,
      data := (List.range 16).flatMap (fun j =>
        if nrow ≤ 16 * i + j then List.replicate 16 0
        else match free with
          | some k => scalBytes (Config.freeInt k (2 * (16 * i + j)), Config.freeInt k (2 ^ 20 + i)) (Config.freeInt k (2 * (16 * i + j) + 1), Config.freeInt k (2 ^ 21 + i))
          | none => scalBytes (-(2 ^ 30 - 1), 127) (0, 0)) })

/-! ### Ring attention (R310) -/

/-- A field of the DMSG payload (Table 11-9). -/
def dmF (p : Packet) (off n : Nat) : Nat := leAt p.payload off n
/-- The payload keeps to Table 11-9: KIND 1, at least one row, reserved bytes 0. -/
def dmOk (p : Packet) : Bool :=
  p.payload.length == 256 && dmF p 0 2 == 1 && dmF p 6 1 != 0 && dmF p 7 1 == 0 && (p.payload.drop 0x1E).all (fun b => b == 0)
/-- All members of the ring take part in ring attention (R222). -/
def ringMask (s : State) : Nat := 2 ^ fabN s - 1

/-- The running device's own part of a reduction begins when its DMSG leaves (R222): its partial is what its decks
compute. -/
def ownPart (s : State) (p : Packet) : State :=
  let rid := dmF p 0x1C 2
  let fresh := match getR s rid with | some r => r.done | none => true
  if pType p ≠ 7 ∨ !dmOk p ∨ pSrc p ≠ fabPos s ∨ !fresh then s
  else
    let dh := match ringSeqs s with | g :: _ => cxDh (getM s (getSlot s g).model).ctx | [] => 1 + Config.freeNat s.free 0 % 4
    let nrow := dmF p 6 1
    redGo rid 8 (useFree s) { op := 6, pmask := ringMask s, npkt := attPkts nrow dh, dh := dh, dest := fabPos s, own := attOwn (some s.free) nrow dh }

/-- FRAME_TRANSMIT (R298, R301). -/
def execFrameTransmit (n : Nat) (pkt : Packet) (s : State) : Res :=
  let s1 := if 16 ≤ n then s else opTransmit s n pkt
  .next (if s1 = s then s else ownPart s1 pkt)

/-- The pages of a sequence's layer read for attention: whether one of them is poisoned. -/
def pagesPoisoned (s : State) (fn : Nat) (c : List Byte) (g layer : Nat) : State × Bool × Bool :=
  match pagesOf s (cxWalk c) g layer with
  | (s1, none) => (s1, true, false)
  | (s1, some ps) =>
    let leaves := ps.filter (fun p => pLeaf p.2 && pUsed p.2 != 0)
    let r := leaves.foldl (fun (acc : State × Bool) p =>
      match memRead acc.1 fn true (pBase p.2) (pgBytes c p.2) .none with
      | (x, .ok _) => (x, acc.2)
      | (x, _) => (reportPoison x .att 0 0 0 (pBase p.2), true)) (s1, false)
    (r.1, r.2, leaves.isEmpty)

/-- DMSG (R310): the member attends its own pages and contributes its partial; POISON in its pages or its query rows makes
it a partial with STAT POISON (Table 11-10). A DMSG that breaks Table 11-9 is discarded (R303). -/
def execDmsg (n : Nat) (s : State) : Res :=
  match headOf s n 7 with
  | none => .next s
  | some p =>
    if !dmOk p then .next (fabRefused (takePkt s n p))
    else
      let rid := dmF p 0x1C 2
      let g := dmF p 2 2
      let nrow := dmF p 6 1
      let slot := getSlot s g
      let c := (getM s slot.model).ctx
      let dh := cxDh c
      let q := dmF p 0x10 8
      let qlen := nrow * 64 * dh + 4 * nrow
      let held : Bool := match getR s rid with | some r => !r.done | none => false
      if held = true ∨ (qlen ≠ 0 ∧ scrWaits s slot.fn q qlen) then .next s
      else
        let s1 := takePkt s n p
        let (s2, badq) := match memRead s1 slot.fn false q qlen .none with
          | (x, .ok _) => (x, false)
          | (x, _) => (x, true)
        let (s3, badp, empty) := pagesPoisoned s2 slot.fn c g (dmF p 4 2)
        let r : Red := { op := 6, pmask := ringMask s, npkt := attPkts nrow dh, dh := dh, dest := pSrc p
                         own := attOwn (if empty then none else some s3.free) nrow dh, stat := if badq || badp then 2 else 0 }
        .next (redGo rid 8 (useFree s3) r)

/-! ### RED (R307) -/

def rdOp (p : Packet) : Nat := pF p 83 80
def rdRid (p : Packet) : Nat := pF p 63 48
def rdLevel (p : Packet) : Nat := pF p 87 84
/-- The arriving packet as a packet of a partial. -/
def redOf (p : Packet) : RedPkt := { part := pF p 89 88, row := pF p 71 64, exp := pF p 79 72, data := p.payload }
/-- A packet differs from the member's own reduction (R307). -/
def redDiffers (r : Red) (p : Packet) : Bool := rdOp p != r.op || pF p 111 96 != r.pmask || pF p 127 112 != r.npkt
/-- The source whose packets the reduction takes now: the partner at the present level, or, at a destination that has
passed its partial on, the last member. -/
def redFrom (s : State) (r : Red) : Option Nat :=
  if r.level = 5 then (ringList r.pmask).getLast?
  else match ringRole r.pmask r.level (fabPos s) with
    | .recv q => some q
    | _ => none
/-- A RED packet can be taken now: it is of a reduction this member has a partial in, and comes from the member whose
partial it waits for, at that level; or the reduction is over, and the packet is dropped. -/
def redNow (s : State) (p : Packet) : Bool :=
  pType p == 6 && (match getR s (rdRid p) with
    | none => false
    | some r => r.done || redDiffers r p || pStat p == 1 ||
        (redFrom s r == some (pSrc p) && (r.level == 5 || rdLevel p == r.level)))

/-- RED (R307, R308): a packet of a partial arrives. When the partial is whole it is combined with this member's, the
earlier one first, and the reduction goes on. -/
def execRed (n : Nat) (s : State) : Res :=
  if 16 ≤ n then .next s
  else match (getE s n).rxq.find? (redNow s) with
    | none => .next s
    | some p =>
      let rid := rdRid p
      let s1 := takePkt s n p
      match getR s rid with
      | none => .next s
      | some r =>
        if r.done then .next s1
        else if redDiffers r p ∨ pStat p = 1 then .next (redFinish s1 rid { r with stat := 1 })
        else
          let stat := if pF p 7 7 = 1 then 2 else max r.stat (pStat p)
          let got := r.got ++ [redOf p]
          if got.length < r.npkt then .next (setR s1 rid { r with got := got, stat := stat })
          else if r.level = 5 then .next (redResult s1 rid { r with own := got, stat := stat })
          else
            let own := redCombine s1 r got r.own
            .next (redGo rid 8 (useFree s1) { r with own := own, got := [], stat := stat, level := r.level + 1 })

/-! ### Ring prefill (R223, R309) -/

/-- RING_PREFILL_STEP: the block that originated at member (POS − k) mod N, `len` bytes at `src`, goes on to the next
member's scratchpad at `dst` as posted WR packets on KV, and one NOTIFY posts 1 to semaphore `sem` of die `die` there.
The queries meet the block in the deck's STAGED stream. -/
def execRingPrefillStep (k src len dst die sem : Nat) (s : State) : Res :=
  if !fabUp s ∨ fabN s ≤ k ∨ len = 0 ∨ len % 32 ≠ 0 ∨ dst % 32 ≠ 0 ∨ rangeOf dst ≠ .scratch ∨ rangeOf (dst + len - 1) ≠ .scratch then .next s
  else if scrWaits s 256 src len then .next s
  else
    let nxt := (fabPos s + 1) % fabN s
    let (s1, bs, bad) := match memRead s 256 true src len .none with
      | (x, .ok b) => (x, b, false)
      | (x, _) => (reportPoison x .fab 0 0 0 src, List.replicate len 0, true)
    let s2 := (enumFrom 0 (chunks 256 ((len + 255) / 256) bs)).foldl (fun x c =>
      let h := mkHdr (if bad then 0x81 else 1) 2 (fabPos s) nxt (c.2.length / 32) 0 0 (dst + 256 * c.1) 0
      enqueue (noteSent x { hdr := h, payload := c.2 }) { hdr := h, payload := c.2 }) s1
    let note := withBytes s2 { hdr := mkHdr 5 2 (fabPos s) nxt 0 0 0 (sem % 1024 + die % 2 * 2 ^ 10 + 2 ^ 16) 0, payload := [] }
    .next (enqueue (noteSent s2 note) note)

end Sys2Proof.Machine
end

