-- ==== Sys2Proof/Machine/Dispatch.lean ====
section
/-!
DEFINITION. What every command does: one arm per constructor of Instr, each one call of its meaning.
-/
namespace Sys2Proof.Machine

def exec (i : Instr) (s : State) : Host.Outcome State Fault Refusal :=
  match i with
  | .powerUp => Sys2Proof.Machine.execPowerUp s
  | .hubPowerGood straps stages br => Sys2Proof.Machine.execHubPowerGood straps stages br s
  | .modidChanged straps => Sys2Proof.Machine.execModidChanged straps s
  | .mctpRequest rq => Sys2Proof.Machine.execMctpRequest rq s
  | .mctpEventRead => Sys2Proof.Machine.execMctpEventRead s
  | .inputLow => Sys2Proof.Machine.execInputLow s
  | .inputLowClear => Sys2Proof.Machine.execInputLowClear s
  | .powerDown => Sys2Proof.Machine.execPowerDown s
  | .resetEntry stages br => Sys2Proof.Machine.execResetEntry stages br s
  | .perstRelease stages br => Sys2Proof.Machine.execPerstRelease stages br s
  | .dataFibreDisconnect n => Sys2Proof.Machine.execDataFibreDisconnect n s
  | .laserInputLost conn => Sys2Proof.Machine.execLaserInputLost conn s
  | .run c tpb => Sys2Proof.Machine.execRun c tpb s
  | .drop c trick mask => Sys2Proof.Machine.execDrop c trick mask s
  | .abort c trick => Sys2Proof.Machine.execAbort c trick s
  | .event c dest ctr inc => Sys2Proof.Machine.execEvent c dest ctr inc s
  | .ping c seqno => Sys2Proof.Machine.execPing c seqno s
  | .load c q up => Sys2Proof.Machine.execLoad c q up s
  | .loadRaw c q up => Sys2Proof.Machine.execLoadRaw c q up s
  | .stream c q => Sys2Proof.Machine.execStream c q s
  | .streamPage c q => Sys2Proof.Machine.execStreamPage c q s
  | .ringGroupWrite c q up => Sys2Proof.Machine.execRingGroupWrite c q up s
  | .mac c q up => Sys2Proof.Machine.execMac c q up s
  | .drain c q up => Sys2Proof.Machine.execDrain c q up s
  | .drainScore c q up => Sys2Proof.Machine.execDrainScore c q up s
  | .drainValue c q up => Sys2Proof.Machine.execDrainValue c q up s
  | .drainFinal c q up => Sys2Proof.Machine.execDrainFinal c q up s
  | .vec c up => Sys2Proof.Machine.execVec c up s
  | .xrCombine c => Sys2Proof.Machine.execXrCombine c s
  | .xrTimeout c => Sys2Proof.Machine.execXrTimeout c s
  | .waitEvent c q => Sys2Proof.Machine.execWaitEvent c q s
  | .waitRelease c q => Sys2Proof.Machine.execWaitRelease c q s
  | .acquire c q => Sys2Proof.Machine.execAcquire c q s
  | .acquireGrant die sem => Sys2Proof.Machine.execAcquireGrant die sem s
  | .waitBarrier c q => Sys2Proof.Machine.execWaitBarrier c q s
  | .barrierRelease scope idx grp => Sys2Proof.Machine.execBarrierRelease scope idx grp s
  | .signalEvent c q => Sys2Proof.Machine.execSignalEvent c q s
  | .post c q => Sys2Proof.Machine.execPost c q s
  | .dealerNotice c q => Sys2Proof.Machine.execDealerNotice c q s
  | .moveCore c q up => Sys2Proof.Machine.execMoveCore c q up s
  | .moveRows c q up => Sys2Proof.Machine.execMoveRows c q up s
  | .moveRaw c q up => Sys2Proof.Machine.execMoveRaw c q up s
  | .loop c q => Sys2Proof.Machine.execLoop c q s
  | .endStep c q => Sys2Proof.Machine.execEndStep c q s
  | .stepComplete c q k => Sys2Proof.Machine.execStepComplete c q k s
  | .hang c q => Sys2Proof.Machine.execHang c q s
  | .dcacheInv mid c v => Sys2Proof.Machine.execDcacheInv mid c v s
  | .cluCfg mid c v => Sys2Proof.Machine.execCluCfg mid c v s
  | .coreMap mid c m v => Sys2Proof.Machine.execCoreMap mid c m v s
  | .coreRet mid c m v => Sys2Proof.Machine.execCoreRet mid c m v s
  | .unitRun tgt entry tag => Sys2Proof.Machine.execUnitRun tgt entry tag s
  | .unitAbort tgt tag => Sys2Proof.Machine.execUnitAbort tgt tag s
  | .fenceCmd tgt tag => Sys2Proof.Machine.execFenceCmd tgt tag s
  | .clear tgt tag => Sys2Proof.Machine.execClear tgt tag s
  | .selftest tgt tag => Sys2Proof.Machine.execSelftest tgt tag s
  | .commandParameterWrite mid u n v => Sys2Proof.Machine.execCommandParameterWrite mid u n v s
  | .mpWindow mid u n v => Sys2Proof.Machine.execMpWindow mid u n v s
  | .nbuCfg mid u v => Sys2Proof.Machine.execNbuCfg mid u v s
  | .nop u up => Sys2Proof.Machine.execNop u up s
  | .mpEnd u up => Sys2Proof.Machine.execMpEnd u up s
  | .yieldPoint u up => Sys2Proof.Machine.execYieldPoint u up s
  | .fence u up => Sys2Proof.Machine.execFence u up s
  | .movi u up => Sys2Proof.Machine.execMovi u up s
  | .movh u up => Sys2Proof.Machine.execMovh u up s
  | .addi u up => Sys2Proof.Machine.execAddi u up s
  | .ldc u up => Sys2Proof.Machine.execLdc u up s
  | .bnz u up => Sys2Proof.Machine.execBnz u up s
  | .waitb u up => Sys2Proof.Machine.execWaitb u up s
  | .rdl u up => Sys2Proof.Machine.execRdl u up s
  | .wrl u up => Sys2Proof.Machine.execWrl u up s
  | .tbld u up => Sys2Proof.Machine.execTbld u up s
  | .lmac u up => Sys2Proof.Machine.execLmac u up s
  | .recordFetch u up => Sys2Proof.Machine.execRecordFetch u up s
  | .lmacWave u up => Sys2Proof.Machine.execLmacWave u up s
  | .accz u up => Sys2Proof.Machine.execAccz u up s
  | .eopCvt u up => Sys2Proof.Machine.execEopCvt u up s
  | .eopResc u up => Sys2Proof.Machine.execEopResc u up s
  | .eopAdd u up => Sys2Proof.Machine.execEopAdd u up s
  | .eopSub u up => Sys2Proof.Machine.execEopSub u up s
  | .eopMul u up => Sys2Proof.Machine.execEopMul u up s
  | .eopTable u up => Sys2Proof.Machine.execEopTable u up s
  | .eopSsq u up => Sys2Proof.Machine.execEopSsq u up s
  | .eopAmax u up => Sys2Proof.Machine.execEopAmax u up s
  | .eopQnt u up => Sys2Proof.Machine.execEopQnt u up s
  | .bsendGather u up => Sys2Proof.Machine.execBsendGather u up s
  | .bsendSum u up => Sys2Proof.Machine.execBsendSum u up s
  | .bsendMax u up => Sys2Proof.Machine.execBsendMax u up s
  | .busBroadcast stk ugrp word data => Sys2Proof.Machine.execBusBroadcast stk ugrp word data s
  | .busCombine stk tag => Sys2Proof.Machine.execBusCombine stk tag s
  | .refreshDue u => Sys2Proof.Machine.execRefreshDue u s
  | .preemption u => Sys2Proof.Machine.execPreemption u s
  | .refreshDone u => Sys2Proof.Machine.execRefreshDone u s
  | .unitHang u => Sys2Proof.Machine.execUnitHang u s
  | .memoryRead rq a len err => Sys2Proof.Machine.execMemoryRead rq a len err s
  | .memoryWrite rq a data err => Sys2Proof.Machine.execMemoryWrite rq a data err s
  | .goldenReloadDone stk rgn err => Sys2Proof.Machine.execGoldenReloadDone stk rgn err s
  | .atomicAdd rq a size x => Sys2Proof.Machine.execAtomicAdd rq a size x s
  | .atomicSmin rq a size x => Sys2Proof.Machine.execAtomicSmin rq a size x s
  | .atomicSmax rq a size x => Sys2Proof.Machine.execAtomicSmax rq a size x s
  | .atomicUmin rq a size x => Sys2Proof.Machine.execAtomicUmin rq a size x s
  | .atomicUmax rq a size x => Sys2Proof.Machine.execAtomicUmax rq a size x s
  | .atomicCas rq a size x swap => Sys2Proof.Machine.execAtomicCas rq a size x swap s
  | .gatherRead rq a err => Sys2Proof.Machine.execGatherRead rq a err s
  | .retagC mid stk rgn => Sys2Proof.Machine.execRetagC mid stk rgn s
  | .retagE mid stk rgn mode => Sys2Proof.Machine.execRetagE mid stk rgn mode s
  | .retagOffline mid stk rgn => Sys2Proof.Machine.execRetagOffline mid stk rgn s
  | .retagDone stk => Sys2Proof.Machine.execRetagDone stk s
  | .remap mid stk n v => Sys2Proof.Machine.execRemap mid stk n v s
  | .rgnEnt mid stk v => Sys2Proof.Machine.execRgnEnt mid stk v s
  | .wayCfg mid k v => Sys2Proof.Machine.execWayCfg mid k v s
  | .wayCfgDone k way => Sys2Proof.Machine.execWayCfgDone k way s
  | .invCmd mid k v => Sys2Proof.Machine.execInvCmd mid k v s
  | .invCmdDone => Sys2Proof.Machine.execInvCmdDone s
  | .stackTempRead stk temps => Sys2Proof.Machine.execStackTempRead stk temps s
  | .kvInval mid v => Sys2Proof.Machine.execKvInval mid v s
  | .appendCopy layer => Sys2Proof.Machine.execAppendCopy layer s
  | .spill slot => Sys2Proof.Machine.execSpill slot s
  | .ttlExpiry gid => Sys2Proof.Machine.execTtlExpiry gid s
  | .deferredFree slot => Sys2Proof.Machine.execDeferredFree slot s
  | .ringPrefillStep k src len dst die sem => Sys2Proof.Machine.execRingPrefillStep k src len dst die sem s
  | .generate q rd => Sys2Proof.Machine.execGenerate q rd s
  | .append q rd => Sys2Proof.Machine.execAppend q rd s
  | .cancel q => Sys2Proof.Machine.execCancel q s
  | .pause q => Sys2Proof.Machine.execPause q s
  | .resume q => Sys2Proof.Machine.execResume q s
  | .release q => Sys2Proof.Machine.execRelease q s
  | .draft q => Sys2Proof.Machine.execDraft q s
  | .trickBuild prompts => Sys2Proof.Machine.execTrickBuild prompts s
  | .commit cands => Sys2Proof.Machine.execCommit cands s
  | .trickEnd => Sys2Proof.Machine.execTrickEnd s
  | .completionWrite q ok => Sys2Proof.Machine.execCompletionWrite q ok s
  | .faultReport tests => Sys2Proof.Machine.execFaultReport tests s
  | .fnSet => Sys2Proof.Machine.execFnSet s
  | .acctSet => Sys2Proof.Machine.execAcctSet s
  | .acctGet => Sys2Proof.Machine.execAcctGet s
  | .modelAdm => Sys2Proof.Machine.execModelAdm s
  | .admGet => Sys2Proof.Machine.execAdmGet s
  | .svcSet => Sys2Proof.Machine.execSvcSet s
  | .replenish => Sys2Proof.Machine.execReplenish s
  | .cqStall q => Sys2Proof.Machine.execCqStall q s
  | .frameTransmit n pkt => Sys2Proof.Machine.execFrameTransmit n pkt s
  | .frameReceive n seq ack crv crdl crcnt rx pkt => Sys2Proof.Machine.execFrameReceive n seq ack crv crdl crcnt rx pkt s
  | .nak n seq syms => Sys2Proof.Machine.execNak n seq syms s
  | .wr n => Sys2Proof.Machine.execWr n s
  | .rd n => Sys2Proof.Machine.execRd n s
  | .rdrsp n => Sys2Proof.Machine.execRdrsp n s
  | .wrrsp n => Sys2Proof.Machine.execWrrsp n s
  | .notify n => Sys2Proof.Machine.execNotify n s
  | .notifyPost src vc => Sys2Proof.Machine.execNotifyPost src vc s
  | .red n => Sys2Proof.Machine.execRed n s
  | .dmsg n => Sys2Proof.Machine.execDmsg n s
  | .laneSwap n tx lane => Sys2Proof.Machine.execLaneSwap n tx lane s
  | .laneRetire n tx lane => Sys2Proof.Machine.execLaneRetire n tx lane s
  | .fabTimeout tag => Sys2Proof.Machine.execFabTimeout tag s
  | .trainingUp n ver topo ring pos => Sys2Proof.Machine.execTrainingUp n ver topo ring pos s
  | .trainingTimeout n => Sys2Proof.Machine.execTrainingTimeout n s
  | .sqTail mid q v => Sys2Proof.Machine.execSqTail mid q v s
  | .cqHead mid q v => Sys2Proof.Machine.execCqHead mid q v s
  | .descriptorFetch q descs ok => Sys2Proof.Machine.execDescriptorFetch q descs ok s
  | .queueEnable mid q => Sys2Proof.Machine.execQueueEnable mid q s
  | .queueDisable mid q => Sys2Proof.Machine.execQueueDisable mid q s
  | .queueDrainComplete q => Sys2Proof.Machine.execQueueDrainComplete q s
  | .msiXInterrupt q => Sys2Proof.Machine.execMsiXInterrupt q s
  | .coalesceTimeout q => Sys2Proof.Machine.execCoalesceTimeout q s
  | .vectorUnmask f v => Sys2Proof.Machine.execVectorUnmask f v s
  | .functionReset f => Sys2Proof.Machine.execFunctionReset f s
  | .functionResetComplete f => Sys2Proof.Machine.execFunctionResetComplete f s
  | .fnQ mid v => Sys2Proof.Machine.execFnQ mid v s
  | .hostAtomicop f a size op x swap => Sys2Proof.Machine.execHostAtomicop f a size op x swap s
  | .busMasterEnable f => Sys2Proof.Machine.execBusMasterEnable f s
  | .linkUp speed width flit => Sys2Proof.Machine.execLinkUp speed width flit s
  | .configRequest f rq stages br => Sys2Proof.Machine.execConfigRequest f rq stages br s
  | .mbLock mid ch => Sys2Proof.Machine.execMbLock mid ch s
  | .go mid ch => Sys2Proof.Machine.execGo mid ch s
  | .ack mid ch => Sys2Proof.Machine.execAck mid ch s
  | .mbRelease mid ch => Sys2Proof.Machine.execMbRelease mid ch s
  | .secCmd obj => Sys2Proof.Machine.execSecCmd obj s
  | .getBoot => Sys2Proof.Machine.execGetBoot s
  | .getSerial => Sys2Proof.Machine.execGetSerial s
  | .getHealth => Sys2Proof.Machine.execGetHealth s
  | .spdmRequest rq => Sys2Proof.Machine.execSpdmRequest rq s
  | .doeDiscovery idx => Sys2Proof.Machine.execDoeDiscovery idx s
  | .ideKm rq => Sys2Proof.Machine.execIdeKm rq s
  | .tdisp f rq => Sys2Proof.Machine.execTdisp f rq s
  | .blkCtlEnOn mid b inst => Sys2Proof.Machine.execBlkCtlEnOn mid b inst s
  | .blkCtlEnOff mid b inst => Sys2Proof.Machine.execBlkCtlEnOff mid b inst s
  | .srst mid b inst => Sys2Proof.Machine.execSrst mid b inst s
  | .softResetDone b inst => Sys2Proof.Machine.execSoftResetDone b inst s
  | .domainStartDone d ok br => Sys2Proof.Machine.execDomainStartDone d ok br s
  | .domainStopDone d => Sys2Proof.Machine.execDomainStopDone d s
  | .blkIset mid b inst v => Sys2Proof.Machine.execBlkIset mid b inst v s
  | .blkLock mid b inst v => Sys2Proof.Machine.execBlkLock mid b inst v s
  | .nameHiWrite mid a v => Sys2Proof.Machine.execNameHiWrite mid a v s
  | .nameLoWrite mid a v => Sys2Proof.Machine.execNameLoWrite mid a v s
  | .nameLoRead mid a => Sys2Proof.Machine.execNameLoRead mid a s
  | .nameHiRead mid a => Sys2Proof.Machine.execNameHiRead mid a s
  | .readToClear mid a event => Sys2Proof.Machine.execReadToClear mid a event s
  | .registerWrite mid a bs => Sys2Proof.Machine.execRegisterWrite mid a bs s
  | .clockGate mid node => Sys2Proof.Machine.execClockGate mid node s
  | .clockUngate mid node => Sys2Proof.Machine.execClockUngate mid node s
  | .clockLoss src => Sys2Proof.Machine.execClockLoss src s
  | .clockReturn src stages br => Sys2Proof.Machine.execClockReturn src stages br s
  | .domainFault d => Sys2Proof.Machine.execDomainFault d s
  | .levelFall => Sys2Proof.Machine.execLevelFall s
  | .powerMeasure now avg1 avg100 => Sys2Proof.Machine.execPowerMeasure now avg1 avg100 s
  | .thermalRead rd => Sys2Proof.Machine.execThermalRead rd s
  | .pwrbrk asserted => Sys2Proof.Machine.execPwrbrk asserted s
  | .throttleN asserted => Sys2Proof.Machine.execThrottleN asserted s
  | .throttleHeld inp => Sys2Proof.Machine.execThrottleHeld inp s
  | .stormEnd inp => Sys2Proof.Machine.execStormEnd inp s
  | .thrCap mid v => Sys2Proof.Machine.execThrCap mid v s
  | .migCmd mid v => Sys2Proof.Machine.execMigCmd mid v s
  | .migrationStart stk => Sys2Proof.Machine.execMigrationStart stk s
  | .migrationCopyDone stk => Sys2Proof.Machine.execMigrationCopyDone stk s
  | .retrainDone stk timing voltage => Sys2Proof.Machine.execRetrainDone stk timing voltage s
  | .marginProbe stk ch timing voltage lanes => Sys2Proof.Machine.execMarginProbe stk ch timing voltage lanes s
  | .rasPop mid v => Sys2Proof.Machine.execRasPop mid v s
  | .journalProgram ok => Sys2Proof.Machine.execJournalProgram ok s
  | .jrnCompact mid v => Sys2Proof.Machine.execJrnCompact mid v s
  | .compactionCommit => Sys2Proof.Machine.execCompactionCommit s
  | .segmentEraseDone ok => Sys2Proof.Machine.execSegmentEraseDone ok s
  | .svnCommit mid v => Sys2Proof.Machine.execSvnCommit mid v s
  | .bootConfirm mid v => Sys2Proof.Machine.execBootConfirm mid v s
  | .bootPref mid v => Sys2Proof.Machine.execBootPref mid v s
  | .flashProgram mid => Sys2Proof.Machine.execFlashProgram mid s
  | .flashErase mid => Sys2Proof.Machine.execFlashErase mid s
  | .flashRead mid => Sys2Proof.Machine.execFlashRead mid s
  | .flashCmdDone ok => Sys2Proof.Machine.execFlashCmdDone ok s
  | .bypass => Sys2Proof.Machine.execBypass s
  | .idcode => Sys2Proof.Machine.execIdcode s
  | .samplePreload => Sys2Proof.Machine.execSamplePreload s
  | .extest => Sys2Proof.Machine.execExtest s
  | .extestPulse => Sys2Proof.Machine.execExtestPulse s
  | .extestTrain => Sys2Proof.Machine.execExtestTrain s
  | .clamp => Sys2Proof.Machine.execClamp s
  | .highz => Sys2Proof.Machine.execHighz s
  | .debugUnlock key sigOk => Sys2Proof.Machine.execDebugUnlock key sigOk s
  | .laserInputRestored n => Sys2Proof.Machine.execLaserInputRestored n s
  | .farEndLightLost n => Sys2Proof.Machine.execFarEndLightLost n s
  | .pcieLinkDown => Sys2Proof.Machine.execPcieLinkDown s
  | .laneMarginCommand lane timing steps => Sys2Proof.Machine.execLaneMarginCommand lane timing steps s
  | .jtagTrstN => Sys2Proof.Machine.execJtagTrstN s
  | .debugInstruction code => Sys2Proof.Machine.execDebugInstruction code s
  | .unitCommandComplete u pass => Sys2Proof.Machine.execUnitCommandComplete u pass s
  | .asyncInstructionComplete u k => Sys2Proof.Machine.execAsyncInstructionComplete u k s
  | .modelLoad slot b => Sys2Proof.Machine.execModelLoad slot b s
  | .modelLoadDone slot => Sys2Proof.Machine.execModelLoadDone slot s
  | .fuseBurnDone => Sys2Proof.Machine.execFuseBurnDone s
  | .lpddrTemperatureReport ch mult => Sys2Proof.Machine.execLpddrTemperatureReport ch mult s
  | .atsInvalidation f => Sys2Proof.Machine.execAtsInvalidation f s

end Sys2Proof.Machine
end

