-- ==== Sys2Proof/Safety.lean ====
section
/-!
DEFINITION. What a run keeps, whatever its commands: the canonical form of the byte memories, and the fuses, which only
burn (R412, R415); and when a sequencer is at a step.
-/
namespace Sys2Proof.Machine

/-- Every byte memory is in its canonical form: addresses strictly rising, no byte listed that an unlisted address reads as
anyway (0 in the memories, 0xFF in the erased flash). -/
abbrev Memory.wf (s : State) : Prop :=
  spWf 0 s.mem.dram = true ∧ spWf 0 s.mem.lpd = true ∧ spWf 0 s.mem.scratch = true ∧ spWf 0xFF s.flash = true
theorem Memory.wf.dram {s : State} (w : Memory.wf s) : spWf 0 s.mem.dram = true := w.1
theorem Memory.wf.lpd {s : State} (w : Memory.wf s) : spWf 0 s.mem.lpd = true := w.2.1
theorem Memory.wf.scratch {s : State} (w : Memory.wf s) : spWf 0 s.mem.scratch = true := w.2.2.1
theorem Memory.wf.flash {s : State} (w : Memory.wf s) : spWf 0xFF s.flash = true := w.2.2.2

/-- Fuses only burn: the fused security version does not fall, a programmed slot keeps its hash and a revoked one stays
revoked. -/
structure FuseLe (a b : Fuses) : Prop where
  svn : a.svn ≤ b.svn
  prog : ∀ k, a.programmed.getLsbD k = true → b.programmed.getLsbD k = true
  rev : ∀ k, a.keyrev.getLsbD k = true → b.keyrev.getLsbD k = true
  hash : ∀ k, a.programmed.getLsbD k = true → b.keyhash[k]? = a.keyhash[k]?
  dbg : a.dbgOff = true → b.dbgOff = true

/-- What one command may do to the state around its own effect: the queue is not its to change, fuses only burn, the byte
memories stay canonical, free values are fresh, and what has left the device is not taken back. -/
structure Keep (s t : State) : Prop where
  queue : t.pending = s.pending
  fuses : FuseLe s.fuses t.fuses
  mem : Memory.wf s → Memory.wf t
  free : s.free ≤ t.free
  out : ∃ l, t.out = l ++ s.out

/-- Sequencer `q` of cluster `c` is at a step it may issue (R79): the cluster runs, the sequencer issues, the word at its pc is
`w`, of an opcode its deck may hold, its reserved bits 0. -/
structure Issues (s : State) (c q w : Nat) : Prop where
  run : (getC s c).active = true
  st : (getS (getC s c) q).st = .issue
  res : (deckOf (getC s c) q).isSome = true
  word : stepAt (getC s c) q = some w
  deck : opAllowed q (fld w 3 0) = true
  rsv : stepRsvOk w = true

/-- The column groups of a weight ring's group `g`, read one after another with no error on the way (R69). -/
def groupsRead (s : State) (fn : Nat) (td : TD) (row g ncol : Nat) : State × Except (Nat × Nat) (List RawGroup) :=
  (List.range ncol).foldl (fun (acc : State × Except (Nat × Nat) (List RawGroup)) j =>
    match acc with
    | (x, .error e) => (x, .error e)
    | (x, .ok l) =>
      match readGroup x fn td (row + j) g .none with
      | (y, .ok r) => (y, .ok (l ++ [r]))
      | (y, .error e) => (y, .error e)) (s, .ok [])

/-- Near-bank unit `u` is at micro-instruction `w` (R134, R136): its stack is ON, it runs, its pc is in the store, and the word there,
`w`, has an opcode of Table 5-7 and its reserved bits 0. -/
structure URuns (s : State) (u w : Nat) : Prop where
  on : isOn s .nbu u = true
  st : (getU s u).st = .running
  pc : (getU s u).pc ≤ 1023
  word : (spGet 0 (getU s u).store (getU s u).pc).toNat = w
  ok : mpOk w = true

end Sys2Proof.Machine
end

