-- ==== Sys2Proof/Certificates/Slice0/Obligations.lean ====
section
/-!
DEFINITION. The statements for the provers: what the commands of the KDX-512 do, by family, in the words of the spec's
rules. Each docstring names the rules its statement rests on, and the log entry where it rests on the model's choice.
-/
open Sys2Proof Sys2Proof.Machine

/-- The law of a step: with a command at the front of the queue the block does that command on the queue's rest (the form of a
block's step). -/
def Obligations.StepRunsFront : Prop :=
  ∀ (c : Instr) (rest : List Instr) (s : State), step { s with pending := c :: rest } = exec c { s with pending := rest }

/-- With no command waiting a step is the passing of time (log entry 1, the model's choice): nothing while the module is down or
its crystal is lost; else the hub's clock goes on by one, and while no boot runs that is all. -/
def Obligations.IdleStep : Prop :=
  ∀ s : State, s.pending = [] →
    ((s.edge.power = .off ∨ s.edge.power = .ramping ∨ s.clk.lost.contains .crystal = true) → step s = .next s) ∧
    ((s.edge.power = .up ∨ s.edge.power = .tripped) → s.clk.lost.contains .crystal = false → s.boot.running = false →
      step s = .next { s with time := s.time + 1 })

/-- Reset leaves the block as Table 1-6 has it at hub power-good: PERST# and FAULT_N asserted, no laser or throttle demand, no
function, queue, request or trick, boot about to run, every memory empty, the fuses as burned at manufacture, and nothing
waiting. The byte memories are canonical at reset. -/
def Obligations.ResetState : Prop :=
  (
    let s := State.reset
    s.pending = [] ∧ s.out = [] ∧ s.edge.perst = true ∧ faultN s = true ∧ alertN s = false ∧ s.boot.running = true ∧ s.boot.stage = 0 ∧
      s.boot.cfgReady = false ∧ s.boot.devReady = false ∧ s.regs.file = [] ∧ s.mem.dram = [] ∧ s.mem.lpd = [] ∧ s.mem.scratch = [] ∧
      s.flash = [] ∧ s.clu = [] ∧ s.nbu = [] ∧ s.mbx = [] ∧ s.host.queues = [] ∧ s.deal.running = false ∧ s.deal.next = 1 ∧
      s.deal.cur = none ∧ s.thr.level = 0 ∧ s.fuses.svn = 0 ∧ s.fuses.programmed = 3 ∧ s.fuses.keyrev = 0 ∧ s.tap = .idcode) ∧
  (
   Memory.wf State.reset)

/-- No command stops the block, but for a debug instruction while debug is unlocked, and what every command leaves alone: the
queue; and what it can only add to: the fuses, the free values, what has left the device. -/
def Obligations.EveryCommandCompletes : Prop :=
  ∀ (i : Instr) (s : State), (∀ code, i = .debugInstruction code → ¬ (tapOn s = true ∧ s.sec.unlocked = true)) →
    ∃ t, exec i s = .next t ∧ t.pending = s.pending ∧ FuseLe s.fuses t.fuses ∧ s.free ≤ t.free ∧ ∃ l, t.out = l ++ s.out

/-- Every step keeps the byte memories canonical, so that equal memories are equal data: the stacks' cells, the LPDDR5X tier,
the scratchpads and the flash. -/
def Obligations.StepKeepsMemoryCanonical : Prop :=
  ∀ s t : State, Memory.wf s → step s = .next t → Memory.wf t

/-- Fuses only burn (Table 16-4, R412, R415): over any step the fused security version does not fall, a programmed slot keeps
its hash, and a revoked slot stays revoked. -/
def Obligations.StepOnlyBurnsFuses : Prop :=
  ∀ s t : State, step s = .next t → FuseLe s.fuses t.fuses

/-- POWER_UP, HUB_POWER_GOOD and POWER_DOWN (R11, R20, R22, R359): the rails come up; at hub power-good the strap is latched,
FAULT_N is asserted by the self-test, fuses and flash are as they were, and the registers, blocks, functions, memories,
clusters, units, mailboxes, the dealer, the journal, the RAS block, the throttle and the TAP are at their reset state, on
which the sources that are still lost are noted and from which boot runs its stages. A power-down of a module that is up
asserts FAULT_N, makes the modulators dark, and removes the rails of the dies and then those of the hub; it leaves all of
these at their reset state, the fuses no less burned, and the flash as it was where no flash command ran. RESET_ENTRY and
PERST_RELEASE (R404, R405, R407, Table 1-6): a fundamental reset leaves no queue, request, trick, message or memory content,
no management event but for the clock sources still lost and no fatal stop, a pending debug unlock in force, and boot starts
over at stage 0; while the module is not up the pin's level alone changes. The release starts the readiness reference and
takes a pin-driving TAP instruction out of effect (R420). -/
def Obligations.PowerAndReset : Prop :=
  (
    (∀ s : State, s.edge.power = .off → exec .powerUp s = .next { s with edge := { s.edge with power := .ramping } }) ∧
    (∀ (straps stages : Nat) (br : Bring) (s : State), s.edge.power = .ramping →
      ∃ t, exec (.hubPowerGood straps stages br) s = .next (bootRun br stages (noteLosses t)) ∧
      t.edge.power = .up ∧ t.edge.modid = straps % 8 ∧ t.edge.modidChanged = false ∧ faultN t = true ∧ t.edge.perst = s.edge.perst ∧ t.time = 0 ∧
      t.boot.stage = 0 ∧ t.boot.running = !s.clk.lost.contains .crystal ∧ t.fuses = s.fuses ∧ t.flash = s.flash ∧ t.regs = {} ∧ t.blk = {} ∧
      t.host = {} ∧ t.mem = {} ∧ t.clu = [] ∧ t.nbu = [] ∧ t.deal = {} ∧ t.kv = {} ∧ t.jrn = {} ∧ t.ras = {} ∧ t.thr = {} ∧ t.mbx = [] ∧ t.tap = .idcode ∧
      t.clk = s.clk) ∧
    (∀ s : State, s.edge.power ≠ .off → ∃ t, exec .powerDown s = .next t ∧ t.edge.power = .off ∧ t.edge.perst = s.edge.perst ∧
      FuseLe s.fuses t.fuses ∧ (s.sec.flashOp = none → t.flash = s.flash) ∧ t.regs = {} ∧ t.blk = {} ∧ t.host = {} ∧ t.mem = {} ∧ t.clu = [] ∧
      t.nbu = [] ∧ t.deal = {} ∧ t.kv = {} ∧ t.jrn = {} ∧ t.ras = {} ∧ t.thr = {} ∧ t.mbx = [] ∧ t.tap = .idcode ∧ t.pending = s.pending ∧
      (s.edge.power = .up → t.out = (([Out.faultPin true, .modulatorsDark] ++ (dieRails ++ hubRails).map (fun r => Out.rail r false)).reverse ++ s.out)))) ∧
  (
    (∀ (stages : Nat) (br : Bring) (s : State), s.edge.perst = false → s.edge.power = .up → s.clk.lost.contains .crystal = false →
      ∃ t, exec (.resetEntry stages br) s = .next (bootRun br stages (keepHubOn (noteLosses t))) ∧ t.boot.stage = 0 ∧ t.boot.cfgReady = false ∧ t.boot.devReady = false ∧
        t.boot.locked = false ∧ t.host = {} ∧ t.deal = {} ∧ t.kv = {} ∧ t.mem = {} ∧ t.clu = [] ∧ t.nbu = [] ∧ t.mbx = [] ∧ t.jrn = {} ∧
        t.ras = {} ∧ t.wear = {} ∧ t.thr = {} ∧ t.regs = {} ∧ t.edge.events = [] ∧ t.edge.fatal = false ∧ t.edge.perst = true ∧ t.clk = s.clk ∧ t.sec.unlocked = (s.sec.unlocked || s.sec.unlockPending)) ∧
    (∀ (stages : Nat) (br : Bring) (s : State), s.edge.perst = false → (s.edge.power ≠ .up ∨ s.clk.lost.contains .crystal = true) →
      exec (.resetEntry stages br) s = .next { s with edge := { s.edge with perst := true } }) ∧
    (∀ (stages : Nat) (br : Bring) (s : State), s.edge.perst = true → ∃ t, exec (.perstRelease stages br) s = .next (bootRun br stages t) ∧
      t.edge.perst = false ∧ t.boot.reference = s.time ∧ tapDrives t.tap = false ∧ t.regs = s.regs ∧ t.mem = s.mem ∧ t.boot.stage = s.boot.stage))

/-- CLOCK_LOSS and CLOCK_RETURN (R359, Table 14-3): the loss of a source sets its sticky bit and becomes a management event, and
its service follows the table (an unpowered hub only has the source lost: what it lacked is noted at hub power-good); the
return of REFCLK, of the service clock or of HCLK leaves only the source back; the crystal's return while the module is up
starts the hub from its reset state. POWER_MEASURE and THERMAL_READ. The power limiter (R368): with an average above its
share of the limit and no demand running, one level above the one in force is demanded; with neither, the demand ends and
the averages are all that is stored. The thermal trips (R370): a compute sensor that reads 115 °C or more removes the rails,
stops the dealer and asserts FAULT_N; with no sensor at its shutdown limit, the coolant's temperatures are stored and the
trips to throttle, the controller (R369) and the optical pairs (R428) judged. -/
def Obligations.ClocksAndHeat : Prop :=
  (
    (∀ (src : ClkSrc) (r : Bool) (i : Nat) (s : State), lossBit src = some (r, i) → s.clk.lost.contains src = false → hubPowered s = true →
      ∃ t, exec (.clockLoss src) s = .next (clockOut t src) ∧ t.clk.lost = s.clk.lost ++ [src] ∧
        t.edge.events = s.edge.events ++ [.clockLoss r i] ∧
        rdReg t (0x1000 + (if r then 0x4C else 0x48)) = (rdReg s (0x1000 + (if r then 0x4C else 0x48)) ||| w32 (2 ^ i)) ∧
        t.mem = s.mem ∧ t.deal = s.deal ∧ t.clu = s.clu ∧ t.fab = s.fab) ∧
    (∀ (n : Nat) (s : State), n < 16 → s.clk.lost.contains (.oclk n) = false → hubPowered s = true →
      exec (.clockLoss (.oclk n)) s = .next (engClocks { s with clk := { s.clk with lost := s.clk.lost ++ [.oclk n] } })) ∧
    (∀ (src : ClkSrc) (s : State), srcOk src = true → s.clk.lost.contains src = false → hubPowered s = false →
      exec (.clockLoss src) s = .next { s with clk := { s.clk with lost := s.clk.lost ++ [src] } }) ∧
    (∀ (src : ClkSrc) (stages : Nat) (br : Bring) (s : State), s.clk.lost.contains src = true → (src = .refclk ∨ src = .sclk ∨ src = .hclk) →
      exec (.clockReturn src stages br) s = .next { s with clk := { s.clk with lost := s.clk.lost.filter (fun c => c != src) } }) ∧
    (∀ (stages : Nat) (br : Bring) (s : State), s.clk.lost.contains .crystal = true → s.edge.power = .up →
      ∃ t, exec (.clockReturn .crystal stages br) s = .next (bootRun br stages (keepHubOn (noteLosses t))) ∧ t.boot.stage = 0 ∧ t.boot.running = true ∧
        t.clk.lost.contains .crystal = false ∧ t.host = {} ∧ t.deal = {} ∧ t.mem = {} ∧ t.clu = [] ∧ t.nbu = [])) ∧
  (
    (∀ (now avg1 avg100 : Nat) (s : State), (95 * fld (rdN s 0x207C) 27 16 < 100 * avg1 ∨ 98 * fld (rdN s 0x207C) 11 0 < 100 * avg100) →
      hubUp s = true → s.thr.powerOn = false → ∃ t, exec (.powerMeasure now avg1 avg100) s = .next (raiseLevel t) ∧
        t.thr = { s.thr with powerOn := true, powerDemand := min 4 (s.thr.level + 1), powerAt := 0 } ∧ rdN t 0x2078 = avg100 % 65536) ∧
    (∀ (now avg1 avg100 : Nat) (s : State), hubUp s = true → ¬ 95 * fld (rdN s 0x207C) 27 16 < 100 * avg1 → ¬ 98 * fld (rdN s 0x207C) 11 0 < 100 * avg100 →
      ∃ t, exec (.powerMeasure now avg1 avg100) s = .next (thrFell s t) ∧
        t = { s with thr := { s.thr with powerOn := false, powerDemand := 0, powerAt := 0 }, regs := t.regs } ∧ rdN t 0x2074 = now % 65536 + 65536 * (avg1 % 65536) ∧ rdN t 0x2078 = avg100 % 65536) ∧
    (∀ (rd : Sensors) (i c : Nat) (s : State), s.edge.power = .up → s.clk.lost.contains .crystal = false → overAt rd.compute 115 = some (i, c) →
      ∃ t, exec (.thermalRead rd) s = .next t ∧ t.edge.power = .tripped ∧ faultN t = true ∧ t.deal.running = false ∧
        t.deal.cur = none ∧ t.deal.cq = [] ∧ t.mem.dram = [] ∧ t.mem.lpd = [] ∧ t.mem.scratch = [] ∧ t.clu = [] ∧ t.nbu = []) ∧
    (∀ (rd : Sensors) (s : State), hubUp s = true → overAt rd.compute 115 = none → overAt rd.hub 120 = none → overAt rd.board 110 = none →
      ∃ x, exec (.thermalRead rd) s = .next (thrFell s (raiseLevel ((List.range 8).foldl pairTherm
          (if rd.compute.isEmpty then tripAll (tripAll x 1 105 rd.compute) 2 110 rd.hub
           else thermCtl (tripAll (tripAll x 1 105 rd.compute) 2 110 rd.hub) rd.compute)))) ∧
        rdN x (thm 0x58) = rd.inlet % 256 + 256 * (rd.outlet % 256) + 65536 * (maxN rd.board % 256) ∧
        x.mem = s.mem ∧ x.deal = s.deal ∧ x.thr.level = s.thr.level))

/-- The software floor, INPUT_LOW and the level's fall (R17, R367): THR_CAP stores the lowest level demanded, 5 to 7 as 4;
INPUT_LOW becomes a management event and demands L4; clearing it changes no level, but the time below it begins when it was
the last demand of the level in force; LEVEL_FALL goes down one step when every demand has been below the level for 10 ms,
counted afresh at each step, and before that does nothing. A demand above the level in force raises it to that demand, and
nothing happens otherwise; with a level CCLK changes, and the change is a change of capacity. The throttle inputs (R371,
Table 14-9): a new accepted level is what THM_IN shows, its moment is counted among the transitions, and while it is
asserted it demands PWRBRK#'s floor, or THR_EXT for THROTTLE_N; an input asserted for 1 s is held, and a management event
says so; a storm ends after 1 s without a transition; within 1 s of one neither happens. -/
def Obligations.Throttling : Prop :=
  (
    (∀ (mid : Nat) (v : W32) (s : State), (midOf mid = 1 ∨ midOf mid = 0x101) → hubUp s = true → s.boot.recovery = false →
      ∃ t, exec (.thrCap mid v) s = .next (thrFell s (raiseLevel t)) ∧ t = wrReg s (thm 0x48) (w32 (min (v.toNat % 8) 4)) ∧ rdN t (thm 0x48) = min (v.toNat % 8) 4) ∧
    (∀ s : State, hubUp s = true → s.edge.inputLow = false → ∃ t, exec .inputLow s = .next (thrFell s (raiseLevel t)) ∧ t.edge.inputLow = true ∧
      t.edge.events = s.edge.events ++ [.inputLow] ∧ 4 ≤ demandMax t ∧ t.thr = s.thr ∧ t.mem = s.mem ∧ t.deal = s.deal) ∧
    (∀ s : State, hubUp s = true → exec .inputLowClear s = .next (thrFell s { s with edge := { s.edge with inputLow := false } })) ∧
    (∀ b s : State, (s.thr.level ≤ demandMax b → demandMax s < s.thr.level → thrFell b s = { s with thr := { s.thr with since := s.time } }) ∧
      (demandMax b < s.thr.level ∨ s.thr.level ≤ demandMax s → thrFell b s = s)) ∧
    (∀ s : State, s.time < s.thr.since + 10000000 → exec .levelFall s = .next s) ∧
    (∀ s : State, hubUp s = true → 0 < s.thr.level → demandMax s < s.thr.level → s.thr.since + 10000000 ≤ s.time → ∃ t, exec .levelFall s = .next (trainSelectAll t) ∧
      t.thr = { s.thr with level := s.thr.level - 1, since := s.time } ∧ t.deal = { s.deal with capChange := true } ∧
      rdN t 0x1080 = levelMhz (s.thr.level - 1) * 65537) ∧
    (∀ s : State, demandMax s ≤ s.thr.level → raiseLevel s = s) ∧
    (∀ s : State, s.thr.level < demandMax s → ∃ t, raiseLevel s = trainSelectAll t ∧ t.thr = { s.thr with level := demandMax s, since := s.time } ∧
      t.deal = { s.deal with capChange := true } ∧ rdN t 0x1080 = levelMhz (demandMax s) * 65537)) ∧
  (
    (∀ (a : Bool) (s : State), hubUp s = true → s.thr.brk.asserted ≠ a → ∃ t, exec (.pwrbrk a) s = .next (thrFell s (raiseLevel t)) ∧ t.thr.brk.asserted = a ∧
      t.thr.ext = s.thr.ext ∧ t.thr.level = s.thr.level ∧ t.thr.brk.edges.getLast? = some s.time ∧ (a = true → 4 ≤ demandMax t) ∧
      t.mem = s.mem ∧ t.deal = s.deal) ∧
    (∀ (a : Bool) (s : State), hubUp s = true → s.thr.ext.asserted ≠ a → ∃ t, exec (.throttleN a) s = .next (thrFell s (raiseLevel t)) ∧ t.thr.ext.asserted = a ∧
      t.thr.brk = s.thr.brk ∧ t.thr.level = s.thr.level ∧ t.thr.ext.edges.getLast? = some s.time ∧
      (a = true → fld (rdN s (thm 0x4C)) 2 0 ≤ demandMax t) ∧ t.mem = s.mem ∧ t.deal = s.deal) ∧
    (∀ s : State, hubUp s = true → s.thr.brk.asserted = true → s.thr.brk.held = false → (∀ e, s.thr.brk.edges.getLast? = some e → e + 1000000000 ≤ s.time) →
      ∃ t, exec (.throttleHeld 0) s = .next (thrFell s (raiseLevel t)) ∧
      t.thr = { s.thr with brk := { s.thr.brk with held := true } } ∧ t.edge.events = s.edge.events ++ [.throttleHeld 0]) ∧
    (∀ s : State, hubUp s = true → s.thr.ext.asserted = true → s.thr.ext.held = false → (∀ e, s.thr.ext.edges.getLast? = some e → e + 1000000000 ≤ s.time) →
      ∃ t, exec (.throttleHeld 1) s = .next (thrFell s (raiseLevel t)) ∧
      t.thr = { s.thr with ext := { s.thr.ext with held := true } } ∧ t.edge.events = s.edge.events ++ [.throttleHeld 1]) ∧
    (∀ s : State, hubUp s = true → (∀ e, s.thr.brk.edges.getLast? = some e → e + 1000000000 ≤ s.time) → exec (.stormEnd 0) s = .next (thrFell s { s with thr := { s.thr with brk := { s.thr.brk with storm := false } } })) ∧
    (∀ s : State, hubUp s = true → (∀ e, s.thr.ext.edges.getLast? = some e → e + 1000000000 ≤ s.time) → exec (.stormEnd 1) s = .next (thrFell s { s with thr := { s.thr with ext := { s.thr.ext with storm := false } } })) ∧
    (∀ (e : Nat) (s : State), (s.thr.brk.edges.getLast? = some e → s.time < e + 1000000000 → exec (.throttleHeld 0) s = .next s ∧ exec (.stormEnd 0) s = .next s) ∧
      (s.thr.ext.edges.getLast? = some e → s.time < e + 1000000000 → exec (.throttleHeld 1) s = .next s ∧ exec (.stormEnd 1) s = .next s)))

/-- BLK_CTL and the soft reset (R343, R361, R362, Table 13-3): EN written 1 to a block that is OFF or FAILED closes its domain's
switch and the block is STARTING; EN written 0 to a block that is ON starts its stop, a change of capacity, or is refused
and PWR_REFUSE says why; SRST is held until the block is not BUSY, and then clears a unit but for its micro-program store,
or stops and starts a switched block. -/
def Obligations.BlockControl : Prop :=
  (∀ (mid : Nat) (b : Blk) (i d : Nat) (s : State), domOf b i = some d → hdrReach s mid b i = .yes → (d < 94 ∨ midOf mid = 0x102) → s.edge.power = .up →
    (blkState s b i = .off ∨ blkState s b i = .failed) → tooHot s b i = false →
    (∀ m ∈ domMembers d, blkState s m.1 m.2 ≠ .stopping) → (b = .opt → pairHot s (i / 2) 75 = false) →
    ∃ u, exec (.blkCtlEnOn mid b i) s = .next (setBlk u b i .starting) ∧ isPwr u d = true ∧ u = { s with regs := u.regs } ∧
      blkState (setBlk u b i .starting) b i = .starting) ∧
  (∀ (mid : Nat) (b : Blk) (i d : Nat) (s : State), domOf b i = some d → hdrReach s mid b i = .yes → blkState s b i = .on →
    stopRefused s mid b i = none → ∃ u, exec (.blkCtlEnOff mid b i) s = .next (if b = .llc then flushLines u (fun l => l.way / 64 == i) else u) ∧
      blkState u b i = .stopping ∧ u.deal = { s.deal with capChange := true } ∧ u.mem = s.mem ∧ u.clu = s.clu ∧ u.nbu = s.nbu) ∧
  (∀ (mid : Nat) (b : Blk) (i d c : Nat) (s : State), domOf b i = some d → hdrReach s mid b i = .yes → blkState s b i ≠ .retired →
    stopRefused s mid b i = some c → exec (.blkCtlEnOff mid b i) s = .next (wrReg s 0x2070 (w32 (d + 256 * c)))) ∧
  (∀ (mid : Nat) (b : Blk) (i : Nat) (s : State), hdrReach s mid b i = .yes → blkSrst b = true → isOn s b i = true →
    s.blk.srst.contains (pageOf b i) = false → ∃ t, exec (.srst mid b i) s = .next t ∧ t.blk = { s.blk with srst := s.blk.srst ++ [pageOf b i] } ∧
      bit (rdReg t (pageOf b i + 0x0C)) 1 = true ∧ t = { s with regs := t.regs, blk := t.blk }) ∧
  (∀ (u : Nat) (s : State), s.blk.srst.contains (pageOf .nbu u) = true → blkBusy s .nbu u = false → isOn s .nbu u = true →
    ∃ t, exec (.softResetDone .nbu u) s = .next t ∧ getU t u = { store := (getU s u).store, staged := (getU s u).staged } ∧
      t.blk.srst.contains (pageOf .nbu u) = false ∧ t = { s with regs := t.regs, blk := t.blk, nbu := t.nbu }) ∧
  (∀ (b : Blk) (i : Nat) (s : State), s.blk.srst.contains (pageOf b i) = true → blkBusy s b i = false → isOn s b i = true → blkPwr b = true → b ≠ .nbu →
    b ≠ .ch → ∃ u, exec (.softResetDone b i) s = .next (if b = .llc then flushLines u (fun l => l.way / 64 == i) else u) ∧ blkState u b i = .stopping ∧
      u.blk.cycle = s.blk.cycle ++ [pageOf b i] ∧ u.deal = { s.deal with capChange := true } ∧ u.mem = s.mem ∧ u.clu = s.clu ∧ u.nbu = s.nbu)

/-- Power domains (R361, R364, R365): the members that start finish; when the start of a cluster or a slice fails the switch
opens and it is FAILED, a change of capacity; a cluster whose stop is done is OFF with its clock gated; an overcurrent opens
the switch and PWR_FAULT names the domain before its members are lost. The gating tree (R357, Table 14-2): a gate request
for a node in use is refused with CLKGATE_BUSY and nothing else changes; a node number that does not exist is refused with
BADNODE; else the node's bit is what the request made it and CLK_GATE_STS says done. -/
def Obligations.DomainsAndClockGates : Prop :=
  (
    (∀ (d : Nat) (br : Bring) (s : State), ((domMembers d).filter (fun m => blkState s m.1 m.2 == .starting)).isEmpty = false → br.badDom.contains d = false →
      exec (.domainStartDone d true br) s = .next (((domMembers d).filter (fun m => blkState s m.1 m.2 == .starting)).foldl (fun x m => finishStart x m.1 m.2 br false) s)) ∧
    (∀ (d : Nat) (br : Bring) (s : State), d < 72 → (∀ m ∈ domMembers d, blkState s m.1 m.2 = .starting) →
      ∃ t, exec (.domainStartDone d false br) s = .next t ∧ (∀ m ∈ domMembers d, blkState t m.1 m.2 = .failed) ∧ isPwr t d = false ∧
        t.deal = { s.deal with capChange := true } ∧ t.mem = s.mem ∧ t.clu = s.clu) ∧
    (∀ (c : Nat) (s : State), c < 68 → blkState s .clu c = .stopping → blkBusy s .clu c = false → s.blk.cycle.contains (pageOf .clu c) = false →
      ∃ u, exec (.domainStopDone c) s = .next (openIfIdle u c) ∧ blkState u .clu c = .off ∧ u.clu = (clusterOut s c).clu ∧ u.mem = (clusterOut s c).mem) ∧
    (∀ (d : Nat) (s : State), d < 96 → isPwr s d = true → ∃ u, exec (.domainFault d) s = .next ((domMembers d).foldl (fun x m => faultMember x m.1 m.2) (pwrOff u d)) ∧
      bit (rdReg u (0x2060 + 4 * (d / 32))) (d % 32) = true ∧ isPwr (pwrOff u d) d = false ∧ u = { replayTrick s [] with regs := u.regs, free := u.free })) ∧
  (
    ∀ (mid node : Nat) (s : State), (midOf mid = 1 ∨ midOf mid = 0x101) → hubUp s = true → s.boot.recovery = false →
      (nodeOk (node % 256) = false → exec (.clockGate mid node) s = .next (wrReg s 0x1054 (w32 (4 + 256 * (node % 256)))) ∧
        exec (.clockUngate mid node) s = .next (wrReg s 0x1054 (w32 (4 + 256 * (node % 256))))) ∧
      (nodeOk (node % 256) = true → nodeUsed s (node % 256) = true →
        exec (.clockGate mid node) s = .next (wrReg s 0x1054 (w32 (2 + 256 * (node % 256))))) ∧
      (nodeOk (node % 256) = true → nodeUsed s (node % 256) = false → ∃ t, exec (.clockGate mid node) s = .next t ∧
        gated t (node % 256) = true ∧ rdReg t 0x1054 = w32 (256 * (node % 256)) ∧ t = { s with regs := t.regs } ∧
        ∀ n, n < 160 → n ≠ node % 256 → gated t n = gated s n) ∧
      (nodeOk (node % 256) = true → ∃ t, exec (.clockUngate mid node) s = .next t ∧ gated t (node % 256) = false ∧
        rdReg t 0x1054 = w32 (256 * (node % 256)) ∧ t = { s with regs := t.regs } ∧ ∀ n, n < 160 → n ≠ node % 256 → gated t n = gated s n))

/-- The TAP (R420): IDCODE shifts out 0x1D51_2A6F; an instruction that drives pins takes effect only while PERST# is asserted,
and at any other time acts as BYPASS and sets JTAG_REF; TRST# puts IDCODE into effect (IEEE 1149.1); nothing else of the
device changes. Debug (R421): an unlock signed by a key of an unrevoked slot becomes pending, and is refused for good once
DBG_OFF is burned; a debug instruction changes nothing while debug is locked. While debug is unlocked what it does is not in
the spec, and the model stops by name. -/
def Obligations.TapAndDebug : Prop :=
  (
    ∀ s : State, (s.edge.power = .up ∨ s.edge.power = .tripped) →
      (∃ t, exec .idcode s = .next t ∧ t.tap = .idcode ∧ t.out.head? = some (.tdo 0x1D512A6F) ∧ t = { s with tap := .idcode, out := t.out }) ∧
      (∃ t, exec .bypass s = .next t ∧ t = { s with tap := .bypass, out := t.out }) ∧
      (∃ t, exec .samplePreload s = .next t ∧ t = { s with tap := .sample, out := t.out }) ∧
      (∃ t, exec .jtagTrstN s = .next t ∧ t = { s with tap := .idcode, out := t.out }) ∧
      ∀ (i : Instr) (x : Tap), (i, x) ∈ [(Instr.extest, Tap.extest), (.extestPulse, .extestPulse), (.extestTrain, .extestTrain), (.clamp, .clamp), (.highz, .highz)] →
        (s.edge.perst = true → ∃ t, exec i s = .next t ∧ t.tap = x ∧ t.out = .pins true :: s.out ∧ t = { s with tap := x, out := t.out }) ∧
        (s.edge.perst = false → ∃ t, exec i s = .next t ∧ t.tap = .bypass ∧ t.sec = { s.sec with jtagRef := true } ∧
          t = { s with tap := .bypass, sec := t.sec, out := t.out })) ∧
  (
    (∀ (key : Nat) (s : State), tapOn s = true → secFw s = true → s.fuses.dbgOff = false → key < 4 → s.fuses.programmed.getLsbD key = true →
      s.fuses.keyrev.getLsbD key = false → exec (.debugUnlock key true) s = .next { s with sec := { s.sec with unlockPending := true } }) ∧
    (∀ (key : Nat) (ok : Bool) (s : State), (s.fuses.dbgOff = true ∨ ok = false ∨ s.fuses.keyrev.getLsbD key = true) →
      exec (.debugUnlock key ok) s = .next s) ∧
    (∀ (code : Nat) (s : State), s.sec.unlocked = false → exec (.debugInstruction code) s = .next s) ∧
    (∀ (code : Nat) (s : State), tapOn s = true → s.sec.unlocked = true →
      exec (.debugInstruction code) s = .refused (.debugInstruction code)))

/-- The PF's flash commands (R414): a permitted and aligned program or erase, and any read, is taken with the address and data
of its moment; a target that is not permitted is refused with FLASH_STS code REFUSED, nothing started. When the command is
done a program has cleared bits only within its 64 bytes, an erase has left 0xFF in its block. The fused security version
and the boot control block (R413, R415): a target above the fused version and not above the running image's starts a burn
whose record is queued; a burn whose record is durable ends with the fuse at the target; BOOT_PREF and BOOT_CONFIRM write
the control block. -/
def Obligations.FlashAndBootControl : Prop :=
  (
    (∀ (mid : Nat) (s : State), pgReach s mid .sec = .yes → isOn s .sec 0 = true → s.sec.flashOp = none →
      (fld (rdN s 0x6064) 27 0 % 64 = 0 → flashMay s (fld (rdN s 0x6064) 27 0) ≠ none → ∃ d, exec (.flashProgram mid) s =
        .next { s with sec := { s.sec with flashOp := some (1, fld (rdN s 0x6064) 27 0, d) } } ∧ d.length = 64) ∧
      (flashMay s (fld (rdN s 0x6064) 27 0) = none → exec (.flashProgram mid) s = .next (wrReg s 0x606C 2) ∧
        exec (.flashErase mid) s = .next (wrReg s 0x606C 2)) ∧
      (fld (rdN s 0x6064) 27 0 % 4096 = 0 → flashMay s (fld (rdN s 0x6064) 27 0) ≠ none → exec (.flashErase mid) s =
        .next { s with sec := { s.sec with flashOp := some (2, fld (rdN s 0x6064) 27 0, []) } }) ∧
      exec (.flashRead mid) s = .next { s with sec := { s.sec with flashOp := some (3, fld (rdN s 0x6064) 27 0, []) } }) ∧
    (∀ (a : Nat) (d : List Byte) (s : State), Memory.wf s → s.sec.flashOp = some (1, a, d) → ∃ t, exec (.flashCmdDone true) s = .next t ∧ t.sec.flashOp = none ∧
      rdReg t 0x606C = 0 ∧ (∀ k, k < a ∨ a + d.length ≤ k → spGet 0xFF t.flash k = spGet 0xFF s.flash k) ∧
      (∀ j, j < d.length → spGet 0xFF t.flash (a + j) = spGet 0xFF s.flash (a + j) &&& d.getD j 0) ∧
      t = { s with sec := t.sec, regs := t.regs, flash := t.flash }) ∧
    (∀ (a : Nat) (s : State), Memory.wf s → s.sec.flashOp = some (2, a, []) → ∃ t, exec (.flashCmdDone true) s = .next t ∧ t.sec.flashOp = none ∧
      rdReg t 0x606C = 0 ∧ (∀ k, a ≤ k → k < a + flashSpan s 2 a → spGet 0xFF t.flash k = 0xFF) ∧
      (∀ k, k < a ∨ a + flashSpan s 2 a ≤ k → spGet 0xFF t.flash k = spGet 0xFF s.flash k) ∧ t = { s with sec := t.sec, regs := t.regs, flash := t.flash }) ∧
    (∀ (a : Nat) (s : State), s.sec.flashOp = some (3, a, []) → a + 63 < 0x10000000 → ∃ t, exec (.flashCmdDone true) s = .next t ∧ t.sec.flashOp = none ∧
      rdN t 0x6070 = leNat ((List.range 4).map (fun j => spGet 0xFF s.flash (a + j))) ∧ t.flash = s.flash)) ∧
  (
    (∀ (mid : Nat) (v : W32) (s : State), pgReach s mid .sec = .yes → isOn s .sec 0 = true → bit v 31 = true → s.fuses.svn < v.toNat % 128 →
      v.toNat % 128 ≤ s.boot.svn → s.sec.burn = none → s.boot.recovery = false →
      exec (.svnCommit mid v) s = .next (jrnPut { s with sec := { s.sec with burn := some (v.toNat % 128, false) } } (recRollback s (v.toNat % 128) 1))) ∧
    (∀ (mid : Nat) (v : W32) (s : State), pgReach s mid .sec = .yes → isOn s .sec 0 = true → bit v 31 = true →
      (v.toNat % 128 ≤ s.fuses.svn ∨ s.boot.svn < v.toNat % 128) → ∃ t, exec (.svnCommit mid v) s = .next t ∧ bit (rdReg t 0x60B8) 0 = true ∧
        t = { s with regs := t.regs }) ∧
    (∀ (x : Nat) (s : State), s.sec.burn = some (x, true) → ∃ t, exec .fuseBurnDone s = .next t ∧ t.fuses = { s.fuses with svn := max s.fuses.svn x } ∧
      t.sec.burn = none ∧ t.mem = s.mem ∧ t.flash = s.flash) ∧
    (∀ (mid : Nat) (v : W32) (s : State), pgReach s mid .sec = .yes → isOn s .sec 0 = true →
      exec (.bootPref mid v) s = .next (ctlWrite s { ctlRead s with pref := b2n (bit v 0), try_ := bit v 1 })) ∧
    (∀ (mid : Nat) (v : W32) (s : State), pgReach s mid .sec = .yes → isOn s .sec 0 = true → bit v 0 = true → s.boot.devReady = true →
      exec (.bootConfirm mid v) s = .next (ctlWrite s { ctlRead s with try_ := false, cnt := 0 })))

/-- The firmwares' commands (R426, R412): a message on channel 2 from the board controller that names GET_BOOT or GET_SERIAL is
answered with the words of Table 16-9 or the serial number, one on channel 3 that names GET_HEALTH with the device's state,
and a signed command object on channel 1 does its action: a revocation burns its slot's revocation fuse. Management (R11,
R12, R13): a change of the strap while the module is powered sets MODID_CHANGED and becomes a management event; the serial
number and the coolant's temperatures are answered over MCTP; a read takes the oldest event, and ALERT_N is released with
the last. -/
def Obligations.FirmwareAndManagement : Prop :=
  (
    (∀ s : State, mbWaits s 2 0x102 = true → secFw s = true → (getMb s 2).sender = 0x103 → mbCmd s 2 = 0x20 →
      exec .getBoot s = .next (mbReply s 2 0x102 0 [bootSts s, bootFail s, imgSvn s, keySts s, dbgSts s])) ∧
    (∀ s : State, mbWaits s 2 0x102 = true → secFw s = true → (getMb s 2).sender = 0x103 → mbCmd s 2 = 0x21 →
      exec .getSerial s = .next (mbReply s 2 0x102 0 [Config.serial.toNat % 2 ^ 32, Config.serial.toNat / 2 ^ 32])) ∧
    (∀ s : State, mbWaits s 3 0x101 = true → dealFw s = true → (getMb s 3).sender = 0x103 → mbCmd s 3 = 0x30 →
      exec .getHealth s = .next (mbReply s 3 0x101 0 [rasSts s, thmSts s, dealSts s, rdN s 0x2078, s.deal.commit % 2 ^ 32])) ∧
    (∀ (k j : Nat) (s x : State) (bs : List Byte), mbWaits s 1 0x102 = true → secFw s = true → (getMb s 1).sender = 1 → mbCmd s 1 = 0x10 →
      64 ≤ mbData s 1 4 → mbData s 1 4 ≤ 16384 →
      rangeOf (mbData s 1 2 + 2 ^ 32 * fld (mbData s 1 3) 15 0) = .stack → rangeOf (mbData s 1 2 + 2 ^ 32 * fld (mbData s 1 3) 15 0 + mbData s 1 4 - 1) = .stack →
      (∀ r, (mbData s 1 2 + 2 ^ 32 * fld (mbData s 1 3) 15 0) / 2 ^ 21 ≤ r →
        r ≤ (mbData s 1 2 + 2 ^ 32 * fld (mbData s 1 3) 15 0 + mbData s 1 4 - 1) / 2 ^ 21 → rgnClass s r = 1) →
      memRead s 256 true (mbData s 1 2 + 2 ^ 32 * fld (mbData s 1 3) 15 0) (mbData s 1 4) .none = (x, .ok bs) →
      x.fuses = s.fuses → x.boot = s.boot → k < 4 → s.fuses.programmed.getLsbD k = true → s.fuses.keyrev.getLsbD k = false → j < 4 → j ≠ s.boot.keyIdx →
      exec (.secCmd { act := .revoke j, keySlot := k, sigOk := true }) s =
        .next (mbReply { x with fuses := { s.fuses with keyrev := s.fuses.keyrev ||| BitVec.ofNat 4 (2 ^ j) } } 1 0x102 0 []))) ∧
  (
    (∀ (st : Nat) (s : State), (s.edge.power = .up ∨ s.edge.power = .tripped) → ∃ t, exec (.modidChanged st) s = .next t ∧ t.edge.modidChanged = true ∧
      t.edge.modid = s.edge.modid ∧ t.edge.events = s.edge.events ++ [.modidChanged] ∧ t = { s with edge := t.edge }) ∧
    (∀ s : State, smbusOn s = true → exec (.mctpRequest .serial) s = .next (emit s (.mctp [Config.serial.toNat % 2 ^ 32, Config.serial.toNat / 2 ^ 32])) ∧
      exec (.mctpRequest .coolant) s = .next (emit s (.mctp [fld (rdN s 0x3058) 7 0, fld (rdN s 0x3058) 15 8])) ∧
      exec (.mctpRequest .trip) s = .next (emit s (.mctp [rdN s 0x3060]))) ∧
    (∀ (e : MEvent) (l : List MEvent) (s : State), smbusOn s = true → s.edge.events = e :: l → ∃ t, exec .mctpEventRead s = .next t ∧
      t.edge = { s.edge with events := l } ∧ t.out = .mctpEvent e :: s.out ∧ alertN t = !l.isEmpty ∧ t = { s with edge := t.edge, out := t.out }))

/-- SPDM, DOE, IDE and TDISP (R335, R336, R337, R417): a request is answered by a retry before CFG_READY; then measurement 4
reports the fused and the running security version, the slot and whether it is the fallback; a session opens; a session
programs keys for nine IDE streams and sets them in use; DOE discovery names three protocols; a locked TDI starts only once
the device is ready and debug is locked, and a stopped one is unlocked. What a measurement's words and the protocols'
numbers are is the model's choice (log entry 43). -/
def Obligations.AttestationAndSessions : Prop :=
  ∀ s : State, s.host.linkUp = true →
    (∀ rq, s.boot.cfgReady = false → exec (.spdmRequest rq) s = .next (emit s (.rrs 0))) ∧
    (s.boot.cfgReady = true → exec (.spdmRequest (.getMeasurement 4)) s =
      .next (emit s (.spdm [] [s.fuses.svn, s.boot.svn, s.boot.slot, b2n s.boot.fallback]))) ∧
    (s.boot.cfgReady = true → exec (.spdmRequest .openSession) s =
      .next (emit { s with sec := { s.sec with session := true } } (.session true))) ∧
    (exec (.doeDiscovery 0) s = .next (emit s (.doe 1 0 1)) ∧ exec (.doeDiscovery 1) s = .next (emit s (.doe 1 1 2)) ∧
      exec (.doeDiscovery 2) s = .next (emit s (.doe 1 2 0))) ∧
    (∀ n, s.sec.session = true → n < 9 → s.sec.ideKeys.contains n = false →
      exec (.ideKm (.keyProg n)) s = .next { s with sec := { s.sec with ideKeys := s.sec.ideKeys ++ [n] } }) ∧
    (∀ n, s.sec.session = true → s.sec.ideKeys.contains n = true → s.sec.ideActive.contains n = false →
      exec (.ideKm (.setGo n)) s = .next { s with sec := { s.sec with ideActive := s.sec.ideActive ++ [n] } }) ∧
    (∀ f, s.sec.session = true → f ≠ 0 → fnThere s f = true → (getFn s f).tdi = .locked →
      ∃ t, exec (.tdisp f .start) s = .next t ∧ (getFn t f).tdi = (if s.boot.devReady = true ∧ s.sec.unlocked = false then .run else .locked) ∧
        t = { s with host := t.host, out := t.out }) ∧
    (∀ f, s.sec.session = true → f ≠ 0 → fnThere s f = true → ∃ t, exec (.tdisp f .stop) s = .next t ∧ (getFn t f).tdi = .unlocked ∧
        (∀ g, g ≠ f → getFn t g = getFn s g) ∧ t = { s with host := t.host, out := t.out })

/-- The common header and plain writes (R342, R346, R341, R5): BLK_ISET adds event bits and takes none away; BLK_LOCK sets and
never clears; BLK_IER stores what is written; a locked page's BLK_ERR_THR keeps its value; a host write that is misaligned,
or of 1 or 2 bytes, does nothing but count in HOST_REF and be logged; 8 bytes at NAME_LO write both halves in one action,
and any other write of whole words is its 4-byte writes in ascending order (R341, R347). 64-bit pairs (R347): a write of the
upper half stores the writer's staging copy and nothing else; the write of the lower half that follows commits both; without
a staged half the upper half stays; a read of the lower half answers it and captures the upper half of that moment, which
the next read of the upper half by the same master answers. -/
def Obligations.RegisterAccess : Prop :=
  (
    (∀ (mid : Nat) (b : Blk) (i : Nat) (v : W32) (s : State), hdrReach s mid b i = .yes → ∃ t, exec (.blkIset mid b i v) s = .next t ∧
      rdReg t (pageOf b i + 0x14) = rdReg s (pageOf b i + 0x14) ||| v ∧ (∀ a, a ≠ pageOf b i + 0x14 → rdReg t a = rdReg s a) ∧
      t = { s with regs := t.regs, out := t.out, host := t.host }) ∧
    (∀ (mid : Nat) (b : Blk) (i : Nat) (v : W32) (s : State), hdrReach s mid b i = .yes →
      (bit v 0 = false → exec (.blkLock mid b i v) s = .next s) ∧
      (bit v 0 = true → ∃ t, exec (.blkLock mid b i v) s = .next t ∧ locked t (pageOf b i) = true ∧
        (∀ a, a ≠ pageOf b i + 0x30 → rdReg t a = rdReg s a) ∧ t = { s with regs := t.regs })) ∧
    (∀ (mid a : Nat) (b : Blk) (i : Nat) (v : W32) (s : State), a % 4 = 0 → a = pageOf b i + 0x18 → locate a = .blk b i 0x18 → blkHeader b = true →
      hdrReach s mid b i = .yes → ∃ t, exec (.registerWrite mid a (leBytes v.toNat 4)) s = .next t ∧ rdReg t a = v ∧ (∀ x, x ≠ a → rdReg t x = rdReg s x) ∧
        t = { s with regs := t.regs, out := t.out, host := t.host }) ∧
    (∀ (mid a : Nat) (b : Blk) (i : Nat) (v : W32) (s : State), a % 4 = 0 → locate a = .blk b i 0x2C → blkHeader b = true → hdrReach s mid b i = .yes →
      locked s (pageOf b i) = true → exec (.registerWrite mid a (leBytes v.toNat 4)) s = .next s) ∧
    (∀ (mid a : Nat) (bs : List Byte) (s : State), (a % 4 ≠ 0 ∨ bs.length % 4 ≠ 0 ∨ (bs.length = 8 ∧ a % 8 ≠ 0)) → hostMid mid = true → hubUp s = true →
      exec (.registerWrite mid a bs) s = .next (hostRef s) ∧ (hostRef s).host = { s.host with aer := true }) ∧
    (∀ (mid a : Nat) (b : Blk) (i lo : Nat) (l h : W32) (s : State), a % 8 = 0 → pairOf a false = some (b, i, lo) → hubUp s = true →
      exec (.registerWrite mid a (leBytes l.toNat 4 ++ leBytes h.toNat 4)) s = .next (regWrite4 (regWrite4 s mid (a + 4) h) mid a l)) ∧
    (∀ (mid a : Nat) (bs : List Byte) (s : State), a % 4 = 0 → bs.length % 4 = 0 → bs ≠ [] → (bs.length = 8 → a % 8 = 0 ∧ pairOf a false = none) → hubUp s = true →
      exec (.registerWrite mid a bs) s = .next ((enumFrom 0 (regWords bs)).foldl (fun x w => regWrite4 x mid (a + 4 * w.1) w.2) s)) ∧
    (∀ (v : W32) (bs : List Byte), bs.length % 4 = 0 → regWords (leBytes v.toNat 4 ++ bs) = v :: regWords bs)) ∧
  (
    (∀ (mid a : Nat) (b : Blk) (i lo : Nat) (v : W32) (s : State), pairOf a true = some (b, i, lo) → ownReach s mid b i = .yes →
      pairOpen s b i (lo + 4) = true → ∃ m l, pairMask b (lo + 4) = some (l, m) ∧ exec (.nameHiWrite mid a v) s =
        .next { s with regs := { s.regs with stage := spSet s.regs.stage (pairKey s mid b i lo) (v &&& m) } }) ∧
    (∀ (mid a : Nat) (b : Blk) (i lo : Nat) (v h : W32) (s : State), pairOf a false = some (b, i, lo) → ownReach s mid b i = .yes → pairOpen s b i lo = true →
      spFind s.regs.stage (pairKey s mid b i lo) = some h → ∃ t m l, pairMask b lo = some (l, m) ∧ exec (.nameLoWrite mid a v) s = .next t ∧
        rdReg t (pairAt s mid b i lo) = v &&& m ∧ rdReg t (pairAt s mid b i (lo + 4)) = h ∧ t = { s with regs := t.regs }) ∧
    (∀ (mid a : Nat) (b : Blk) (i lo : Nat) (v : W32) (s : State), pairOf a false = some (b, i, lo) → ownReach s mid b i = .yes → pairOpen s b i lo = true →
      spFind s.regs.stage (pairKey s mid b i lo) = none → ∃ m l, pairMask b lo = some (l, m) ∧
        exec (.nameLoWrite mid a v) s = .next (wrReg s (pairAt s mid b i lo) (v &&& m))) ∧
    (∀ (mid a : Nat) (b : Blk) (i lo : Nat) (s : State), pairOf a false = some (b, i, lo) → ownReach s mid b i = .yes →
      ∃ t, exec (.nameLoRead mid a) s = .next t ∧ t.out = .reg (midOf mid) a (w32 (regView s mid b i lo)) :: s.out ∧
        spFind t.regs.capt (pairKey s mid b i lo) = some (w32 (regView s mid b i (lo + 4))) ∧ t.regs.file = s.regs.file ∧
        t = { s with regs := t.regs, out := t.out }) ∧
    (∀ (mid a : Nat) (b : Blk) (i lo : Nat) (h : W32) (s : State), pairOf a true = some (b, i, lo) → ownReach s mid b i = .yes →
      spFind s.regs.capt (pairKey s mid b i lo) = some h → ∃ t, exec (.nameHiRead mid a) s = .next t ∧ t.out = .reg (midOf mid) a h :: s.out ∧
        t = { s with regs := { s.regs with capt := spDel s.regs.capt (pairKey s mid b i lo) }, out := t.out }) ∧
    (∀ (mid a : Nat) (b : Blk) (i lo : Nat) (s : State), pairOf a true = some (b, i, lo) → ownReach s mid b i = .yes →
      spFind s.regs.capt (pairKey s mid b i lo) = none →
      exec (.nameHiRead mid a) s = .next (emit s (.reg (midOf mid) a (w32 (regView s mid b i (lo + 4)))))))

/-- Read to clear (R5, R6): the read answers the value before the device's event of the same cycle, and the register then holds
that event alone, so that no event is lost between a read and the next. -/
def Obligations.ReadToClear : Prop :=
  ∀ (mid a : Nat) (event : W32) (b : Blk) (i off : Nat) (r : RegRow) (s : State), locate a = .blk b i off → regRow b off = some r → r.acc = .rc →
    i < Blk.count b → a % 4 = 0 → (if blkHeader b ∧ off < 0x40 then hdrReach s mid b i else ownReach s mid b i) = .yes →
    (b = .ch ∧ off = 0x10C → event ≠ 0) →
    ∃ t, exec (.readToClear mid a event) s = .next t ∧ t.out = .reg (midOf mid) a (rdReg s a) :: s.out ∧ rdReg t a = event ∧
      (∀ x, x ≠ a → rdReg t x = rdReg s x) ∧ t = { s with regs := t.regs, out := t.out }

/-- The mailbox procedure (R333): a read of MB_LOCK by a bound party answers 0 and makes it the owner of a free channel; GO by
the owner leaves the channel FULL, its sender recorded, its lock free, the message counted; ACK by the recipient empties it;
RELEASE by the owner frees the lock. -/
def Obligations.MailboxProcedure : Prop :=
  ∀ (mid ch : Nat) (s : State), hubUp s = true → ch < 319 → mbRefused s mid ch = false → mbBound s ch (midOf mid) = true →
    ((getMb s ch).full = false → (getMb s ch).owner = 0 → exec (.mbLock mid ch) s =
      .next (emit (setMb s ch { getMb s ch with owner := midOf mid }) (.reg (midOf mid) (mbPg ch + 0x44) 0))) ∧
    ((getMb s ch).full = false → (getMb s ch).owner ≠ 0 → exec (.mbLock mid ch) s =
      .next (emit s (.reg (midOf mid) (mbPg ch + 0x44) (w32 (getMb s ch).owner)))) ∧
    ((getMb s ch).owner = midOf mid → ∃ t, exec (.go mid ch) s = .next t ∧
      getMb t ch = { getMb s ch with owner := 0, full := true, sender := midOf mid, count := ((getMb s ch).count + 1) % 65536, discarded := false } ∧
      (∀ c, c ≠ ch → getMb t c = getMb s c) ∧ t = { s with mbx := t.mbx, regs := t.regs, out := t.out, host := t.host }) ∧
    ((getMb s ch).full = true → midOf mid = mbOther s ch (getMb s ch).sender → ∃ t, exec (.ack mid ch) s = .next t ∧
      getMb t ch = { getMb s ch with full := false } ∧ (∀ c, c ≠ ch → getMb t c = getMb s c) ∧
      t = { s with mbx := t.mbx, regs := t.regs, out := t.out, host := t.host }) ∧
    ((getMb s ch).owner = midOf mid → exec (.mbRelease mid ch) s = .next (setMb s ch { getMb s ch with owner := 0 })) ∧
    ((getMb s ch).owner ≠ midOf mid → exec (.go mid ch) s = .next (mbDeny s ch) ∧ exec (.mbRelease mid ch) s = .next (mbDeny s ch))

/-- Queue states (R324, Table 12-5): an enable with a valid configuration starts the queue with its pointers at 0, PHASE 1 and
its error bits clear; an invalid one sets CFGERR; a disable drains, and once nothing is outstanding the queue is DISABLED.
Doorbells and fetches (R325, R327): a tail within the queue is taken and counted, one at or beyond its size stops the queue
and sets its error bit; a head between the old head and the tail frees slots, and ends a full queue's stall; a fetch that
succeeds moves SQ_HEAD by the descriptors read, which wait for acceptance in order. -/
def Obligations.Queues : Prop :=
  (
    (∀ (mid q : Nat) (s : State), queReach s mid q = .yes → (getQ s q).st = .disabled → s.boot.devReady = true → qCfgOk s q = true →
      ∃ t, exec (.queueEnable mid q) s = .next t ∧ getQ t q = { st := .enabled } ∧ (getQ t q).sqHead = 0 ∧ (getQ t q).sqTail = 0 ∧
        (getQ t q).cqHead = 0 ∧ (getQ t q).cqTail = 0 ∧ (getQ t q).phase = true ∧ (getQ t q).cfgErr = false ∧
        (∀ r, r ≠ q → getQ t r = getQ s r) ∧ t = { s with regs := t.regs, host := t.host }) ∧
    (∀ (mid q : Nat) (s : State), queReach s mid q = .yes → (getQ s q).st = .disabled → s.boot.devReady = true → qCfgOk s q = false →
      ∃ t, exec (.queueEnable mid q) s = .next t ∧ getQ t q = { getQ s q with cfgErr := true } ∧ t = { s with regs := t.regs, host := t.host }) ∧
    (∀ (mid q : Nat) (s : State), queReach s mid q = .yes → ((getQ s q).st = .enabled ∨ (getQ s q).st = .paused ∨ (getQ s q).st = .error) →
      ∃ t, exec (.queueDisable mid q) s = .next t ∧ getQ t q = { getQ s q with st := .draining } ∧ (∀ r, r ≠ q → getQ t r = getQ s r) ∧
        t = { s with regs := t.regs, host := t.host }) ∧
    (∀ (q : Nat) (s : State), qDrained s q = true → (getQ s q).st = .draining →
      exec (.queueDrainComplete q) s = .next (setQ s q { getQ s q with st := .disabled }))) ∧
  (
    (∀ (mid q : Nat) (v : W32) (s : State), queReach s mid q = .yes → qResetting s q = false → ((getQ s q).st = .enabled ∨ (getQ s q).st = .paused) →
      v.toNat % 65536 < qSize s q → ∃ t, exec (.sqTail mid q v) s = .next t ∧ getQ t q = { getQ s q with sqTail := v.toNat % 65536 } ∧
        (∀ r, r ≠ q → getQ t r = getQ s r) ∧ t = { s with regs := t.regs, free := t.free, host := t.host }) ∧
    (∀ (mid q : Nat) (v : W32) (s : State), queReach s mid q = .yes → qResetting s q = false → (getQ s q).st = .enabled →
      qSize s q ≤ v.toNat % 65536 → ∃ t, exec (.sqTail mid q v) s = .next t ∧ (getQ t q).st = .error ∧ (getQ t q).errTail = true ∧
        (getQ t q).sqTail = (getQ s q).sqTail) ∧
    (∀ (mid q : Nat) (v : W32) (s : State), queReach s mid q = .yes → qResetting s q = false → (getQ s q).st = .enabled →
      v.toNat % 65536 < cqSize s q → (v.toNat % 65536 + cqSize s q - (getQ s q).cqHead) % cqSize s q ≤ ((getQ s q).cqTail + cqSize s q - (getQ s q).cqHead) % cqSize s q →
      ∃ t, exec (.cqHead mid q v) s = .next t ∧ getQ t q = { getQ s q with
        cqHead := v.toNat % 65536, fullAt := if ((getQ s q).cqTail + 1) % cqSize s q = v.toNat % 65536 then (getQ s q).fullAt else none } ∧ (∀ r, r ≠ q → getQ t r = getQ s r) ∧
        t = { s with regs := t.regs, free := t.free, host := t.host }) ∧
    (∀ (q : Nat) (ds : List Desc) (s : State), q < 4096 → (getQ s q).st = .enabled → fetchable s q ≠ 0 → hostReach s q = true → qResetting s q = false →
      bit (rdReg s (qPg q + 0x10)) 20 = false → ∀ f, queOwner s q = some f → exec (.descriptorFetch q ds true) s = .next (setQ (hostAsk s f q false) q { getQ s q with
        ready := (getQ s q).ready ++ ds.take (fetchable s q), sqHead := ((getQ s q).sqHead + (ds.take (fetchable s q)).length) % qSize s q })) ∧
    (∀ (f q : Nat) (wr : Bool) (s : State), hostAsk s f q wr = emit s (.hostReq f
      (if bit (rdReg s (pageOf .que q + 0x10)) 21 = true then some (rdN s (pageOf .que q + 0x14) % 2 ^ 20) else none) (getFn s f).ats wr)) ∧
    (∀ (q : Nat) (ds : List Desc) (s : State), q < 4096 → (getQ s q).st = .enabled → fetchable s q ≠ 0 → hostReach s q = true → qResetting s q = false →
      bit (rdReg s (qPg q + 0x10)) 20 = false → ∃ t, exec (.descriptorFetch q ds false) s = .next t ∧ (getQ t q).st = .error ∧ (getQ t q).xlatErr = true))

/-- Interrupts (R328, R330): CNT entries written since the last interrupt, or the first of them older than TIME, make the
queue's vector fire; it is sent when the function can send and the vector is unmasked, and held in its pending bit
otherwise; an unmask, or Bus Master Enable, sends what was held. The host's other requests (R177, R315, R321, R419): an
AtomicOp that Table 12-1 does not list is an Unsupported Request and counts in HOST_REF; a FetchAdd acts as the atomic of
R177 does; an ATS invalidation is completed; a lane margin command is answered without disturbing anything (what it measures
is a free value, log entry 3). -/
def Obligations.InterruptsAndHostRequests : Prop :=
  (
    (∀ (q f : Nat) (s : State), queOwner s q = some f → max 1 (fld (rdN s (qPg q + 0x18)) 7 0) ≤ (getQ s q).unsig → fnCanSend s f = true →
      (getFn s f).msixUnmasked.contains (fld (rdN s (qPg q + 0x10)) 19 8) = true → exec (.msiXInterrupt q) s =
        .next (emit (setQ s q { getQ s q with unsig := 0 }) (.msix f (fld (rdN s (qPg q + 0x10)) 19 8)))) ∧
    (∀ (q f : Nat) (s : State), queOwner s q = some f → fld (rdN s (qPg q + 0x18)) 23 8 ≠ 0 → (getQ s q).unsig ≠ 0 →
      (getQ s q).unsigAt + 1000 * fld (rdN s (qPg q + 0x18)) 23 8 ≤ s.time → fnCanSend s f = false →
      (getFn s f).msixPend.contains (fld (rdN s (qPg q + 0x10)) 19 8) = false → ∃ t, exec (.coalesceTimeout q) s = .next t ∧ (getQ t q).unsig = 0 ∧
        (getFn t f).msixPend = (getFn s f).msixPend ++ [fld (rdN s (qPg q + 0x10)) 19 8] ∧ t.out = s.out ∧ t = { s with host := t.host }) ∧
    (∀ (f v : Nat) (s : State), fnThere s f = true → v < (if f = 0 then 4096 else 16) → fnCanSend s f = true → s.host.linkUp = true →
      (getFn s f).msixPend = [v] → (getFn s f).msixUnmasked.contains v = false → ∃ t, exec (.vectorUnmask f v) s = .next t ∧
        t.out = .msix f v :: s.out ∧ (getFn t f).msixPend = [] ∧ v ∈ (getFn t f).msixUnmasked ∧ t = { s with host := t.host, out := t.out }) ∧
    (∀ (f : Nat) (s : State), s.host.linkUp = true → fnThere s f = true → (getFn s f).d3hot = false → ∃ t, exec (.busMasterEnable f) s = .next t ∧
        (getFn t f).bme = true ∧ (getFn t f).msixPend = (getFn s f).msixPend.filter (fun v => !(getFn s f).msixUnmasked.contains v) ∧
        t = { s with host := t.host, out := t.out })) ∧
  (
    (∀ (f a n x w : Nat) (op : AtomOp) (s : State), s.host.linkUp = true → fnThere s f = true → op ≠ .add → op ≠ .cas →
      exec (.hostAtomicop f a n op x w) s = .next (emit (hostRef s) (.unsupported f))) ∧
    (∀ (f a d n x v : Nat) (s t : State), s.host.linkUp = true → fnThere s f = true → hostAddr s f a true true = some d → scrWaits s f d n = false →
      atomic s f .add d n x 0 = (t, .old v) → exec (.hostAtomicop f a n .add x 0) s = .next (emit t (.atomic f v))) ∧
    (∀ (f : Nat) (s : State), s.host.linkUp = true → fnThere s f = true → exec (.atsInvalidation f) s = .next (emit s (.atsDone f))) ∧
    (∀ (lane steps : Nat) (tm : Bool) (s : State), lane < 16 → s.host.linkUp = true → ∃ v, exec (.laneMarginCommand lane tm steps) s = .next (emit (useFree s) (.margin lane v))))

/-- Function reset (R329, R330, Table 12-2): a reset ends the function's requests and clears its Bus Master Enable, and while it
runs a further one waits; when it completes, the queue sets and the MSI-X table of the function are at their reset values.
Queue ranges, configuration requests and the link (R316, R318, R407, R425): FN_Q gives a function its range, one that
overlaps no other's, and refuses one that leaves the sets; a configuration request is answered by a retry before CFG_READY
and by the identity after it; the link comes up at a speed of Table 12-1 and goes down. -/
def Obligations.FunctionsAndLink : Prop :=
  (
    (∀ (f : Nat) (s : State), f ≠ 0 → fnThere s f = true → (getFn s f).resetRun = true →
      exec (.functionReset f) s = .next (setFn s f { getFn s f with resetPend := true })) ∧
    (∀ (f : Nat) (s : State), f ≠ 0 → fnThere s f = true → (getFn s f).resetRun = false → ∃ x v u, exec (.functionReset f) s = .next (fnWays u f) ∧
      v = fnEndAll (mbFnReset (setFn s f x) f) f ∧ x.resetRun = true ∧ x.bme = false ∧ x.pasid = false ∧ x.ats = false ∧ x.qbase = (getFn s f).qbase ∧
      x.qcnt = (getFn s f).qcnt ∧ ((getFn s f).tdi = .run → x.tdi = .error) ∧ u.mem = v.mem ∧ (∀ o ∈ u.deal.cq, o ∈ v.deal.cq ∧ queOwner v o.q ≠ some f)) ∧
    (∀ (f : Nat) (s : State), f ≠ 0 → (getFn s f).resetRun = true → (getFn s f).resetPend = false → ∃ t, exec (.functionResetComplete f) s = .next t ∧
      (getFn t f).resetRun = false ∧ (getFn t f).msixUnmasked = [] ∧ bitN (getFn t f).evt 3 = true ∧
      (∀ q, (getFn s f).qbase ≤ q → q < (getFn s f).qbase + (getFn s f).qcnt → spFind t.host.queues q = none) ∧
      t = { s with regs := t.regs, host := t.host, out := t.out })) ∧
  (
    (∀ (mid : Nat) (v : W32) (s : State), pgReach s mid .pcie = .yes → isOn s .pcie 0 = true → v.toNat % 4096 + min 256 (fld v.toNat 20 12) ≤ 4096 →
      (∀ g, g < 256 → g ≠ rdSel s 0x7044 mid % 256 → (getFn s g).qcnt = 0 ∨ v.toNat % 4096 + min 256 (fld v.toNat 20 12) ≤ (getFn s g).qbase ∨ (getFn s g).qbase + (getFn s g).qcnt ≤ v.toNat % 4096) →
      (∀ i, i < (getFn s (rdSel s 0x7044 mid % 256)).qcnt → (getQ s ((getFn s (rdSel s 0x7044 mid % 256)).qbase + i)).st = .disabled) →
      tdiLocked s (rdSel s 0x7044 mid % 256) = false → exec (.fnQ mid v) s =
        .next (setFn s (rdSel s 0x7044 mid % 256) { getFn s (rdSel s 0x7044 mid % 256) with qbase := v.toNat % 4096, qcnt := min 256 (fld v.toNat 20 12), fnErr := false })) ∧
    (∀ (mid : Nat) (v : W32) (s : State), pgReach s mid .pcie = .yes → isOn s .pcie 0 = true → 4096 < v.toNat % 4096 + min 256 (fld v.toNat 20 12) →
      exec (.fnQ mid v) s = .next (setFn s (rdSel s 0x7044 mid % 256) { getFn s (rdSel s 0x7044 mid % 256) with fnErr := true })) ∧
    (∀ (f : Nat) (rq : CfgReq) (br : Bring) (s : State), s.host.linkUp = true → s.boot.cfgReady = false →
      exec (.configRequest f rq 0 br) s = .next (emit s (.rrs f))) ∧
    (∀ (br : Bring) (s : State), s.host.linkUp = true → s.boot.cfgReady = true → exec (.configRequest 0 .readId 0 br) s =
      .next (emit s (.cfg 0 [0x1F3D, 0xD512, 0x120000, 0x01, 0x1F3D, 0x0001, 0xD513]))) ∧
    (∀ (f : Nat) (on : Bool) (br : Bring) (s : State), s.host.linkUp = true → s.boot.cfgReady = true → fnThere s f = true →
      exec (.configRequest f (.pasid on) 0 br) s = .next (emit (setFn s f { getFn s f with pasid := on }) (.cfg f [])) ∧
      exec (.configRequest f (.ats on) 0 br) s = .next (emit (setFn s f { getFn s f with ats := on }) (.cfg f []))) ∧
    (∀ (speed width : Nat) (s : State), s.host.linkUp = false → s.edge.perst = false → hubUp s = true →
      s.clk.lost.contains .refclk = false → isOn s .pcie 0 = true → (speed = 4 ∨ speed = 5 ∨ speed = 6) →
      width ∈ [1, 2, 4, 8, 16] → exec (.linkUp speed width (decide (speed = 6))) s =
        .next ((List.range 256).foldl msixFlush { s with host := { s.host with linkUp := true, speed := speed, width := width, flit := decide (speed = 6) } })) ∧
    (∀ s : State, exec .pcieLinkDown s = .next { s with host := { s.host with linkUp := false } }))

/-- The scratchpad windows (R168, R169, R173, R174): with the slice ON, the way SCRATCH and owned by the requester's function
and nothing pending, a write within one granule stores its bytes at the window's offset and no other byte changes; a read
answers the bytes there; a write that is not let in so is refused and counts in WIN_REF. The atomics of Table 6-9 on a
scratchpad word of 4, 8 or 16 bytes (R177): each answers the old value, and the word then holds the sum, the signed or
unsigned smaller or larger of the two, or, when it held the compared value, the swap; ATOM_CNT counts. -/
def Obligations.ScratchpadAccess : Prop :=
  (
    (∀ (f a : Nat) (bs : List Byte) (s : State), Memory.wf s → rangeOf a = .scratch → scrOk s f a = true → 0 < bs.length → a % 256 + bs.length ≤ 256 →
      ∃ t, exec (.memoryWrite (.core f) a bs .none) s = .next t ∧
        (∀ i, i < bs.length → spGet 0 t.mem.scratch (a - 0x010000000000 + i) = bs.getD i 0) ∧
        (∀ k, k < a - 0x010000000000 ∨ a - 0x010000000000 + bs.length ≤ k → spGet 0 t.mem.scratch k = spGet 0 s.mem.scratch k) ∧
        t.mem.dram = s.mem.dram ∧ t.mem.lpd = s.mem.lpd ∧ t.mem.lines = s.mem.lines ∧ t = { s with mem := t.mem }) ∧
    (∀ (f a n : Nat) (s : State), rangeOf a = .scratch → scrOk s f a = true → 0 < n → a % 256 + n ≤ 256 →
      s.mem.scrPoison.contains ((a - 0x010000000000) / 256) = false →
      exec (.memoryRead (.core f) a n .none) s = .next (emit s (.mem (.core f) (rdBytes s.mem.scratch (a - 0x010000000000) n)))) ∧
    (∀ (f a : Nat) (s : State), rangeOf a = .scratch → a % 32 = 0 → scrOk s f a = true → s.mem.scrPoison.contains ((a - 0x010000000000) / 256) = false →
      exec (.gatherRead (.core f) a .none) s = .next (emit s (.mem (.core f) (rdBytes s.mem.scratch (a - 0x010000000000) 32)))) ∧
    (∀ (f a : Nat) (bs : List Byte) (s : State), rangeOf a = .scratch → scrOk s f a = false → scrWaits s f a bs.length = false → isOn s .llc (scrAt a).1 = true →
      0 < bs.length → a % 256 + bs.length ≤ 256 →
      exec (.memoryWrite (.core f) a bs .none) s = .next (bump s (pageOf .llc (scrAt a).1 + 0x74)))) ∧
  (
    ∀ (f a n x w : Nat) (s : State), rangeOf a = .scratch → scrOk s f a = true → (n = 4 ∨ n = 8 ∨ n = 16) → a % n = 0 →
      s.mem.scrPoison.contains ((a - 0x010000000000) / 256) = false →
      ∀ (i : Instr) (new : Nat → Nat), (i, new) ∈ [
        (Instr.atomicAdd (.core f) a n x, fun old => (old + x) % 2 ^ (8 * n)),
        (.atomicSmin (.core f) a n x, fun old => if sext (8 * n) x < sext (8 * n) old then x % 2 ^ (8 * n) else old),
        (.atomicSmax (.core f) a n x, fun old => if sext (8 * n) old < sext (8 * n) x then x % 2 ^ (8 * n) else old),
        (.atomicUmin (.core f) a n x, fun old => min (x % 2 ^ (8 * n)) old),
        (.atomicUmax (.core f) a n x, fun old => max (x % 2 ^ (8 * n)) old),
        (.atomicCas (.core f) a n x w, fun old => if old = x % 2 ^ (8 * n) then w % 2 ^ (8 * n) else old)] →
      ∃ t, exec i s = .next (emit (bump t (pageOf .llc (scrAt a).1 + 0x6C)) (.atomic f (leNat (rdBytes s.mem.scratch (a - 0x010000000000) n)))) ∧
        t.mem.scratch = wrBytes s.mem.scratch (a - 0x010000000000) (leBytes (new (leNat (rdBytes s.mem.scratch (a - 0x010000000000) n))) n) ∧
        t.mem.dram = s.mem.dram ∧ t.mem.lpd = s.mem.lpd ∧ t = { s with mem := t.mem })

/-- Stack and tier cells past the cache (R157, R158, R169, R180): a write of a core to a C region that is not cached, whose
place has no mirror, stores its bytes at that place and changes no other byte; a read answers the bytes there; a write to
the tier while an LPD block is not ON is refused and counts in STK_WDROP of stack 0. The ways of a slice (R175, R176, Table
6-13): a change of MODE or OWNER sets PENDING and nothing else; when it is done a way that was SCRATCH is zero and has its
new mode and owner; an invalidation waits in order, and when it is done no line of its range is cached. -/
def Obligations.CellsAndWays : Prop :=
  (
    (∀ (f a p : Nat) (bs : List Byte) (s : State), Memory.wf s → rangeOf a = .stack → rgnClass s (a / 2 ^ 21) = 0 → bitN (rgnEnt s (a / 2 ^ 21)) 4 = false →
      0 < bs.length → a % 256 + bs.length ≤ 256 → stkPlace s a = (p, none) → ∃ t, exec (.memoryWrite (.core f) a bs .none) s = .next t ∧
        (∀ i, i < bs.length → spGet 0 t.mem.dram (p + i) = bs.getD i 0) ∧
        (∀ k, k < p ∨ p + bs.length ≤ k → spGet 0 t.mem.dram k = spGet 0 s.mem.dram k) ∧
        t.mem.lpd = s.mem.lpd ∧ t.mem.scratch = s.mem.scratch ∧ t = { s with mem := t.mem }) ∧
    (∀ (f a n p : Nat) (m : Option Nat) (s : State), rangeOf a = .stack → rgnClass s (a / 2 ^ 21) = 0 → bitN (rgnEnt s (a / 2 ^ 21)) 4 = false →
      0 < n → a % 256 + n ≤ 256 → stkPlace s a = (p, m) →
      exec (.memoryRead (.core f) a n .none) s = .next (emit s (.mem (.core f) (rdBytes s.mem.dram p n)))) ∧
    (∀ (f a : Nat) (bs : List Byte) (s : State), rangeOf a = .lpd → lpdUp s = false → 0 < bs.length → a % 256 + bs.length ≤ 256 →
      exec (.memoryWrite (.core f) a bs .none) s = .next (bump s (pageOf .stk 0 + 0x5C)))) ∧
  (
    (∀ (mid k w : Nat) (v : W32) (s : State), k < 4 → pgReach s mid .llc = .yes → isOn s .llc k = true → rdSel s (pageOf .llc k + 0x40) mid = w → w < 48 →
      v.toNat % 4 ≠ 3 → fld v.toNat 10 2 ≤ 256 → (getWay s k w).phys ≠ 0x3F → tdiLocked s (getWay s k w).owner = false → (getWay s k w).mode ≠ v.toNat % 4 →
      exec (.wayCfg mid k v) s = .next (setWay s k w { getWay s k w with pend := some (v.toNat % 4, fld v.toNat 10 2) })) ∧
    (∀ (k w md own : Nat) (s : State), (getWay s k w).pend = some (md, own) → (getWay s k w).mode = 2 → isOn s .llc k = true → s.mem.waits = [] →
      ∃ t, exec (.wayCfgDone k w) s = .next t ∧ getWay t k w = { getWay s k w with mode := md, owner := own, pend := none } ∧
        (∀ i, (k * 48 + w) * 2 ^ 21 ≤ i → i < (k * 48 + w) * 2 ^ 21 + 2 ^ 21 → spGet 0 t.mem.scratch i = 0) ∧ t.mem.dram = s.mem.dram ∧
        t = { s with mem := t.mem }) ∧
    (∀ (mid k : Nat) (v : W32) (s : State), k < 4 → pgReach s mid .llc = .yes → isOn s .llc k = true → bit v 0 = true → ∃ t, exec (.invCmd mid k v) s = .next t ∧
      t.mem.inv = s.mem.inv ++ [(pageOf .llc k, rdPair s (pageOf .llc k + 0x50), rdN s (pageOf .llc k + 0x58))] ∧ t.mem.lines = s.mem.lines ∧
      t = { s with mem := t.mem }) ∧
    (∀ (pg b n : Nat) (l : List (Nat × Nat × Nat)) (s : State), s.mem.inv = (pg, b, n) :: l → ∃ t, exec .invCmdDone s = .next t ∧
      (∀ x ∈ t.mem.lines, ¬ (b < x.addr + 256 ∧ x.addr < b + n)) ∧ t.regs = s.regs ∧ t.mem.scratch = s.mem.scratch))

/-- Retagging (R165, R166, R167, Table 6-7): a refused command changes nothing but the result and region of RT_STS; an accepted
one makes every region of its scope TRANSIT, and RT_STS reads busy, result 0 and the command's region; when it is done the
scope's pair region under class C is zero and the stack has no retag in progress. The stack's tables (R158, R160, R176,
R187): REMAP stores its entry, its two channel fields held to the channels 0 to 33 (R424), RGN_ENT the CACHE, GOLD and GIDX
fields of the entry the writer's RGN_IDX selects, its class and mode kept; a write by the host to a stack that is not ON is
dropped and counts in HOST_REF. -/
def Obligations.RetaggingAndStackTables : Prop :=
  (
    (∀ (mid stk rgn mode : Nat) (s : State), stk < 8 → pgReach s mid .stk = .yes → isOn s .stk stk = true →
      ∀ (i : Instr) (tg md : Nat), (i, tg, md) ∈ [(Instr.retagC mid stk rgn, 0, 0), (.retagE mid stk rgn mode, 1, mode % 4), (.retagOffline mid stk rgn, 3, 0)] →
        (∀ c, retagDecide s tg md (stk * 2 ^ 15 + rgn % 2 ^ 15) = .refused c →
          exec i s = .next (wrReg s (pageOf .stk stk + 0x50) (w32 (2 * c + 16 * (rgn % 2 ^ 15))))) ∧
        (∀ l, retagDecide s tg md (stk * 2 ^ 15 + rgn % 2 ^ 15) = .go l → ∃ t, exec i s = .next t ∧ (∀ r ∈ l, rgnClass t r = 2) ∧
          (∀ m, stkView t m stk 0x50 = 1 + 16 * (rgn % 2 ^ 15)) ∧
          spFind t.mem.retags stk = some { target := tg, mode := md, rgn := rgn % 2 ^ 15, scope := l } ∧ t.mem.dram = s.mem.dram ∧
          t = { s with regs := t.regs, mem := t.mem })) ∧
    (∀ (stk r : Nat) (x : Retag) (s : State), spFind s.mem.retags stk = some x → x.target = 0 → x.scope = [r] → (rgnPlace s true r).2 = none →
      ∃ t, exec (.retagDone stk) s = .next t ∧ (∀ k, (rgnPlace s true r).1 ≤ k → k < (rgnPlace s true r).1 + 2 ^ 21 → spGet 0 t.mem.dram k = 0) ∧
        spFind t.mem.retags stk = none ∧ (∀ m, stkView t m stk 0x50 = rdN s (pageOf .stk stk + 0x50)) ∧ t.mem.lpd = s.mem.lpd ∧ t.mem.scratch = s.mem.scratch ∧
        t = { s with regs := t.regs, mem := t.mem })) ∧
  (
    (∀ (mid stk n : Nat) (v : W32) (s : State), stk < 8 → n < 34 → pgReach s mid .stk = .yes → isOn s .stk stk = true → ∃ t, exec (.remap mid stk n v) s = .next t ∧
      remap t stk n = min (fld v.toNat 5 0) 33 + 2 ^ 6 * fld v.toNat 6 6 + 2 ^ 7 * min (fld v.toNat 12 7) 33 + 2 ^ 13 * fld v.toNat 14 13 ∧ (∀ k, k < 34 → k ≠ n → remap t stk k = remap s stk k) ∧ t = { s with regs := t.regs }) ∧
    (∀ (mid stk : Nat) (v : W32) (s : State), stk < 8 → pgReach s mid .stk = .yes → isOn s .stk stk = true → bit v 4 = true → ∃ t, exec (.rgnEnt mid stk v) s = .next t ∧
      rgnClass t (stk * 2 ^ 15 + rdSel s (pageOf .stk stk + 0x44) mid) = rgnClass s (stk * 2 ^ 15 + rdSel s (pageOf .stk stk + 0x44) mid) ∧
      rgnMode t (stk * 2 ^ 15 + rdSel s (pageOf .stk stk + 0x44) mid) = rgnMode s (stk * 2 ^ 15 + rdSel s (pageOf .stk stk + 0x44) mid) ∧
      bitN (rgnEnt t (stk * 2 ^ 15 + rdSel s (pageOf .stk stk + 0x44) mid)) 4 = true ∧
      rgnGold t (stk * 2 ^ 15 + rdSel s (pageOf .stk stk + 0x44) mid) = bit v 5 ∧
      fld (rgnEnt t (stk * 2 ^ 15 + rdSel s (pageOf .stk stk + 0x44) mid)) 25 8 = fld v.toNat 25 8 ∧
      t.mem.dram = s.mem.dram ∧ t = { s with mem := t.mem }) ∧
    (∀ (mid stk n : Nat) (v : W32) (s : State), stk < 8 → pgReach s mid .stk = .yes → isOn s .stk stk = false → hostMid mid = true →
      exec (.remap mid stk n v) s = .next (hostRef s) ∧ exec (.rgnEnt mid stk v) s = .next (hostRef s)))

/-- Golden reload and temperatures (R181, R182, R183, R370): a golden copy that reads well and whose CRC agrees puts the region
back to class C with its bytes and counts; a stack whose hottest die reads 105 °C stops alone; a report of a tier device
sets its channel's refresh multiplier. -/
def Obligations.ReloadAndTemperatures : Prop :=
  (∀ (stk rgn : Nat) (bs c : List Byte) (s u v : State), s.mem.reloads.contains (stk * 2 ^ 15 + rgn % 2 ^ 15) = true →
    memRead { s with mem := { s.mem with reloads := s.mem.reloads.filter (fun x => x != stk * 2 ^ 15 + rgn % 2 ^ 15) } } 256 false
      (goldAddr s (stk * 2 ^ 15 + rgn % 2 ^ 15)) (2 ^ 21) .none = (u, .ok bs) →
    memRead u 256 false (rdPair s (pageOf .stk stk + 0x54) + 4 * fld (rgnEnt s (stk * 2 ^ 15 + rgn % 2 ^ 15)) 25 8) 4 .none = (v, .ok c) →
    crc32c bs = leNat c → exec (.goldenReloadDone stk rgn .none) s = .next (bump (dramPut (setClass v (stk * 2 ^ 15 + rgn % 2 ^ 15) 0 0)
      (rgnPlace (setClass v (stk * 2 ^ 15 + rgn % 2 ^ 15) 0 0) true (stk * 2 ^ 15 + rgn % 2 ^ 15)).1
      (rgnPlace (setClass v (stk * 2 ^ 15 + rgn % 2 ^ 15) 0 0) true (stk * 2 ^ 15 + rgn % 2 ^ 15)).2 bs) (pageOf .stk stk + 0x64))) ∧
  (∀ (stk : Nat) (ts : List Nat) (s : State), stk < 8 → ts ≠ [] → hubUp s = true → isOn s .stk stk = false → ∃ t, exec (.stackTempRead stk ts) s = .next t ∧
    spFind t.mem.temps stk = some ts ∧ rdN t (pageOf .stk stk + 0x40) % 256 = maxN ts % 256 ∧ t = { s with regs := t.regs, mem := t.mem }) ∧
  (∀ (stk : Nat) (ts : List Nat) (s : State), stk < 8 → hubUp s = true → isOn s .stk stk = true → 105 ≤ maxN ts → ∃ u, exec (.stackTempRead stk ts) s = .next (stackTrip u stk ts) ∧
    blkState (setBlk (stackLost (tripLog u 3 (16 * stk + hotDie ts) (maxN ts) false) stk) .stk stk .failed) .stk stk = .failed) ∧
  (∀ (ch : Nat) (s : State), ch < 16 → isOn s .lpd (ch / 4) = true → ∀ m c, (m, c) ∈ [(1, 0), (2, 1), (4, 2)] → ∃ t, exec (.lpddrTemperatureReport ch m) s = .next t ∧
    fld (rdN t (pageOf .lpd (ch / 4) + 0x40)) (5 + 2 * (ch % 4)) (4 + 2 * (ch % 4)) = c ∧ t = { s with regs := t.regs })

/-- Commands of the descriptor network (R91): of a cluster that is ON, PING answers with the running trick, and EVENT adds to
one event counter, modulo 2^16, whether or not a run is in progress; DROP adds to the drop mask of the running trick and
does nothing for another; ABORT of the running trick leaves every sequencer idle, the held runs forgotten and its waits
dropped, other clusters as they were; the registers are as they were unless an operation was in progress, which leaves the
QS registers undefined (R121). RUN (R65, R74, R75, R87): behind a run it is held, after the runs that wait already; else the
parameter block is read from its address and, with both decks in the deck cache, the cluster runs it: the trick's number and
drop mask from the block, operand tiles, parameters and staged writes forgotten, no earlier abort, every sequencer at its
first step (the cluster sequencer ended where the block names no cluster deck), accumulator slots that an earlier run left
open as they were; a cluster that is not live does nothing. No sampled drop mask before the first LAYER loop is the model's
choice (log entry 169). -/
def Obligations.ClusterCommands : Prop :=
  (
    (∀ (c n : Nat) (s : State), isOn s .clu c = true → exec (.ping c n) s = .next (emit s (.pong c n (rdPair s (pageOf .clu c + 0x50))))) ∧
    (∀ (c q e n : Nat) (s : State), isOn s .clu c = true → q ≤ 64 → e < 16 → ∃ t, exec (.event c q e n) s = .next t ∧
      (getS (getC t c) q).ev.getD e 0 = ((getS (getC s c) q).ev.getD e 0 + n) % 65536 ∧
      (∀ j, j ≠ e → (getS (getC t c) q).ev.getD j 0 = (getS (getC s c) q).ev.getD j 0) ∧
      getC t c = setS (getC s c) q { getS (getC s c) q with ev := (getS (getC t c) q).ev } ∧
      (∀ d, d ≠ c → getC t d = getC s d) ∧ t = { s with clu := t.clu }) ∧
    (∀ (c m : Nat) (s : State), (getC s c).active = true →
      exec (.drop c (getC s c).trick m) s = .next (setC s c { getC s c with dropMask := Nat.lor (getC s c).dropMask (m % 2 ^ 1024) })) ∧
    (∀ (c k m : Nat) (s : State), (getC s c).trick ≠ k → exec (.drop c k m) s = .next s ∧ exec (.abort c k) s = .next s) ∧
    (∀ (c : Nat) (s : State), (getC s c).active = true → ∃ t, exec (.abort c (getC s c).trick) s = .next t ∧
      (getC t c).active = false ∧ (getC t c).aborted = true ∧ (getC t c).held = [] ∧ (∀ q, getS (getC t c) q = {}) ∧
      (getC t c).params = [] ∧ (getC t c).qsSave = (getC s c).qsSave ∧
      ((getC s c).xr = none → t.regs = s.regs) ∧
      t.sync.waits = s.sync.waits.filter (fun w => w.clu != c) ∧ t.sync.arrived = s.sync.arrived.filter (fun a => a.2.1 != c) ∧
      t.sync.sem = s.sync.sem ∧ (∀ d, d ≠ c → getC t d = getC s d) ∧
      t = { s with clu := t.clu, sync := t.sync, free := t.free, regs := t.regs, deal := { s.deal with qs := t.deal.qs } })) ∧
  (
    (∀ (c a : Nat) (s : State), cluLive s c = true → scrWaits s 256 a 1024 = false → (getC s c).active = true →
      exec (.run c a) s = .next (setC s c { getC s c with held := (getC s c).held ++ [a] })) ∧
    (∀ (c a : Nat) (bs : List Byte) (s s1 : State), cluLive s c = true → scrWaits s 256 a 1024 = false → (getC s c).active = false →
      memRead s 256 true a 1024 .none = (s1, .ok bs) →
      (getC s c).decks.any (fun d => d.addr == leAt bs 0x10 8) = true →
      (leAt bs 0x18 8 = 0 ∨ (getC s c).decks.any (fun d => d.addr == leAt bs 0x18 8) = true) →
      ∃ t, exec (.run c a) s = .next t ∧ (getC t c).active = true ∧ (getC t c).tpb = bs ∧ (getC t c).tpbAt = a ∧ (getC t c).held = [] ∧
        (getC t c).trick = leAt bs 0 8 ∧ (getC t c).dropMask = leAt bs 0x100 128 ∧ (getC t c).tiles = [] ∧ (getC t c).full = [] ∧ (getC t c).params = [] ∧
        (getC t c).staged = [] ∧ (getC t c).aborted = false ∧
        (∀ q, q < 64 → (getS (getC t c) q).st = .issue ∧ (getS (getC t c) q).pc = 1 ∧ (getS (getC t c) q).drop = 0 ∧
          (getCore (getC t c) q).slots = (getCore (getC s c) q).slots) ∧
        (getS (getC t c) 64).st = (if leAt bs 0x18 8 = 0 then SeqSt.ended else SeqSt.issue) ∧
        (∀ d, d ≠ c → getC t d = getC s d)) ∧
    (∀ (c a : Nat) (s : State), cluLive s c = false → exec (.run c a) s = .next s))

/-- The cluster's own registers (R75, R92, R94, R96): while the cluster is ON, a write of CLU_CFG or CORE_MAP takes effect at
once when no run is in progress and at the next RUN otherwise; LCLU and every physical core are held to 67 (R424); CORE_RET
bits are only set; DCACHE_INV empties the deck cache at once, or at the end of the run. -/
def Obligations.ClusterRegisters : Prop :=
  ∀ (mid c : Nat) (v : W32) (s : State), pgReach s mid .clu = .yes → isOn s .clu c = true →
    ((getC s c).active = false → exec (.cluCfg mid c v) s =
      .next (wrReg (setC s c { getC s c with staged := spDel (getC s c).staged (pageOf .clu c + 0x40) }) (pageOf .clu c + 0x40) (w32 (min (v.toNat % 128) 67)))) ∧
    ((getC s c).active = true → ∃ t, exec (.cluCfg mid c v) s = .next t ∧ spFind (getC t c).staged (pageOf .clu c + 0x40) = some (w32 (min (v.toNat % 128) 67)) ∧
      getC t c = { getC s c with staged := (getC t c).staged } ∧ (∀ d, d ≠ c → getC t d = getC s d) ∧ t = { s with clu := t.clu }) ∧
    (∀ m, m < 16 → (getC s c).active = false → exec (.coreMap mid c m v) s =
      .next (wrReg (setC s c { getC s c with staged := spDel (getC s c).staged (pageOf .clu c + 0x60 + 4 * m) }) (pageOf .clu c + 0x60 + 4 * m)
        (w32 (min (fld v.toNat 6 0) 67 + 2 ^ 8 * min (fld v.toNat 14 8) 67 + 2 ^ 16 * min (fld v.toNat 22 16) 67 + 2 ^ 24 * min (fld v.toNat 30 24) 67)))) ∧
    (∀ m, m < 16 → (getC s c).active = true → ∃ t, exec (.coreMap mid c m v) s = .next t ∧
      spFind (getC t c).staged (pageOf .clu c + 0x60 + 4 * m) =
        some (w32 (min (fld v.toNat 6 0) 67 + 2 ^ 8 * min (fld v.toNat 14 8) 67 + 2 ^ 16 * min (fld v.toNat 22 16) 67 + 2 ^ 24 * min (fld v.toNat 30 24) 67)) ∧
      getC t c = { getC s c with staged := (getC t c).staged } ∧ (∀ d, d ≠ c → getC t d = getC s d) ∧ t = { s with clu := t.clu }) ∧
    (∀ m, m < 2 → exec (.coreRet mid c m v) s = .next (wrReg s (pageOf .clu c + 0xA0 + 4 * m) (rdReg s (pageOf .clu c + 0xA0 + 4 * m) ||| v))) ∧
    exec (.coreRet mid c 2 v) s = .next (wrReg s (pageOf .clu c + 0xA8) (rdReg s (pageOf .clu c + 0xA8) ||| (v &&& 0xF))) ∧
    (bit v 0 = true → (getC s c).active = false → exec (.dcacheInv mid c v) s = .next (setC s c { getC s c with decks := [] })) ∧
    (bit v 0 = true → (getC s c).active = true → exec (.dcacheInv mid c v) s = .next (setC s c { getC s c with inval := true }))

/-- Waits, signals and notices (R88 to R91): a WAIT whose counter has reached its target modulo 2^16 completes, any other waits
and is released when the counter has; a SIGNAL adds to an event counter of the cluster; a notice leaves on the return path. -/
def Obligations.EventSteps : Prop :=
  (∀ (c q w : Nat) (s : State), Issues s c q w → fld w 3 0 = 6 → kindOf w = 0 →
    exec (.waitEvent c q) s = .next (setC s c (setS (getC s c) q
      (if ((getS (getC s c) q).ev.getD (fld w 19 16) 0 + 65536 - fld w 47 32) % 65536 < 32768 then stepDone (getS (getC s c) q) w
       else { getS (getC s c) q with st := .waitEvent (fld w 19 16) (fld w 47 32) })))) ∧
  (∀ (c q w ev val : Nat) (s : State), (getS (getC s c) q).st = .waitEvent ev val → stepAt (getC s c) q = some w →
    exec (.waitRelease c q) s = .next (if ((getS (getC s c) q).ev.getD ev 0 + 65536 - val) % 65536 < 32768
      then setC s c (setS (getC s c) q (stepDone { getS (getC s c) q with st := .issue } w)) else s)) ∧
  (∀ (c q w d : Nat) (s : State), Issues s c q w → fld w 3 0 = 7 → kindOf w = 0 → d = (if fld w 30 24 = 127 then q else fld w 30 24) → d ≤ 64 →
    exec (.signalEvent c q) s = .next (setC s c (setS (setS (getC s c) q (stepDone (getS (getC s c) q) w)) d
      (addEvent (getS (setS (getC s c) q (stepDone (getS (getC s c) q) w)) d) (fld w 19 16) (fld w 47 32))))) ∧
  (∀ (c q w : Nat) (s : State), Issues s c q w → fld w 3 0 = 7 → kindOf w = 0 → fld w 30 24 ≠ 127 → 64 < fld w 30 24 →
    exec (.signalEvent c q) s = .next (seqFault s c q 2)) ∧
  (∀ (c q w : Nat) (s : State), Issues s c q w → fld w 3 0 = 7 → kindOf w = 2 →
    exec (.dealerNotice c q) s = .next (setC (emit s (.notice (gidx s c q) (fld w 47 32))) c (setS (getC s c) q (stepDone (getS (getC s c) q) w))))

/-- Semaphores and barriers (R89, R90, R92): a POST adds, or raises SEM above 65,535 and leaves the value; a WAIT that the value
allows, with no earlier one waiting, takes its count, any other queues; the first waiting one is granted when the value
allows, a later one does not pass it (the model's choice, log entry 17); a sequencer at a barrier waits, and all of a group
that still wait go on once every member has arrived. -/
def Obligations.SemaphoresAndBarriers : Prop :=
  (∀ (c q w i : Nat) (s : State), Issues s c q w → fld w 3 0 = 7 → kindOf w = 1 → fld w 47 32 ≠ 0 → semOf (getC s c) (fld w 25 16) = some i → ∀ d : Nat,
    d = (if bitN w 26 then 1 - dieOf c else dieOf c) →
    (semVal s d i + fld w 47 32 ≤ 65535 → ∃ t, exec (.post c q) s = .next t ∧ semVal t d i = semVal s d i + fld w 47 32 ∧
      getC t c = setS (getC s c) q (stepDone (getS (getC s c) q) w) ∧ t = { s with clu := t.clu, sync := { s.sync with sem := t.sync.sem } }) ∧
    (65535 < semVal s d i + fld w 47 32 → exec (.post c q) s = .next (seqFault s c q 5))) ∧
  (∀ (c q w i : Nat) (s : State), Issues s c q w → fld w 3 0 = 6 → kindOf w = 1 → fld w 47 32 ≠ 0 → semOf (getC s c) (fld w 25 16) = some i →
    (fld w 47 32 ≤ semVal s (dieOf c) i → s.sync.waits.any (fun x => x.die == dieOf c && x.sem == i) = false → ∃ t, exec (.acquire c q) s = .next t ∧
      semVal t (dieOf c) i = semVal s (dieOf c) i - fld w 47 32 ∧ getC t c = setS (getC s c) q (stepDone (getS (getC s c) q) w) ∧
      t = { s with clu := t.clu, sync := { s.sync with sem := t.sync.sem } }) ∧
    (semVal s (dieOf c) i < fld w 47 32 ∨ s.sync.waits.any (fun x => x.die == dieOf c && x.sem == i) = true → ∃ t x, exec (.acquire c q) s = .next t ∧ t.sync.waits = s.sync.waits ++ [x] ∧ x.die = dieOf c ∧ x.sem = i ∧
      x.n = fld w 47 32 ∧ x.clu = c ∧ x.seq = q ∧ t.sync.sem = s.sync.sem ∧
      getC t c = setS (getC s c) q { getS (getC s c) q with st := .waitSem i (fld w 47 32) } ∧ t = { s with clu := t.clu, sync := t.sync })) ∧
  (∀ (die sem w : Nat) (x : SemWait) (s : State), s.sync.waits.find? (fun y => y.die == die && y.sem == sem) = some x → x.n ≤ semVal s die sem →
    (getS (getC s x.clu) x.seq).st = .waitSem sem x.n → stepAt (getC s x.clu) x.seq = some w → ∃ t, exec (.acquireGrant die sem) s = .next t ∧ semVal t die sem = semVal s die sem - x.n ∧
      t.sync.waits = s.sync.waits.erase x ∧ getC t x.clu = setS (getC s x.clu) x.seq (stepDone { getS (getC s x.clu) x.seq with st := .issue } w) ∧
      (∀ d, d ≠ x.clu → getC t d = getC s d) ∧ t = { s with clu := t.clu, sync := t.sync }) ∧
  (∀ (c q w : Nat) (s : State), Issues s c q w → fld w 3 0 = 6 → kindOf w = 2 → fld w 17 16 ≠ 3 → ∃ t, exec (.waitBarrier c q) s = .next t ∧
    t.sync.arrived = s.sync.arrived ++ [(fld w 17 16, c, q, tpbF (getC s c) 0x2C 1)] ∧
    getC t c = setS (getC s c) q { getS (getC s c) q with st := .waitBar (fld w 17 16) } ∧ t = { s with clu := t.clu, sync := t.sync }) ∧
  (∀ (scope i grp : Nat) (s : State), barMembers s scope i grp ≠ [] →
    (∀ m ∈ barMembers s scope i grp, ∃ a ∈ s.sync.arrived, a.1 = scope ∧ a.2.1 = m.1 ∧ a.2.2.1 = m.2 ∧ a.2.2.2 = grp) →
    ∃ t, exec (.barrierRelease scope i grp) s = .next t ∧
      (∀ m ∈ barMembers s scope i grp, (∀ sc w, (getS (getC s m.1) m.2).st = .waitBar sc → stepAt (getC s m.1) m.2 = some w →
        getS (getC t m.1) m.2 = stepDone { getS (getC s m.1) m.2 with st := .issue } w) ∧ (scope, m.1, m.2, grp) ∉ t.sync.arrived) ∧ t.sync.sem = s.sync.sem ∧ t.sync.waits = s.sync.waits ∧
      (∀ d, (∀ m ∈ barMembers s scope i grp, m.1 ≠ d) → getC t d = getC s d) ∧ t = { s with clu := t.clu, sync := t.sync })

/-- Loops, the end of a deck, completions and the watchdog (R79, R85, R91, R93, R244, R262): the first pass of a loop sets its
counter and goes back, a pass with none left goes on; a LAYER loop samples the drop mask and records what it sampled first,
and one of the cluster sequencer begins the next layer; a LOOP whose counter another LOOP holds, that jumps to before the
start of another active loop, or that goes back by 0, raises DECK; END waits for outstanding and array steps, and the last
one ends the run; a completed step counts its event, a STREAM's only once its last group is in the ring; a sequencer that
runs or waits too long raises HANG. -/
def Obligations.LoopsAndEnds : Prop :=
  (∀ (c q w cnt : Nat) (x y : Sequencer) (s s1 r : State), Issues s c q w → fld w 3 0 = 9 →
    s1 = (if bitN w 5 then noteDrop s c q (getC s c) (sampleMask s c q (getC s c)) else s) →
    x = (if bitN w 5 then { getS (getC s c) q with drop := sampleMask s c q (getC s c), layer := (getS (getC s c) q).layer + 1 } else getS (getC s c) q) →
    cnt = (if bitN w 4 then tpbCnt (getC s c) (fld w 36 32) else fld w 63 32) → 2 ≤ cnt →
    x.loops.all (fun l => !l.active) = true → 0 < fld w 26 16 → fld w 26 16 ≤ 2046 → fld w 26 16 < x.pc →
    y = { x with pc := x.pc - fld w 26 16, loops := setAt x.loops (fld w 31 30) { active := true, left := cnt - 2, owner := x.pc, start := x.pc - fld w 26 16 } } →
    r = setC s1 c (setS (getC s c) q (if bitN w 12 then addEvent y (fld w 11 8) 1 else y)) →
    exec (.loop c q) s = .next (if q = 64 ∧ bitN w 5 = true then layerBegin r (runModel (getC s c)) x.layer else r)) ∧
  (∀ (c q w : Nat) (l : LoopCtr) (x : Sequencer) (s s1 r : State), Issues s c q w → fld w 3 0 = 9 →
    s1 = (if bitN w 5 then noteDrop s c q (getC s c) (sampleMask s c q (getC s c)) else s) →
    x = (if bitN w 5 then { getS (getC s c) q with drop := sampleMask s c q (getC s c), layer := (getS (getC s c) q).layer + 1 } else getS (getC s c) q) →
    0 < fld w 26 16 → fld w 26 16 ≤ 2046 →
    x.loops.getD (fld w 31 30) {} = l → l.active = true → l.owner = x.pc → l.left = 0 →
    r = setC s1 c (setS (getC s c) q (stepDone { x with loops := setAt x.loops (fld w 31 30) { l with active := false } } w)) →
    exec (.loop c q) s = .next (if q = 64 ∧ bitN w 5 = true then layerBegin r (runModel (getC s c)) x.layer else r)) ∧
  (∀ (c q w : Nat) (l : LoopCtr) (x : Sequencer) (s s1 : State), Issues s c q w → fld w 3 0 = 9 →
    s1 = (if bitN w 5 then noteDrop s c q (getC s c) (sampleMask s c q (getC s c)) else s) →
    x = getS (getC s c) q → l = x.loops.getD (fld w 31 30) {} →
    (fld w 26 16 = 0 → exec (.loop c q) s = .next (seqFault s1 c q 2)) ∧
    (l.active = true → l.owner ≠ x.pc → exec (.loop c q) s = .next (seqFault s1 c q 2)) ∧
    (∀ (j : Nat) (y : LoopCtr), l.active = true → l.owner = x.pc → 0 < l.left → j ≠ fld w 31 30 → x.loops[j]? = some y → y.active = true → x.pc - fld w 26 16 < y.start →
      exec (.loop c q) s = .next (seqFault s1 c q 2))) ∧
  (∀ (c q w : Nat) (s : State), Issues s c q w → fld w 3 0 = 10 → (getS (getC s c) q).loops.any (fun l => l.active) = false → (getS (getC s c) q).outst = [] →
    (getS (getC s c) q).arr = [] → q ≤ 64 →
    ((∃ r, r ≤ 64 ∧ r ≠ q ∧ (getS (getC s c) r).st ≠ .ended) →
      exec (.endStep c q) s = .next (setC s c (setS (getC s c) q { stepDone (getS (getC s c) q) w with st := .ended }))) ∧
    ((∀ r, r ≤ 64 → r ≠ q → (getS (getC s c) r).st = .ended) → (getC s c).held = [] → ∃ t, exec (.endStep c q) s = .next t ∧
      (getC t c).active = false ∧ (getS (getC t c) q).st = .ended ∧ (∀ d, d ≠ c → getC t d = getC s d) ∧ t = { s with clu := t.clu, deal := t.deal })) ∧
  (∀ (c q w : Nat) (s : State), Issues s c q w → fld w 3 0 = 10 → (getS (getC s c) q).loops.any (fun l => l.active) = false →
    ((getS (getC s c) q).outst ≠ [] ∨ (getS (getC s c) q).arr ≠ []) → exec (.endStep c q) s = .next s) ∧
  (∀ (c q i : Nat) (a : Async) (s : State), (getS (getC s c) q).outst[i]? = some a →
    ((a.stream = false ∨ ∀ r, (getCore (getC s c) q).ring = some r → r.ngrp ≤ r.written) →
      exec (.stepComplete c q i) s = .next (setC s c (setS (getC s c) q (if a.cen
        then addEvent { getS (getC s c) q with outst := (getS (getC s c) q).outst.eraseIdx i } a.cev 1
        else { getS (getC s c) q with outst := (getS (getC s c) q).outst.eraseIdx i })))) ∧
    (∀ r, a.stream = true → (getCore (getC s c) q).ring = some r → r.written < r.ngrp → exec (.stepComplete c q i) s = .next s)) ∧
  (∀ (c q : Nat) (s : State), (getC s c).active = true → (getS (getC s c) q).st ≠ .idle → (getS (getC s c) q).st ≠ .ended → (∀ e, (getS (getC s c) q).st ≠ .stopped e) →
    exec (.hang c q) s = .next (seqFault s c q 18))

/-- LOAD (R80, R86): with the tensor's rows and groups within it and its memory readable, operand memory takes the rows in block
form, a raw LOAD the bytes as they stand; the step goes out and its address registers advance; past the tensor's rows or
groups it raises BOUNDS. In the cluster deck a LOAD of TX32-wide rows leaves 64 codes a tile row, each FULL, with exponent 0
(R98, R99), and a raw LOAD writes the units of the cluster address space. -/
def Obligations.LoadSteps : Prop :=
  (∀ (c q w nrow ngrp upp : Nat) (td : TD) (x : Sequencer) (rows : List (List Nat)) (s s1 : State), Issues s c q w → fld w 3 0 = 1 → bitN w 4 = false → q < 64 →
    x = getS (getC s c) q → x.outst.length < 4 → td = tdOf (getC s c) (fld w 19 16) → nrow = fld w 29 24 → ngrp = fld w 63 48 → 0 < nrow → nrow ≤ 32 → 0 < ngrp →
    td.rsvd = 0 → fmtCode td.fmt = true → (fmtBits td.fmt = 4 ∨ fmtBits td.fmt = 8) → upp = fmtBits td.fmt / 4 →
    arOf x (fld w 21 20) + nrow ≤ td.rows → arOf x (fld w 23 22) + ngrp ≤ td.gpr → fld w 45 32 + 256 * ngrp * upp ≤ 16384 →
    scrWaits s (runFn s (getC s c)) (td.code + (arOf x (fld w 21 20) * td.gpr + arOf x (fld w 23 22)) * grpBytes td.fmt) (((nrow - 1) * td.gpr + ngrp) * grpBytes td.fmt) = false →
    tensorRows s (runFn s (getC s c)) td (arOf x (fld w 21 20)) nrow (arOf x (fld w 23 22)) ngrp .none = (s1, .ok [], rows) →
    ∃ t, exec (.load c q .none) s = .next t ∧
      getCore (getC t c) q = { omWrs (getCore (getC s c) q) (fld w 45 32) (blockForm (fmtBits td.fmt) (256 * ngrp) rows) with seq := arPost (stepOut x w false) w false } ∧
      (∀ r, r ≠ q → getCore (getC t c) r = getCore (getC s c) r) ∧ (∀ d, d ≠ c → getC t d = getC s d) ∧ t = { s1 with clu := t.clu }) ∧
  (∀ (c q w : Nat) (up : Upset) (td : TD) (x : Sequencer) (s : State), Issues s c q w → fld w 3 0 = 1 → bitN w 4 = false → q < 64 →
    x = getS (getC s c) q → x.outst.length < 4 → td = tdOf (getC s c) (fld w 19 16) → 0 < fld w 29 24 → fld w 29 24 ≤ 32 → 0 < fld w 63 48 →
    td.rsvd = 0 → fmtCode td.fmt = true → (fmtBits td.fmt = 4 ∨ fmtBits td.fmt = 8) →
    up ≠ .deckCe → up ≠ .deckUe → (td.rows < arOf x (fld w 21 20) + fld w 29 24 ∨ td.gpr < arOf x (fld w 23 22) + fld w 63 48) → exec (.load c q up) s = .next (seqFault s c q 3)) ∧
  (∀ (c q w n a : Nat) (x : Sequencer) (bs : List Byte) (s s1 : State), Issues s c q w → fld w 3 0 = 1 → bitN w 4 = true → q < 64 →
    x = getS (getC s c) q → x.outst.length < 4 → n = fld w 63 48 → 0 < n → a = (tdOf (getC s c) (fld w 19 16)).code + 16 * arOf x (fld w 21 20) →
    a + 16 * n ≤ 2 ^ 48 → fld w 45 32 + n ≤ 16384 → scrWaits s (runFn s (getC s c)) a (16 * n) = false → memRead s (runFn s (getC s c)) true a (16 * n) .none = (s1, .ok bs) →
    ∃ t, exec (.loadRaw c q .none) s = .next t ∧
      getCore (getC t c) q = { omWrs (getCore (getC s c) q) (fld w 45 32) (unitsOf bs) with seq := arPost (stepOut x w false) w true } ∧
      (∀ r, r ≠ q → getCore (getC t c) r = getCore (getC s c) r) ∧ (∀ d, d ≠ c → getC t d = getC s d) ∧ t = { s1 with clu := t.clu }) ∧
  (∀ (c w nrow ngrp row oma : Nat) (td : TD) (x : Sequencer) (rows : List (List Nat)) (s s1 : State), Issues s c 64 w → fld w 3 0 = 1 → bitN w 4 = false →
    x = getS (getC s c) 64 → x.outst.length < 4 → td = tdOf (getC s c) (fld w 19 16) → nrow = fld w 29 24 → ngrp = fld w 63 48 → 0 < nrow → nrow ≤ 32 → 0 < ngrp →
    td.rsvd = 0 → fmtCode td.fmt = true → arOf x (fld w 21 20) + nrow ≤ td.rows → arOf x (fld w 23 22) + ngrp ≤ td.gpr → fld w 45 32 = 16 * row → 16 * row + 64 * nrow * ngrp ≤ 0x1000 →
    loadWaits (getC s c) (rowsOfUnits (16 * row) (64 * nrow * ngrp)) = false →
    scrWaits s (runFn s (getC s c)) (td.code + (arOf x (fld w 21 20) * td.gpr + arOf x (fld w 23 22)) * grpBytes td.fmt) (((nrow - 1) * td.gpr + ngrp) * grpBytes td.fmt) = false →
    tensorRows s (runFn s (getC s c)) td (arOf x (fld w 21 20)) nrow (arOf x (fld w 23 22)) ngrp .none = (s1, .ok [], rows) →
    ∃ t, exec (.load c 64 .none) s = .next t ∧ getS (getC t c) 64 = arPost (stepOut x w false) w false ∧
      (∀ i j, i < nrow → j < 4 * ngrp → oma = row + 4 * ngrp * i + j →
        tileRd (getC t c) oma = mkRow ((((rows.getD i []).drop (64 * j)).take 64).map (codeVal td.fmt)) 0 ∧ (getC t c).full.contains oma = true) ∧
      (∀ r, r < row ∨ row + 4 * ngrp * nrow ≤ r → tileRd (getC t c) r = tileRd (getC s c) r) ∧
      (getC t c).cores = (getC s c).cores ∧ (∀ d, d ≠ c → getC t d = getC s d) ∧ t = { s1 with clu := t.clu }) ∧
  (∀ (c w n a : Nat) (k2 : Cluster) (x : Sequencer) (bs : List Byte) (s s1 : State), Issues s c 64 w → fld w 3 0 = 1 → bitN w 4 = true →
    x = getS (getC s c) 64 → x.outst.length < 4 → n = fld w 63 48 → 0 < n → a = (tdOf (getC s c) (fld w 19 16)).code + 16 * arOf x (fld w 21 20) →
    a + 16 * n ≤ 2 ^ 48 → fld w 45 32 + n ≤ 0x1410 → loadWaits (getC s c) (rowsOfUnits (fld w 45 32) n) = false → scrWaits s (runFn s (getC s c)) a (16 * n) = false →
    memRead s (runFn s (getC s c)) true a (16 * n) .none = (s1, .ok bs) →
    k2 = (enumFrom 0 (unitsOf bs)).foldl (fun y e => cluUnitWr y (fld w 45 32 + e.1) (leBytes e.2.toNat 16)) (getC s c) →
    exec (.loadRaw c 64 .none) s = .next (setC s1 c (setS k2 64 (arPost (stepOut x w false) w true))))

/-- MOVE (R84): to another core's operand memory, to tensor rows out of block form, or to device memory as it stands; the step
goes out and the address registers of the last two advance. -/
def Obligations.MoveSteps : Prop :=
  (∀ (c q w : Nat) (s : State), Issues s c q w → fld w 3 0 = 8 → kindOf w = 0 → (getS (getC s c) q).outst.length < 4 → fld w 30 24 ≤ 63 → fld w 63 48 ≠ 0 →
    moveSrcOk q (fld w 45 32) (fld w 63 48) = true → fld w 101 88 + fld w 63 48 ≤ 16384 → ∀ k1 : Cluster,
    k1 = setCore (getC s c) (fld w 30 24) (omWrs (getCore (getC s c) (fld w 30 24)) (fld w 101 88) (unitsOf (moveSrc (getC s c) q (fld w 45 32) (fld w 63 48)))) →
    exec (.moveCore c q .none) s = .next (setC s c (setS k1 q (stepOut (getS k1 q) w false))) ∧
    exec (.moveCore c q .ue) s = .next (seqFault s c q 17) ∧ exec (.moveCore c q .residue) s = .next (seqFault s c q 16)) ∧
  (∀ (c q w nrow ngrp gb bits units : Nat) (td : TD) (x : Sequencer) (s : State), Issues s c q w → fld w 3 0 = 8 → kindOf w = 1 →
    x = getS (getC s c) q → x.outst.length < 4 → td = tdOf (getC s c) (fld w 19 16) → nrow = fld w 30 24 → ngrp = fld w 63 48 → gb = grpBytes td.fmt → bits = fmtBits td.fmt →
    units = 256 * ngrp * (bits / 4) → 0 < nrow → nrow ≤ 32 → 0 < ngrp → td.rsvd = 0 → fmtCode td.fmt = true → (bits = 4 ∨ bits = 8) → moveSrcOk q (fld w 45 32) units = true →
    arOf x (fld w 21 20) + nrow ≤ td.rows → arOf x (fld w 23 22) + ngrp ≤ td.gpr → td.code + td.rows * td.gpr * gb ≤ 0x010018000000 →
    scrWaits s (runFn s (getC s c)) (td.code + (arOf x (fld w 21 20) * td.gpr + arOf x (fld w 23 22)) * gb) (((nrow - 1) * td.gpr + ngrp) * gb) = false →
    ∃ t, exec (.moveRows c q .none) s = .next t ∧ getC t c = setS (getC s c) q (arPost (stepOut x w false) w false) ∧ (∀ d, d ≠ c → getC t d = getC s d) ∧
      t = { (List.range nrow).foldl (fun y i => (memWrite y (runFn s (getC s c)) (td.code + ((arOf x (fld w 21 20) + i) * td.gpr + arOf x (fld w 23 22)) * gb)
        (leBytes (packN bits (unblock bits (moveSrc (getC s c) q (fld w 45 32) units) (256 * ngrp) i)) (ngrp * gb))).1) s with clu := t.clu }) ∧
  (∀ (c q w n a : Nat) (x : Sequencer) (s : State), Issues s c q w → fld w 3 0 = 8 → kindOf w = 2 → x = getS (getC s c) q → x.outst.length < 4 → n = fld w 63 48 → 0 < n →
    moveSrcOk q (fld w 45 32) n = true → a = (tdOf (getC s c) (fld w 19 16)).code + 16 * arOf x (fld w 21 20) → a + 16 * n ≤ 0x010018000000 →
    scrWaits s (runFn s (getC s c)) a (16 * n) = false →
    ∃ t, exec (.moveRaw c q .none) s = .next t ∧ getC t c = setS (getC s c) q (arPost (stepOut x w false) w true) ∧ (∀ d, d ≠ c → getC t d = getC s d) ∧
      t = { (memWrite s (runFn s (getC s c)) a (moveSrc (getC s c) q (fld w 45 32) n)).1 with clu := t.clu })

/-- Streams (R69, R70, R81, R201, R202): a STREAM sets up the core's ring and goes out, a paged one with the page list's blocks,
the query rows' scale words checked (R43); a group the ring has room for is read, checked and written in feed form, a paged
one with its format, counted when it is narrower than KMAX (R203). -/
def Obligations.StreamSteps : Prop :=
  (∀ (c q w : Nat) (td : TD) (x : Sequencer) (s : State), Issues s c q w → fld w 3 0 = 2 → bitN w 4 = false → x = getS (getC s c) q → x.outst.length < 4 → td = tdOf (getC s c) (fld w 19 16) →
    (∀ r, (getCore (getC s c) q).ring = some r → r.ngrp ≤ r.freed) → 0 < fld w 30 24 → fld w 30 24 ≤ 64 → 0 < fld w 63 48 → fld w 45 32 + fld w 101 88 ≤ 16384 →
    22 * fld w 30 24 ≤ fld w 101 88 → td.rsvd = 0 → fmtWeight td.fmt = true → arOf x (fld w 21 20) + fld w 30 24 ≤ td.rows → arOf x (fld w 23 22) + fld w 63 48 ≤ td.gpr →
    q < 64 → ∃ t, exec (.stream c q) s = .next t ∧ getCore (getC t c) q = { getCore (getC s c) q with seq := arPost (stepOut x w true) w false, ring := some { td := fld w 19 16, base := fld w 45 32, len := fld w 101 88, ncol := fld w 30 24, ngrp := fld w 63 48, row := arOf x (fld w 21 20), grp := arOf x (fld w 23 22) } } ∧
      (∀ r, r ≠ q → getCore (getC t c) r = getCore (getC s c) r) ∧ (∀ d, d ≠ c → getC t d = getC s d) ∧ t = { s with clu := t.clu }) ∧
  (∀ (c q w a ent gu : Nat) (x : Sequencer) (cx b : List Byte) (bl : List (List KGroup)) (s s1 s2 : State), Issues s c q w → fld w 3 0 = 2 → bitN w 4 = true → q < 64 →
    x = getS (getC s c) q → x.outst.length < 4 → a = (tdOf (getC s c) (fld w 19 16)).code + 256 * arOf x (fld w 21 20) → ent = arOf x (fld w 23 22) →
    cx = (getM s (runModel (getC s c))).ctx → gu = (if fmtBits (cxKmax cx) = 8 ∨ fmtBits (cxVmax cx) = 8 then 22 else 11) →
    (∀ r, (getCore (getC s c) q).ring = some r → r.ngrp ≤ r.freed) → fld w 30 24 = 64 → fld w 45 32 + fld w 101 88 ≤ 16384 → 128 * gu ≤ fld w 101 88 →
    scrWaits s (runFn s (getC s c)) a 0x480 = false → readCpl s (runFn s (getC s c)) a = (s1, some b) → copyWaits s (getC s c).trick (runModel (getC s c)) (leAt b 2 2) = false →
    (cxWalk cx = true → invalWaits s (getC s c).trick (runModel (getC s c)) = false) → ent < leAt b 4 1 → ent < 8 →
    (∀ r, r < 32 → r < leAt b 5 1 * leAt b 6 1 → scOk (leAt b (0x80 + 128 * ent + 4 * r) 4) = true) → scOk (cxSms cx) = true →
    cutCpl s1 (getSlot s (leAt b 0 2)).fn cx (runModel (getC s c)) b (leAt b (0x40 + 4 * ent) 1) = (s2, bl) →
    ∃ t r p, exec (.streamPage c q) s = .next t ∧ (getCore (getC t c) q).ring = some r ∧ r.pg = some p ∧ p.blocks = bl ∧ p.seq = leAt b 0 2 ∧ p.layer = leAt b 2 2 ∧
      p.kvh = leAt b (0x40 + 4 * ent) 1 ∧ p.qh = leAt b (0x41 + 4 * ent) 1 ∧ p.g = leAt b 5 1 ∧ p.t = leAt b 6 1 ∧ p.upos = leAt b 8 4 ∧
      p.qsc = (List.range 32).map (fun i => leAt b (0x80 + 128 * ent + 4 * i) 4) ∧
      r.base = fld w 45 32 ∧ r.len = fld w 101 88 ∧ r.ncol = 64 ∧ r.gu = gu ∧ r.written = 0 ∧ r.freed = 0 ∧ r.ngrp = sumN (bl.map (fun l => l.length + cxDh cx)) ∧
      getCore (getC t c) q = { getCore (getC s c) q with ring := some r, rs := { (getCore (getC s c) q).rs with blk := 0 }, seq := arPost (stepOut x w true) w false } ∧
      (∀ e, e ≠ q → getCore (getC t c) e = getCore (getC s c) e) ∧ (∀ d, d ≠ c → getC t d = getC s d) ∧ t = { s2 with clu := t.clu }) ∧
  (∀ (c q fn : Nat) (r : Ring) (td : TD) (gs : List RawGroup) (s s1 : State), (getC s c).active = true → q < 64 → (getCore (getC s c) q).ring = some r → r.pg = none →
    r.written < r.ngrp → r.written - r.freed < ringCap r → td = tdOf (getC s c) r.td → fn = runFn s (getC s c) →
    (∀ a n, scrWaits s fn a n = false) → groupsRead s fn td r.row (r.grp + r.written) r.ncol = (s1, .ok gs) →
    gs.all (fun g => groupOk td.fmt (groupCodes td.fmt g.codes) g.hdr g.cb) = true →
    ∃ t, exec (.ringGroupWrite c q .none) s = .next t ∧ getCore (getC t c) q = { omWrs (getCore (getC s c) q) (r.base + r.written % ringCap r * (r.ncol * 11)) (gs.flatMap (feedForm td.fmt)) with ring := some { r with written := r.written + 1 } } ∧
      (∀ e, e ≠ q → getCore (getC t c) e = getCore (getC s c) e) ∧ (∀ d, d ≠ c → getC t d = getC s d) ∧ t = { s1 with clu := t.clu }) ∧
  (∀ (c q i f : Nat) (r : Ring) (p : PStream) (b : List KGroup) (cx : List Byte) (cols : List (List Nat)) (s s1 s2 : State), (getC s c).active = true → q < 64 →
    (getCore (getC s c) q).ring = some r → r.pg = some p → r.written < r.ngrp → r.written - r.freed < ringCap r → cx = (getM s (runModel (getC s c))).ctx →
    pgGroup (cxDh cx) p.blocks r.written = some (b, i) → f = (if i < b.length then kgK cx (b.getD i {}) else blockV cx b) →
    (∀ a n, scrWaits s (getSlot s p.seq).fn a n = false) → pgColumns s (getSlot s p.seq).fn cx p b i .none = (s1, some cols) →
    s2 = (if i < b.length ∧ (b.getD i {}).n ≠ 0 ∧ f < cxKmax cx then bump s1 (att 0x68) else s1) →
    ∃ t, exec (.ringGroupWrite c q .none) s = .next t ∧
      getCore (getC t c) q = { omWrs (getCore (getC s c) q) (r.base + r.written % ringCap r * (64 * r.gu)) (cols.flatMap (codeColumn r.gu f)) with
        ring := some { r with written := r.written + 1, fmts := r.fmts ++ [f] } } ∧
      (∀ e, e ≠ q → getCore (getC t c) e = getCore (getC s c) e) ∧ (∀ d, d ≠ c → getC t d = getC s d) ∧ t = { s2 with clu := t.clu }) ∧
  (∀ (c q : Nat) (up : Upset) (r : Ring) (s : State), (getCore (getC s c) q).ring = some r → ringCap r ≤ r.written - r.freed → exec (.ringGroupWrite c q up) s = .next s)

/-- MAC (R63, R79, R82, R66, R204): it issues once its fields and formats are valid and queues behind the sequencer's earlier
array steps; running, with a ring of weights that holds the groups it names, it serves them in order to its slots (opened
first, where it opens them) and completes; while its ring has no group it waits, and a MAC that has taken some of its groups
goes on with the rest. A format pair off Table 2-6 raises FORMAT, an uncorrectable soft error OM_UE, no rows DECK. DRAIN
(R63, R67, R79, R83): behind no earlier array step, of open slots whose residues agree, to operand memory as 32-bit sums, or
to empty tile rows as TX32 values rounded by R52 that are then FULL, with the saturation flag where the slot has saturated
and the row was served; the slots close. A slot whose residue disagrees raises RESIDUE; rows that are not empty leave the
step queued. -/
def Obligations.MacAndDrain : Prop :=
  (
    (∀ (c q w n : Nat) (r : Ring) (core : Core) (x : Sequencer) (a : ArrStep) (s s2 s3 : State), Issues s c q w → fld w 3 0 = 3 → q < 64 → core = getCore (getC s c) q → n = macCount (getC s c) w → 0 < n → n ≤ 65535 →
      fld w 19 16 + fld w 23 20 ≤ 15 → 0 < fld w 29 24 → fld w 29 24 ≤ 32 →
      fld w 45 32 + fld w 23 20 * fld w 63 48 + n * 256 * (if fmtBits (fld w 87 84) = 8 then 2 else 1) ≤ 16384 → pairOk (fld w 83 80) (fld w 87 84) = true →
      core.seq.arr = [] → core.seq.macDone = 0 → (∀ i, i ≤ fld w 23 20 → (spFind core.slots (fld w 19 16 + i)).isSome = !bitN w 4) → core.ring = some r → r.pg = none →
      (∀ u m, omChk (getC s c) q u m = true) → a = { pc := core.seq.pc, w := w, drop := core.seq.drop, ar := core.seq.ar } → x = { core.seq with pc := core.seq.pc + 1, arr := [a] } →
      s2 = setC s c (setCore (getC s c) q { core with seq := x, slots := if bitN w 4 then (slotNames w).foldl (fun m i => spSet m i ({} : Slot)) core.slots else core.slots }) →
      s3 = macGo c q a n s2 →
      (r.written ≤ r.freed → exec (.mac c q .none) s = .next (setC s c (setCore (getC s c) q { core with seq := x }))) ∧
      (r.freed < r.written → exec (.mac c q .ue) s = .next (arrFault (setC s c (setCore (getC s c) q { core with seq := x })) c q 17)) ∧
      (r.freed + n ≤ r.written → ∃ t, exec (.mac c q .none) s = .next t ∧
        t = setC s3 c (setS (getC s3 c) q (stepDone { core.seq with macDone := 0 } w)) ∧
        (getCore (getC t c) q).ring = some { r with freed := r.freed + n } ∧
        (∀ i, i ≤ fld w 23 20 → (spFind (getCore (getC t c) q).slots (fld w 19 16 + i)).isSome = true) ∧
        (getCore (getC t c) q).om = core.om ∧ (∀ e, e ≠ q → getCore (getC t c) e = getCore (getC s c) e) ∧ (∀ d, d ≠ c → getC t d = getC s d) ∧
        t = { s with clu := t.clu, regs := t.regs })) ∧
    (∀ (c q n : Nat) (r : Ring) (core : Core) (a : ArrStep) (tl : List ArrStep) (ev val : Nat) (s s3 : State), (getC s c).active = true → q < 64 → core = getCore (getC s c) q → core.seq.st = .waitEvent ev val →
      core.seq.arr = a :: tl → fld a.w 3 0 = 3 → core.seq.macDone < macCount (getC s c) a.w → 0 < core.seq.macDone → n = macCount (getC s c) a.w - core.seq.macDone → core.ring = some r → r.pg = none →
      r.freed + n ≤ r.written → (∀ u m, omChk (getC s c) q u m = true) → s3 = macGo c q a n (setC s c (setCore (getC s c) q core)) →
      ∃ t, exec (.mac c q .none) s = .next t ∧ t = setC s3 c (setS (getC s3 c) q (arrDone { core.seq with macDone := 0 })) ∧
        (getCore (getC t c) q).ring = some { r with freed := r.freed + n } ∧ (getS (getC t c) q).arr = tl) ∧
    (∀ (c q w n : Nat) (s : State), Issues s c q w → fld w 3 0 = 3 → n = macCount (getC s c) w → 0 < n → n ≤ 65535 →
      fld w 19 16 + fld w 23 20 ≤ 15 → 0 < fld w 29 24 → fld w 29 24 ≤ 32 →
      fld w 45 32 + fld w 23 20 * fld w 63 48 + n * 256 * (if fmtBits (fld w 87 84) = 8 then 2 else 1) ≤ 16384 →
      pairOk (fld w 83 80) (fld w 87 84) = false → exec (.mac c q .none) s = .next (seqFault s c q 4)) ∧
    (∀ (c q w : Nat) (s : State), Issues s c q w → fld w 3 0 = 3 → fld w 29 24 = 0 → exec (.mac c q .none) s = .next (seqFault s c q 2))) ∧
  (
    ∀ (c q w n : Nat) (core : Core) (s s1 : State), Issues s c q w → fld w 3 0 = 4 → q < 64 → core = getCore (getC s c) q → core.seq.arr = [] → n = fld w 23 20 → fld w 19 16 + n ≤ 15 →
      (∀ i, i ≤ n → (spFind core.slots (fld w 19 16 + i)).isSome = true) →
      s1 = setC s c (setCore (getC s c) q { core with seq := { core.seq with pc := core.seq.pc + 1, arr := [{ pc := core.seq.pc, w := w, drop := core.seq.drop, ar := core.seq.ar }] } }) →
      ((∀ i, i ≤ n → slotResOk (spGet {} core.slots (fld w 19 16 + i)) = true) → fld w 25 24 = 2 → fld w 45 32 + 512 * (n + 1) ≤ 16384 →
        ∃ t, exec (.drain c q .none) s = .next t ∧ getCore (getC t c) q = { omWrs core (fld w 45 32) ((List.range (n + 1)).flatMap (fun i =>
          (slotRows (spGet {} core.slots (fld w 19 16 + i))).flatMap (fun r => unitsOf (r.flatMap (fun v => leBytes (unsx 32 v) 4))))) with
            slots := (List.range (n + 1)).foldl (fun m i => spDel m (fld w 19 16 + i)) core.slots, seq := stepDone core.seq w } ∧
          (getC t c).tiles = (getC s c).tiles ∧ (∀ e, e ≠ q → getCore (getC t c) e = getCore (getC s c) e) ∧ (∀ d, d ≠ c → getC t d = getC s d) ∧ t = { s with clu := t.clu }) ∧
      ((∀ i, i ≤ n → slotResOk (spGet {} core.slots (fld w 19 16 + i)) = true) → fld w 25 24 = 0 → n ≤ 1 → (∀ r, r < 32 * (n + 1) → (getC s c).full.contains (64 * fld w 27 26 + r) = false) →
        ∃ t, exec (.drain c q .none) s = .next t ∧ (∀ i r, i ≤ n → r < 32 → (getC t c).full.contains (64 * fld w 27 26 + 32 * i + r) = true ∧
            tileRd (getC t c) (64 * fld w 27 26 + 32 * i + r) = mkRow (txNorm 0 ((slotRows (spGet {} core.slots (fld w 19 16 + i))).getD r [])).1
              (txNorm 0 ((slotRows (spGet {} core.slots (fld w 19 16 + i))).getD r [])).2.1
              ((spGet {} core.slots (fld w 19 16 + i)).sat && bitN (spGet {} core.slots (fld w 19 16 + i)).rows r)) ∧
          (∀ r, r < 64 * fld w 27 26 ∨ 64 * fld w 27 26 + 32 * (n + 1) ≤ r → tileRd (getC t c) r = tileRd (getC s c) r) ∧
          getCore (getC t c) q = { core with slots := (List.range (n + 1)).foldl (fun m i => spDel m (fld w 19 16 + i)) core.slots, seq := stepDone core.seq w } ∧
          (∀ e, e ≠ q → getCore (getC t c) e = getCore (getC s c) e) ∧ (∀ d, d ≠ c → getC t d = getC s d) ∧ t = { s with clu := t.clu, regs := t.regs }) ∧
      (fld w 25 24 = 0 → n ≤ 1 → (∃ r, r < 32 * (n + 1) ∧ (getC s c).full.contains (64 * fld w 27 26 + r) = true) → exec (.drain c q .none) s = .next s1) ∧
      (fld w 25 24 = 2 → fld w 45 32 + 512 * (n + 1) ≤ 16384 → (∃ i, i ≤ n ∧ slotResOk (spGet {} core.slots (fld w 19 16 + i)) = false) → exec (.drain c q .none) s = .next (arrFault s1 c q 16)))

/-- The row-statistics unit (R206 to R208, R210), behind no earlier array step: FINAL writes each row's value divided by its
sum, or zeros where nothing was attended to, to the tile; VALUE adds the slots' sums, scaled by the row's last probability
scale, to the value accumulators; SCORE updates maximum, sum and scale of every row from the block's slots, with the bias of
the model's tables, and moves on to the next block. -/
def Obligations.RowStatistics : Prop :=
  (∀ (c q w : Nat) (rs : RowStats) (s : State), Issues s c q w → fld w 3 0 = 4 → fld w 25 24 = 1 → fld w 31 30 = 2 → q < 64 → (getS (getC s c) q).arr = [] → rs = (getCore (getC s c) q).rs →
    fld w 19 16 = 0 → fld w 23 20 = 0 → (∀ r, r < 32 → (getC s c).full.contains (64 * fld w 27 26 + 32 * (fld w 29 28 % 2) + r) = false) →
    ∃ t, exec (.drainFinal c q .none) s = .next t ∧ (∀ r, r < 32 → tileRd (getC t c) (64 * fld w 27 26 + 32 * (fld w 29 28 % 2) + r) = (finalRow rs (fld w 29 28) r).1 ∧
        (getC t c).full.contains (64 * fld w 27 26 + 32 * (fld w 29 28 % 2) + r) = true) ∧
      (∀ r, (val1 (rsSum rs r)).1 = 0 → (finalRow rs (fld w 29 28) r).1 = mkRow (List.replicate 64 0) 0) ∧
      (getCore (getC t c) q).rs = rs ∧ (getCore (getC t c) q).slots = (getCore (getC s c) q).slots ∧ (getCore (getC t c) q).seq = stepDone (getS (getC s c) q) w ∧
      (∀ e, e ≠ q → getCore (getC t c) e = getCore (getC s c) e) ∧ (∀ d, d ≠ c → getC t d = getC s d) ∧ t = { s with clu := t.clu, regs := t.regs }) ∧
  (∀ (c q w n : Nat) (core : Core) (s : State), Issues s c q w → fld w 3 0 = 4 → fld w 25 24 = 1 → fld w 31 30 = 1 → q < 64 → core = getCore (getC s c) q → core.seq.arr = [] → n = fld w 23 20 →
    fld w 19 16 + n ≤ 15 → fld w 29 28 + n ≤ 3 → (∀ i, i ≤ n → (spFind core.slots (fld w 19 16 + i)).isSome = true ∧ slotResOk (spGet {} core.slots (fld w 19 16 + i)) = true) →
    ∃ t, exec (.drainValue c q .none) s = .next t ∧ (∀ i r, i ≤ n → r < 32 → rsVal (getCore (getC t c) q).rs (fld w 29 28 + i) r =
        (normL (List.zipWith (fun a v => addTx a (mulTx (scVal (spGet 0 core.rs.sp r)) (v, 0))) (lanesOf (rsVal core.rs (fld w 29 28 + i) r)) ((slotRows (spGet {} core.slots (fld w 19 16 + i))).getD r []))).1) ∧
      getCore (getC t c) q = { core with rs := { core.rs with val := (getCore (getC t c) q).rs.val }, slots := (List.range (n + 1)).foldl (fun m i => spDel m (fld w 19 16 + i)) core.slots, seq := stepDone core.seq w } ∧
      (∀ e, e ≠ q → getCore (getC t c) e = getCore (getC s c) e) ∧ (∀ d, d ≠ c → getC t d = getC s d) ∧ t = { s with clu := t.clu, regs := t.regs }) ∧
  (∀ (c q w n : Nat) (core : Core) (r : Ring) (ps : PStream) (b : List KGroup) (md : Model) (tabs : List (List Int)) (s s1 : State), Issues s c q w → fld w 3 0 = 4 → fld w 25 24 = 1 → fld w 31 30 = 0 → q < 64 →
    core = getCore (getC s c) q → core.seq.arr = [] → core.ring = some r → r.pg = some ps → ps.blocks[core.rs.blk]? = some b → n = fld w 23 20 → fld w 19 16 + n ≤ 15 → n ≤ 3 →
    md = getM s (runModel (getC s c)) → (∀ i, i ≤ n → (spFind core.slots (fld w 19 16 + i)).isSome = true ∧ slotResOk (spGet {} core.slots (fld w 19 16 + i)) = true) →
    ((List.range (max ps.g 1)).foldl (fun (acc : State × List (List Int)) i => ((biasTab acc.1 (runFn s (getC s c)) md.ctx ps.layer (ps.qh + i)).1, acc.2 ++ [(biasTab acc.1 (runFn s (getC s c)) md.ctx ps.layer (ps.qh + i)).2]))
      (setC s c (setCore (getC s c) q { core with seq := { core.seq with pc := core.seq.pc + 1, arr := [{ pc := core.seq.pc, w := w, drop := core.seq.drop, ar := core.seq.ar }] } }), [])) = (s1, tabs) →
    ∀ (rs0 : RowStats) (o : Nat → ScoreOut), rs0 = (if core.rs.blk = 0 then { core.rs with max := [], sum := [], val := [] } else core.rs) →
    (∀ x, o x = scoreRow (expSeg md.b) (cxSms md.ctx) (cxBexp md.ctx) (tabs.getD (x % max ps.g 1) []) ps b
      ((List.range (n + 1)).map (fun i => ((spGet {} core.slots (fld w 19 16 + i)).acc.drop (64 * x)).take 64)) x (rsMax rs0 x) (rsSum rs0 x) ((List.range 4).map (fun v => rsVal rs0 v x))) →
    ∃ t, exec (.drainScore c q .none) s = .next t ∧ (∀ x, x < 32 → rsMax (getCore (getC t c) q).rs x = (o x).max ∧ rsSum (getCore (getC t c) q).rs x = (o x).sum ∧
      (∀ v, v < 4 → rsVal (getCore (getC t c) q).rs v x = (o x).val.getD v {}) ∧ spGet 0 (getCore (getC t c) q).rs.sp x = (o x).sp) ∧
      (getCore (getC t c) q).rs.blk = core.rs.blk + 1 ∧ (getCore (getC t c) q).slots = (List.range (n + 1)).foldl (fun m i => spDel m (fld w 19 16 + i)) core.slots ∧
      (getCore (getC t c) q).seq = stepDone core.seq w ∧ (∀ e, e ≠ q → getCore (getC t c) e = getCore (getC s c) e) ∧ (∀ d, d ≠ c → getC t d = getC s d) ∧ t = { s1 with clu := t.clu, regs := t.regs })

/-- Vector operations (R33, R63, R79, R99, R102, R109, R119, R120, R122): an operation behind no earlier one whose rows are FULL
passes its rows through its stages and writes them, with REL empties its sources, and completes; one that breaks a rule of
its word raises DECK, one whose stage names a bad format FORMAT; one whose rows are not FULL stays queued. A reduction that
is combined waits for its partners; when all have sent, the combine is over at each and its operation completes; a combine
still open raises HANG. -/
def Obligations.VectorSteps : Prop :=
  (∀ (c w nrow : Nat) (o : VOp) (p : VPass) (a : ArrStep) (s s1 : State), Issues s c 64 w → fld w 3 0 = 5 → nrow = fld w 38 32 → vecOf (getC s c) w = some o → vopOk o nrow = true → o.stages.all stageFmtOk = true →
    (getC s c).cseq.arr = [] → (getC s c).xr = none → a = { pc := (getC s c).cseq.pc, w := w, drop := (getC s c).cseq.drop, ar := (getC s c).cseq.ar } →
    s1 = setC s c (setS (getC s c) 64 { (getC s c).cseq with pc := (getC s c).cseq.pc + 1, arr := [a] }) →
    (vopReads o nrow).all (fun r => (getC s c).full.contains r) = true → vecChk (getC s c) o nrow = true → p = vecPass s1 c (getC s1 c) o nrow → p.fl.format = false →
    (voRop o = 0 → ∃ t, exec (.vec c .none) s = .next t ∧ getC t c = vecFinish (vecWrite (getC p.s c) o nrow p) o w ∧ (∀ e, e ≠ c → getC t e = getC p.s e) ∧
      t = { p.s with clu := t.clu, regs := t.regs, free := t.free }) ∧
    (voRop o ≠ 0 → voXr o = 0 → ∃ t, exec (.vec c .none) s = .next t ∧
      getC t c = vecFinish (putResult p.s (vecWrite (getC p.s c) o nrow p) (voRop o) (voRtb o) (voRrow o) (reduceRows (a.ar.getD (fld o.h 57 56) 0) o p.tap).1 (reduceRows (a.ar.getD (fld o.h 57 56) 0) o p.tap).2.1) o w ∧
      (∀ e, e ≠ c → getC t e = getC p.s e) ∧ t = { p.s with clu := t.clu, regs := t.regs, free := t.free }) ∧
    (voRop o ≠ 0 → voXr o ≠ 0 → ∃ t x, exec (.vec c .none) s = .next t ∧ (getC t c).xr = some x ∧ x.rop = voRop o ∧ x.scope = voXr o ∧ x.rgrl = voRgrl o ∧ x.ktop = voKtop o ∧
      x.rows = (reduceRows (a.ar.getD (fld o.h 57 56) 0) o p.tap).1 ∧ x.pos = (reduceRows (a.ar.getD (fld o.h 57 56) 0) o p.tap).2.1 ∧
      getC t c = { vecWrite (getC p.s c) o nrow p with xr := some x } ∧ (∀ e, e ≠ c → getC t e = getC p.s e) ∧ t = { p.s with clu := t.clu, regs := t.regs, free := t.free })) ∧
  (∀ (c w : Nat) (o : VOp) (s : State), Issues s c 64 w → fld w 3 0 = 5 → vecOf (getC s c) w = some o → vopOk o (fld w 38 32) = true → o.stages.all stageFmtOk = true → (getC s c).cseq.arr = [] →
    (vopReads o (fld w 38 32)).any (fun r => !(getC s c).full.contains r) = true → exec (.vec c .none) s =
      .next (setC s c (setS (getC s c) 64 { (getC s c).cseq with pc := (getC s c).cseq.pc + 1, arr := [{ pc := (getC s c).cseq.pc, w := w, drop := (getC s c).cseq.drop, ar := (getC s c).cseq.ar }] }))) ∧
  (∀ (c w : Nat) (o : VOp) (s : State), Issues s c 64 w → fld w 3 0 = 5 → vecOf (getC s c) w = some o →
    (vopOk o (fld w 38 32) = false → exec (.vec c .none) s = .next (seqFault s c 64 2)) ∧
    (vopOk o (fld w 38 32) = true → o.stages.all stageFmtOk = false → exec (.vec c .none) s = .next (seqFault s c 64 4))) ∧
  (∀ (c : Nat) (x : Xr) (s : State), (getC s c).xr = some x → xrMembers s c x ≠ [] →
    (∀ m ∈ xrMembers s c x, ∃ z a tl o, (getC s m).xr = some z ∧ z.scope = x.scope ∧ z.ord = x.ord ∧ z.rop = x.rop ∧ z.rgrl = x.rgrl ∧ z.ktop = x.ktop ∧ (getC s m).cseq.arr = a :: tl ∧ vecOf (getC s m) a.w = some o) →
    ∃ t, exec (.xrCombine c) s = .next t ∧ (∀ m ∈ xrMembers s c x, (getC t m).xr = none ∧ (getC t m).cseq = arrDone (getC s m).cseq) ∧
      (∀ e, e ∉ xrMembers s c x → getC t e = getC s e) ∧ t = { s with clu := t.clu, regs := t.regs, free := t.free }) ∧
  (∀ (c : Nat) (x : Xr) (s : State), (getC s c).xr = some x → exec (.xrTimeout c) s = .next (arrFault (setC s c { getC s c with xr := none }) c 64 18))

/-- Commands of the command register area (R131, Table 5-6, R132): each unit the packet reaches starts a RUN, FENCE, CLEAR or
SELFTEST only from IDLE (CLEAR from FAULTED too), with DONE clear and the command's tag; an ABORT of an idle unit completes
at once, of a running one begins; a command its state does not allow is ignored and sets CMDERR. Units not reached are as
they were. -/
def Obligations.UnitCommands : Prop :=
  (∀ (tgt : UTarget) (entry tag : Nat) (s : State), ∃ t, exec (.unitRun tgt entry tag) s = .next t ∧ (∀ u, u ∉ targets s tgt → getU t u = getU s u) ∧
    (∀ u ∈ targets s tgt, (getU s u).st = .idle → getU t u = { getU s u with st := .running, done := false, cmdTag := tag % 65536, pc := entry % 1024, g := [], bev := 0, staged := none }) ∧
    (∀ u ∈ targets s tgt, (getU s u).st ≠ .idle → getU t u = { getU s u with done := false } ∧ bit (rdReg t (nbuPg u + 0x44)) 12 = true) ∧ t = { s with nbu := t.nbu, regs := t.regs }) ∧
  (∀ (tgt : UTarget) (tag : Nat) (s : State), ∃ t, exec (.fenceCmd tgt tag) s = .next t ∧ (∀ u, u ∉ targets s tgt → getU t u = getU s u) ∧
    (∀ u ∈ targets s tgt, (getU s u).st = .idle → getU t u = { getU s u with st := .fencing, done := false, cmdTag := tag % 65536 }) ∧
    (∀ u ∈ targets s tgt, (getU s u).st ≠ .idle → getU t u = { getU s u with done := false } ∧ bit (rdReg t (nbuPg u + 0x44)) 12 = true) ∧ t = { s with nbu := t.nbu, regs := t.regs }) ∧
  (∀ (tgt : UTarget) (tag : Nat) (s : State), ∃ t, exec (.clear tgt tag) s = .next t ∧ (∀ u, u ∉ targets s tgt → getU t u = getU s u) ∧
    (∀ u ∈ targets s tgt, ((getU s u).st = .idle ∨ (getU s u).st = .faulted) → getU t u = { getU s u with st := .clearing, done := false, cmdTag := tag % 65536 }) ∧
    (∀ u ∈ targets s tgt, (getU s u).st ≠ .idle → (getU s u).st ≠ .faulted → getU t u = { getU s u with done := false } ∧ bit (rdReg t (nbuPg u + 0x44)) 12 = true) ∧ t = { s with nbu := t.nbu, regs := t.regs }) ∧
  (∀ (tgt : UTarget) (tag : Nat) (s : State), ∃ t, exec (.selftest tgt tag) s = .next t ∧ (∀ u, u ∉ targets s tgt → getU t u = getU s u) ∧
    (∀ u ∈ targets s tgt, (getU s u).st = .idle → getU t u = { getU s u with st := .testing, done := false, cmdTag := tag % 65536 }) ∧
    (∀ u ∈ targets s tgt, (getU s u).st ≠ .idle → getU t u = { getU s u with done := false } ∧ bit (rdReg t (nbuPg u + 0x44)) 12 = true) ∧ t = { s with nbu := t.nbu, regs := t.regs }) ∧
  (∀ (tgt : UTarget) (tag : Nat) (s : State), ∃ t, exec (.unitAbort tgt tag) s = .next t ∧ (∀ u, u ∉ targets s tgt → getU t u = getU s u) ∧
    (∀ u ∈ targets s tgt, ((getU s u).st = .idle ∨ (getU s u).st = .faulted) → (getU t u).st = .idle ∧ (getU t u).done = true ∧ (getU t u).tag = tag % 65536 ∧ (getU t u).outst = [] ∧
      (getU t u).plans = [] ∧ (getU t u).fifo = [] ∧ (getU t u).store = (getU s u).store) ∧
    (∀ u ∈ targets s tgt, (getU s u).st = .running → getU t u = { getU s u with st := .aborting, done := false, cmdTag := tag % 65536 }) ∧ t = { s with nbu := t.nbu, regs := t.regs, free := t.free })

/-- The ends of the commands that take time (R131, R137, R153, R155), and a hang (R154): DONE is set, the tag is the command's
and the unit is IDLE, with its contents kept by FENCE, zero after CLEAR, unspecified after ABORT; a SELFTEST that failed
leaves it FAULTED and reports it for replacement, with its LUNIT, its tag and the trick; an ABORT waits for a refresh that
has pre-empted the unit; a running unit's hang leaves it FAULTED. NBU_CFG (R129): taken at once while the unit is IDLE, else
at its next RUN. -/
def Obligations.UnitCompletions : Prop :=
  (
    ∀ (u : Nat) (x : Nbu) (s : State), x = getU s u →
      (x.st = .fencing → ∀ p, exec (.unitCommandComplete u p) s = .next (setU s u { x with st := .idle, done := true, tag := x.cmdTag })) ∧
      (x.st = .clearing → ∀ p, ∃ t, exec (.unitCommandComplete u p) s = .next t ∧ (getU t u).st = .idle ∧ (getU t u).done = true ∧ (getU t u).tag = x.cmdTag ∧
        (∀ i, lbRd (getU t u) i = 0 ∧ accRd (getU t u) i = 0 ∧ getG (getU t u) i = 0) ∧ (getU t u).bev = 0 ∧ (getU t u).store = x.store ∧ t = { s with nbu := t.nbu }) ∧
      (x.st = .aborting → x.refRun = true → ∀ p, exec (.unitCommandComplete u p) s = .next s) ∧
      (x.st = .aborting → x.refRun = false → ∀ p, ∃ t, exec (.unitCommandComplete u p) s = .next t ∧ (getU t u).st = .idle ∧ (getU t u).done = true ∧ (getU t u).tag = x.cmdTag ∧ (getU t u).outst = [] ∧
        (getU t u).store = x.store ∧ t = { s with nbu := t.nbu, free := t.free }) ∧
      (x.st = .testing → exec (.unitCommandComplete u true) s = .next (wrReg (setU s u { x with st := .idle, done := true, tag := x.cmdTag }) (nbuPg u + 0x108) 0)) ∧
      (x.st = .testing → ∃ t, exec (.unitCommandComplete u false) s = .next t ∧ getU t u = { x with st := .faulted, done := true, tag := x.cmdTag } ∧ fld (rdN t (nbuPg u + 0x108)) 3 0 = 15 ∧
        t.deal.reports = s.deal.reports ++ [{ code := repUnit, blk := .nbu, inst := u, elem := lunit s u, model := x.cmdTag, trick := rdPair s (nbuPg u + 0x110) }]) ∧
      (x.st = .running → ∃ t, exec (.unitHang u) s = .next t ∧ t = unitFault s u 4 x.pc ∧ getU t u = { x with st := .faulted }) ∧
      (x.st ≠ .running → exec (.unitHang u) s = .next s)) ∧
  (
    ∀ (mid u : Nat) (v : W32) (s : State), pgReach s mid .nbu = .yes → isOn s .nbu u = true →
      ((getU s u).st = .idle → exec (.nbuCfg mid u v) s = .next (wrReg s (nbuPg u + 0x40) (v &&& 0xFFFF))) ∧
      ((getU s u).st ≠ .idle → exec (.nbuCfg mid u v) s = .next (setU s u { getU s u with staged := some (v &&& 0xFFFF) })) ∧
      (∀ (entry tag : Nat), isOn s .nbu u = true → stkClkLost s (u / 272) = false → (getU s u).st = .idle → (getU s u).staged = some v →
        ∃ t, exec (.unitRun (.one u) entry tag) s = .next t ∧ rdReg t (nbuPg u + 0x40) = v ∧ (getU t u).staged = none))

/-- Writes to a unit's parameters and program (R130): while its STATE is not IDLE, a write to CR[4..63] or to the MP window is
discarded and MP_BUSY is set, so that the parameters and the program do not change; while it is IDLE it is taken. -/
def Obligations.UnitWritesOnlyWhenIdle : Prop :=
  ∀ (mid u n : Nat) (v : W32) (s : State), pgReach s mid .nbu = .yes → isOn s .nbu u = true →
    ((getU s u).st ≠ .idle →
      (4 ≤ n → n ≤ 63 → exec (.commandParameterWrite mid u n v) s = .next (orReg s (nbuPg u + 0x44) (w32 (2 ^ 13)))) ∧
      (n < 512 → exec (.mpWindow mid u n v) s = .next (orReg s (nbuPg u + 0x44) (w32 (2 ^ 13))))) ∧
    ((getU s u).st = .idle →
      (4 ≤ n → n ≤ 63 → n ≠ 6 → n ≠ 7 → exec (.commandParameterWrite mid u n v) s = .next (wrReg s (nbuPg u + 0x100 + 4 * n) v)) ∧
      (n < 512 → ∃ t i, exec (.mpWindow mid u n v) s = .next t ∧ i = n + 512 * (rdSel s (nbuPg u + 0x60) mid % 2) ∧ spGet 0 (getU t u).store i = v ∧
        (∀ j, j ≠ i → spGet 0 (getU t u).store j = spGet 0 (getU s u).store j) ∧ getU t u = { getU s u with store := (getU t u).store } ∧
        (∀ w, w ≠ u → getU t w = getU s w) ∧ t = { s with nbu := t.nbu }))

/-- Control micro-instructions (R134 to R136, R150, R151): each, at the pc of a running unit, does to the general registers and
the pc what Table 5-7 says and nothing else; G0 reads 0; BNZ counts down and goes back while the register is not 0; a parity
error in the program store stops any of them with MPPAR; END waits for outstanding instructions and then completes the
command; FENCE waits for writes, WAITB for BEV; a YIELD, an END and a FENCE or WAITB that waits let a due refresh run
(R150). -/
def Obligations.ControlInstructions : Prop :=
  (∀ (x : Nbu) (n v m : Nat), getG (setG x n v) m = if m = 0 then 0 else if m = n then v % 2 ^ 32 else getG x m) ∧
  (∀ (u w d : Nat) (x : Nbu) (s : State), URuns s u w → x = getU s u → d = fld w 25 22 →
    (fld w 31 26 = 0 → exec (.nop u .none) s = .next (setU s u { x with pc := x.pc + 1 })) ∧
    (fld w 31 26 = 4 → exec (.movi u .none) s = .next (setU s u { setG x d (fld w 15 0) with pc := x.pc + 1 })) ∧
    (fld w 31 26 = 5 → exec (.movh u .none) s = .next (setU s u { setG x d (getG x d % 65536 + 65536 * fld w 15 0) with pc := x.pc + 1 })) ∧
    (fld w 31 26 = 6 → exec (.addi u .none) s = .next (setU s u { setG x d (unsx 32 ((getG x (fld w 21 18) : Int) + sext 14 (fld w 13 0))) with pc := x.pc + 1 })) ∧
    (fld w 31 26 = 7 → exec (.ldc u .none) s = .next (setU s u { setG x d (readCr s u (fld w 5 0)) with pc := x.pc + 1 })) ∧
    (fld w 31 26 = 8 → d ≠ 0 → fld w 9 0 ≤ x.pc → getG x d ≠ 1 → exec (.bnz u .none) s = .next (setU s u { setG x d ((getG x d + (2 ^ 32 - 1)) % 2 ^ 32) with pc := x.pc - fld w 9 0 })) ∧
    (fld w 31 26 = 8 → d = 0 → fld w 9 0 ≤ x.pc → exec (.bnz u .none) s = .next (setU s u { x with pc := x.pc + 1 })) ∧
    (fld w 31 26 = 8 → fld w 9 0 ≤ x.pc → getG x d = 1 → exec (.bnz u .none) s = .next (setU s u { setG x d 0 with pc := x.pc + 1 })) ∧
    (fld w 31 26 = 8 → x.pc < fld w 9 0 → exec (.bnz u .none) s = .next (unitFault s u 6 x.pc)) ∧
    (fld w 31 26 = 9 → (x.bev + 65536 - getG x d % 65536) % 65536 < 32768 → exec (.waitb u .none) s = .next (setU s u { x with pc := x.pc + 1 })) ∧
    (fld w 31 26 = 9 → 32768 ≤ (x.bev + 65536 - getG x d % 65536) % 65536 → exec (.waitb u .none) s = .next (yieldNow s u)) ∧
    (fld w 31 26 = 3 → x.outst.all (fun o => o.op != 0x11) = true → exec (.fence u .none) s = .next (setU s u { x with pc := x.pc + 1 })) ∧
    (fld w 31 26 = 3 → x.outst.any (fun o => o.op == 0x11) = true → exec (.fence u .none) s = .next (yieldNow s u)) ∧
    (fld w 31 26 = 2 → x.refDue = false → exec (.yieldPoint u .none) s = .next (setU s u { x with pc := x.pc + 1 })) ∧
    (fld w 31 26 = 2 → x.refDue = true → ∃ t, exec (.yieldPoint u .none) s = .next t ∧ getU t u = { x with pc := x.pc + 1, refDue := false, refRun := true } ∧ t = { s with nbu := t.nbu, regs := t.regs, free := t.free }) ∧
    (fld w 31 26 = 1 → x.outst = [] → exec (.mpEnd u .none) s =
      .next (emit (yieldNow (setU s u { x with pc := x.pc + 1, st := .idle, done := true, tag := x.cmdTag }) u) (.unitDone u x.cmdTag))) ∧
    (fld w 31 26 = 1 → x.outst ≠ [] → exec (.mpEnd u .none) s = .next (yieldNow s u)) ∧
    (x.refDue = false → yieldNow s u = s) ∧
    (x.refDue = true → yieldNow s u = bump (setU s u { x with refDue := false, refRun := true }) (nbuPg u + 0x54))) ∧
  (∀ (i : Nat → Upset → Instr) (u w : Nat) (s : State), URuns s u w → i ∈ [Instr.nop, .mpEnd, .yieldPoint, .fence, .movi, .movh, .addi, .ldc, .bnz, .waitb, .rdl, .wrl, .tbld, .lmac, .accz, .eopCvt, .eopResc, .eopAdd, .eopSub, .eopMul, .eopTable,
    .eopSsq, .eopAmax, .eopQnt, .bsendGather, .bsendSum, .bsendMax] → exec (i u .parity) s = .next (unitFault s u 5 (getU s u).pc))

/-- Moves between a unit's bank pair and its row buffer (R127, R134, R139, ACCZ): RDL takes 32-byte words from the pair at its
offset, WRL writes them there and nowhere else, TBLD loads the activations of each table, ACCZ zeroes its accumulators; each
goes out with the spans it uses; a range outside its space raises BOUNDS. -/
def Obligations.TransferInstructions : Prop :=
  ∀ (u w a b : Nat) (x : Nbu) (s : State), URuns s u w → x = getU s u → a = getG x (fld w 25 22) → b = getG x (fld w 21 18) →
    (fld w 31 26 = 0x10 → b < 2 ^ 19 → a % 32 = 0 → 0 < fld b 18 9 → fld b 8 0 + fld b 18 9 ≤ 512 → a + 32 * fld b 18 9 ≤ 2 ^ 28 → x.refRun = false → uReady x [⟨0, fld b 8 0, fld b 18 9, true⟩] = true →
      tagFault s u a (32 * fld b 18 9) = [] → exec (.rdl u .none) s =
        .next (setU s u (uOut (lbWrs x (fld b 8 0) (wordsOf (rdBytes s.mem.dram (uPlace u a) (32 * fld b 18 9)))) 0x10 [⟨0, fld b 8 0, fld b 18 9, true⟩]))) ∧
    (fld w 31 26 = 0x11 → b < 2 ^ 19 → a % 32 = 0 → 0 < fld b 18 9 → fld b 8 0 + fld b 18 9 ≤ 512 → a + 32 * fld b 18 9 ≤ 2 ^ 28 → x.refRun = false → uReady x [⟨0, fld b 8 0, fld b 18 9, false⟩] = true →
      tagFault s u a (32 * fld b 18 9) = [] → Memory.wf s → ∃ t, exec (.wrl u .none) s = .next t ∧ getU t u = uOut x 0x11 [⟨0, fld b 8 0, fld b 18 9, false⟩] ∧
        (∀ i, i < 32 * fld b 18 9 → spGet 0 t.mem.dram (uPlace u a + i) = (lbBytes x (fld b 8 0) (fld b 18 9)).getD i 0) ∧
        (∀ k, k < uPlace u a ∨ uPlace u a + 32 * fld b 18 9 ≤ k → spGet 0 t.mem.dram k = spGet 0 s.mem.dram k) ∧ t.mem.lpd = s.mem.lpd ∧ t.mem.scratch = s.mem.scratch ∧
        (∀ v, v ≠ u → getU t v = getU s v) ∧ t = { s with nbu := t.nbu, mem := t.mem }) ∧
    ((fld w 31 26 = 0x10 ∨ fld w 31 26 = 0x11) → b < 2 ^ 19 → a % 32 = 0 → (fld b 18 9 = 0 ∨ 512 < fld b 8 0 + fld b 18 9 ∨ 2 ^ 28 < a + 32 * fld b 18 9) →
      (fld w 31 26 = 0x10 → exec (.rdl u .none) s = .next (unitFault s u 7 x.pc)) ∧ (fld w 31 26 = 0x11 → exec (.wrl u .none) s = .next (unitFault s u 7 x.pc))) ∧
    (fld w 31 26 = 0x12 → a < 2 ^ 27 → ∀ wf af n g k, wf = fld w 17 14 → af = fld w 21 18 → g = fld a 20 18 + 1 → n = fld a 23 21 + 1 → k = slotsPer wf → wf ≠ 4 → pairOk wf af = true →
      fld a 8 0 + (n - 1) * fld a 17 9 + g * gWords af ≤ 512 → fld a 26 24 + g * n * k ≤ 8 →
      uReady x ((List.range n).map (fun q => ⟨0, fld a 8 0 + q * fld a 17 9, g * gWords af, false⟩) ++ [⟨2, fld a 26 24, g * n * k, true⟩]) = true →
      ∃ t, exec (.tbld u .none) s = .next t ∧ (∀ i h, i < g * n → h < k → tabRd (getU t u) (fld a 26 24 + k * i + h) =
          mkSlot wf af (if k = 2 then h + 1 else 0) (lbAct x af (fld a 8 0 + i % n * fld a 17 9 + i / n * gWords af))) ∧
        (∀ i, (i < fld a 26 24 ∨ fld a 26 24 + g * n * k ≤ i) → tabRd (getU t u) i = tabRd x i) ∧ (getU t u).pc = x.pc + 1 ∧ (getU t u).lb = x.lb ∧ (getU t u).acc = x.acc ∧
        (∀ v, v ≠ u → getU t v = getU s v) ∧ t = { s with nbu := t.nbu }) ∧
    (fld w 31 26 = 0x14 → a < 2 ^ 17 → 0 < fld a 16 8 → fld a 7 0 + fld a 16 8 ≤ 256 → uReady x [⟨1, fld a 7 0, fld a 16 8, true⟩] = true →
      ∃ t, exec (.accz u .none) s = .next t ∧ (∀ i, i < fld a 16 8 → accRd (getU t u) (fld a 7 0 + i) = 0) ∧ (∀ i, (i < fld a 7 0 ∨ fld a 7 0 + fld a 16 8 ≤ i) → accRd (getU t u) i = accRd x i) ∧
        getU t u = { uOut x 0x14 [⟨1, fld a 7 0, fld a 16 8, true⟩] with acc := (getU t u).acc, accRes := (getU t u).accRes } ∧ (∀ v, v ≠ u → getU t v = getU s v) ∧ t = { s with nbu := t.nbu }) ∧
    (∀ (k : Nat) (o : UAsync), x.outst[k]? = some o → o.op ≠ 0x13 → (x.outst.take k).all (fun p => engineOf p.op != engineOf o.op) = true →
      exec (.asyncInstructionComplete u k) s = .next (setU s u { x with outst := x.outst.eraseIdx k }))

/-- The multiply engine (R63, R128, R138, R140): an LMAC whose operands are in range queues its plan; a record that can be read
enters the FIFO while there is room for it; a wave whose records are there adds its tasks, in order and with clamping, to
ACCF, and the last one ends the plan. A record that is no record raises FORMAT, a lane that disagrees with its residue
RESIDUE. A CB4 plan's activations are A4 or A8 by a free value (log entry 20). -/
def Obligations.MultiplyEngine : Prop :=
  (∀ (u w a p wf qr n g k gw : Nat) (bw : Bool) (x : Nbu) (recs : List (List Byte) × Option Nat) (sp : List Span) (s : State), URuns s u w → fld w 31 26 = 0x13 → x = getU s u → a = getG x (fld w 25 22) → p = getG x (fld w 21 18) →
    wf = fld w 17 14 → qr = getG x (fld w 12 9) → n = fld p 16 14 + 1 → g = fld p 13 8 + 1 → k = slotsPer wf → bw = bitN w 4 → gw = gWords (if Config.freeBool s.free 0 then 6 else 5) →
    p < 2 ^ 28 → 0 < fld p 7 0 → fld p 24 17 + fld p 7 0 * n ≤ 256 → (fmtWeight wf = true ∨ 7 ≤ wf ∧ wf ≤ 11) → (bw = true → getG x (fld w 8 5) < 65536) →
    (fld w 13 13 = 0 → a < 2 ^ 28) → (fld w 13 13 = 1 → a < 512 ∧ a + (fld p 7 0 * g * (recLen wf 0).getD 0 + 31) / 32 ≤ 512) →
    recs = (if fld w 13 13 = 1 ∧ bw = false then lbRecs wf (fld p 7 0 * g) (lbBytes x a (512 - a)) else ([], none)) → recs.2 ≠ some 7 →
    (wf ≠ 4 → fld p 27 25 + g * n * k ≤ 8 ∧ ∀ i, i < g * n * k → (tabRd x (fld p 27 25 + i)).wfmt = wf) → (wf = 4 → fld p 27 25 = 0 ∧ qr < 2 ^ 18 ∧ fld qr 8 0 + (n - 1) * fld qr 17 9 + g * gw ≤ 512) →
    sp = [⟨1, fld p 24 17, fld p 7 0 * n, true⟩] ++ (if wf = 4 then (List.range n).map (fun q => ⟨0, fld qr 8 0 + q * fld qr 17 9, g * gw, false⟩) else [⟨2, fld p 27 25, g * n * k, false⟩]) ++
      (if fld w 13 13 = 1 then [⟨0, a, if bw = true ∨ recs.2.isSome = true then 512 - a else (sumN (recs.1.map (fun b => b.length)) + 31) / 32, false⟩] else []) → uReady x sp = true →
    exec (.lmac u .none) s = .next (useFree (setU s u { uOut x 0x13 sp with plans := x.plans ++ [{ pc := x.pc, wfmt := wf, src := fld w 13 13, a := a, nr := fld p 7 0, ng := g, ns := n, accb := fld p 24 17, slot0 := fld p 27 25, qw := fld qr 8 0, qs := fld qr 17 9, af := if Config.freeBool s.free 0 then 6 else 5, bw := if bw then some (getG x (fld w 8 5)) else none }] }))) ∧
  (∀ (u i n : Nat) (p : Plan) (x : Nbu) (s : State), x = getU s u → x.st = .running → isOn s .nbu u = true → x.refRun = false → fetchPlan x = some (i, p) → p.a + 4 ≤ 2 ^ 28 → tagFault s u p.a 4 = [] →
    recLen p.wfmt (leNat (rdBytes s.mem.dram (uPlace u p.a) 4)) = some n → p.a + n ≤ 2 ^ 28 → tagFault s u p.a n = [] →
    (sumN (x.fifo.map (fun b => b.length)) + n ≤ 8192 → exec (.recordFetch u .none) s = .next (setU s u { x with
      fifo := x.fifo ++ [rdBytes s.mem.dram (uPlace u p.a) n], plans := setAt x.plans i { p with fetched := p.fetched + 1, a := p.a + n } })) ∧
    (8192 < sumN (x.fifo.map (fun b => b.length)) + n → exec (.recordFetch u .none) s = .next s)) ∧
  (∀ (u n r0 r1 c : Nat) (ok : Bool) (p : Plan) (rest : List Plan) (recs : List (List Byte)) (x y : Nbu) (s : State), x = getU s u → x.st = .running → isOn s .nbu u = true → x.plans = p :: rest → p.src ≤ 1 →
    (∀ t, p.bw = some t → p.next = 0 → bevMet x t = true) → n = min 32 (p.nr * p.ng * p.ns - p.next) → r0 = p.next / p.ns → r1 = (p.next + n - 1) / p.ns → (p.src = 0 → r1 < p.fetched) →
    recs = (if p.src = 1 then (lbRecs p.wfmt (r1 + 1) (lbBytes x p.a (512 - p.a))).1.drop r0 else x.fifo.take (r1 + 1 - r0)) → recs ≠ [] → waveGo p recs r0 n p.next (x, 0, true) = (y, c, ok) →
    (recs.all (recOk p.wfmt) = false → exec (.lmacWave u .none) s = .next (unitFault s u 8 p.pc)) ∧
    (recs.all (recOk p.wfmt) = true → (p.src = 1 → (lbRecs p.wfmt (r1 + 1) (lbBytes x p.a (512 - p.a))).2 = none) →
      (ok = false → exec (.lmacWave u .none) s = .next (unitFault s u 1 p.pc)) ∧
      (ok = true → p.next + n < p.nr * p.ng * p.ns → ∃ t, exec (.lmacWave u .none) s = .next t ∧ getU t u = { y with
        fifo := if p.src = 1 then x.fifo else x.fifo.drop ((p.next + n) / p.ns - r0), plans := { p with next := p.next + n } :: rest } ∧ (∀ v, v ≠ u → getU t v = getU s v) ∧ t = { s with nbu := t.nbu, regs := t.regs }) ∧
      (ok = true → p.next + n = p.nr * p.ng * p.ns → ∃ t, exec (.lmacWave u .none) s = .next t ∧ (getU t u).plans = rest ∧ (getU t u).acc = y.acc ∧ (getU t u).st = .running ∧
        (∀ v, v ≠ u → getU t v = getU s v) ∧ t = { s with nbu := t.nbu, regs := t.regs })))

/-- The element unit and the bus port (R134, R136, R143, R145): each EOP, its ranges within their spaces, none overlapping
another in part and its scale word well formed, writes the rows its function gives and goes out; each BSEND puts its words
on the stack's bus under its tag. -/
def Obligations.ElementAndBusInstructions : Prop :=
  (∀ (i : Upset → Instr) (n u w g o : Nat) (e : Eop) (x : Nbu) (s : State), (i, n) ∈ [(Instr.eopCvt u, 1), (.eopResc u, 2), (.eopAdd u, 3), (.eopSub u, 4), (.eopMul u, 5), (.eopTable u, 6), (.eopSsq u, 7), (.eopAmax u, 8), (.eopQnt u, 9)] →
    URuns s u w → fld w 31 26 = 0x15 → fld w 17 12 = n → x = getU s u → g = getG x (fld w 25 22) → o = getG x (fld w 21 18) → g < 2 ^ 24 → o < 2 ^ 11 →
    e = { efn := n, len := fld w 5 0, src := fld g 8 0, dst := fld g 17 9, nrow := fld g 23 18, opw := fld o 8 0, omode := fld o 10 9, xf := fld w 11 0 } →
    0 < e.len → e.len ≤ 32 → 0 < e.nrow → (n = 9 → fmtCode (fld e.xf 11 8) = true ∧ scOk ((lbRd x e.opw).toNat % 2 ^ 32) = true) →
    (eopSpans e).all (fun a => decide (a.lo + a.n ≤ if a.space = 1 then 256 else 512)) = true →
    (enumFrom 0 (eopSpans e)).all (fun a => (enumFrom 0 (eopSpans e)).all (fun b => !(decide (a.1 < b.1) && halfOverlap a.2 b.2))) = true → uReady x (eopSpans e) = true →
    ∃ t, exec (i .none) s = .next t ∧ getU t u = uOut (eopRun s x e).1 0x15 (eopSpans e) ∧ (∀ v, v ≠ u → getU t v = getU s v) ∧ t = { s with nbu := t.nbu, regs := t.regs, free := t.free }) ∧
  (∀ (i : Upset → Instr) (n u w g y : Nat) (x : Nbu) (s : State), (i, n) ∈ [(Instr.bsendGather u, 0), (.bsendSum u, 1), (.bsendMax u, 2)] → URuns s u w → fld w 31 26 = 0x16 → fld w 17 15 = n → x = getU s u →
    g = getG x (fld w 25 22) → y = getG x (fld w 21 18) → g < 2 ^ 17 → y < 256 → 0 < fld g 16 9 → fld g 8 0 + fld g 16 9 ≤ 512 → uReady x [⟨0, fld g 8 0, fld g 16 9, false⟩] = true →
    ∃ t c, exec (i .none) s = .next t ∧ t.bus = s.bus ++ [c] ∧ c.stk = u / 272 ∧ c.tag = y ∧ c.unit = u ∧ c.bop = n ∧ c.lunit = lunit s u ∧ c.words = (List.range (fld g 16 9)).map (fun j => lbRd x (fld g 8 0 + j)) ∧
      getU t u = uOut x 0x16 [⟨0, fld g 8 0, fld g 16 9, false⟩] ∧ t = { s with nbu := t.nbu, bus := t.bus })

/-- The base-die bus (R132, R144 to R146, R175, R262): a broadcast reaches every unit of its group, a running one takes the
words from its place up and counts it in BEV, any other discards it and sets BDROP, and the dealer marks the dropped
sequences of the models that run thin there; a combine waits until every participant of its tag has sent, then takes their
words from the bus and gives the result back to the groups or writes it to its scratchpad line, once no new configuration of
that way is pending; participants that disagree raise MPERR. Refresh of a bank pair (R150): a due refresh runs at once when
no unit access is outstanding, runs at a yield point and is counted there, otherwise waits; when the hold limit has passed
it pre-empts the unit and is counted; when it is done the pair is free. -/
def Obligations.BusAndRefresh : Prop :=
  (
    (∀ (stk g word : Nat) (data : List (BitVec 256)) (s : State), ∃ t, exec (.busBroadcast stk g word data) s = .next t ∧ (∀ u, u ∉ targets s (.group stk g) → getU t u = getU s u) ∧
      (∀ u ∈ targets s (.group stk g), (getU s u).st = .running → (getU t u).bev = ((getU s u).bev + 1) % 65536 ∧ (getU t u).pc = (getU s u).pc ∧ (getU t u).acc = (getU s u).acc ∧ (getU t u).g = (getU s u).g ∧
        (∀ j, j < data.length → word + j < 512 → lbRd (getU t u) (word + j) = data.getD j 0) ∧ (∀ j, (j < word ∨ word + data.length ≤ j) → lbRd (getU t u) j = lbRd (getU s u) j)) ∧
      (∀ u ∈ targets s (.group stk g), (getU s u).st ≠ .running → getU t u = getU s u ∧ bit (rdReg t (nbuPg u + 0x44)) 14 = true) ∧ t.deal = (markDrops s stk g).deal ∧ t = { s with nbu := t.nbu, regs := t.regs, deal := t.deal }) ∧
    (∀ (stk tag e0 e1 g : Nat) (span us : List Nat) (cs : List Contrib) (s s1 : State), tagEnt s stk tag = (e0, e1) → span = (List.range 8).filter (fun k => bitN e0 (4 + k) || k == stk) → g = fld e0 3 0 →
      us = span.flatMap (fun k => tagMembers s k g) → cs = us.filterMap (fun u => s.bus.find? (fun c => c.unit == u && c.tag == tag)) → us ≠ [] → s1 = { s with bus := cs.foldl (fun l c => l.erase c) s.bus } →
      (cs.length ≠ us.length → exec (.busCombine stk tag) s = .next s) ∧
      (cs.length = us.length → (∀ k ∈ span, tagEnt s k tag = (e0, e1)) → ∀ n b, (∀ c ∈ cs, c.bop = b ∧ c.words.length = n) → ∀ (per : Nat → List (BitVec 256)) (r : List (BitVec 256)),
        (∀ k, per k = if b = 0 then (sortBy (fun (a b : Contrib) => decide (a.lunit ≤ b.lunit)) (cs.filter (fun c => c.stk == k))).flatMap (fun c => c.words)
          else (treeFold (busCombine2 b) 10 ((sortBy (fun (a b : Contrib) => decide (a.lunit ≤ b.lunit)) (cs.filter (fun c => c.stk == k))).map (fun c => c.words))).headD []) →
        r = (if b = 0 then (span.map per).flatten else (treeFold (busCombine2 b) 4 ((span.map per).filter (fun l => !l.isEmpty))).headD []) →
        (bitN e0 12 = true → exec (.busCombine stk tag) s = .next (span.foldl (fun x k => broadcast x k g (fld e0 21 13) r) s1)) ∧
        (bitN e0 12 = false → (getWay s (scrAt (0x010000000000 + 32 * fld e1 23 0)).1 (scrAt (0x010000000000 + 32 * fld e1 23 0)).2.1).pend.isSome = true → exec (.busCombine stk tag) s = .next s) ∧
        (bitN e0 12 = false → (getWay s (scrAt (0x010000000000 + 32 * fld e1 23 0)).1 (scrAt (0x010000000000 + 32 * fld e1 23 0)).2.1).pend = none → exec (.busCombine stk tag) s = .next (memWrite s1 (getWay s (scrAt (0x010000000000 + 32 * fld e1 23 0)).1 (scrAt (0x010000000000 + 32 * fld e1 23 0)).2.1).owner
          (0x010000000000 + 32 * fld e1 23 0) (r.flatMap (fun v => leBytes v.toNat 32))).1)) ∧
      (cs.length = us.length → (∃ a ∈ cs, ∃ b ∈ cs, a.bop ≠ b.bop) → exec (.busCombine stk tag) s = .next (us.foldl (fun x u => unitFault x u 6 (getU x u).pc) s1)))) ∧
  (
    ∀ (u : Nat) (x : Nbu) (s : State), x = getU s u →
      (isOn s .stk (u / 272) = true → x.refRun = false → x.refDue = false → pairBusy x = false → exec (.refreshDue u) s = .next (setU s u { x with refRun := true })) ∧
      (isOn s .stk (u / 272) = true → x.refRun = false → x.refDue = false → pairBusy x = true → atYield x = false → exec (.refreshDue u) s = .next (setU s u { x with refDue := true })) ∧
      (isOn s .stk (u / 272) = true → x.refRun = false → x.refDue = false → pairBusy x = true → atYield x = true → ∃ t, exec (.refreshDue u) s = .next t ∧
        getU t u = { x with refDue := false, refRun := true } ∧ (∀ v, v ≠ u → getU t v = getU s v) ∧ (rdN s (nbuPg u + 0x54) < 0xFFFFFFFF → rdN t (nbuPg u + 0x54) = rdN s (nbuPg u + 0x54) + 1) ∧
        t = { s with nbu := t.nbu, regs := t.regs, free := t.free }) ∧
      (x.refDue = true → ∃ t, exec (.preemption u) s = .next t ∧ getU t u = { x with refDue := false, refRun := true, preempt := true } ∧ (∀ v, v ≠ u → getU t v = getU s v) ∧
        (rdN s (nbuPg u + 0x50) < 0xFFFFFFFF → rdN t (nbuPg u + 0x50) = rdN s (nbuPg u + 0x50) + 1) ∧ t = { s with nbu := t.nbu, regs := t.regs, free := t.free }) ∧
      (x.refDue = false → exec (.preemption u) s = .next s) ∧
      (x.refRun = true → exec (.refreshDone u) s = .next (setU s u { x with refRun := false })) ∧
      (x.refRun = false → exec (.refreshDone u) s = .next s))

/-- R200. A write to KV_INVAL names one model slot or all of them. While a trick is in flight or not ended it stays pending; its
translations are gone before the next trick's first walk, and at the end of the trick it completes, with every other of that
boundary, and KV_INVAL_TRICK takes the number of the trick that ended. With every trick ended it completes at once. -/
def Obligations.KvInvalidation : Prop :=
  (∀ (mid : Nat) (v : W32) (s : State) (tr : Trick), pgReach s mid .att = .yes → (s.deal.cur = some tr ∨ s.deal.cur = none ∧ s.deal.ending.getLast? = some tr) → s.deal.ended < tr.num → (∀ i ∈ s.kv.inval, s.deal.ended < i.2) →
    exec (.kvInval mid v) s = .next (wrReg { s with kv := { s.kv with inval := s.kv.inval ++ [(if bit v 6 then 64 else v.toNat % 64, tr.num)] } } (att 0x54) 1)) ∧
  (∀ (mid : Nat) (v : W32) (s : State), pgReach s mid .att = .yes → s.deal.cur = none → s.deal.ending = [] → s.kv.inval = [] → s.deal.ended < 2 ^ 64 → ∃ t, exec (.kvInval mid v) s = .next t ∧
    t.kv.tlb = s.kv.tlb.filter (fun e => !(bit v 6 || e.2 / 2 ^ 128 == v.toNat % 64)) ∧ t.kv.inval = [] ∧ rdPair t (att 0x58) = s.deal.ended ∧ rdReg t (att 0x54) = 0 ∧
    (∀ a, a ≠ att 0x54 → a ≠ att 0x58 → a ≠ att 0x5C → rdReg t a = rdReg s a) ∧ t = { s with kv := t.kv, regs := t.regs }) ∧
  (∀ (ps : List PromptRead) (s t : State), s.deal.running = true → s.deal.cur = none → buildWaits s = false → exec (.trickBuild ps) s = .next t →
    t.kv.inval = s.kv.inval ∧ ∀ e ∈ t.kv.tlb, e ∈ s.kv.tlb ∧ ∀ i ∈ s.kv.inval, i.1 ≠ 64 ∧ i.1 ≠ e.2 / 2 ^ 128) ∧
  (∀ (tr : Trick) (rest : List Trick) (s : State), s.deal.ending = tr :: rest → copiesDone s tr = true → entriesDone s tr = true → tr.num < 2 ^ 64 → ∃ t, exec .trickEnd s = .next t ∧
    t.kv.inval = s.kv.inval.filter (fun i => decide (tr.num < i.2)) ∧ ((∃ i ∈ s.kv.inval, i.2 ≤ tr.num) → rdPair t (att 0x58) = tr.num ∧
      (rdReg t (att 0x54) = 0 ↔ t.kv.inval = []) ∧ ∀ e ∈ t.kv.tlb, ∀ i ∈ s.kv.inval, i.2 ≤ tr.num → i.1 ≠ 64 ∧ i.1 ≠ e.2 / 2 ^ 128))

/-- Append copies, spills, deferred frees and the time to live (R198, R212, R214, R215, R218, R240, R267). APPEND_COPY of a
layer that has begun copies the trick's append rows of it, once, and waits while a near-bank unit reads a destination's
pair. A spill of a context whose free stack frames are below SPILL_LOW copies a full stack page to a LPDDR frame, rewrites
its entry with another TIER and BASE, frees the vacated frame and counts; it does nothing otherwise. A deferred free is made
once ring 18 has room. A paused request whose time to live has run out ends EXPIRED: its slot enters FREEING, and the expiry
is counted. -/
def Obligations.CopiesSpillsAndFrees : Prop :=
  (∀ (l : Nat) (tr : Trick) (ms : List Nat) (s x : State), copyTrick s l = some tr → ms = copyModels s tr l →
    (∀ e ∈ tr.entries, ms.contains e.model = true → e.dropped = false → ∀ r ∈ entryRows e, ∀ p, pageFor tr e.gid l r.2 = some p → entryBusy s p = false) → x = copyLayer s tr l ms →
    ∃ t, exec (.appendCopy l) s = .next t ∧ t = { x with deal := t.deal } ∧ t.deal.slots = x.deal.slots ∧
      (∀ y, t.deal.cur = some y → y.num = tr.num → ∀ m ∈ ms, y.copied.contains (m * 512 + l) = true) ∧ (∀ y ∈ t.deal.ending, y.num = tr.num → ∀ m ∈ ms, y.copied.contains (m * 512 + l) = true)) ∧
  (∀ (l : Nat) (s : State), copyTrick s l = none → exec (.appendCopy l) s = .next s) ∧
  (∀ (m : Nat) (s : State), ((getM s m).st ≠ 1 ∨ cxSpill (getM s m).ctx = false ∨ cxLow (getM s m).ctx ≤ stackFrames s (getM s m).ctx ∨ freedRoom s (getM s m).ctx = false) → exec (.spill m) s = .next s) ∧
  (∀ (m g l base e : Nat) (p : Nat × Nat) (bs : List Byte) (c : List Byte) (s s1 s2 s3 : State), c = (getM s m).ctx → (getM s m).st = 1 → cxSpill c = true → stackFrames s c < cxLow c → freedRoom s c = true →
    spillPages s m = [(g, l, p)] → popFrame s c 1 (pSze p.2) = (s1, some base) → memRead s1 (getSlot s g).fn true (pBase p.2) (pgBytes c p.2) .none = (s2, .ok bs) →
    s3 = (memWrite s2 (getSlot s g).fn base bs).1 → e = rePte p.2 (frameTier s3 base) (pUsed p.2) base →
    exec (.spill m) s = .next (bump (vacate (snapMove (putLeaf s3 (cxWalk c) p.1 e) g l p.2 e) m g l (pFpos p.2) (pBase p.2)) (att 0x6C))) ∧
  (∀ (m : Nat) (d : Due) (s : State), s.kv.deferred = [d] → d.model = m → d.kind = 2 → freedRoom s (getM s m).ctx = true →
    exec (.deferredFree m) s = .next (setHeld (slotFree (pushFreed { s with kv := { s.kv with deferred := [] } } (getM s m).ctx d.base (match s.deal.cur with | some t => t.num | none => s.deal.ended)) d.gid))) ∧
  (∀ (m : Nat) (s : State), freedRoom s (getM s m).ctx = false → (∀ d ∈ s.kv.deferred, pageInUse s d = false) → exec (.deferredFree m) s = .next (wrReg s (att 0x94) (w32 s.kv.deferred.length))) ∧
  (∀ (g : Nat) (r : Req) (s : State), (getSlot s g).req = some r → r.host = true → r.st = .paused → r.ttl ≠ 0 → ∀ t0, r.ttlFrom = some t0 → t0 + r.ttl * 1000000 ≤ s.time → (getSlot s g).st = .active → ∃ t, exec (.ttlExpiry g) s = .next t ∧
    (getSlot t g).st = .freeing ∧ (getSlot t g).req = none ∧ (∀ h, h ≠ g → getSlot t h = getSlot s h) ∧ (getSlot t g).freeAt = (match s.deal.cur with | some x => x.num | none => s.deal.next) ∧ t.mem = s.mem) ∧
  (∀ (g : Nat) (s : State), (∀ r, (getSlot s g).req = some r → r.host = false ∨ r.st ≠ .paused ∨ r.ttl = 0 ∨ r.ttlFrom = none ∨ (∃ t0, r.ttlFrom = some t0 ∧ s.time < t0 + r.ttl * 1000000)) → exec (.ttlExpiry g) s = .next s)

/-- Ring prefill (R223, R309): the block goes on to the next member as posted WR packets of at most 256 bytes on KV to its
scratchpad, in order, and then one NOTIFY on KV posts 1 to the semaphore, whose BYTES are those of the writes sent to that
member on KV since the last (R306); with the fabric down, nothing leaves. Ring reductions (R307, R310). A packet of a
reduction that is not its partial's last is kept, one of a reduction that is over is dropped, one that differs from the
member's own ends it with STAT REFUSED, and the last one of a partial has it combined with the member's own, before the
reduction goes on; at the destination the last member's ends it. A DMSG makes the member attend its own pages and contribute
its partial (whose values are free, assumption 154), POISON where a page or a query row is poisoned; one that breaks its
format is refused. -/
def Obligations.RingWork : Prop :=
  (
    (∀ (k src len dst die sem : Nat) (bs : List Byte) (s s1 : State), fabUp s = true → k < fabN s → 0 < len → len % 32 = 0 → dst % 32 = 0 → rangeOf dst = .scratch → rangeOf (dst + len - 1) = .scratch → scrWaits s 256 src len = false →
      memRead s 256 true src len .none = (s1, .ok bs) →
      ∃ (w : Nat × List Byte → Packet) (s2 : State) (note : Packet),
        w = (fun c => { hdr := mkHdr 1 2 (fabPos s) ((fabPos s + 1) % fabN s) (c.2.length / 32) 0 0 (dst + 256 * c.1) 0, payload := c.2 }) ∧
        s2 = (enumFrom 0 (chunks 256 ((len + 255) / 256) bs)).foldl (fun x c => enqueue (noteSent x (w c)) (w c)) s1 ∧
        note = withBytes s2 { hdr := mkHdr 5 2 (fabPos s) ((fabPos s + 1) % fabN s) 0 0 0 (sem % 1024 + die % 2 * 2 ^ 10 + 2 ^ 16) 0, payload := [] } ∧
        exec (.ringPrefillStep k src len dst die sem) s = .next (enqueue (noteSent s2 note) note)) ∧
    (∀ (p : Packet) (s : State), (pType p = 1 → sentBytes (noteSent s p) p = sentBytes s p + 32 * pLen p) ∧ (pType p = 5 → sentBytes (noteSent s p) p = 0 ∧ pXw (withBytes s p) = sentBytes s p % 2 ^ 32)) ∧
    (∀ (k src len dst die sem : Nat) (s : State), fabUp s = false → exec (.ringPrefillStep k src len dst die sem) s = .next s)) ∧
  (
    (∀ (n : Nat) (p : Packet) (r : Red) (s : State), n < 16 → (getE s n).rxq.find? (redNow s) = some p → getR s (rdRid p) = some r →
      (r.done = true → exec (.red n) s = .next (takePkt s n p)) ∧
      (r.done = false → (redDiffers r p = true ∨ pStat p = 1) → exec (.red n) s = .next (redFinish (takePkt s n p) (rdRid p) { r with stat := 1 })) ∧
      (r.done = false → redDiffers r p = false → pStat p ≠ 1 → r.got.length + 1 < r.npkt → ∃ t y, exec (.red n) s = .next t ∧ getR t (rdRid p) = some y ∧ y.got = r.got ++ [redOf p] ∧ y.own = r.own ∧ y.level = r.level ∧ y.done = false ∧
        (∀ k, k ≠ rdRid p → getR t k = getR s k) ∧ t = { s with fab := t.fab }) ∧
      (r.done = false → redDiffers r p = false → pStat p ≠ 1 → r.npkt ≤ r.got.length + 1 → r.level ≠ 5 → exec (.red n) s = .next (redGo (rdRid p) 8 (useFree (takePkt s n p)) { r with
        own := redCombine (takePkt s n p) r (r.got ++ [redOf p]) r.own
        got := []
        stat := if pF p 7 7 = 1 then 2 else max r.stat (pStat p)
        level := r.level + 1 })) ∧
      (r.done = false → redDiffers r p = false → pStat p ≠ 1 → r.npkt ≤ r.got.length + 1 → r.level = 5 → exec (.red n) s = .next (redResult (takePkt s n p) (rdRid p) { r with
        own := r.got ++ [redOf p]
        stat := if pF p 7 7 = 1 then 2 else max r.stat (pStat p) }))) ∧
    (∀ (n : Nat) (p : Packet) (s : State), headOf s n 7 = some p → dmOk p = false → exec (.dmsg n) s = .next (fabRefused (takePkt s n p))) ∧
    (∀ (n rid g nrow st : Nat) (p : Packet) (c : List Byte) (res : MemRes) (bad none_ : Bool) (s s2 s3 : State), headOf s n 7 = some p → dmOk p = true → rid = dmF p 0x1C 2 → g = dmF p 2 2 → nrow = dmF p 6 1 → c = (getM s (getSlot s g).model).ctx →
      (∀ r, getR s rid = some r → r.done = true) → scrWaits s (getSlot s g).fn (dmF p 0x10 8) (nrow * 64 * cxDh c + 4 * nrow) = false →
      memRead (takePkt s n p) (getSlot s g).fn false (dmF p 0x10 8) (nrow * 64 * cxDh c + 4 * nrow) .none = (s2, res) → pagesPoisoned s2 (getSlot s g).fn c g (dmF p 4 2) = (s3, bad, none_) → (bad = false → (∃ bs, res = .ok bs) → st = 0) → ((bad = true ∨ ∀ bs, res ≠ .ok bs) → st = 2) →
      exec (.dmsg n) s = .next (redGo rid 8 (useFree s3) { op := 6, pmask := ringMask s, npkt := attPkts nrow (cxDh c), dh := cxDh c, dest := pSrc p, own := attOwn (if none_ then none else some s3.free) nrow (cxDh c), stat := st })))

/-- Acceptance of a GENERATE or an APPEND at the head of its queue (R228, R231, R237). The head is taken. Where no row of Table
8-7 matches, the request is created: a FREE slot becomes ACTIVE with it, its model and function those of the request, a
RETAINED slot becomes ACTIVE with it on the sequence it holds; where a row matches, the first answers with its status, and
the slot is as it was. -/
def Obligations.RequestsAccepted : Prop :=
  ∀ (i : Instr) (opc q f g : Nat) (d : Desc) (rd : StopRead) (s x : State), (i, opc) ∈ [(Instr.generate q rd, 1), (.append q rd, 2)] → headDesc s q opc = some (f, d) → dOpc d = opc → dF d 0x28 8 = 0 →
    x = popDesc s q → g = gidOf s f d →
    (genRefusal x f g d .absent = none → ((getSlot s g).st = .free ∨ (getSlot s g).st = .retained) → ∃ t, exec i s = .next t ∧ (getSlot t g).st = .active ∧ ((getSlot s g).st = .free → (getSlot t g).req = some (mkReq x q f d {})) ∧
      ((getSlot s g).st = .retained → (getSlot t g).req = some { mkReq x q f d {} with lastCommit := (getSlot s g).lastCommit }) ∧
      (getSlot t g).model = dF d 8 1 ∧ ((getSlot s g).st = .free → (getSlot t g).fn = f ∧ (getSlot t g).len = 0) ∧ ((getSlot s g).st = .retained → (getSlot t g).len = (getSlot s g).len ∧ t.mem = s.mem) ∧
      (∀ h, h ≠ g → getSlot t h = getSlot s h) ∧ getQ t q = { getQ s q with ready := (getQ s q).ready.drop 1 } ∧ t.deal.order = s.deal.order + 1 ∧ t.kv = s.kv) ∧
    (∀ row st, genRefusal x f g d .absent = some (row, st) → exec i s = .next (cqDetail (bump x (svc 0x54)) q g (dTag d) (dSeq d) st row false))

/-- Control descriptors (R238, R240, R253, R261). CANCEL ends the slot's request, and the slot enters FREEING; CANCEL, PAUSE and
RESUME of a slot whose request has ended answer ALREADY_DONE and of a FREE slot NO_REQUEST. PAUSE takes effect at once on a
request in no trick and waits for the commit of the trick that has it; RESUME ends the pause; RELEASE frees a RETAINED slot;
DRAFT replaces the request's drafts and answers nothing. -/
def Obligations.RequestControl : Prop :=
  (∀ (i : Instr) (opc q f g : Nat) (d : Desc) (s x : State), (i, opc) ∈ [(Instr.cancel q, 3), (.pause q, 4), (.resume q, 5)] → headDesc s q opc = some (f, d) → dRsvOk d = true → x = popDesc s q → g = gidOf s f d → g ≠ 65536 →
    ((getSlot s g).st = .retained → exec i s = .next (cqDetail (bump x (svc 0x54)) q g (dTag d) (dSeq d) 0x81 6 (2 < dOpc d))) ∧
    ((getSlot s g).st = .free → exec i s = .next (cqDetail (bump x (svc 0x54)) q g (dTag d) (dSeq d) 0x82 7 (2 < dOpc d)))) ∧
  (∀ (q f g : Nat) (d : Desc) (r : Req) (s : State), headDesc s q 3 = some (f, d) → dRsvOk d = true → g = gidOf s f d → g ≠ 65536 → (getSlot s g).st = .active → (getSlot s g).req = some r →
    ∃ t, exec (.cancel q) s = .next t ∧ (getSlot t g).st = .freeing ∧ (getSlot t g).req = none ∧ (getSlot t g).freeAt = freeTrick s ∧ (∀ h, h ≠ g → getSlot t h = getSlot s h) ∧
      (∀ y, t.deal.cur = some y → ∀ e ∈ y.entries, e.gid = g → e.dropped = true) ∧ t.mem = s.mem) ∧
  (∀ (q f g : Nat) (d : Desc) (r : Req) (s : State), headDesc s q 4 = some (f, d) → dRsvOk d = true → g = gidOf s f d → g ≠ 65536 → (getSlot s g).st = .active → (getSlot s g).req = some r →
    (r.host = false ∨ r.st ≠ .paused) →
    (inTrick s g = true → exec (.pause q) s = .next (cqDetail (modReq (modReq (popDesc s q) g (fun r => { r with host := true, ttl := dF d 8 4, ttlFrom := none })) g (fun r => { r with hostWait := true })) q g (dTag d) (dSeq d) 0x80 0 true)) ∧
    (inTrick s g = false → ∃ t y, exec (.pause q) s = .next t ∧ (getSlot t g).req = some y ∧ y.st = .paused ∧ y.host = true ∧ y.ttl = dF d 8 4 ∧ y.ttlFrom = some s.time ∧ (∀ h, h ≠ g → getSlot t h = getSlot s h))) ∧
  (∀ (q f g : Nat) (d : Desc) (r : Req) (s : State), headDesc s q 5 = some (f, d) → dRsvOk d = true → g = gidOf s f d → g ≠ 65536 → (getSlot s g).st = .active → (getSlot s g).req = some r → r.host = true →
    ∃ t y, exec (.resume q) s = .next t ∧ (getSlot t g).req = some y ∧ y.host = false ∧ y.ttlFrom = none ∧ (r.budget = false → r.st = .paused → y.st = r.prev) ∧ (∀ h, h ≠ g → getSlot t h = getSlot s h)) ∧
  (∀ (q f g : Nat) (d : Desc) (s : State), headDesc s q 6 = some (f, d) → dRsvOk d = true → g = gidOf s f d → g ≠ 65536 →
    ((getSlot s g).st = .retained → exec (.release q) s = .next (cqDetail (freeSlot (popDesc s q) g) q g (dTag d) (dSeq d) 0x80 0 true)) ∧
    ((getSlot s g).st ≠ .retained → exec (.release q) s = .next (cqDetail (bump (popDesc s q) (svc 0x54)) q g (dTag d) (dSeq d) 0x85 9 (2 < dOpc d)))) ∧
  (∀ (q f g n : Nat) (d : Desc) (r : Req) (s : State), headDesc s q 7 = some (f, d) → dRsvOk d = true → g = gidOf s f d → g ≠ 65536 → (getSlot s g).st = .active → (getSlot s g).req = some r → r.st = .decode →
    n = dF d 8 1 → 1 ≤ n → n ≤ 8 → (∀ j, j < n → dTok d j < (getM s r.model).b.vocab) →
    exec (.draft q) s = .next (setSlot (popDesc s q) g { getSlot s g with req := some { r with drafts := (List.range n).map (dTok d), draftSince := s.deal.commit } }))

/-- The course of a trick (R175, R241, R245, R251, R256, R272, Table 8-10). A build, with none in flight and no place it writes
about to change hands, takes the next number and puts that trick in flight, and commits nothing. A commit, once every run
has ended on every cluster it was dealt to, with the candidates of every sampling row as the logits head gives them, writes
the trick's number to COMMIT_TRICK, leaves none in flight, and charges a chunk's cost and each delivered token; one decode
entry without drafts delivers one token. The end of the oldest committed trick advances KV_RETIRE_EPOCH to its number. -/
def Obligations.TrickCourse : Prop :=
  (∀ (ps : List PromptRead) (s : State), s.deal.running = true → s.deal.cur = none → buildWaits s = false → ∃ t tr, exec (.trickBuild ps) s = .next t ∧ t.deal.cur = some tr ∧ tr.num = s.deal.next ∧ t.deal.trick = s.deal.next ∧
    t.deal.next = s.deal.next + 1 ∧ t.deal.commit = s.deal.commit ∧ t.deal.ended = s.deal.ended ∧ t.deal.ending.map (fun x => x.num) = s.deal.ending.map (fun x => x.num) ∧ tr.built = s.time) ∧
  (∀ (ps : List PromptRead) (s : State), (s.deal.running = false ∨ s.deal.cur ≠ none ∨ buildWaits s = true) → exec (.trickBuild ps) s = .next s) ∧
  (∀ (cs : List (List Cand)) (tr : Trick) (s : State), s.deal.cur = some tr → s.deal.running = true → runsEnded tr = true → rowsOk s tr.entries cs = true → tr.num < 2 ^ 64 → ∃ t, exec (.commit cs) s = .next t ∧
    t.deal.cur = none ∧ t.deal.commit = tr.num ∧ rdPair t (dl 0x48) = tr.num ∧ t.deal.ending.map (fun x => x.num) = s.deal.ending.map (fun x => x.num) ++ [tr.num] ∧ t.deal.commitAt = some s.time ∧ t.deal.ended = s.deal.ended ∧ t.deal.next = s.deal.next ∧
    (∀ e, tr.entries = [e] → e.dropped = false → e.sample = false → (getA t e.acct).bal = (getA s e.acct).bal - e.cost ∧ (getA t e.acct).charged = (getA s e.acct).charged + e.cost ∧ (getSlot t e.gid).len = e.len + e.chunk) ∧
    (∀ e r row, tr.entries = [e] → e.dropped = false → e.sample = true → e.prefill = false → e.draft = 0 → e.toks.length ≤ 1 → reqOf s e.gid = some r → cs = [row] →
      (getA t e.acct).bal = (getA s e.acct).bal - e.cost - 1 ∧ (getA t e.acct).charged = (getA s e.acct).charged + e.cost + 1 ∧ (getSlot t e.gid).len = e.len + 1 ∧ (getSlot t e.gid).pend = (sampleRow r (e.len + e.chunk) row).1)) ∧
  (∀ (cs : List (List Cand)) (tr : Trick) (s : State), s.deal.cur = some tr → (runsEnded tr = false ∨ rowsOk s tr.entries cs = false) → exec (.commit cs) s = .next s) ∧
  (∀ (tr : Trick) (rest : List Trick) (s : State), s.deal.ending = tr :: rest → copiesDone s tr = true → entriesDone s tr = true → tr.num < 2 ^ 64 → ∃ t, exec .trickEnd s = .next t ∧
    t.deal.ending = rest ∧ t.deal.ended = tr.num ∧ rdPair t (att 0x60) = tr.num ∧ (∀ d ∈ t.kv.due, tr.num < d.trick) ∧ t.deal.cur = s.deal.cur) ∧
  (∀ (tr : Trick) (rest : List Trick) (s : State), s.deal.ending = tr :: rest → (copiesDone s tr = false ∨ entriesDone s tr = false) → exec .trickEnd s = .next s)

/-- Completion entries and faults (R170, R244, R260, R263, R285, R326, R377). The first entry that waits for a queue is written
to slot CQ_TAIL with the pass's PHASE, to host memory or, for a queue in device memory, by its function to device memory
(R267); CQ_TAIL goes up by 1 modulo the size and PHASE turns over at the wrap; a full queue takes none, and one whose
translation the host refuses keeps its entries. The dealer acts on the oldest report: a deck's fault marks its model FAULTED
with the code, a sequence's loss ends its request, a transient fault of another trick than the one in flight is past. -/
def Obligations.CompletionsAndFaults : Prop :=
  (∀ (q : Nat) (o : CqOut) (x : Queue) (s : State), s.deal.cq.find? (fun x => x.q == q) = some o → cqFull s q = false → hostReach s q = true → ackWaits s.deal.cq o = false →
    x = { getQ s q with
      cqTail := ((getQ s q).cqTail + 1) % cqSize s q
      phase := if ((getQ s q).cqTail + 1) % cqSize s q = 0 then !(getQ s q).phase else (getQ s q).phase
      unsig := (getQ s q).unsig + 1
      unsigAt := if (getQ s q).unsig = 0 then s.time else (getQ s q).unsigAt
      fullAt := if (((getQ s q).cqTail + 1) % cqSize s q + 1) % cqSize s q = (getQ s q).cqHead then some s.time else none } →
    (∀ f, queOwner s q = some f → bit (rdReg s (pageOf .que q + 0x10)) 20 = false → exec (.completionWrite q true) s =
      .next (setQ (emit (hostAsk { s with deal := { s.deal with cq := s.deal.cq.erase o } } f q true) (.cqe q (getQ s q).cqTail (cqePhase o.e (getQ s q).phase))) q x)) ∧
    (∀ f, queOwner s q = some f → bit (rdReg s (pageOf .que q + 0x10)) 20 = false → exec (.completionWrite q false) s = .next (setQ (hostAsk s f q true) q { getQ s q with xlatErr := true })) ∧
    (∀ ok, bit (rdReg s (pageOf .que q + 0x10)) 20 = true → exec (.completionWrite q ok) s =
      .next (setQ (memWrite { s with deal := { s.deal with cq := s.deal.cq.erase o } } ((queOwner s q).getD 256) (rdPair s (pageOf .que q + 0x08) + 32 * (getQ s q).cqTail)
        (leBytes (cqePhase o.e (getQ s q).phase).toNat 32)).1 q x))) ∧
  (∀ (q : Nat) (ok : Bool) (s : State), ((getQ s q).cqTail + 1) % cqSize s q = (getQ s q).cqHead → exec (.completionWrite q ok) s = .next s) ∧
  (∀ (tests : List Bool) (s : State), s.deal.reports = [] → exec (.faultReport tests) s = .next s) ∧
  (∀ (tests : List Bool) (r : Report) (rest : List Report) (s : State), s.deal.reports = r :: rest → s.deal.running = true → r.code < 16 → r.code ≠ 8 → r.blk ≠ .nbu → (getM s r.model).st = 1 → ∃ t, exec (.faultReport tests) s = .next t ∧
    (getM t r.model).st = 2 ∧ (getM t r.model).fault = r.code ∧ (getM t r.model).ftrick = r.trick % 2 ^ 32 ∧ (∀ k, k ≠ r.model → getM t k = getM s k) ∧ t.deal.commit = s.deal.commit) ∧
  (∀ (tests : List Bool) (r : Report) (rest : List Report) (s : State), s.deal.reports = r :: rest → s.deal.running = true →
    (r.code = 0x29 → exec (.faultReport tests) s = .next (failReq { s with deal := { s.deal with reports := rest } } r.addr 2)) ∧
    (r.code = 0x2A → exec (.faultReport tests) s = .next (dropSeq { s with deal := { s.deal with reports := rest } } r.addr)) ∧
    (∀ tr, 16 ≤ r.code → r.code < 32 → ¬ (r.blk = .nbu ∧ r.code = 19) → s.deal.cur = some tr → r.trick ≠ tr.num → exec (.faultReport tests) s = .next { s with deal := { s.deal with reports := rest } }))

/-- The service commands (R268, R269, R273, R276, R408, Tables 9-2 to 9-6). A message of the PF on channel 0 that names a
command's code is answered while the dealer runs: FN_SET sets the function's sequence range, ACCT_SET the account, MODEL_ADM
the model slot's admission settings from the next build on, and SVC_SET the service settings, with status 0, or with the
status of the first check that fails and no change; ACCT_GET answers an account's balance, charge and breaches, and ADM_GET
the admission computation. Between CFG_READY and DEVICE_READY the answer is BUSY. -/
def Obligations.ServiceCommands : Prop :=
  (∀ (i : Instr) (code : Nat) (f : State → Svc) (s : State), (i, code, f) ∈ [(Instr.fnSet, 1, opFnSet), (.acctSet, 2, opAcctSet), (.acctGet, 3, opAcctGet), (.modelAdm, 4, opModelAdm), (.admGet, 5, opAdmGet), (.svcSet, 6, opSvcSet)] →
    (mbWaits s 0 0x101 = true → s.deal.running = true → (getMb s 0).sender = 1 → mbCmd s 0 = code → exec i s = .next (mbReply (f s).1 0 0x101 (f s).2.1 (f s).2.2)) ∧
    (mbWaits s 0 0x101 = false → exec i s = .next s) ∧
    (mbWaits s 0 0x101 = true → s.deal.running = true → (getMb s 0).sender ≠ 1 → exec i s = .next (mbReply s 0 0x101 1 [])) ∧
    (mbWaits s 0 0x101 = true → s.deal.running = false → s.boot.cfgReady = true → s.boot.devReady = false → exec i s = .next (mbReply s 0 0x101 3 []))) ∧
  (∀ (f base cnt : Nat) (s : State), f = mbIdx s 0 → base = svcFld s 2 15 0 → cnt = svcFld s 3 16 0 → f < 256 → base + cnt ≤ 65536 → tdiLocked s f = false →
    (cnt ≠ 0 → ∀ g, g < 256 → g ≠ f → (seqRange s g).2 = 0 ∨ base + cnt ≤ (seqRange s g).1 ∨ (seqRange s g).1 + (seqRange s g).2 ≤ base) →
    (∀ e ∈ s.deal.slots, (seqRange s f).1 ≤ e.1 → e.1 < (seqRange s f).1 + (seqRange s f).2 → (base ≤ e.1 ∧ e.1 < base + cnt) ∨ e.2.st = .free) →
    opFnSet s = ({ s with deal := { s.deal with fnSeq := spSet s.deal.fnSeq f (base, cnt) } }, 0, [])) ∧
  (∀ s : State, 256 ≤ mbIdx s 0 → opFnSet s = (s, 1, [])) ∧
  (∀ (a : Nat) (s : State), a = mbIdx s 0 → a < 4096 → opAcctGet s = (s, 0, [unsx 32 (getA s a).bal, (getA s a).charged, (getA s a).breaches])) ∧
  (∀ s : State, mbIdx s 0 = 0 → 10 ≤ svcFld s 2 15 0 → svcFld s 2 15 0 ≤ 10000 → svcFld s 3 7 0 ≠ 0 → 1 ≤ svcFld s 4 15 0 → svcFld s 4 15 0 ≤ 1000 → opSvcSet s = ({ s with deal := { s.deal with
    repPeriod := svcFld s 2 15 0
    svcNew := some (svcFld s 3 7 0, svcFld s 4 15 0)
    perDue := max s.time (s.deal.perLast + svcFld s 2 15 0 * 1000000) } }, 0, [])) ∧
  (∀ (a : Nat) (x : Acct) (y : Terms) (s : State), a = mbIdx s 0 → a < 4096 → y = { ante := svcFld s 2 23 0, weight := svcFld s 5 23 16, cmax := svcFld s 5 25 24, pfr := svcFld s 6 8 0 } → x = { getA s a with
      ceil := svcFld s 3 23 0
      burst := svcFld s 4 23 0
      owner := svcFld s 5 7 0
      enable := bitN (mbData s 0 5) 8
      waits := some y
      demand := if (spFind s.deal.accts a).isSome then (getA s a).demand else decide (s.deal.next ≤ s.deal.perFirst) } →
    y.ante ≤ x.ceil → y.weight ≠ 0 → y.pfr ≤ 256 → tdiLocked s (getA s a).owner = false → tdiLocked s x.owner = false → (∀ e ∈ allReqs s, e.2.acct ≠ a) →
    noWorse (excess s (admSoon s) none (anteSum s a (getA s a))) (excess s (admSoon s) none (anteSum s a x)) = true → opAcctSet s = (setA s a x, 0, [])) ∧
  (∀ s : State, (svcFld s 3 23 0 < svcFld s 2 23 0 ∨ svcFld s 5 23 16 = 0 ∨ 256 < svcFld s 6 8 0) → opAcctSet s = (s, 1, [])) ∧
  (∀ (m : Nat) (x : AdmSet) (also : Option Nat) (s : State), m = mbIdx s 0 → m < 64 → x = { tper := svcFld s 2 23 0, rmax := svcFld s 3 10 0, imax := svcFld s 4 10 0, draft := svcFld s 4 19 16 } → 1 ≤ x.rmax → x.rmax ≤ 1024 → x.imax ≤ 1024 → x.draft ≤ 8 →
    also = (if (getM s m).st = 3 then some m else none) → (((getM s m).st = 1 ∨ (getM s m).st = 3) → rowCap s m x ≠ 0) →
    noWorse (excess s (admSoon s) also (anteSum s 0 (getA s 0))) (excess s (fun k => if k = m then x else admSoon s k) also (anteSum s 0 (getA s 0))) = true →
    opModelAdm s = ({ s with deal := { s.deal with admNew := spSet s.deal.admNew m x } }, 0, [])) ∧
  (∀ (m : Nat) (x : AdmSet) (s : State), m = mbIdx s 0 → m < 64 → x = getAdm s m → (getM s m).st = 1 → kappa s ≠ 0 →
    opAdmGet s = (s, 0, [pA s, anteCapOf s (getAdm s) none, rowCap s m x + 2 ^ 16 * interCap s m x, lowRows s m x + 2 ^ 16 * b2n (thinPath s m (rowCap s m x)), kappa s + 2 ^ 8 * theta s]))

/-- Replenishment, stalled queues and model loads (R170, R191, R268, R271, R282, R285, R287). At a period boundary, which the
hub's counter has reached, every enabled account's balance becomes the smaller of it and BURST, plus CEIL, and its charge 0.
A queue that has stayed full for longer than CQ_STALL_MAX is paused. MODEL_LOAD takes a slot that is EMPTY or FAULTED to
LOADING with its context, or to FAULTED (4) when the context is out of its ranges; or POISON (8) when it cannot be read;
MODEL_LOAD_DONE takes it to LOADED, with the settings that waited for it. -/
def Obligations.TenantsAndModels : Prop :=
  (∀ s : State, s.deal.running = true → s.deal.perDue ≤ s.time → ∃ t, exec .replenish s = .next t ∧ (∀ a x, spFind s.deal.accts a = some x → x.enable = true → (getA t a).bal = min x.bal x.burst + x.ceil ∧ (getA t a).charged = 0) ∧
    (∀ a x, spFind s.deal.accts a = some x → x.enable = false → (getA t a).bal = x.bal ∧ (getA t a).charged = x.charged) ∧ t.deal.perFirst = s.deal.next ∧ t.deal.perDue = s.deal.perDue + s.deal.repPeriod * 1000000 ∧ t.mem = s.mem ∧ t.regs = s.regs) ∧
  (∀ s : State, s.time < s.deal.perDue → exec .replenish s = .next s) ∧
  (∀ (q t0 : Nat) (s : State), (getQ s q).st = .enabled → cqFull s q = true → (getQ s q).fullAt = some t0 →
    (t0 + s.deal.cqStall * 1000000 < s.time → exec (.cqStall q) s = .next (setQ s q { getQ s q with st := .paused })) ∧
    (s.time ≤ t0 + s.deal.cqStall * 1000000 → exec (.cqStall q) s = .next s)) ∧
  (∀ (q : Nat) (s : State), cqFull s q = false → exec (.cqStall q) s = .next s) ∧
  (∀ (m : Nat) (b : Bundle) (c : List Byte) (s s1 : State), m < 64 → s.deal.running = true → ((getM s m).st = 0 ∨ (getM s m).st = 2) → readCtx s m = (s1, some c) →
    (cxOk c = true → ∃ t, exec (.modelLoad m b) s = .next t ∧ (getM t m).st = 3 ∧ (getM t m).b = b ∧ (getM t m).ctx = c ∧ (∀ k, k ≠ m → getM t k = getM s k) ∧ t = { s1 with deal := t.deal }) ∧
    (cxOk c = false → ∃ t, exec (.modelLoad m b) s = .next t ∧ (getM t m).st = 2 ∧ (getM t m).fault = 4 ∧ (∀ k, k ≠ m → getM t k = getM s k) ∧ t = { s1 with deal := t.deal })) ∧
  (∀ (m : Nat) (b : Bundle) (s s1 : State), m < 64 → s.deal.running = true → ((getM s m).st = 0 ∨ (getM s m).st = 2) → readCtx s m = (s1, none) →
    ∃ t, exec (.modelLoad m b) s = .next t ∧ (getM t m).st = 2 ∧ (getM t m).fault = 8 ∧ (∀ k, k ≠ m → getM t k = getM s k) ∧ t = { s1 with deal := t.deal }) ∧
  (∀ (m : Nat) (s : State), m < 64 → (getM s m).st = 3 → ∃ t, exec (.modelLoadDone m) s = .next t ∧ getM t m = { getM s m with st := 1 } ∧ (∀ k, k ≠ m → getM t k = getM s k) ∧
    (∀ x, spFind s.deal.admNew m = some x → getAdm t m = x ∧ spFind t.deal.admNew m = none) ∧ (spFind s.deal.admNew m = none → t.deal.adm = s.deal.adm) ∧
    t.deal.capChange = true ∧ t = { s with deal := t.deal }) ∧
  (∀ (m : Nat) (s : State), (getM s m).st ≠ 3 → exec (.modelLoadDone m) s = .next s)

/-- The link layer (R296, R298, R299, R301, R303). A packet leaves on the engine that carries its flow, in the class it takes on
the span, with that engine's next SEQ and its CRC, and stays in its replay buffer. A frame that fails its check, or is out
of sequence, is answered by a NAK and changes nothing else but the counts of symbols and of uncorrectable codewords; the
next one in sequence is taken: its acknowledgement empties the replay buffer and its credits are given back, and its packet
waits at its destination, is forwarded, is the link's own, or is refused and counted. A NAK has the unacknowledged frames
sent again, in order; a second one for a frame sends the engine to TRAINING, and its frames wait to be resent. What a
control packet of the link tells is a free value of the model (assumption 128). -/
def Obligations.LinkFrames : Prop :=
  (∀ (n port : Nat) (pkt p q : Packet) (again : Bool) (s : State), n < 16 → toSend s pkt = some (p, again) → fabUp s = true → port = route s (pDst p) (pVc p) → carrier (if again then portUp s port else flowEngs s port) p = some n → engUp s n = true →
    creditHeld (getE s n) (leaveDl s port p) = true → (getE s n).replay.length < 512 → pType pkt ≠ 7 → q = leaveDl s (portOf s n) p →
    ∃ t v d k, exec (.frameTransmit n pkt) s = .next t ∧ (getE t n).seq = ((getE s n).seq + 1) % 4096 ∧ (getE t n).replay = (getE s n).replay ++ [((getE s n).seq, p)] ∧
      spGet 0 (getE t n).used (pCls q) = spGet 0 (getE s n).used (pCls q) + (if pType p = 15 then 0 else 1) ∧ (∀ m, m ≠ n → getE t m = getE s m) ∧
      (again = false → t.fab.outq = removePkt p s.fab.outq ∧ t.fab.resend = s.fab.resend) ∧ (again = true → t.fab.outq = s.fab.outq ∧ t.fab.resend = removePkt p s.fab.resend) ∧
      t.out = mkFrame n (getE s n).seq (((getE s n).rxSeq + 4095) % 4096) v d k q :: s.out ∧ t = { s with fab := t.fab, out := t.out }) ∧
  (∀ (n : Nat) (pkt : Packet) (s : State), toSend s pkt = none → exec (.frameTransmit n pkt) s = .next s) ∧
  (∀ (n seq ack crv crcnt crc unc : Nat) (crdl : Bool) (syms : List Nat) (pkt : Packet) (s s0 : State) (x : Engine), n < 16 → engUp s n = true → s0 = syms.foldl (fun y l => symCount y n l) (bumpBy s (optPg n + 0x74) unc) → engUp s0 n = true → x = getE s0 n →
    ((crc ≠ frameCrc seq ack crv (b2n crdl) crcnt pkt ∨ seq ≠ x.rxSeq) → exec (.frameReceive n seq ack crv crdl crcnt ⟨crc, syms, unc⟩ pkt) s = .next (emit (bump s0 (optPg n + 0x7C)) (.nak n ((x.rxSeq + 4095) % 4096)))) ∧
    (crc = frameCrc seq ack crv (b2n crdl) crcnt pkt → seq = x.rxSeq →
      (pktOk pkt = true → pType pkt ≠ 15 → pDst pkt = fabPos s0 → ∃ t, exec (.frameReceive n seq ack crv crdl crcnt ⟨crc, syms, unc⟩ pkt) s = .next t ∧ (getE t n).rxSeq = (x.rxSeq + 1) % 4096 ∧ (getE t n).replay = acked ack x.replay ∧
        (getE t n).used = spSet x.used (2 * (crv % 4) + b2n crdl) (spGet 0 x.used (2 * (crv % 4) + b2n crdl) - crcnt % 32) ∧
        (getE t n).rxq = x.rxq ++ [pkt] ∧ (getE t n).st = x.st ∧ (∀ m, m ≠ n → getE t m = getE s0 m) ∧ t.fab.outq = s0.fab.outq ∧ t = { s0 with fab := t.fab }) ∧
      (pktOk pkt = true → pType pkt ≠ 15 → pDst pkt ≠ fabPos s0 → ∃ t q, exec (.frameReceive n seq ack crv crdl crcnt ⟨crc, syms, unc⟩ pkt) s = .next t ∧ (getE t n).rxSeq = (x.rxSeq + 1) % 4096 ∧ (getE t n).replay = acked ack x.replay ∧ (getE t n).rxq = x.rxq ∧
        spGet 0 (getE t n).owed (pCls pkt) = spGet 0 x.owed (pCls pkt) + 1 ∧ t.fab.outq = s0.fab.outq ++ [q] ∧ q.payload = pkt.payload ∧ (∀ m, m ≠ n → getE t m = getE s0 m) ∧ t = { s0 with fab := t.fab }) ∧
      (pktOk pkt = true → pType pkt = 15 → ∃ t, exec (.frameReceive n seq ack crv crdl crcnt ⟨crc, syms, unc⟩ pkt) s = .next t ∧ (getE t n).rxSeq = (x.rxSeq + 1) % 4096 ∧ (getE t n).replay = acked ack x.replay ∧ (getE t n).rxq = x.rxq ∧ (getE t n).owed = x.owed ∧
        (∀ m, m ≠ n → getE t m = getE s0 m) ∧ t.fab.outq = s0.fab.outq ∧ t = { s0 with fab := t.fab, deal := t.deal, free := t.free }) ∧
      (pktOk pkt = false → ∃ t, exec (.frameReceive n seq ack crv crdl crcnt ⟨crc, syms, unc⟩ pkt) s = .next t ∧ (getE t n).rxSeq = (x.rxSeq + 1) % 4096 ∧ (getE t n).rxq = x.rxq ∧ (rdN s0 0xB070 < 0xFFFFFFFF → rdN t 0xB070 = rdN s0 0xB070 + 1) ∧ t.fab.outq = s0.fab.outq))) ∧
  (∀ (n seq : Nat) (syms : List Nat) (s s0 : State) (left : List (Nat × Packet)) (bad : Option Nat), n < 16 → engUp s n = true → s0 = syms.foldl (fun y l => symCount y n l) s → engUp s0 n = true → left = acked seq (getE s0 n).replay → bad = left.head?.map (fun r => r.1) →
    (¬(bad.isSome = true ∧ (getE s0 n).nakked = bad) → ∃ t, exec (.nak n seq syms) s = .next t ∧ getE t n = { getE s0 n with replay := left, nakked := bad } ∧ (∀ m, m ≠ n → getE t m = getE s0 m) ∧
      t.out = (left.map (fun r => mkFrame n r.1 (((getE s0 n).rxSeq + 4095) % 4096) 0 0 0 (leaveDl s0 (portOf s0 n) r.2))).reverse ++ s0.out ∧ t = { s0 with fab := t.fab, out := t.out }) ∧
    (bad.isSome = true → (getE s0 n).nakked = bad → ∃ t, exec (.nak n seq syms) s = .next t ∧ (getE t n).st = .training ∧ (getE t n).replay = [] ∧
      t.fab.resend = s0.fab.resend ++ left.map (fun r => r.2) ∧ t.fab.outq = s0.fab.outq ∧ (∀ m, m ≠ n → getE t m = getE s0 m)))

/-- Remote access (R304 to R306). A WR or RD whose bytes lie in a window that lets its source in is performed as the window's
function and answered, a posted WR only counted; one without a window, or that breaks its format, is refused, and a poisoned
payload is not stored (what its response says is the model's choice, assumption 26). A response ends its request, a request
without one ends by TIMEOUT after FAB_TMO. A NOTIFY is held until the bytes it counts have completed, and then posts to its
semaphore; a post that would overflow leaves the value, sets the sticky bit and is counted. -/
def Obligations.RemoteAccess : Prop :=
  (∀ (n i : Nat) (p : Packet) (r : MemRes) (s s1 : State), headOf s n 1 = some p → 0 < pLen p → pAddr p % 32 = 0 → rwinFor s (pSrc p) (pAddr p) (32 * pLen p) true = some i → scrWaits s (rwinFn s i) (pAddr p) (32 * pLen p) = false →
    pF p 7 7 = 0 → memWrite (takePkt s n p) (rwinFn s i) (pAddr p) p.payload = (s1, r) →
    (∀ bs, r = .ok bs → exec (.wr n) s = .next (if pVc p = 0 then respond (addBytes s1 (pSrc p) (pVc p) (32 * pLen p)) p 4 0 [] else addBytes s1 (pSrc p) (pVc p) (32 * pLen p))) ∧
    ((∀ bs, r ≠ .ok bs) → exec (.wr n) s = .next (respond (addBytes (fabRefused s1) (pSrc p) (pVc p) (32 * pLen p)) p 4 1 []))) ∧
  (∀ (n i : Nat) (p : Packet) (s s1 : State), headOf s n 1 = some p → 0 < pLen p → pAddr p % 32 = 0 → rwinFor s (pSrc p) (pAddr p) (32 * pLen p) true = some i → scrWaits s (rwinFn s i) (pAddr p) (32 * pLen p) = false →
    pF p 7 7 = 1 → s1 = addBytes (takePkt s n p) (pSrc p) (pVc p) (32 * pLen p) → exec (.wr n) s = .next (if pVc p = 0 then respond s1 p 4 2 [] else s1)) ∧
  (∀ (n : Nat) (p : Packet) (s : State), headOf s n 1 = some p → (pLen p = 0 ∨ pAddr p % 32 ≠ 0 ∨ rwinFor s (pSrc p) (pAddr p) (32 * pLen p) true = none) →
    exec (.wr n) s = .next (respond (addBytes (fabRefused (takePkt s n p)) (pSrc p) (pVc p) (32 * pLen p)) p 4 1 [])) ∧
  (∀ (n i : Nat) (p : Packet) (s s1 : State) (r : MemRes), headOf s n 2 = some p → 32 ≤ pXw p → pXw p ≤ 256 → pAddr p % 32 = 0 → rwinFor s (pSrc p) (pAddr p) (pXw p) false = some i → scrWaits s (rwinFn s i) (pAddr p) (pXw p) = false →
    memRead (takePkt s n p) (rwinFn s i) true (pAddr p) (pXw p) .none = (s1, r) →
    (∀ bs, r = .ok bs → exec (.rd n) s = .next (respond s1 p 3 0 bs)) ∧ (r = .outside → exec (.rd n) s = .next (respond (fabRefused s1) p 3 1 [])) ∧
    ((∀ bs, r ≠ .ok bs) → r ≠ .outside → exec (.rd n) s = .next (respond (bump s1 0xB078) p 3 2 []))) ∧
  (∀ (n : Nat) (p : Packet) (s : State), headOf s n 2 = some p → (pXw p < 32 ∨ 256 < pXw p ∨ pAddr p % 32 ≠ 0 ∨ rwinFor s (pSrc p) (pAddr p) (pXw p) false = none) → exec (.rd n) s = .next (respond (fabRefused (takePkt s n p)) p 3 1 [])) ∧
  (∀ (i : Instr) (n ty : Nat) (p : Packet) (h : BitVec 128) (s : State), (i, ty) ∈ [(Instr.rdrsp n, 3), (.wrrsp n, 4)] → headOf s n ty = some p → (spFind s.fab.reqs (pTag p) = some h ∨ (ty = 4 ∧ pStat p = 1)) → ∃ t, exec i s = .next t ∧
    t.fab.reqs = spDel s.fab.reqs (pTag p) ∧ t.out = .fabDone (pTag p) (pStat p) (if pStat p = 0 then p.payload else []) :: s.out ∧ (getE t n).rxq = removePkt p (getE s n).rxq ∧
    t.deal = { s.deal with reports := s.deal.reports ++ (if pStat p = 1 then [{ code := repFabRefused, blk := .fab, inst := 0, elem := pTag p }] else []) } ∧ t = { s with fab := t.fab, out := t.out, deal := t.deal }) ∧
  (∀ (i : Instr) (n ty : Nat) (p : Packet) (s : State), (i, ty) ∈ [(Instr.rdrsp n, 3), (.wrrsp n, 4)] → headOf s n ty = some p → spFind s.fab.reqs (pTag p) = none → (ty = 3 ∨ pStat p ≠ 1) → exec i s = .next (takePkt s n p)) ∧
  (∀ (tag : Nat) (h : BitVec 128) (s : State), spFind s.fab.reqs tag = some h → (s.time < spGet 0 s.fab.reqAt tag + rdN s 0xB04C → exec (.fabTimeout tag) s = .next s) ∧ (spGet 0 s.fab.reqAt tag + rdN s 0xB04C ≤ s.time → ∃ t, exec (.fabTimeout tag) s = .next t ∧ t.fab = { s.fab with reqs := spDel s.fab.reqs tag } ∧ t.out = .fabDone tag 3 [] :: s.out ∧ (rdN s 0xB074 < 0xFFFFFFFF → rdN t 0xB074 = rdN s 0xB074 + 1))) ∧
  (∀ (n : Nat) (p : Packet) (s : State), headOf s n 5 = some p → ∃ t, exec (.notify n) s = .next t ∧
    t.fab.held = s.fab.held ++ [{ src := pSrc p, vc := pVc p, bytes := pXw p, sem := pF p 57 48, die := pF p 58 58, n := pF p 79 64 }] ∧ (getE t n).rxq = removePkt p (getE s n).rxq ∧ t = { s with fab := t.fab }) ∧
  (∀ (src vc : Nat) (h : Notify) (s : State), s.fab.held.find? (fun x => x.src == src && x.vc == vc) = some h →
    (spGet 0 s.fab.bytes (4 * src + vc) < h.bytes → exec (.notifyPost src vc) s = .next s) ∧
    (h.bytes ≤ spGet 0 s.fab.bytes (4 * src + vc) → semVal s h.die h.sem + h.n ≤ 65535 → ∃ t, exec (.notifyPost src vc) s = .next t ∧ semVal t h.die h.sem = semVal s h.die h.sem + h.n ∧
      spGet 0 t.fab.bytes (4 * src + vc) = spGet 0 s.fab.bytes (4 * src + vc) - h.bytes ∧ t.fab.held = removeHeld h s.fab.held ∧ t = { s with fab := t.fab, sync := t.sync }) ∧
    (h.bytes ≤ spGet 0 s.fab.bytes (4 * src + vc) → 65535 < semVal s h.die h.sem + h.n → ∃ t, exec (.notifyPost src vc) s = .next t ∧ t.sync = s.sync ∧ t.fab.ovf = true ∧ (rdN s 0xB070 < 0xFFFFFFFF → rdN t 0xB070 = rdN s 0xB070 + 1)))

/-- The optical engines (R25, R294, R295, R296). An engine that is UP and loses its fibre or the far end's light goes to
TRAINING, its unacknowledged frames waiting to be resent before the later ones of their flows; one whose laser input is lost
is DARK, and trains again once it is restored. Training ends UP only where version, topology and far end are the expected
ones, and sets VER_ERR or TOPO_ERR otherwise; a timeout leaves the engine training. A lane's data moves to the free joker of
its direction, told to the far end by the end that began; with no joker left the engine is retired. -/
def Obligations.OpticalEngines : Prop :=
  (∀ (i : Instr) (n : Nat) (s : State), i ∈ [Instr.dataFibreDisconnect n, .farEndLightLost n] → n < 16 →
    (engUp s n = true → ∃ t, exec i s = .next t ∧ (getE t n).st = .training ∧ (getE t n).replay = [] ∧ t.fab.resend = s.fab.resend ++ (getE s n).replay.map (fun r => r.2) ∧ t.fab.outq = s.fab.outq ∧ (∀ m, m ≠ n → getE t m = getE s m) ∧ t = { s with fab := t.fab, deal := t.deal }) ∧
    (engUp s n = false → exec i s = .next s)) ∧
  (∀ (k : Nat) (s : State), k < 4 → ∃ t, exec (.laserInputLost k) s = .next t ∧ (∀ m, m / 4 = k → (getE t m).noLight = true ∧ (isOn s .opt m = true → (getE s m).st ≠ .retired → (getE t m).st = .dark)) ∧ (∀ m, m / 4 ≠ k → getE t m = getE s m) ∧
    t = { s with fab := t.fab, deal := t.deal }) ∧
  (∀ (n : Nat) (s : State), n < 16 → isOn s .opt n = true → (getE s n).st = .dark → engClkLost s n = false → ∃ t, exec (.laserInputRestored n) s = .next t ∧ (getE t n).noLight = false ∧ (getE t n).st = .training ∧ (∀ m, m ≠ n → getE t m = getE s m)) ∧
  (∀ (n ver topo ring pos : Nat) (s : State), n < 16 → isOn s .opt n = true → (getE s n).st = .training → engClkLost s n = false →
    (ver = 0x100 → topo = fabTopo s → ring = fabRing s → (2 ≤ fabN s → pos = neighbour s (portOf s n)) → ∃ t, exec (.trainingUp n ver topo ring pos) s = .next t ∧ getE t n = { getE s n with st := .up } ∧ (∀ m, m ≠ n → getE t m = getE s m) ∧ t.fab.verErr = s.fab.verErr ∧ t.fab.topoErr = s.fab.topoErr) ∧
    ((ver ≠ 0x100 ∨ topo ≠ fabTopo s ∨ ring ≠ fabRing s ∨ (2 ≤ fabN s ∧ pos ≠ neighbour s (portOf s n))) → ∃ t, exec (.trainingUp n ver topo ring pos) s = .next t ∧ t.fab.eng = s.fab.eng ∧ (ver ≠ 0x100 → t.fab.verErr = true) ∧
      ((topo ≠ fabTopo s ∨ ring ≠ fabRing s ∨ (2 ≤ fabN s ∧ pos ≠ neighbour s (portOf s n))) → t.fab.topoErr = true) ∧ t = { s with fab := t.fab })) ∧
  (∀ (n : Nat) (s : State), ∃ t, exec (.trainingTimeout n) s = .next t ∧ (∀ m, getE t m = getE s m) ∧ t = { s with fab := t.fab }) ∧
  (∀ (i : Instr) (n lane : Nat) (tx far : Bool) (s : State), (i, far) ∈ [(Instr.laneSwap n tx lane, false), (.laneRetire n tx lane, true)] → n < 16 → lane < 9 → isOn s .opt n = true → laneRetired s n tx lane = false →
    (jokerFree s n tx = true → ∃ t, exec i s = .next t ∧ (∀ m, getE t m = getE s m) ∧ (tx = true → fld (rdN t (optPg n + 0x44)) 3 0 = 15 ∧ fld (rdN t (optPg n + 0x44)) 11 8 = lane ∧ bitN (rdN t (optPg n + 0x44)) 16 = true) ∧
      (tx = false → fld (rdN t (optPg n + 0x44)) 7 4 = 15 ∧ fld (rdN t (optPg n + 0x44)) 15 12 = lane ∧ bitN (rdN t (optPg n + 0x44)) 17 = true) ∧ (far = true → Out.laneSwap n tx lane ∈ t.out)) ∧
    (jokerFree s n tx = false → ∃ t, exec i s = .next t ∧ blkState t .opt n = .retired ∧ (getE t n).st = .retired ∧ (∀ m, m ≠ n → getE t m = getE s m)))

/-- Channel migration (R384 to R388, Tables 15-4 and 15-5). A request on a stack that is ON begins on a usable joker when none
runs, waits when one runs, and retires the stack when no joker is usable or a request waits already. It starts once no unit
of the old channel runs, then sets MIRROR and MTGT. When the copy is done the joker holds the old channel's bytes and REMAP
names it, and the old channel's retraining makes it a joker again, or retires it; the migration is over. A joker retrained
in place stays one, or is retired. -/
def Obligations.ChannelMigration : Prop :=
  (∀ (mid : Nat) (v : W32) (k n : Nat) (s : State), pgReach s mid .ras = .yes → bit v 8 = true → k = v.toNat % 8 → n = fld v.toNat 7 3 → isOn s .stk k = true →
    (∀ j js, spFind s.wear.mig k = none → usableJokers s k = j :: js → exec (.migCmd mid v) s = .next (migBegin s k n j)) ∧
    (∀ m j js, spFind s.wear.mig k = some m → usableJokers s k = j :: js → spFind s.wear.migQueue k = none → exec (.migCmd mid v) s = .next { s with wear := { s.wear with migQueue := spSet s.wear.migQueue k n } }) ∧
    (∀ m n2, spFind s.wear.mig k = some m → spFind s.wear.migQueue k = some n2 → exec (.migCmd mid v) s = .next (retireStack s k)) ∧
    (usableJokers s k = [] → exec (.migCmd mid v) s = .next (retireStack s k))) ∧
  (∀ (mid : Nat) (v : W32) (s : State), pgReach s mid .ras = .yes → (bit v 8 = false ∨ isOn s .stk (v.toNat % 8) = false) → exec (.migCmd mid v) s = .next s) ∧
  (∀ (k : Nat) (m : Mig) (s : State), spFind s.wear.mig k = some m → m.step = 1 →
    (chanRunning s k m.old = true → exec (.migrationStart k) s = .next s) ∧
    (chanRunning s k m.old = false → ∃ t, exec (.migrationStart k) s = .next t ∧ rdReg t (pageOf .stk k + 0x80 + 4 * m.ch) = w32 (m.old + 64 + 128 * m.joker) ∧ spFind t.wear.mig k = some { m with step := 3 } ∧
      (∀ a, a ≠ pageOf .stk k + 0x80 + 4 * m.ch → rdReg t a = rdReg s a) ∧ t = { s with regs := t.regs, wear := t.wear })) ∧
  (∀ (k : Nat) (m : Mig) (s : State), spFind s.wear.mig k = some m → m.step = 3 → m.ch < 32 → m.joker < 34 → Memory.wf s → ∃ t, exec (.migrationCopyDone k) s = .next t ∧
    (∀ i, i < 2 ^ 31 → spGet 0 t.mem.dram (place k m.joker 0 i) = spGet 0 s.mem.dram (place k m.old 0 i)) ∧
    (∀ a, (a < place k m.joker 0 0 ∨ place k m.joker 0 0 + 2 ^ 31 ≤ a) → spGet 0 t.mem.dram a = spGet 0 s.mem.dram a) ∧ remap t k m.ch = m.joker ∧ spFind t.wear.mig k = some { m with step := 6 } ∧ t.mem.lpd = s.mem.lpd ∧ t.mem.scratch = s.mem.scratch) ∧
  (∀ (k timing voltage : Nat) (m : Mig) (s : State), spFind s.wear.mig k = some m → m.step = 6 → spFind s.wear.migQueue k = none → ∃ t, exec (.retrainDone k timing voltage) s = .next t ∧ spFind t.wear.mig k = none ∧
    ((timing % 256 < rdN s 0x407C % 256 ∨ voltage % 256 < fld (rdN s 0x407C) 23 16) → 34 * k + m.old ∈ t.wear.chRetired) ∧
    (rdN s 0x407C % 256 ≤ timing % 256 → fld (rdN s 0x407C) 23 16 ≤ voltage % 256 → t.wear.chRetired = s.wear.chRetired ∧ ∃ j r, j < 8 ∧ spFind t.wear.train ((34 * k + m.old) * 8 + j) = some r ∧ r.valid = true ∧ r.timing = timing % 256 ∧ r.voltage = voltage % 256)) ∧
  (∀ (k timing voltage : Nat) (s : State), spFind s.wear.mig k = none → s.wear.retrain = [] → exec (.retrainDone k timing voltage) s = .next s) ∧
  (∀ (k timing voltage c : Nat) (s : State), spFind s.wear.mig k = none → s.wear.retrain.find? (fun c => c / 34 == k) = some c → ∃ t, exec (.retrainDone k timing voltage) s = .next t ∧ t.wear.retrain = s.wear.retrain.filter (fun x => x != c) ∧ t.wear.mig = s.wear.mig ∧
    ((timing % 256 < rdN s 0x407C % 256 ∨ voltage % 256 < fld (rdN s 0x407C) 23 16) → t.wear.chRetired = s.wear.chRetired ++ [34 * k + c % 34]) ∧
    (rdN s 0x407C % 256 ≤ timing % 256 → fld (rdN s 0x407C) 23 16 ≤ voltage % 256 → t.wear.chRetired = s.wear.chRetired))

/-- Margin probes and the RAS FIFO's head (R392, R402). A probe writes what it read, keeps the lowest of each since the last
clear, and counts; below a limit the channel's training record in use is no longer valid. RAS_POP drops the head record of
the FIFO. -/
def Obligations.MarginsAndRecords : Prop :=
  (∀ (k ch timing voltage : Nat) (s : State) (pg : Nat), k < 8 → ch < 34 → isOn s .stk k = true → 34 * k + ch ∉ s.wear.retrain → 34 * k + ch ∉ s.wear.chRetired → pg = pageOf .ch (34 * k + ch) → ∃ t, exec (.marginProbe k ch timing voltage []) s = .next t ∧
    rdReg t (pg + 0x108) = w32 (timing % 256 + 65536 * (voltage % 256)) ∧ rdN t (pg + 0x10C) = min (timing % 256) (fld (rdN s (pg + 0x10C)) 7 0) + 65536 * min (voltage % 256) (fld (rdN s (pg + 0x10C)) 23 16) ∧
    (rdN s (pg + 0x110) < 0xFFFFFFFF → rdN t (pg + 0x110) = rdN s (pg + 0x110) + 1) ∧
    (∀ i r, spFind s.wear.trainUse (34 * k + ch) = some i → trainAt s (34 * k + ch) i = some r → timing % 256 < rdN s 0x407C % 256 → ∃ y, trainAt t (34 * k + ch) i = some y ∧ y.valid = false)) ∧
  (∀ (mid : Nat) (v : W32) (s : State), pgReach s mid .ras = .yes → exec (.rasPop mid v) s = .next (if bit v 0 then { s with ras := { s.ras with fifo := s.ras.fifo.drop 1 } } else s))

/-- R394. The RAS block holds the last 1,024 records in a FIFO; when it is full the oldest is dropped and RAS_LOST counted. Each
record sets bit 0 of the RAS page's BLK_ISR, one of SEV 2 or more is also journalled (held while NOT_DURABLE is set, and
subject to the queue's overflow when it is full), and one of SEV 3 or more is also reported over MCTP, with ALERT_N
asserted. -/
def Obligations.RasFifo : Prop :=
  ∀ (kd sev i elem a : Nat) (b : Blk) (s t : State) (r : RasRec), r = { seqno := s.ras.seqno, kind := kd, sev := sev, btype := blkType b, inst := i, elem := elem, trick := s.deal.trick % 2 ^ 32, addr := a, time := s.time } → t = rasPut s kd sev b i elem a →
    (s.ras.fifo.length < 1024 → t.ras.fifo = s.ras.fifo ++ [r]) ∧ (s.ras.fifo.length = 1024 → t.ras.fifo = s.ras.fifo.drop 1 ++ [r] ∧ (rdN s 0x4070 < 0xFFFFFFFF → rdN t 0x4070 = rdN s 0x4070 + 1)) ∧
    (s.ras.fifo.length ≤ 1024 → t.ras.fifo.length ≤ 1024) ∧ bit (rdReg t 0x4014) 0 = true ∧
    (2 ≤ sev → s.jrn.notDurable = false → s.jrn.queue.length < 256 → t.jrn.queue = s.jrn.queue ++ [⟨0x0C, 0, rasBytes r⟩]) ∧ (2 ≤ sev → s.jrn.notDurable = true → t.jrn.lost = s.jrn.lost ++ [⟨0x0C, 0, rasBytes r⟩]) ∧ (sev < 2 → t.jrn = s.jrn) ∧
    (3 ≤ sev → t.edge.events = s.edge.events ++ [.ras kd sev] ∧ (hubPowered s = true → alertN t = true)) ∧ (sev < 3 → t.edge = s.edge)

/-- The journal (R395, R397, R399, R401). While JRN is ON, boot has passed CFG_READY and the journal is durable, the front
record is programmed at the fill under the next RSEQ, its bits only cleared, and the journal grows by its length; a failed
program leaves the record queued, to be tried at the next 4 KiB boundary after a RESUME record. A compaction begins when
commanded; at its commit the journal goes on in the other segment, and the old one's erase begins; its end leaves it erased. -/
def Obligations.JournalCourse : Prop :=
  (∀ (r : JRec) (rest : List JRec) (s : State), isOn s .jrn 0 = true → s.boot.cfgReady = true → s.boot.recovery = false → s.jrn.notDurable = false → s.jrn.queue = r :: rest → s.jrn.resume = false → r.type ≠ 0x0B →
    s.jrn.fill + (jrnEnc ((s.jrn.rseq + 1) % 2 ^ 32) r).length < 0xC00000 → s.jrn.due = false → s.jrn.resync = false →
    exec (.journalProgram true) s = .next { s with
      flash := fProg s.flash (segBase s.jrn.seg + s.jrn.fill) (jrnEnc ((s.jrn.rseq + 1) % 2 ^ 32) r)
      jrn := { s.jrn with queue := rest, fill := s.jrn.fill + (jrnEnc ((s.jrn.rseq + 1) % 2 ^ 32) r).length, rseq := (s.jrn.rseq + 1) % 2 ^ 32 } }) ∧
  (∀ (a : Nat) (bs : List Byte) (m : Sparse Byte), spWf 0xFF m = true → (∀ j, j < bs.length → spGet 0xFF (fProg m a bs) (a + j) = spGet 0xFF m (a + j) &&& bs.getD j 0) ∧ (∀ i, (i < a ∨ a + bs.length ≤ i) → spGet 0xFF (fProg m a bs) i = spGet 0xFF m i)) ∧
  (∀ (r : JRec) (rest : List JRec) (s : State), isOn s .jrn 0 = true → s.boot.cfgReady = true → s.boot.recovery = false → s.jrn.notDurable = false → s.jrn.queue = r :: rest → s.jrn.resume = false → fld (rdN s 0x502C) 23 0 = 0 → ∃ t, exec (.journalProgram false) s = .next t ∧
    t.jrn = { s.jrn with resume := true, fill := (s.jrn.fill / 4096 + 1) * 4096 } ∧ (rdN s 0x5060 < 0xFFFFFFFF → rdN t 0x5060 = rdN s 0x5060 + 1)) ∧
  (∀ (s : State) (ok : Bool), (isOn s .jrn 0 = false ∨ s.boot.cfgReady = false ∨ s.boot.recovery = true ∨ s.jrn.notDurable = true ∨ s.jrn.queue = []) → exec (.journalProgram ok) s = .next s) ∧
  (∀ (mid : Nat) (v : W32) (s : State), pgReach s mid .jrn = .yes → isOn s .jrn 0 = true → bit v 0 = true → s.jrn.compaction = none → s.jrn.notDurable = false →
    (s.jrn.erasing = false → s.jrn.eraseFailed = false → ∃ t c, exec (.jrnCompact mid v) s = .next t ∧ t.jrn.compaction = some c ∧ c.seg = 1 - s.jrn.seg ∧ c.oldFrom = s.jrn.fill ∧ t.jrn.seg = s.jrn.seg ∧ t = { s with flash := t.flash, jrn := t.jrn }) ∧
    (s.jrn.erasing = true → exec (.jrnCompact mid v) s = .next { s with jrn := { s.jrn with due := true } })) ∧
  (∀ (c : Compaction) (s : State), s.jrn.compaction = some c → ∃ t, exec .compactionCommit s = .next t ∧ t.jrn.seg = c.seg ∧ t.jrn.segseq = s.jrn.segseq + 1 ∧ t.jrn.compaction = none ∧ t.jrn.erasing = true ∧ t.jrn.queue = s.jrn.queue ∧ t.jrn.rseq = s.jrn.rseq ∧
    (rdN s 0x505C < 0xFFFFFFFF → rdN t 0x505C = rdN s 0x505C + 1)) ∧
  (∀ s : State, s.jrn.erasing = true → s.jrn.fill < 0xC00000 → s.jrn.due = false → s.jrn.resync = false → ∃ t, exec (.segmentEraseDone true) s = .next t ∧ t.jrn.erasing = false ∧
    (∀ a, segBase (1 - s.jrn.seg) ≤ a → a < segBase (1 - s.jrn.seg) + segBytes → spGet 0xFF t.flash a = 0xFF) ∧
    (Memory.wf s → ∀ a, (a < segBase (1 - s.jrn.seg) ∨ segBase (1 - s.jrn.seg) + segBytes ≤ a) → spGet 0xFF t.flash a = spGet 0xFF s.flash a) ∧ t = { s with flash := t.flash, jrn := t.jrn })
end

