-- ==== Sys2Proof/Laws/Bytes.lean ====
section
/-!
SUPPORT. The canonical form of a table: every operation on the byte memories keeps it.
-/
namespace Sys2Proof.Machine

variable {α : Type} [DecidableEq α]

/-- An empty table is in canonical form. -/
theorem spWf_nil {d : α} : spWf d [] = true := rfl

theorem spWfFrom_mono {d : α} : ∀ {m : Sparse α} {a b : Nat}, a ≤ b → spWfFrom d b m = true → spWfFrom d a m = true
  | [], _, _, _, _ => rfl
  | (i, v) :: t, a, b, h, w => by
    simp only [spWfFrom, Bool.and_eq_true, decide_eq_true_eq] at *
    exact ⟨⟨by omega, w.1.2⟩, w.2⟩

theorem spSet_wfFrom {d v : α} (hv : v ≠ d) : ∀ {m : Sparse α} {lo k : Nat}, lo ≤ k → spWfFrom d lo m = true →
    spWfFrom d lo (spSet m k v) = true
  | [], lo, k, h, _ => by simp [spSet, spWfFrom, h, hv]
  | (i, w) :: t, lo, k, h, hw => by
    simp only [spWfFrom, Bool.and_eq_true, decide_eq_true_eq] at hw
    unfold spSet
    split
    · simp only [spWfFrom, Bool.and_eq_true, decide_eq_true_eq]
      exact ⟨⟨h, hv⟩, ⟨by omega, hw.1.2⟩, hw.2⟩
    · split
      · subst_vars
        simp only [spWfFrom, Bool.and_eq_true, decide_eq_true_eq]
        exact ⟨⟨h, hv⟩, hw.2⟩
      · simp only [spWfFrom, Bool.and_eq_true, decide_eq_true_eq]
        exact ⟨⟨hw.1.1, hw.1.2⟩, spSet_wfFrom hv (by omega) hw.2⟩

theorem filter_wfFrom {d : α} (p : Nat × α → Bool) : ∀ {m : Sparse α} {lo : Nat}, spWfFrom d lo m = true →
    spWfFrom d lo (m.filter p) = true
  | [], _, _ => rfl
  | (i, w) :: t, lo, hw => by
    simp only [spWfFrom, Bool.and_eq_true, decide_eq_true_eq] at hw
    rw [List.filter_cons]
    split
    · simp only [spWfFrom, Bool.and_eq_true, decide_eq_true_eq]
      exact ⟨hw.1, filter_wfFrom p hw.2⟩
    · exact spWfFrom_mono (by omega) (filter_wfFrom p hw.2)

theorem spDel_wfFrom {d : α} {m : Sparse α} {lo k : Nat} (h : spWfFrom d lo m = true) : spWfFrom d lo (spDel m k) = true := filter_wfFrom _ h

/-- A write keeps the canonical form. -/
theorem spPut_wf {d v : α} {m : Sparse α} {k : Nat} (h : spWf d m = true) : spWf d (spPut d m k v) = true := by
  unfold spPut
  split
  · exact spDel_wfFrom h
  · exact spSet_wfFrom (by assumption) (Nat.zero_le k) h

/-- Forgetting entries keeps the canonical form. -/
theorem filter_wf {d : α} {m : Sparse α} (p : Nat × α → Bool) (h : spWf d m = true) : spWf d (m.filter p) = true := filter_wfFrom p h

theorem wrBytes_wf : ∀ {bs : List Byte} {m : Sparse Byte} {p : Nat}, spWf 0 m = true → spWf 0 (wrBytes m p bs) = true
  | [], _, _, h => h
  | _ :: bs, _, _, h => wrBytes_wf (bs := bs) (spPut_wf h)

theorem zeroBytes_wf {m : Sparse Byte} {lo hi : Nat} (h : spWf 0 m = true) : spWf 0 (zeroBytes m lo hi) = true := filter_wf _ h

theorem foldl_wf {β : Type} {d : α} {f : Sparse α → β → Sparse α} (hf : ∀ m b, spWf d m = true → spWf d (f m b) = true) :
    ∀ {l : List β} {m : Sparse α}, spWf d m = true → spWf d (l.foldl f m) = true
  | [], _, h => h
  | b :: l, m, h => foldl_wf (l := l) hf (hf m b h)

theorem copyBytes_wf {m : Sparse Byte} {lo hi dst : Nat} (h : spWf 0 m = true) : spWf 0 (copyBytes m lo hi dst) = true :=
  foldl_wf (fun _ _ h => spPut_wf h) (zeroBytes_wf h)

theorem fProg_wf : ∀ {bs : List Byte} {m : Sparse Byte} {a : Nat}, spWf 0xFF m = true → spWf 0xFF (fProg m a bs) = true
  | [], _, _, h => h
  | _ :: bs, _, _, h => fProg_wf (bs := bs) (spPut_wf h)

theorem fErase_wf {m : Sparse Byte} {lo hi : Nat} (h : spWf 0xFF m = true) : spWf 0xFF (fErase m lo hi) = true := filter_wf _ h

/-! ### Read after write -/

theorem spGet_above {d : α} : ∀ {m : Sparse α} {lo k : Nat}, k < lo → spWfFrom d lo m = true → spGet d m k = d
  | [], _, _, _, _ => rfl
  | (i, w) :: t, lo, k, h, hw => by
    simp only [spWfFrom, Bool.and_eq_true, decide_eq_true_eq] at hw
    have : i ≠ k := by omega
    simp only [spGet, if_neg this]
    exact spGet_above (lo := i + 1) (by omega) hw.2

omit [DecidableEq α]

/-- What was set is read. -/
theorem spGet_spSet_self {d v : α} : ∀ (m : Sparse α) (k : Nat), spGet d (spSet m k v) k = v
  | [], k => by simp [spSet, spGet]
  | (i, w) :: t, k => by
    unfold spSet
    split
    · simp [spGet]
    · split
      · simp [spGet]
      · have : ¬ i = k := by omega
        simp only [spGet, if_false, *]
        exact spGet_spSet_self t k

/-- A set leaves every other index alone. -/
theorem spGet_spSet_ne {d v : α} : ∀ (m : Sparse α) {k j : Nat}, j ≠ k → spGet d (spSet m k v) j = spGet d m j
  | [], k, j, h => by
    have : ¬ k = j := fun e => h e.symm
    simp [spSet, spGet, this]
  | (i, w) :: t, k, j, h => by
    have hk : ¬ k = j := fun e => h e.symm
    unfold spSet
    split
    · simp only [spGet, hk, if_false]
    · split
      · subst_vars
        simp [spGet, hk]
      · simp only [spGet]
        rw [spGet_spSet_ne t h]

theorem spFind_spSet_self {v : α} : ∀ (m : Sparse α) (k : Nat), spFind (spSet m k v) k = some v
  | [], k => by simp [spSet, spFind]
  | (i, w) :: t, k => by
    unfold spSet
    split
    · simp [spFind]
    · split
      · simp [spFind]
      · have : ¬ i = k := by omega
        simp only [spFind, if_false, *]
        exact spFind_spSet_self t k

theorem spFind_spSet_ne {v : α} : ∀ (m : Sparse α) {k j : Nat}, j ≠ k → spFind (spSet m k v) j = spFind m j
  | [], k, j, h => by
    have : ¬ k = j := fun e => h e.symm
    simp [spSet, spFind, this]
  | (i, w) :: t, k, j, h => by
    have hk : ¬ k = j := fun e => h e.symm
    unfold spSet
    split
    · simp only [spFind, hk, if_false]
    · split
      · subst_vars
        simp [spFind, hk]
      · simp only [spFind]
        rw [spFind_spSet_ne t h]

end Sys2Proof.Machine
end

