-- ==== Sys2Proof/Laws/State.lean ====
section
/-!
SUPPORT. What the shared updates of the state change: each of them leaves every other field of the state as it was, and what is set is what
is read. No proof has to unfold a record update.
-/
namespace Sys2Proof.Machine

variable (s : State)

/-! `wrReg` changes `regs` only. -/
@[simp] theorem wrReg_pending (a : Nat) (v : W32) : (wrReg s a v).pending = s.pending := rfl
@[simp] theorem wrReg_free (a : Nat) (v : W32) : (wrReg s a v).free = s.free := rfl
@[simp] theorem wrReg_out (a : Nat) (v : W32) : (wrReg s a v).out = s.out := rfl
@[simp] theorem wrReg_time (a : Nat) (v : W32) : (wrReg s a v).time = s.time := rfl
@[simp] theorem wrReg_edge (a : Nat) (v : W32) : (wrReg s a v).edge = s.edge := rfl
@[simp] theorem wrReg_fuses (a : Nat) (v : W32) : (wrReg s a v).fuses = s.fuses := rfl
@[simp] theorem wrReg_flash (a : Nat) (v : W32) : (wrReg s a v).flash = s.flash := rfl
@[simp] theorem wrReg_boot (a : Nat) (v : W32) : (wrReg s a v).boot = s.boot := rfl
@[simp] theorem wrReg_sec (a : Nat) (v : W32) : (wrReg s a v).sec = s.sec := rfl
@[simp] theorem wrReg_tap (a : Nat) (v : W32) : (wrReg s a v).tap = s.tap := rfl
@[simp] theorem wrReg_blk (a : Nat) (v : W32) : (wrReg s a v).blk = s.blk := rfl
@[simp] theorem wrReg_clk (a : Nat) (v : W32) : (wrReg s a v).clk = s.clk := rfl
@[simp] theorem wrReg_thr (a : Nat) (v : W32) : (wrReg s a v).thr = s.thr := rfl
@[simp] theorem wrReg_ras (a : Nat) (v : W32) : (wrReg s a v).ras = s.ras := rfl
@[simp] theorem wrReg_jrn (a : Nat) (v : W32) : (wrReg s a v).jrn = s.jrn := rfl
@[simp] theorem wrReg_wear (a : Nat) (v : W32) : (wrReg s a v).wear = s.wear := rfl
@[simp] theorem wrReg_host (a : Nat) (v : W32) : (wrReg s a v).host = s.host := rfl
@[simp] theorem wrReg_mbx (a : Nat) (v : W32) : (wrReg s a v).mbx = s.mbx := rfl
@[simp] theorem wrReg_clu (a : Nat) (v : W32) : (wrReg s a v).clu = s.clu := rfl
@[simp] theorem wrReg_sync (a : Nat) (v : W32) : (wrReg s a v).sync = s.sync := rfl
@[simp] theorem wrReg_mem (a : Nat) (v : W32) : (wrReg s a v).mem = s.mem := rfl
@[simp] theorem wrReg_nbu (a : Nat) (v : W32) : (wrReg s a v).nbu = s.nbu := rfl
@[simp] theorem wrReg_bus (a : Nat) (v : W32) : (wrReg s a v).bus = s.bus := rfl
@[simp] theorem wrReg_fab (a : Nat) (v : W32) : (wrReg s a v).fab = s.fab := rfl
@[simp] theorem wrReg_deal (a : Nat) (v : W32) : (wrReg s a v).deal = s.deal := rfl
@[simp] theorem wrReg_kv (a : Nat) (v : W32) : (wrReg s a v).kv = s.kv := rfl

/-! `wrFld` changes `regs` only. -/
@[simp] theorem wrFld_pending (a h l v : Nat) : (wrFld s a h l v).pending = s.pending := rfl
@[simp] theorem wrFld_free (a h l v : Nat) : (wrFld s a h l v).free = s.free := rfl
@[simp] theorem wrFld_out (a h l v : Nat) : (wrFld s a h l v).out = s.out := rfl
@[simp] theorem wrFld_time (a h l v : Nat) : (wrFld s a h l v).time = s.time := rfl
@[simp] theorem wrFld_edge (a h l v : Nat) : (wrFld s a h l v).edge = s.edge := rfl
@[simp] theorem wrFld_fuses (a h l v : Nat) : (wrFld s a h l v).fuses = s.fuses := rfl
@[simp] theorem wrFld_flash (a h l v : Nat) : (wrFld s a h l v).flash = s.flash := rfl
@[simp] theorem wrFld_boot (a h l v : Nat) : (wrFld s a h l v).boot = s.boot := rfl
@[simp] theorem wrFld_sec (a h l v : Nat) : (wrFld s a h l v).sec = s.sec := rfl
@[simp] theorem wrFld_tap (a h l v : Nat) : (wrFld s a h l v).tap = s.tap := rfl
@[simp] theorem wrFld_blk (a h l v : Nat) : (wrFld s a h l v).blk = s.blk := rfl
@[simp] theorem wrFld_clk (a h l v : Nat) : (wrFld s a h l v).clk = s.clk := rfl
@[simp] theorem wrFld_thr (a h l v : Nat) : (wrFld s a h l v).thr = s.thr := rfl
@[simp] theorem wrFld_ras (a h l v : Nat) : (wrFld s a h l v).ras = s.ras := rfl
@[simp] theorem wrFld_jrn (a h l v : Nat) : (wrFld s a h l v).jrn = s.jrn := rfl
@[simp] theorem wrFld_wear (a h l v : Nat) : (wrFld s a h l v).wear = s.wear := rfl
@[simp] theorem wrFld_host (a h l v : Nat) : (wrFld s a h l v).host = s.host := rfl
@[simp] theorem wrFld_mbx (a h l v : Nat) : (wrFld s a h l v).mbx = s.mbx := rfl
@[simp] theorem wrFld_clu (a h l v : Nat) : (wrFld s a h l v).clu = s.clu := rfl
@[simp] theorem wrFld_sync (a h l v : Nat) : (wrFld s a h l v).sync = s.sync := rfl
@[simp] theorem wrFld_mem (a h l v : Nat) : (wrFld s a h l v).mem = s.mem := rfl
@[simp] theorem wrFld_nbu (a h l v : Nat) : (wrFld s a h l v).nbu = s.nbu := rfl
@[simp] theorem wrFld_bus (a h l v : Nat) : (wrFld s a h l v).bus = s.bus := rfl
@[simp] theorem wrFld_fab (a h l v : Nat) : (wrFld s a h l v).fab = s.fab := rfl
@[simp] theorem wrFld_deal (a h l v : Nat) : (wrFld s a h l v).deal = s.deal := rfl
@[simp] theorem wrFld_kv (a h l v : Nat) : (wrFld s a h l v).kv = s.kv := rfl

/-! `wrBit` changes `regs` only. -/
@[simp] theorem wrBit_pending (a i : Nat) (b : Bool) : (wrBit s a i b).pending = s.pending := rfl
@[simp] theorem wrBit_free (a i : Nat) (b : Bool) : (wrBit s a i b).free = s.free := rfl
@[simp] theorem wrBit_out (a i : Nat) (b : Bool) : (wrBit s a i b).out = s.out := rfl
@[simp] theorem wrBit_time (a i : Nat) (b : Bool) : (wrBit s a i b).time = s.time := rfl
@[simp] theorem wrBit_edge (a i : Nat) (b : Bool) : (wrBit s a i b).edge = s.edge := rfl
@[simp] theorem wrBit_fuses (a i : Nat) (b : Bool) : (wrBit s a i b).fuses = s.fuses := rfl
@[simp] theorem wrBit_flash (a i : Nat) (b : Bool) : (wrBit s a i b).flash = s.flash := rfl
@[simp] theorem wrBit_boot (a i : Nat) (b : Bool) : (wrBit s a i b).boot = s.boot := rfl
@[simp] theorem wrBit_sec (a i : Nat) (b : Bool) : (wrBit s a i b).sec = s.sec := rfl
@[simp] theorem wrBit_tap (a i : Nat) (b : Bool) : (wrBit s a i b).tap = s.tap := rfl
@[simp] theorem wrBit_blk (a i : Nat) (b : Bool) : (wrBit s a i b).blk = s.blk := rfl
@[simp] theorem wrBit_clk (a i : Nat) (b : Bool) : (wrBit s a i b).clk = s.clk := rfl
@[simp] theorem wrBit_thr (a i : Nat) (b : Bool) : (wrBit s a i b).thr = s.thr := rfl
@[simp] theorem wrBit_ras (a i : Nat) (b : Bool) : (wrBit s a i b).ras = s.ras := rfl
@[simp] theorem wrBit_jrn (a i : Nat) (b : Bool) : (wrBit s a i b).jrn = s.jrn := rfl
@[simp] theorem wrBit_wear (a i : Nat) (b : Bool) : (wrBit s a i b).wear = s.wear := rfl
@[simp] theorem wrBit_host (a i : Nat) (b : Bool) : (wrBit s a i b).host = s.host := rfl
@[simp] theorem wrBit_mbx (a i : Nat) (b : Bool) : (wrBit s a i b).mbx = s.mbx := rfl
@[simp] theorem wrBit_clu (a i : Nat) (b : Bool) : (wrBit s a i b).clu = s.clu := rfl
@[simp] theorem wrBit_sync (a i : Nat) (b : Bool) : (wrBit s a i b).sync = s.sync := rfl
@[simp] theorem wrBit_mem (a i : Nat) (b : Bool) : (wrBit s a i b).mem = s.mem := rfl
@[simp] theorem wrBit_nbu (a i : Nat) (b : Bool) : (wrBit s a i b).nbu = s.nbu := rfl
@[simp] theorem wrBit_bus (a i : Nat) (b : Bool) : (wrBit s a i b).bus = s.bus := rfl
@[simp] theorem wrBit_fab (a i : Nat) (b : Bool) : (wrBit s a i b).fab = s.fab := rfl
@[simp] theorem wrBit_deal (a i : Nat) (b : Bool) : (wrBit s a i b).deal = s.deal := rfl
@[simp] theorem wrBit_kv (a i : Nat) (b : Bool) : (wrBit s a i b).kv = s.kv := rfl

/-! `orReg` changes `regs` only. -/
@[simp] theorem orReg_pending (a : Nat) (m : W32) : (orReg s a m).pending = s.pending := rfl
@[simp] theorem orReg_free (a : Nat) (m : W32) : (orReg s a m).free = s.free := rfl
@[simp] theorem orReg_out (a : Nat) (m : W32) : (orReg s a m).out = s.out := rfl
@[simp] theorem orReg_time (a : Nat) (m : W32) : (orReg s a m).time = s.time := rfl
@[simp] theorem orReg_edge (a : Nat) (m : W32) : (orReg s a m).edge = s.edge := rfl
@[simp] theorem orReg_fuses (a : Nat) (m : W32) : (orReg s a m).fuses = s.fuses := rfl
@[simp] theorem orReg_flash (a : Nat) (m : W32) : (orReg s a m).flash = s.flash := rfl
@[simp] theorem orReg_boot (a : Nat) (m : W32) : (orReg s a m).boot = s.boot := rfl
@[simp] theorem orReg_sec (a : Nat) (m : W32) : (orReg s a m).sec = s.sec := rfl
@[simp] theorem orReg_tap (a : Nat) (m : W32) : (orReg s a m).tap = s.tap := rfl
@[simp] theorem orReg_blk (a : Nat) (m : W32) : (orReg s a m).blk = s.blk := rfl
@[simp] theorem orReg_clk (a : Nat) (m : W32) : (orReg s a m).clk = s.clk := rfl
@[simp] theorem orReg_thr (a : Nat) (m : W32) : (orReg s a m).thr = s.thr := rfl
@[simp] theorem orReg_ras (a : Nat) (m : W32) : (orReg s a m).ras = s.ras := rfl
@[simp] theorem orReg_jrn (a : Nat) (m : W32) : (orReg s a m).jrn = s.jrn := rfl
@[simp] theorem orReg_wear (a : Nat) (m : W32) : (orReg s a m).wear = s.wear := rfl
@[simp] theorem orReg_host (a : Nat) (m : W32) : (orReg s a m).host = s.host := rfl
@[simp] theorem orReg_mbx (a : Nat) (m : W32) : (orReg s a m).mbx = s.mbx := rfl
@[simp] theorem orReg_clu (a : Nat) (m : W32) : (orReg s a m).clu = s.clu := rfl
@[simp] theorem orReg_sync (a : Nat) (m : W32) : (orReg s a m).sync = s.sync := rfl
@[simp] theorem orReg_mem (a : Nat) (m : W32) : (orReg s a m).mem = s.mem := rfl
@[simp] theorem orReg_nbu (a : Nat) (m : W32) : (orReg s a m).nbu = s.nbu := rfl
@[simp] theorem orReg_bus (a : Nat) (m : W32) : (orReg s a m).bus = s.bus := rfl
@[simp] theorem orReg_fab (a : Nat) (m : W32) : (orReg s a m).fab = s.fab := rfl
@[simp] theorem orReg_deal (a : Nat) (m : W32) : (orReg s a m).deal = s.deal := rfl
@[simp] theorem orReg_kv (a : Nat) (m : W32) : (orReg s a m).kv = s.kv := rfl

/-! `wrSel` changes `regs` only. -/
@[simp] theorem wrSel_pending (a m : Nat) (v : W32) : (wrSel s a m v).pending = s.pending := rfl
@[simp] theorem wrSel_free (a m : Nat) (v : W32) : (wrSel s a m v).free = s.free := rfl
@[simp] theorem wrSel_out (a m : Nat) (v : W32) : (wrSel s a m v).out = s.out := rfl
@[simp] theorem wrSel_time (a m : Nat) (v : W32) : (wrSel s a m v).time = s.time := rfl
@[simp] theorem wrSel_edge (a m : Nat) (v : W32) : (wrSel s a m v).edge = s.edge := rfl
@[simp] theorem wrSel_fuses (a m : Nat) (v : W32) : (wrSel s a m v).fuses = s.fuses := rfl
@[simp] theorem wrSel_flash (a m : Nat) (v : W32) : (wrSel s a m v).flash = s.flash := rfl
@[simp] theorem wrSel_boot (a m : Nat) (v : W32) : (wrSel s a m v).boot = s.boot := rfl
@[simp] theorem wrSel_sec (a m : Nat) (v : W32) : (wrSel s a m v).sec = s.sec := rfl
@[simp] theorem wrSel_tap (a m : Nat) (v : W32) : (wrSel s a m v).tap = s.tap := rfl
@[simp] theorem wrSel_blk (a m : Nat) (v : W32) : (wrSel s a m v).blk = s.blk := rfl
@[simp] theorem wrSel_clk (a m : Nat) (v : W32) : (wrSel s a m v).clk = s.clk := rfl
@[simp] theorem wrSel_thr (a m : Nat) (v : W32) : (wrSel s a m v).thr = s.thr := rfl
@[simp] theorem wrSel_ras (a m : Nat) (v : W32) : (wrSel s a m v).ras = s.ras := rfl
@[simp] theorem wrSel_jrn (a m : Nat) (v : W32) : (wrSel s a m v).jrn = s.jrn := rfl
@[simp] theorem wrSel_wear (a m : Nat) (v : W32) : (wrSel s a m v).wear = s.wear := rfl
@[simp] theorem wrSel_host (a m : Nat) (v : W32) : (wrSel s a m v).host = s.host := rfl
@[simp] theorem wrSel_mbx (a m : Nat) (v : W32) : (wrSel s a m v).mbx = s.mbx := rfl
@[simp] theorem wrSel_clu (a m : Nat) (v : W32) : (wrSel s a m v).clu = s.clu := rfl
@[simp] theorem wrSel_sync (a m : Nat) (v : W32) : (wrSel s a m v).sync = s.sync := rfl
@[simp] theorem wrSel_mem (a m : Nat) (v : W32) : (wrSel s a m v).mem = s.mem := rfl
@[simp] theorem wrSel_nbu (a m : Nat) (v : W32) : (wrSel s a m v).nbu = s.nbu := rfl
@[simp] theorem wrSel_bus (a m : Nat) (v : W32) : (wrSel s a m v).bus = s.bus := rfl
@[simp] theorem wrSel_fab (a m : Nat) (v : W32) : (wrSel s a m v).fab = s.fab := rfl
@[simp] theorem wrSel_deal (a m : Nat) (v : W32) : (wrSel s a m v).deal = s.deal := rfl
@[simp] theorem wrSel_kv (a m : Nat) (v : W32) : (wrSel s a m v).kv = s.kv := rfl

/-! `wrPair` changes `regs` only. -/
@[simp] theorem wrPair_pending (a v : Nat) : (wrPair s a v).pending = s.pending := rfl
@[simp] theorem wrPair_free (a v : Nat) : (wrPair s a v).free = s.free := rfl
@[simp] theorem wrPair_out (a v : Nat) : (wrPair s a v).out = s.out := rfl
@[simp] theorem wrPair_time (a v : Nat) : (wrPair s a v).time = s.time := rfl
@[simp] theorem wrPair_edge (a v : Nat) : (wrPair s a v).edge = s.edge := rfl
@[simp] theorem wrPair_fuses (a v : Nat) : (wrPair s a v).fuses = s.fuses := rfl
@[simp] theorem wrPair_flash (a v : Nat) : (wrPair s a v).flash = s.flash := rfl
@[simp] theorem wrPair_boot (a v : Nat) : (wrPair s a v).boot = s.boot := rfl
@[simp] theorem wrPair_sec (a v : Nat) : (wrPair s a v).sec = s.sec := rfl
@[simp] theorem wrPair_tap (a v : Nat) : (wrPair s a v).tap = s.tap := rfl
@[simp] theorem wrPair_blk (a v : Nat) : (wrPair s a v).blk = s.blk := rfl
@[simp] theorem wrPair_clk (a v : Nat) : (wrPair s a v).clk = s.clk := rfl
@[simp] theorem wrPair_thr (a v : Nat) : (wrPair s a v).thr = s.thr := rfl
@[simp] theorem wrPair_ras (a v : Nat) : (wrPair s a v).ras = s.ras := rfl
@[simp] theorem wrPair_jrn (a v : Nat) : (wrPair s a v).jrn = s.jrn := rfl
@[simp] theorem wrPair_wear (a v : Nat) : (wrPair s a v).wear = s.wear := rfl
@[simp] theorem wrPair_host (a v : Nat) : (wrPair s a v).host = s.host := rfl
@[simp] theorem wrPair_mbx (a v : Nat) : (wrPair s a v).mbx = s.mbx := rfl
@[simp] theorem wrPair_clu (a v : Nat) : (wrPair s a v).clu = s.clu := rfl
@[simp] theorem wrPair_sync (a v : Nat) : (wrPair s a v).sync = s.sync := rfl
@[simp] theorem wrPair_mem (a v : Nat) : (wrPair s a v).mem = s.mem := rfl
@[simp] theorem wrPair_nbu (a v : Nat) : (wrPair s a v).nbu = s.nbu := rfl
@[simp] theorem wrPair_bus (a v : Nat) : (wrPair s a v).bus = s.bus := rfl
@[simp] theorem wrPair_fab (a v : Nat) : (wrPair s a v).fab = s.fab := rfl
@[simp] theorem wrPair_deal (a v : Nat) : (wrPair s a v).deal = s.deal := rfl
@[simp] theorem wrPair_kv (a v : Nat) : (wrPair s a v).kv = s.kv := rfl

/-! `useFree` changes `free` only. -/
@[simp] theorem useFree_pending : (useFree s).pending = s.pending := rfl
@[simp] theorem useFree_out : (useFree s).out = s.out := rfl
@[simp] theorem useFree_time : (useFree s).time = s.time := rfl
@[simp] theorem useFree_edge : (useFree s).edge = s.edge := rfl
@[simp] theorem useFree_fuses : (useFree s).fuses = s.fuses := rfl
@[simp] theorem useFree_flash : (useFree s).flash = s.flash := rfl
@[simp] theorem useFree_boot : (useFree s).boot = s.boot := rfl
@[simp] theorem useFree_sec : (useFree s).sec = s.sec := rfl
@[simp] theorem useFree_tap : (useFree s).tap = s.tap := rfl
@[simp] theorem useFree_regs : (useFree s).regs = s.regs := rfl
@[simp] theorem useFree_blk : (useFree s).blk = s.blk := rfl
@[simp] theorem useFree_clk : (useFree s).clk = s.clk := rfl
@[simp] theorem useFree_thr : (useFree s).thr = s.thr := rfl
@[simp] theorem useFree_ras : (useFree s).ras = s.ras := rfl
@[simp] theorem useFree_jrn : (useFree s).jrn = s.jrn := rfl
@[simp] theorem useFree_wear : (useFree s).wear = s.wear := rfl
@[simp] theorem useFree_host : (useFree s).host = s.host := rfl
@[simp] theorem useFree_mbx : (useFree s).mbx = s.mbx := rfl
@[simp] theorem useFree_clu : (useFree s).clu = s.clu := rfl
@[simp] theorem useFree_sync : (useFree s).sync = s.sync := rfl
@[simp] theorem useFree_mem : (useFree s).mem = s.mem := rfl
@[simp] theorem useFree_nbu : (useFree s).nbu = s.nbu := rfl
@[simp] theorem useFree_bus : (useFree s).bus = s.bus := rfl
@[simp] theorem useFree_fab : (useFree s).fab = s.fab := rfl
@[simp] theorem useFree_deal : (useFree s).deal = s.deal := rfl
@[simp] theorem useFree_kv : (useFree s).kv = s.kv := rfl

/-! `takeFree` changes `free` only. -/
@[simp] theorem takeFree_pending (n : Nat) : (takeFree s n).pending = s.pending := rfl
@[simp] theorem takeFree_out (n : Nat) : (takeFree s n).out = s.out := rfl
@[simp] theorem takeFree_time (n : Nat) : (takeFree s n).time = s.time := rfl
@[simp] theorem takeFree_edge (n : Nat) : (takeFree s n).edge = s.edge := rfl
@[simp] theorem takeFree_fuses (n : Nat) : (takeFree s n).fuses = s.fuses := rfl
@[simp] theorem takeFree_flash (n : Nat) : (takeFree s n).flash = s.flash := rfl
@[simp] theorem takeFree_boot (n : Nat) : (takeFree s n).boot = s.boot := rfl
@[simp] theorem takeFree_sec (n : Nat) : (takeFree s n).sec = s.sec := rfl
@[simp] theorem takeFree_tap (n : Nat) : (takeFree s n).tap = s.tap := rfl
@[simp] theorem takeFree_regs (n : Nat) : (takeFree s n).regs = s.regs := rfl
@[simp] theorem takeFree_blk (n : Nat) : (takeFree s n).blk = s.blk := rfl
@[simp] theorem takeFree_clk (n : Nat) : (takeFree s n).clk = s.clk := rfl
@[simp] theorem takeFree_thr (n : Nat) : (takeFree s n).thr = s.thr := rfl
@[simp] theorem takeFree_ras (n : Nat) : (takeFree s n).ras = s.ras := rfl
@[simp] theorem takeFree_jrn (n : Nat) : (takeFree s n).jrn = s.jrn := rfl
@[simp] theorem takeFree_wear (n : Nat) : (takeFree s n).wear = s.wear := rfl
@[simp] theorem takeFree_host (n : Nat) : (takeFree s n).host = s.host := rfl
@[simp] theorem takeFree_mbx (n : Nat) : (takeFree s n).mbx = s.mbx := rfl
@[simp] theorem takeFree_clu (n : Nat) : (takeFree s n).clu = s.clu := rfl
@[simp] theorem takeFree_sync (n : Nat) : (takeFree s n).sync = s.sync := rfl
@[simp] theorem takeFree_mem (n : Nat) : (takeFree s n).mem = s.mem := rfl
@[simp] theorem takeFree_nbu (n : Nat) : (takeFree s n).nbu = s.nbu := rfl
@[simp] theorem takeFree_bus (n : Nat) : (takeFree s n).bus = s.bus := rfl
@[simp] theorem takeFree_fab (n : Nat) : (takeFree s n).fab = s.fab := rfl
@[simp] theorem takeFree_deal (n : Nat) : (takeFree s n).deal = s.deal := rfl
@[simp] theorem takeFree_kv (n : Nat) : (takeFree s n).kv = s.kv := rfl

/-! `emit` changes `out` only. -/
@[simp] theorem emit_pending (o : Out) : (emit s o).pending = s.pending := rfl
@[simp] theorem emit_free (o : Out) : (emit s o).free = s.free := rfl
@[simp] theorem emit_time (o : Out) : (emit s o).time = s.time := rfl
@[simp] theorem emit_edge (o : Out) : (emit s o).edge = s.edge := rfl
@[simp] theorem emit_fuses (o : Out) : (emit s o).fuses = s.fuses := rfl
@[simp] theorem emit_flash (o : Out) : (emit s o).flash = s.flash := rfl
@[simp] theorem emit_boot (o : Out) : (emit s o).boot = s.boot := rfl
@[simp] theorem emit_sec (o : Out) : (emit s o).sec = s.sec := rfl
@[simp] theorem emit_tap (o : Out) : (emit s o).tap = s.tap := rfl
@[simp] theorem emit_regs (o : Out) : (emit s o).regs = s.regs := rfl
@[simp] theorem emit_blk (o : Out) : (emit s o).blk = s.blk := rfl
@[simp] theorem emit_clk (o : Out) : (emit s o).clk = s.clk := rfl
@[simp] theorem emit_thr (o : Out) : (emit s o).thr = s.thr := rfl
@[simp] theorem emit_ras (o : Out) : (emit s o).ras = s.ras := rfl
@[simp] theorem emit_jrn (o : Out) : (emit s o).jrn = s.jrn := rfl
@[simp] theorem emit_wear (o : Out) : (emit s o).wear = s.wear := rfl
@[simp] theorem emit_host (o : Out) : (emit s o).host = s.host := rfl
@[simp] theorem emit_mbx (o : Out) : (emit s o).mbx = s.mbx := rfl
@[simp] theorem emit_clu (o : Out) : (emit s o).clu = s.clu := rfl
@[simp] theorem emit_sync (o : Out) : (emit s o).sync = s.sync := rfl
@[simp] theorem emit_mem (o : Out) : (emit s o).mem = s.mem := rfl
@[simp] theorem emit_nbu (o : Out) : (emit s o).nbu = s.nbu := rfl
@[simp] theorem emit_bus (o : Out) : (emit s o).bus = s.bus := rfl
@[simp] theorem emit_fab (o : Out) : (emit s o).fab = s.fab := rfl
@[simp] theorem emit_deal (o : Out) : (emit s o).deal = s.deal := rfl
@[simp] theorem emit_kv (o : Out) : (emit s o).kv = s.kv := rfl

/-! `setFn` changes `host` only. -/
@[simp] theorem setFn_pending (f : Nat) (x : Func) : (setFn s f x).pending = s.pending := rfl
@[simp] theorem setFn_free (f : Nat) (x : Func) : (setFn s f x).free = s.free := rfl
@[simp] theorem setFn_out (f : Nat) (x : Func) : (setFn s f x).out = s.out := rfl
@[simp] theorem setFn_time (f : Nat) (x : Func) : (setFn s f x).time = s.time := rfl
@[simp] theorem setFn_edge (f : Nat) (x : Func) : (setFn s f x).edge = s.edge := rfl
@[simp] theorem setFn_fuses (f : Nat) (x : Func) : (setFn s f x).fuses = s.fuses := rfl
@[simp] theorem setFn_flash (f : Nat) (x : Func) : (setFn s f x).flash = s.flash := rfl
@[simp] theorem setFn_boot (f : Nat) (x : Func) : (setFn s f x).boot = s.boot := rfl
@[simp] theorem setFn_sec (f : Nat) (x : Func) : (setFn s f x).sec = s.sec := rfl
@[simp] theorem setFn_tap (f : Nat) (x : Func) : (setFn s f x).tap = s.tap := rfl
@[simp] theorem setFn_regs (f : Nat) (x : Func) : (setFn s f x).regs = s.regs := rfl
@[simp] theorem setFn_blk (f : Nat) (x : Func) : (setFn s f x).blk = s.blk := rfl
@[simp] theorem setFn_clk (f : Nat) (x : Func) : (setFn s f x).clk = s.clk := rfl
@[simp] theorem setFn_thr (f : Nat) (x : Func) : (setFn s f x).thr = s.thr := rfl
@[simp] theorem setFn_ras (f : Nat) (x : Func) : (setFn s f x).ras = s.ras := rfl
@[simp] theorem setFn_jrn (f : Nat) (x : Func) : (setFn s f x).jrn = s.jrn := rfl
@[simp] theorem setFn_wear (f : Nat) (x : Func) : (setFn s f x).wear = s.wear := rfl
@[simp] theorem setFn_mbx (f : Nat) (x : Func) : (setFn s f x).mbx = s.mbx := rfl
@[simp] theorem setFn_clu (f : Nat) (x : Func) : (setFn s f x).clu = s.clu := rfl
@[simp] theorem setFn_sync (f : Nat) (x : Func) : (setFn s f x).sync = s.sync := rfl
@[simp] theorem setFn_mem (f : Nat) (x : Func) : (setFn s f x).mem = s.mem := rfl
@[simp] theorem setFn_nbu (f : Nat) (x : Func) : (setFn s f x).nbu = s.nbu := rfl
@[simp] theorem setFn_bus (f : Nat) (x : Func) : (setFn s f x).bus = s.bus := rfl
@[simp] theorem setFn_fab (f : Nat) (x : Func) : (setFn s f x).fab = s.fab := rfl
@[simp] theorem setFn_deal (f : Nat) (x : Func) : (setFn s f x).deal = s.deal := rfl
@[simp] theorem setFn_kv (f : Nat) (x : Func) : (setFn s f x).kv = s.kv := rfl

/-! `setQ` changes `host` only. -/
@[simp] theorem setQ_pending (q : Nat) (x : Queue) : (setQ s q x).pending = s.pending := rfl
@[simp] theorem setQ_free (q : Nat) (x : Queue) : (setQ s q x).free = s.free := rfl
@[simp] theorem setQ_out (q : Nat) (x : Queue) : (setQ s q x).out = s.out := rfl
@[simp] theorem setQ_time (q : Nat) (x : Queue) : (setQ s q x).time = s.time := rfl
@[simp] theorem setQ_edge (q : Nat) (x : Queue) : (setQ s q x).edge = s.edge := rfl
@[simp] theorem setQ_fuses (q : Nat) (x : Queue) : (setQ s q x).fuses = s.fuses := rfl
@[simp] theorem setQ_flash (q : Nat) (x : Queue) : (setQ s q x).flash = s.flash := rfl
@[simp] theorem setQ_boot (q : Nat) (x : Queue) : (setQ s q x).boot = s.boot := rfl
@[simp] theorem setQ_sec (q : Nat) (x : Queue) : (setQ s q x).sec = s.sec := rfl
@[simp] theorem setQ_tap (q : Nat) (x : Queue) : (setQ s q x).tap = s.tap := rfl
@[simp] theorem setQ_regs (q : Nat) (x : Queue) : (setQ s q x).regs = s.regs := rfl
@[simp] theorem setQ_blk (q : Nat) (x : Queue) : (setQ s q x).blk = s.blk := rfl
@[simp] theorem setQ_clk (q : Nat) (x : Queue) : (setQ s q x).clk = s.clk := rfl
@[simp] theorem setQ_thr (q : Nat) (x : Queue) : (setQ s q x).thr = s.thr := rfl
@[simp] theorem setQ_ras (q : Nat) (x : Queue) : (setQ s q x).ras = s.ras := rfl
@[simp] theorem setQ_jrn (q : Nat) (x : Queue) : (setQ s q x).jrn = s.jrn := rfl
@[simp] theorem setQ_wear (q : Nat) (x : Queue) : (setQ s q x).wear = s.wear := rfl
@[simp] theorem setQ_mbx (q : Nat) (x : Queue) : (setQ s q x).mbx = s.mbx := rfl
@[simp] theorem setQ_clu (q : Nat) (x : Queue) : (setQ s q x).clu = s.clu := rfl
@[simp] theorem setQ_sync (q : Nat) (x : Queue) : (setQ s q x).sync = s.sync := rfl
@[simp] theorem setQ_mem (q : Nat) (x : Queue) : (setQ s q x).mem = s.mem := rfl
@[simp] theorem setQ_nbu (q : Nat) (x : Queue) : (setQ s q x).nbu = s.nbu := rfl
@[simp] theorem setQ_bus (q : Nat) (x : Queue) : (setQ s q x).bus = s.bus := rfl
@[simp] theorem setQ_fab (q : Nat) (x : Queue) : (setQ s q x).fab = s.fab := rfl
@[simp] theorem setQ_deal (q : Nat) (x : Queue) : (setQ s q x).deal = s.deal := rfl
@[simp] theorem setQ_kv (q : Nat) (x : Queue) : (setQ s q x).kv = s.kv := rfl

/-! `mgmt` changes `edge` only. -/
@[simp] theorem mgmt_pending (e : MEvent) : (mgmt s e).pending = s.pending := rfl
@[simp] theorem mgmt_free (e : MEvent) : (mgmt s e).free = s.free := rfl
@[simp] theorem mgmt_out (e : MEvent) : (mgmt s e).out = s.out := rfl
@[simp] theorem mgmt_time (e : MEvent) : (mgmt s e).time = s.time := rfl
@[simp] theorem mgmt_fuses (e : MEvent) : (mgmt s e).fuses = s.fuses := rfl
@[simp] theorem mgmt_flash (e : MEvent) : (mgmt s e).flash = s.flash := rfl
@[simp] theorem mgmt_boot (e : MEvent) : (mgmt s e).boot = s.boot := rfl
@[simp] theorem mgmt_sec (e : MEvent) : (mgmt s e).sec = s.sec := rfl
@[simp] theorem mgmt_tap (e : MEvent) : (mgmt s e).tap = s.tap := rfl
@[simp] theorem mgmt_regs (e : MEvent) : (mgmt s e).regs = s.regs := rfl
@[simp] theorem mgmt_blk (e : MEvent) : (mgmt s e).blk = s.blk := rfl
@[simp] theorem mgmt_clk (e : MEvent) : (mgmt s e).clk = s.clk := rfl
@[simp] theorem mgmt_thr (e : MEvent) : (mgmt s e).thr = s.thr := rfl
@[simp] theorem mgmt_ras (e : MEvent) : (mgmt s e).ras = s.ras := rfl
@[simp] theorem mgmt_jrn (e : MEvent) : (mgmt s e).jrn = s.jrn := rfl
@[simp] theorem mgmt_wear (e : MEvent) : (mgmt s e).wear = s.wear := rfl
@[simp] theorem mgmt_host (e : MEvent) : (mgmt s e).host = s.host := rfl
@[simp] theorem mgmt_mbx (e : MEvent) : (mgmt s e).mbx = s.mbx := rfl
@[simp] theorem mgmt_clu (e : MEvent) : (mgmt s e).clu = s.clu := rfl
@[simp] theorem mgmt_sync (e : MEvent) : (mgmt s e).sync = s.sync := rfl
@[simp] theorem mgmt_mem (e : MEvent) : (mgmt s e).mem = s.mem := rfl
@[simp] theorem mgmt_nbu (e : MEvent) : (mgmt s e).nbu = s.nbu := rfl
@[simp] theorem mgmt_bus (e : MEvent) : (mgmt s e).bus = s.bus := rfl
@[simp] theorem mgmt_fab (e : MEvent) : (mgmt s e).fab = s.fab := rfl
@[simp] theorem mgmt_deal (e : MEvent) : (mgmt s e).deal = s.deal := rfl
@[simp] theorem mgmt_kv (e : MEvent) : (mgmt s e).kv = s.kv := rfl

/-! `report` changes `deal` only. -/
@[simp] theorem report_pending (r : Report) : (report s r).pending = s.pending := rfl
@[simp] theorem report_free (r : Report) : (report s r).free = s.free := rfl
@[simp] theorem report_out (r : Report) : (report s r).out = s.out := rfl
@[simp] theorem report_time (r : Report) : (report s r).time = s.time := rfl
@[simp] theorem report_edge (r : Report) : (report s r).edge = s.edge := rfl
@[simp] theorem report_fuses (r : Report) : (report s r).fuses = s.fuses := rfl
@[simp] theorem report_flash (r : Report) : (report s r).flash = s.flash := rfl
@[simp] theorem report_boot (r : Report) : (report s r).boot = s.boot := rfl
@[simp] theorem report_sec (r : Report) : (report s r).sec = s.sec := rfl
@[simp] theorem report_tap (r : Report) : (report s r).tap = s.tap := rfl
@[simp] theorem report_regs (r : Report) : (report s r).regs = s.regs := rfl
@[simp] theorem report_blk (r : Report) : (report s r).blk = s.blk := rfl
@[simp] theorem report_clk (r : Report) : (report s r).clk = s.clk := rfl
@[simp] theorem report_thr (r : Report) : (report s r).thr = s.thr := rfl
@[simp] theorem report_ras (r : Report) : (report s r).ras = s.ras := rfl
@[simp] theorem report_jrn (r : Report) : (report s r).jrn = s.jrn := rfl
@[simp] theorem report_wear (r : Report) : (report s r).wear = s.wear := rfl
@[simp] theorem report_host (r : Report) : (report s r).host = s.host := rfl
@[simp] theorem report_mbx (r : Report) : (report s r).mbx = s.mbx := rfl
@[simp] theorem report_clu (r : Report) : (report s r).clu = s.clu := rfl
@[simp] theorem report_sync (r : Report) : (report s r).sync = s.sync := rfl
@[simp] theorem report_mem (r : Report) : (report s r).mem = s.mem := rfl
@[simp] theorem report_nbu (r : Report) : (report s r).nbu = s.nbu := rfl
@[simp] theorem report_bus (r : Report) : (report s r).bus = s.bus := rfl
@[simp] theorem report_fab (r : Report) : (report s r).fab = s.fab := rfl
@[simp] theorem report_kv (r : Report) : (report s r).kv = s.kv := rfl

/-! `capacity` changes `deal` only. -/
@[simp] theorem capacity_pending : (capacity s).pending = s.pending := rfl
@[simp] theorem capacity_free : (capacity s).free = s.free := rfl
@[simp] theorem capacity_out : (capacity s).out = s.out := rfl
@[simp] theorem capacity_time : (capacity s).time = s.time := rfl
@[simp] theorem capacity_edge : (capacity s).edge = s.edge := rfl
@[simp] theorem capacity_fuses : (capacity s).fuses = s.fuses := rfl
@[simp] theorem capacity_flash : (capacity s).flash = s.flash := rfl
@[simp] theorem capacity_boot : (capacity s).boot = s.boot := rfl
@[simp] theorem capacity_sec : (capacity s).sec = s.sec := rfl
@[simp] theorem capacity_tap : (capacity s).tap = s.tap := rfl
@[simp] theorem capacity_regs : (capacity s).regs = s.regs := rfl
@[simp] theorem capacity_blk : (capacity s).blk = s.blk := rfl
@[simp] theorem capacity_clk : (capacity s).clk = s.clk := rfl
@[simp] theorem capacity_thr : (capacity s).thr = s.thr := rfl
@[simp] theorem capacity_ras : (capacity s).ras = s.ras := rfl
@[simp] theorem capacity_jrn : (capacity s).jrn = s.jrn := rfl
@[simp] theorem capacity_wear : (capacity s).wear = s.wear := rfl
@[simp] theorem capacity_host : (capacity s).host = s.host := rfl
@[simp] theorem capacity_mbx : (capacity s).mbx = s.mbx := rfl
@[simp] theorem capacity_clu : (capacity s).clu = s.clu := rfl
@[simp] theorem capacity_sync : (capacity s).sync = s.sync := rfl
@[simp] theorem capacity_mem : (capacity s).mem = s.mem := rfl
@[simp] theorem capacity_nbu : (capacity s).nbu = s.nbu := rfl
@[simp] theorem capacity_bus : (capacity s).bus = s.bus := rfl
@[simp] theorem capacity_fab : (capacity s).fab = s.fab := rfl
@[simp] theorem capacity_kv : (capacity s).kv = s.kv := rfl

/-! `setC` changes `clu` only. -/
@[simp] theorem setC_pending (c : Nat) (k : Cluster) : (setC s c k).pending = s.pending := rfl
@[simp] theorem setC_free (c : Nat) (k : Cluster) : (setC s c k).free = s.free := rfl
@[simp] theorem setC_out (c : Nat) (k : Cluster) : (setC s c k).out = s.out := rfl
@[simp] theorem setC_time (c : Nat) (k : Cluster) : (setC s c k).time = s.time := rfl
@[simp] theorem setC_edge (c : Nat) (k : Cluster) : (setC s c k).edge = s.edge := rfl
@[simp] theorem setC_fuses (c : Nat) (k : Cluster) : (setC s c k).fuses = s.fuses := rfl
@[simp] theorem setC_flash (c : Nat) (k : Cluster) : (setC s c k).flash = s.flash := rfl
@[simp] theorem setC_boot (c : Nat) (k : Cluster) : (setC s c k).boot = s.boot := rfl
@[simp] theorem setC_sec (c : Nat) (k : Cluster) : (setC s c k).sec = s.sec := rfl
@[simp] theorem setC_tap (c : Nat) (k : Cluster) : (setC s c k).tap = s.tap := rfl
@[simp] theorem setC_regs (c : Nat) (k : Cluster) : (setC s c k).regs = s.regs := rfl
@[simp] theorem setC_blk (c : Nat) (k : Cluster) : (setC s c k).blk = s.blk := rfl
@[simp] theorem setC_clk (c : Nat) (k : Cluster) : (setC s c k).clk = s.clk := rfl
@[simp] theorem setC_thr (c : Nat) (k : Cluster) : (setC s c k).thr = s.thr := rfl
@[simp] theorem setC_ras (c : Nat) (k : Cluster) : (setC s c k).ras = s.ras := rfl
@[simp] theorem setC_jrn (c : Nat) (k : Cluster) : (setC s c k).jrn = s.jrn := rfl
@[simp] theorem setC_wear (c : Nat) (k : Cluster) : (setC s c k).wear = s.wear := rfl
@[simp] theorem setC_host (c : Nat) (k : Cluster) : (setC s c k).host = s.host := rfl
@[simp] theorem setC_mbx (c : Nat) (k : Cluster) : (setC s c k).mbx = s.mbx := rfl
@[simp] theorem setC_sync (c : Nat) (k : Cluster) : (setC s c k).sync = s.sync := rfl
@[simp] theorem setC_mem (c : Nat) (k : Cluster) : (setC s c k).mem = s.mem := rfl
@[simp] theorem setC_nbu (c : Nat) (k : Cluster) : (setC s c k).nbu = s.nbu := rfl
@[simp] theorem setC_bus (c : Nat) (k : Cluster) : (setC s c k).bus = s.bus := rfl
@[simp] theorem setC_fab (c : Nat) (k : Cluster) : (setC s c k).fab = s.fab := rfl
@[simp] theorem setC_deal (c : Nat) (k : Cluster) : (setC s c k).deal = s.deal := rfl
@[simp] theorem setC_kv (c : Nat) (k : Cluster) : (setC s c k).kv = s.kv := rfl

/-! `setU` changes `nbu` only. -/
@[simp] theorem setU_pending (u : Nat) (x : Nbu) : (setU s u x).pending = s.pending := rfl
@[simp] theorem setU_free (u : Nat) (x : Nbu) : (setU s u x).free = s.free := rfl
@[simp] theorem setU_out (u : Nat) (x : Nbu) : (setU s u x).out = s.out := rfl
@[simp] theorem setU_time (u : Nat) (x : Nbu) : (setU s u x).time = s.time := rfl
@[simp] theorem setU_edge (u : Nat) (x : Nbu) : (setU s u x).edge = s.edge := rfl
@[simp] theorem setU_fuses (u : Nat) (x : Nbu) : (setU s u x).fuses = s.fuses := rfl
@[simp] theorem setU_flash (u : Nat) (x : Nbu) : (setU s u x).flash = s.flash := rfl
@[simp] theorem setU_boot (u : Nat) (x : Nbu) : (setU s u x).boot = s.boot := rfl
@[simp] theorem setU_sec (u : Nat) (x : Nbu) : (setU s u x).sec = s.sec := rfl
@[simp] theorem setU_tap (u : Nat) (x : Nbu) : (setU s u x).tap = s.tap := rfl
@[simp] theorem setU_regs (u : Nat) (x : Nbu) : (setU s u x).regs = s.regs := rfl
@[simp] theorem setU_blk (u : Nat) (x : Nbu) : (setU s u x).blk = s.blk := rfl
@[simp] theorem setU_clk (u : Nat) (x : Nbu) : (setU s u x).clk = s.clk := rfl
@[simp] theorem setU_thr (u : Nat) (x : Nbu) : (setU s u x).thr = s.thr := rfl
@[simp] theorem setU_ras (u : Nat) (x : Nbu) : (setU s u x).ras = s.ras := rfl
@[simp] theorem setU_jrn (u : Nat) (x : Nbu) : (setU s u x).jrn = s.jrn := rfl
@[simp] theorem setU_wear (u : Nat) (x : Nbu) : (setU s u x).wear = s.wear := rfl
@[simp] theorem setU_host (u : Nat) (x : Nbu) : (setU s u x).host = s.host := rfl
@[simp] theorem setU_mbx (u : Nat) (x : Nbu) : (setU s u x).mbx = s.mbx := rfl
@[simp] theorem setU_clu (u : Nat) (x : Nbu) : (setU s u x).clu = s.clu := rfl
@[simp] theorem setU_sync (u : Nat) (x : Nbu) : (setU s u x).sync = s.sync := rfl
@[simp] theorem setU_mem (u : Nat) (x : Nbu) : (setU s u x).mem = s.mem := rfl
@[simp] theorem setU_bus (u : Nat) (x : Nbu) : (setU s u x).bus = s.bus := rfl
@[simp] theorem setU_fab (u : Nat) (x : Nbu) : (setU s u x).fab = s.fab := rfl
@[simp] theorem setU_deal (u : Nat) (x : Nbu) : (setU s u x).deal = s.deal := rfl
@[simp] theorem setU_kv (u : Nat) (x : Nbu) : (setU s u x).kv = s.kv := rfl

/-! `setE` changes `fab` only. -/
@[simp] theorem setE_pending (n : Nat) (x : Engine) : (setE s n x).pending = s.pending := rfl
@[simp] theorem setE_free (n : Nat) (x : Engine) : (setE s n x).free = s.free := rfl
@[simp] theorem setE_out (n : Nat) (x : Engine) : (setE s n x).out = s.out := rfl
@[simp] theorem setE_time (n : Nat) (x : Engine) : (setE s n x).time = s.time := rfl
@[simp] theorem setE_edge (n : Nat) (x : Engine) : (setE s n x).edge = s.edge := rfl
@[simp] theorem setE_fuses (n : Nat) (x : Engine) : (setE s n x).fuses = s.fuses := rfl
@[simp] theorem setE_flash (n : Nat) (x : Engine) : (setE s n x).flash = s.flash := rfl
@[simp] theorem setE_boot (n : Nat) (x : Engine) : (setE s n x).boot = s.boot := rfl
@[simp] theorem setE_sec (n : Nat) (x : Engine) : (setE s n x).sec = s.sec := rfl
@[simp] theorem setE_tap (n : Nat) (x : Engine) : (setE s n x).tap = s.tap := rfl
@[simp] theorem setE_regs (n : Nat) (x : Engine) : (setE s n x).regs = s.regs := rfl
@[simp] theorem setE_blk (n : Nat) (x : Engine) : (setE s n x).blk = s.blk := rfl
@[simp] theorem setE_clk (n : Nat) (x : Engine) : (setE s n x).clk = s.clk := rfl
@[simp] theorem setE_thr (n : Nat) (x : Engine) : (setE s n x).thr = s.thr := rfl
@[simp] theorem setE_ras (n : Nat) (x : Engine) : (setE s n x).ras = s.ras := rfl
@[simp] theorem setE_jrn (n : Nat) (x : Engine) : (setE s n x).jrn = s.jrn := rfl
@[simp] theorem setE_wear (n : Nat) (x : Engine) : (setE s n x).wear = s.wear := rfl
@[simp] theorem setE_host (n : Nat) (x : Engine) : (setE s n x).host = s.host := rfl
@[simp] theorem setE_mbx (n : Nat) (x : Engine) : (setE s n x).mbx = s.mbx := rfl
@[simp] theorem setE_clu (n : Nat) (x : Engine) : (setE s n x).clu = s.clu := rfl
@[simp] theorem setE_sync (n : Nat) (x : Engine) : (setE s n x).sync = s.sync := rfl
@[simp] theorem setE_mem (n : Nat) (x : Engine) : (setE s n x).mem = s.mem := rfl
@[simp] theorem setE_nbu (n : Nat) (x : Engine) : (setE s n x).nbu = s.nbu := rfl
@[simp] theorem setE_bus (n : Nat) (x : Engine) : (setE s n x).bus = s.bus := rfl
@[simp] theorem setE_deal (n : Nat) (x : Engine) : (setE s n x).deal = s.deal := rfl
@[simp] theorem setE_kv (n : Nat) (x : Engine) : (setE s n x).kv = s.kv := rfl

/-! `setM` changes `deal` only. -/
@[simp] theorem setM_pending (m : Nat) (x : Model) : (setM s m x).pending = s.pending := rfl
@[simp] theorem setM_free (m : Nat) (x : Model) : (setM s m x).free = s.free := rfl
@[simp] theorem setM_out (m : Nat) (x : Model) : (setM s m x).out = s.out := rfl
@[simp] theorem setM_time (m : Nat) (x : Model) : (setM s m x).time = s.time := rfl
@[simp] theorem setM_edge (m : Nat) (x : Model) : (setM s m x).edge = s.edge := rfl
@[simp] theorem setM_fuses (m : Nat) (x : Model) : (setM s m x).fuses = s.fuses := rfl
@[simp] theorem setM_flash (m : Nat) (x : Model) : (setM s m x).flash = s.flash := rfl
@[simp] theorem setM_boot (m : Nat) (x : Model) : (setM s m x).boot = s.boot := rfl
@[simp] theorem setM_sec (m : Nat) (x : Model) : (setM s m x).sec = s.sec := rfl
@[simp] theorem setM_tap (m : Nat) (x : Model) : (setM s m x).tap = s.tap := rfl
@[simp] theorem setM_regs (m : Nat) (x : Model) : (setM s m x).regs = s.regs := rfl
@[simp] theorem setM_blk (m : Nat) (x : Model) : (setM s m x).blk = s.blk := rfl
@[simp] theorem setM_clk (m : Nat) (x : Model) : (setM s m x).clk = s.clk := rfl
@[simp] theorem setM_thr (m : Nat) (x : Model) : (setM s m x).thr = s.thr := rfl
@[simp] theorem setM_ras (m : Nat) (x : Model) : (setM s m x).ras = s.ras := rfl
@[simp] theorem setM_jrn (m : Nat) (x : Model) : (setM s m x).jrn = s.jrn := rfl
@[simp] theorem setM_wear (m : Nat) (x : Model) : (setM s m x).wear = s.wear := rfl
@[simp] theorem setM_host (m : Nat) (x : Model) : (setM s m x).host = s.host := rfl
@[simp] theorem setM_mbx (m : Nat) (x : Model) : (setM s m x).mbx = s.mbx := rfl
@[simp] theorem setM_clu (m : Nat) (x : Model) : (setM s m x).clu = s.clu := rfl
@[simp] theorem setM_sync (m : Nat) (x : Model) : (setM s m x).sync = s.sync := rfl
@[simp] theorem setM_mem (m : Nat) (x : Model) : (setM s m x).mem = s.mem := rfl
@[simp] theorem setM_nbu (m : Nat) (x : Model) : (setM s m x).nbu = s.nbu := rfl
@[simp] theorem setM_bus (m : Nat) (x : Model) : (setM s m x).bus = s.bus := rfl
@[simp] theorem setM_fab (m : Nat) (x : Model) : (setM s m x).fab = s.fab := rfl
@[simp] theorem setM_kv (m : Nat) (x : Model) : (setM s m x).kv = s.kv := rfl

/-! `setSlot` changes `deal` only. -/
@[simp] theorem setSlot_pending (g : Nat) (x : SeqSlot) : (setSlot s g x).pending = s.pending := rfl
@[simp] theorem setSlot_free (g : Nat) (x : SeqSlot) : (setSlot s g x).free = s.free := rfl
@[simp] theorem setSlot_out (g : Nat) (x : SeqSlot) : (setSlot s g x).out = s.out := rfl
@[simp] theorem setSlot_time (g : Nat) (x : SeqSlot) : (setSlot s g x).time = s.time := rfl
@[simp] theorem setSlot_edge (g : Nat) (x : SeqSlot) : (setSlot s g x).edge = s.edge := rfl
@[simp] theorem setSlot_fuses (g : Nat) (x : SeqSlot) : (setSlot s g x).fuses = s.fuses := rfl
@[simp] theorem setSlot_flash (g : Nat) (x : SeqSlot) : (setSlot s g x).flash = s.flash := rfl
@[simp] theorem setSlot_boot (g : Nat) (x : SeqSlot) : (setSlot s g x).boot = s.boot := rfl
@[simp] theorem setSlot_sec (g : Nat) (x : SeqSlot) : (setSlot s g x).sec = s.sec := rfl
@[simp] theorem setSlot_tap (g : Nat) (x : SeqSlot) : (setSlot s g x).tap = s.tap := rfl
@[simp] theorem setSlot_regs (g : Nat) (x : SeqSlot) : (setSlot s g x).regs = s.regs := rfl
@[simp] theorem setSlot_blk (g : Nat) (x : SeqSlot) : (setSlot s g x).blk = s.blk := rfl
@[simp] theorem setSlot_clk (g : Nat) (x : SeqSlot) : (setSlot s g x).clk = s.clk := rfl
@[simp] theorem setSlot_thr (g : Nat) (x : SeqSlot) : (setSlot s g x).thr = s.thr := rfl
@[simp] theorem setSlot_ras (g : Nat) (x : SeqSlot) : (setSlot s g x).ras = s.ras := rfl
@[simp] theorem setSlot_jrn (g : Nat) (x : SeqSlot) : (setSlot s g x).jrn = s.jrn := rfl
@[simp] theorem setSlot_wear (g : Nat) (x : SeqSlot) : (setSlot s g x).wear = s.wear := rfl
@[simp] theorem setSlot_host (g : Nat) (x : SeqSlot) : (setSlot s g x).host = s.host := rfl
@[simp] theorem setSlot_mbx (g : Nat) (x : SeqSlot) : (setSlot s g x).mbx = s.mbx := rfl
@[simp] theorem setSlot_clu (g : Nat) (x : SeqSlot) : (setSlot s g x).clu = s.clu := rfl
@[simp] theorem setSlot_sync (g : Nat) (x : SeqSlot) : (setSlot s g x).sync = s.sync := rfl
@[simp] theorem setSlot_mem (g : Nat) (x : SeqSlot) : (setSlot s g x).mem = s.mem := rfl
@[simp] theorem setSlot_nbu (g : Nat) (x : SeqSlot) : (setSlot s g x).nbu = s.nbu := rfl
@[simp] theorem setSlot_bus (g : Nat) (x : SeqSlot) : (setSlot s g x).bus = s.bus := rfl
@[simp] theorem setSlot_fab (g : Nat) (x : SeqSlot) : (setSlot s g x).fab = s.fab := rfl
@[simp] theorem setSlot_kv (g : Nat) (x : SeqSlot) : (setSlot s g x).kv = s.kv := rfl

/-! `setMb` changes `mbx` only. -/
@[simp] theorem setMb_pending (c : Nat) (x : Mbox) : (setMb s c x).pending = s.pending := rfl
@[simp] theorem setMb_free (c : Nat) (x : Mbox) : (setMb s c x).free = s.free := rfl
@[simp] theorem setMb_out (c : Nat) (x : Mbox) : (setMb s c x).out = s.out := rfl
@[simp] theorem setMb_time (c : Nat) (x : Mbox) : (setMb s c x).time = s.time := rfl
@[simp] theorem setMb_edge (c : Nat) (x : Mbox) : (setMb s c x).edge = s.edge := rfl
@[simp] theorem setMb_fuses (c : Nat) (x : Mbox) : (setMb s c x).fuses = s.fuses := rfl
@[simp] theorem setMb_flash (c : Nat) (x : Mbox) : (setMb s c x).flash = s.flash := rfl
@[simp] theorem setMb_boot (c : Nat) (x : Mbox) : (setMb s c x).boot = s.boot := rfl
@[simp] theorem setMb_sec (c : Nat) (x : Mbox) : (setMb s c x).sec = s.sec := rfl
@[simp] theorem setMb_tap (c : Nat) (x : Mbox) : (setMb s c x).tap = s.tap := rfl
@[simp] theorem setMb_regs (c : Nat) (x : Mbox) : (setMb s c x).regs = s.regs := rfl
@[simp] theorem setMb_blk (c : Nat) (x : Mbox) : (setMb s c x).blk = s.blk := rfl
@[simp] theorem setMb_clk (c : Nat) (x : Mbox) : (setMb s c x).clk = s.clk := rfl
@[simp] theorem setMb_thr (c : Nat) (x : Mbox) : (setMb s c x).thr = s.thr := rfl
@[simp] theorem setMb_ras (c : Nat) (x : Mbox) : (setMb s c x).ras = s.ras := rfl
@[simp] theorem setMb_jrn (c : Nat) (x : Mbox) : (setMb s c x).jrn = s.jrn := rfl
@[simp] theorem setMb_wear (c : Nat) (x : Mbox) : (setMb s c x).wear = s.wear := rfl
@[simp] theorem setMb_host (c : Nat) (x : Mbox) : (setMb s c x).host = s.host := rfl
@[simp] theorem setMb_clu (c : Nat) (x : Mbox) : (setMb s c x).clu = s.clu := rfl
@[simp] theorem setMb_sync (c : Nat) (x : Mbox) : (setMb s c x).sync = s.sync := rfl
@[simp] theorem setMb_mem (c : Nat) (x : Mbox) : (setMb s c x).mem = s.mem := rfl
@[simp] theorem setMb_nbu (c : Nat) (x : Mbox) : (setMb s c x).nbu = s.nbu := rfl
@[simp] theorem setMb_bus (c : Nat) (x : Mbox) : (setMb s c x).bus = s.bus := rfl
@[simp] theorem setMb_fab (c : Nat) (x : Mbox) : (setMb s c x).fab = s.fab := rfl
@[simp] theorem setMb_deal (c : Nat) (x : Mbox) : (setMb s c x).deal = s.deal := rfl
@[simp] theorem setMb_kv (c : Nat) (x : Mbox) : (setMb s c x).kv = s.kv := rfl

/-! `setRgn` changes `mem` only. -/
@[simp] theorem setRgn_pending (r v : Nat) : (setRgn s r v).pending = s.pending := rfl
@[simp] theorem setRgn_free (r v : Nat) : (setRgn s r v).free = s.free := rfl
@[simp] theorem setRgn_out (r v : Nat) : (setRgn s r v).out = s.out := rfl
@[simp] theorem setRgn_time (r v : Nat) : (setRgn s r v).time = s.time := rfl
@[simp] theorem setRgn_edge (r v : Nat) : (setRgn s r v).edge = s.edge := rfl
@[simp] theorem setRgn_fuses (r v : Nat) : (setRgn s r v).fuses = s.fuses := rfl
@[simp] theorem setRgn_flash (r v : Nat) : (setRgn s r v).flash = s.flash := rfl
@[simp] theorem setRgn_boot (r v : Nat) : (setRgn s r v).boot = s.boot := rfl
@[simp] theorem setRgn_sec (r v : Nat) : (setRgn s r v).sec = s.sec := rfl
@[simp] theorem setRgn_tap (r v : Nat) : (setRgn s r v).tap = s.tap := rfl
@[simp] theorem setRgn_regs (r v : Nat) : (setRgn s r v).regs = s.regs := rfl
@[simp] theorem setRgn_blk (r v : Nat) : (setRgn s r v).blk = s.blk := rfl
@[simp] theorem setRgn_clk (r v : Nat) : (setRgn s r v).clk = s.clk := rfl
@[simp] theorem setRgn_thr (r v : Nat) : (setRgn s r v).thr = s.thr := rfl
@[simp] theorem setRgn_ras (r v : Nat) : (setRgn s r v).ras = s.ras := rfl
@[simp] theorem setRgn_jrn (r v : Nat) : (setRgn s r v).jrn = s.jrn := rfl
@[simp] theorem setRgn_wear (r v : Nat) : (setRgn s r v).wear = s.wear := rfl
@[simp] theorem setRgn_host (r v : Nat) : (setRgn s r v).host = s.host := rfl
@[simp] theorem setRgn_mbx (r v : Nat) : (setRgn s r v).mbx = s.mbx := rfl
@[simp] theorem setRgn_clu (r v : Nat) : (setRgn s r v).clu = s.clu := rfl
@[simp] theorem setRgn_sync (r v : Nat) : (setRgn s r v).sync = s.sync := rfl
@[simp] theorem setRgn_nbu (r v : Nat) : (setRgn s r v).nbu = s.nbu := rfl
@[simp] theorem setRgn_bus (r v : Nat) : (setRgn s r v).bus = s.bus := rfl
@[simp] theorem setRgn_fab (r v : Nat) : (setRgn s r v).fab = s.fab := rfl
@[simp] theorem setRgn_deal (r v : Nat) : (setRgn s r v).deal = s.deal := rfl
@[simp] theorem setRgn_kv (r v : Nat) : (setRgn s r v).kv = s.kv := rfl

/-! `setWay` changes `mem` only. -/
@[simp] theorem setWay_pending (k w : Nat) (x : Way) : (setWay s k w x).pending = s.pending := rfl
@[simp] theorem setWay_free (k w : Nat) (x : Way) : (setWay s k w x).free = s.free := rfl
@[simp] theorem setWay_out (k w : Nat) (x : Way) : (setWay s k w x).out = s.out := rfl
@[simp] theorem setWay_time (k w : Nat) (x : Way) : (setWay s k w x).time = s.time := rfl
@[simp] theorem setWay_edge (k w : Nat) (x : Way) : (setWay s k w x).edge = s.edge := rfl
@[simp] theorem setWay_fuses (k w : Nat) (x : Way) : (setWay s k w x).fuses = s.fuses := rfl
@[simp] theorem setWay_flash (k w : Nat) (x : Way) : (setWay s k w x).flash = s.flash := rfl
@[simp] theorem setWay_boot (k w : Nat) (x : Way) : (setWay s k w x).boot = s.boot := rfl
@[simp] theorem setWay_sec (k w : Nat) (x : Way) : (setWay s k w x).sec = s.sec := rfl
@[simp] theorem setWay_tap (k w : Nat) (x : Way) : (setWay s k w x).tap = s.tap := rfl
@[simp] theorem setWay_regs (k w : Nat) (x : Way) : (setWay s k w x).regs = s.regs := rfl
@[simp] theorem setWay_blk (k w : Nat) (x : Way) : (setWay s k w x).blk = s.blk := rfl
@[simp] theorem setWay_clk (k w : Nat) (x : Way) : (setWay s k w x).clk = s.clk := rfl
@[simp] theorem setWay_thr (k w : Nat) (x : Way) : (setWay s k w x).thr = s.thr := rfl
@[simp] theorem setWay_ras (k w : Nat) (x : Way) : (setWay s k w x).ras = s.ras := rfl
@[simp] theorem setWay_jrn (k w : Nat) (x : Way) : (setWay s k w x).jrn = s.jrn := rfl
@[simp] theorem setWay_wear (k w : Nat) (x : Way) : (setWay s k w x).wear = s.wear := rfl
@[simp] theorem setWay_host (k w : Nat) (x : Way) : (setWay s k w x).host = s.host := rfl
@[simp] theorem setWay_mbx (k w : Nat) (x : Way) : (setWay s k w x).mbx = s.mbx := rfl
@[simp] theorem setWay_clu (k w : Nat) (x : Way) : (setWay s k w x).clu = s.clu := rfl
@[simp] theorem setWay_sync (k w : Nat) (x : Way) : (setWay s k w x).sync = s.sync := rfl
@[simp] theorem setWay_nbu (k w : Nat) (x : Way) : (setWay s k w x).nbu = s.nbu := rfl
@[simp] theorem setWay_bus (k w : Nat) (x : Way) : (setWay s k w x).bus = s.bus := rfl
@[simp] theorem setWay_fab (k w : Nat) (x : Way) : (setWay s k w x).fab = s.fab := rfl
@[simp] theorem setWay_deal (k w : Nat) (x : Way) : (setWay s k w x).deal = s.deal := rfl
@[simp] theorem setWay_kv (k w : Nat) (x : Way) : (setWay s k w x).kv = s.kv := rfl

/-! `setA` changes `deal` only. -/
@[simp] theorem setA_pending (a : Nat) (x : Acct) : (setA s a x).pending = s.pending := rfl
@[simp] theorem setA_free (a : Nat) (x : Acct) : (setA s a x).free = s.free := rfl
@[simp] theorem setA_out (a : Nat) (x : Acct) : (setA s a x).out = s.out := rfl
@[simp] theorem setA_time (a : Nat) (x : Acct) : (setA s a x).time = s.time := rfl
@[simp] theorem setA_edge (a : Nat) (x : Acct) : (setA s a x).edge = s.edge := rfl
@[simp] theorem setA_fuses (a : Nat) (x : Acct) : (setA s a x).fuses = s.fuses := rfl
@[simp] theorem setA_flash (a : Nat) (x : Acct) : (setA s a x).flash = s.flash := rfl
@[simp] theorem setA_boot (a : Nat) (x : Acct) : (setA s a x).boot = s.boot := rfl
@[simp] theorem setA_sec (a : Nat) (x : Acct) : (setA s a x).sec = s.sec := rfl
@[simp] theorem setA_tap (a : Nat) (x : Acct) : (setA s a x).tap = s.tap := rfl
@[simp] theorem setA_regs (a : Nat) (x : Acct) : (setA s a x).regs = s.regs := rfl
@[simp] theorem setA_blk (a : Nat) (x : Acct) : (setA s a x).blk = s.blk := rfl
@[simp] theorem setA_clk (a : Nat) (x : Acct) : (setA s a x).clk = s.clk := rfl
@[simp] theorem setA_thr (a : Nat) (x : Acct) : (setA s a x).thr = s.thr := rfl
@[simp] theorem setA_ras (a : Nat) (x : Acct) : (setA s a x).ras = s.ras := rfl
@[simp] theorem setA_jrn (a : Nat) (x : Acct) : (setA s a x).jrn = s.jrn := rfl
@[simp] theorem setA_wear (a : Nat) (x : Acct) : (setA s a x).wear = s.wear := rfl
@[simp] theorem setA_host (a : Nat) (x : Acct) : (setA s a x).host = s.host := rfl
@[simp] theorem setA_mbx (a : Nat) (x : Acct) : (setA s a x).mbx = s.mbx := rfl
@[simp] theorem setA_clu (a : Nat) (x : Acct) : (setA s a x).clu = s.clu := rfl
@[simp] theorem setA_sync (a : Nat) (x : Acct) : (setA s a x).sync = s.sync := rfl
@[simp] theorem setA_mem (a : Nat) (x : Acct) : (setA s a x).mem = s.mem := rfl
@[simp] theorem setA_nbu (a : Nat) (x : Acct) : (setA s a x).nbu = s.nbu := rfl
@[simp] theorem setA_bus (a : Nat) (x : Acct) : (setA s a x).bus = s.bus := rfl
@[simp] theorem setA_fab (a : Nat) (x : Acct) : (setA s a x).fab = s.fab := rfl
@[simp] theorem setA_kv (a : Nat) (x : Acct) : (setA s a x).kv = s.kv := rfl

/-! `setSem` changes `sync` only. -/
@[simp] theorem setSem_pending (d i v : Nat) : (setSem s d i v).pending = s.pending := rfl
@[simp] theorem setSem_free (d i v : Nat) : (setSem s d i v).free = s.free := rfl
@[simp] theorem setSem_out (d i v : Nat) : (setSem s d i v).out = s.out := rfl
@[simp] theorem setSem_time (d i v : Nat) : (setSem s d i v).time = s.time := rfl
@[simp] theorem setSem_edge (d i v : Nat) : (setSem s d i v).edge = s.edge := rfl
@[simp] theorem setSem_fuses (d i v : Nat) : (setSem s d i v).fuses = s.fuses := rfl
@[simp] theorem setSem_flash (d i v : Nat) : (setSem s d i v).flash = s.flash := rfl
@[simp] theorem setSem_boot (d i v : Nat) : (setSem s d i v).boot = s.boot := rfl
@[simp] theorem setSem_sec (d i v : Nat) : (setSem s d i v).sec = s.sec := rfl
@[simp] theorem setSem_tap (d i v : Nat) : (setSem s d i v).tap = s.tap := rfl
@[simp] theorem setSem_regs (d i v : Nat) : (setSem s d i v).regs = s.regs := rfl
@[simp] theorem setSem_blk (d i v : Nat) : (setSem s d i v).blk = s.blk := rfl
@[simp] theorem setSem_clk (d i v : Nat) : (setSem s d i v).clk = s.clk := rfl
@[simp] theorem setSem_thr (d i v : Nat) : (setSem s d i v).thr = s.thr := rfl
@[simp] theorem setSem_ras (d i v : Nat) : (setSem s d i v).ras = s.ras := rfl
@[simp] theorem setSem_jrn (d i v : Nat) : (setSem s d i v).jrn = s.jrn := rfl
@[simp] theorem setSem_wear (d i v : Nat) : (setSem s d i v).wear = s.wear := rfl
@[simp] theorem setSem_host (d i v : Nat) : (setSem s d i v).host = s.host := rfl
@[simp] theorem setSem_mbx (d i v : Nat) : (setSem s d i v).mbx = s.mbx := rfl
@[simp] theorem setSem_clu (d i v : Nat) : (setSem s d i v).clu = s.clu := rfl
@[simp] theorem setSem_mem (d i v : Nat) : (setSem s d i v).mem = s.mem := rfl
@[simp] theorem setSem_nbu (d i v : Nat) : (setSem s d i v).nbu = s.nbu := rfl
@[simp] theorem setSem_bus (d i v : Nat) : (setSem s d i v).bus = s.bus := rfl
@[simp] theorem setSem_fab (d i v : Nat) : (setSem s d i v).fab = s.fab := rfl
@[simp] theorem setSem_deal (d i v : Nat) : (setSem s d i v).deal = s.deal := rfl
@[simp] theorem setSem_kv (d i v : Nat) : (setSem s d i v).kv = s.kv := rfl

/-! `setR` changes `fab` only. -/
@[simp] theorem setR_pending (i : Nat) (r : Red) : (setR s i r).pending = s.pending := rfl
@[simp] theorem setR_free (i : Nat) (r : Red) : (setR s i r).free = s.free := rfl
@[simp] theorem setR_out (i : Nat) (r : Red) : (setR s i r).out = s.out := rfl
@[simp] theorem setR_time (i : Nat) (r : Red) : (setR s i r).time = s.time := rfl
@[simp] theorem setR_edge (i : Nat) (r : Red) : (setR s i r).edge = s.edge := rfl
@[simp] theorem setR_fuses (i : Nat) (r : Red) : (setR s i r).fuses = s.fuses := rfl
@[simp] theorem setR_flash (i : Nat) (r : Red) : (setR s i r).flash = s.flash := rfl
@[simp] theorem setR_boot (i : Nat) (r : Red) : (setR s i r).boot = s.boot := rfl
@[simp] theorem setR_sec (i : Nat) (r : Red) : (setR s i r).sec = s.sec := rfl
@[simp] theorem setR_tap (i : Nat) (r : Red) : (setR s i r).tap = s.tap := rfl
@[simp] theorem setR_regs (i : Nat) (r : Red) : (setR s i r).regs = s.regs := rfl
@[simp] theorem setR_blk (i : Nat) (r : Red) : (setR s i r).blk = s.blk := rfl
@[simp] theorem setR_clk (i : Nat) (r : Red) : (setR s i r).clk = s.clk := rfl
@[simp] theorem setR_thr (i : Nat) (r : Red) : (setR s i r).thr = s.thr := rfl
@[simp] theorem setR_ras (i : Nat) (r : Red) : (setR s i r).ras = s.ras := rfl
@[simp] theorem setR_jrn (i : Nat) (r : Red) : (setR s i r).jrn = s.jrn := rfl
@[simp] theorem setR_wear (i : Nat) (r : Red) : (setR s i r).wear = s.wear := rfl
@[simp] theorem setR_host (i : Nat) (r : Red) : (setR s i r).host = s.host := rfl
@[simp] theorem setR_mbx (i : Nat) (r : Red) : (setR s i r).mbx = s.mbx := rfl
@[simp] theorem setR_clu (i : Nat) (r : Red) : (setR s i r).clu = s.clu := rfl
@[simp] theorem setR_sync (i : Nat) (r : Red) : (setR s i r).sync = s.sync := rfl
@[simp] theorem setR_mem (i : Nat) (r : Red) : (setR s i r).mem = s.mem := rfl
@[simp] theorem setR_nbu (i : Nat) (r : Red) : (setR s i r).nbu = s.nbu := rfl
@[simp] theorem setR_bus (i : Nat) (r : Red) : (setR s i r).bus = s.bus := rfl
@[simp] theorem setR_deal (i : Nat) (r : Red) : (setR s i r).deal = s.deal := rfl
@[simp] theorem setR_kv (i : Nat) (r : Red) : (setR s i r).kv = s.kv := rfl

/-! `setGate` changes `regs` only. -/
@[simp] theorem setGate_pending (n : Nat) (b : Bool) : (setGate s n b).pending = s.pending := rfl
@[simp] theorem setGate_free (n : Nat) (b : Bool) : (setGate s n b).free = s.free := rfl
@[simp] theorem setGate_out (n : Nat) (b : Bool) : (setGate s n b).out = s.out := rfl
@[simp] theorem setGate_time (n : Nat) (b : Bool) : (setGate s n b).time = s.time := rfl
@[simp] theorem setGate_edge (n : Nat) (b : Bool) : (setGate s n b).edge = s.edge := rfl
@[simp] theorem setGate_fuses (n : Nat) (b : Bool) : (setGate s n b).fuses = s.fuses := rfl
@[simp] theorem setGate_flash (n : Nat) (b : Bool) : (setGate s n b).flash = s.flash := rfl
@[simp] theorem setGate_boot (n : Nat) (b : Bool) : (setGate s n b).boot = s.boot := rfl
@[simp] theorem setGate_sec (n : Nat) (b : Bool) : (setGate s n b).sec = s.sec := rfl
@[simp] theorem setGate_tap (n : Nat) (b : Bool) : (setGate s n b).tap = s.tap := rfl
@[simp] theorem setGate_blk (n : Nat) (b : Bool) : (setGate s n b).blk = s.blk := rfl
@[simp] theorem setGate_clk (n : Nat) (b : Bool) : (setGate s n b).clk = s.clk := rfl
@[simp] theorem setGate_thr (n : Nat) (b : Bool) : (setGate s n b).thr = s.thr := rfl
@[simp] theorem setGate_ras (n : Nat) (b : Bool) : (setGate s n b).ras = s.ras := rfl
@[simp] theorem setGate_jrn (n : Nat) (b : Bool) : (setGate s n b).jrn = s.jrn := rfl
@[simp] theorem setGate_wear (n : Nat) (b : Bool) : (setGate s n b).wear = s.wear := rfl
@[simp] theorem setGate_host (n : Nat) (b : Bool) : (setGate s n b).host = s.host := rfl
@[simp] theorem setGate_mbx (n : Nat) (b : Bool) : (setGate s n b).mbx = s.mbx := rfl
@[simp] theorem setGate_clu (n : Nat) (b : Bool) : (setGate s n b).clu = s.clu := rfl
@[simp] theorem setGate_sync (n : Nat) (b : Bool) : (setGate s n b).sync = s.sync := rfl
@[simp] theorem setGate_mem (n : Nat) (b : Bool) : (setGate s n b).mem = s.mem := rfl
@[simp] theorem setGate_nbu (n : Nat) (b : Bool) : (setGate s n b).nbu = s.nbu := rfl
@[simp] theorem setGate_bus (n : Nat) (b : Bool) : (setGate s n b).bus = s.bus := rfl
@[simp] theorem setGate_fab (n : Nat) (b : Bool) : (setGate s n b).fab = s.fab := rfl
@[simp] theorem setGate_deal (n : Nat) (b : Bool) : (setGate s n b).deal = s.deal := rfl
@[simp] theorem setGate_kv (n : Nat) (b : Bool) : (setGate s n b).kv = s.kv := rfl

/-! `setEn` changes `regs` only. -/
@[simp] theorem setEn_pending (b : Blk) (i : Nat) (o : Bool) : (setEn s b i o).pending = s.pending := rfl
@[simp] theorem setEn_free (b : Blk) (i : Nat) (o : Bool) : (setEn s b i o).free = s.free := rfl
@[simp] theorem setEn_out (b : Blk) (i : Nat) (o : Bool) : (setEn s b i o).out = s.out := rfl
@[simp] theorem setEn_time (b : Blk) (i : Nat) (o : Bool) : (setEn s b i o).time = s.time := rfl
@[simp] theorem setEn_edge (b : Blk) (i : Nat) (o : Bool) : (setEn s b i o).edge = s.edge := rfl
@[simp] theorem setEn_fuses (b : Blk) (i : Nat) (o : Bool) : (setEn s b i o).fuses = s.fuses := rfl
@[simp] theorem setEn_flash (b : Blk) (i : Nat) (o : Bool) : (setEn s b i o).flash = s.flash := rfl
@[simp] theorem setEn_boot (b : Blk) (i : Nat) (o : Bool) : (setEn s b i o).boot = s.boot := rfl
@[simp] theorem setEn_sec (b : Blk) (i : Nat) (o : Bool) : (setEn s b i o).sec = s.sec := rfl
@[simp] theorem setEn_tap (b : Blk) (i : Nat) (o : Bool) : (setEn s b i o).tap = s.tap := rfl
@[simp] theorem setEn_blk (b : Blk) (i : Nat) (o : Bool) : (setEn s b i o).blk = s.blk := rfl
@[simp] theorem setEn_clk (b : Blk) (i : Nat) (o : Bool) : (setEn s b i o).clk = s.clk := rfl
@[simp] theorem setEn_thr (b : Blk) (i : Nat) (o : Bool) : (setEn s b i o).thr = s.thr := rfl
@[simp] theorem setEn_ras (b : Blk) (i : Nat) (o : Bool) : (setEn s b i o).ras = s.ras := rfl
@[simp] theorem setEn_jrn (b : Blk) (i : Nat) (o : Bool) : (setEn s b i o).jrn = s.jrn := rfl
@[simp] theorem setEn_wear (b : Blk) (i : Nat) (o : Bool) : (setEn s b i o).wear = s.wear := rfl
@[simp] theorem setEn_host (b : Blk) (i : Nat) (o : Bool) : (setEn s b i o).host = s.host := rfl
@[simp] theorem setEn_mbx (b : Blk) (i : Nat) (o : Bool) : (setEn s b i o).mbx = s.mbx := rfl
@[simp] theorem setEn_clu (b : Blk) (i : Nat) (o : Bool) : (setEn s b i o).clu = s.clu := rfl
@[simp] theorem setEn_sync (b : Blk) (i : Nat) (o : Bool) : (setEn s b i o).sync = s.sync := rfl
@[simp] theorem setEn_mem (b : Blk) (i : Nat) (o : Bool) : (setEn s b i o).mem = s.mem := rfl
@[simp] theorem setEn_nbu (b : Blk) (i : Nat) (o : Bool) : (setEn s b i o).nbu = s.nbu := rfl
@[simp] theorem setEn_bus (b : Blk) (i : Nat) (o : Bool) : (setEn s b i o).bus = s.bus := rfl
@[simp] theorem setEn_fab (b : Blk) (i : Nat) (o : Bool) : (setEn s b i o).fab = s.fab := rfl
@[simp] theorem setEn_deal (b : Blk) (i : Nat) (o : Bool) : (setEn s b i o).deal = s.deal := rfl
@[simp] theorem setEn_kv (b : Blk) (i : Nat) (o : Bool) : (setEn s b i o).kv = s.kv := rfl

/-! `enqueue` changes `fab` only. -/
@[simp] theorem enqueue_pending (p : Packet) : (enqueue s p).pending = s.pending := rfl
@[simp] theorem enqueue_free (p : Packet) : (enqueue s p).free = s.free := rfl
@[simp] theorem enqueue_out (p : Packet) : (enqueue s p).out = s.out := rfl
@[simp] theorem enqueue_time (p : Packet) : (enqueue s p).time = s.time := rfl
@[simp] theorem enqueue_edge (p : Packet) : (enqueue s p).edge = s.edge := rfl
@[simp] theorem enqueue_fuses (p : Packet) : (enqueue s p).fuses = s.fuses := rfl
@[simp] theorem enqueue_flash (p : Packet) : (enqueue s p).flash = s.flash := rfl
@[simp] theorem enqueue_boot (p : Packet) : (enqueue s p).boot = s.boot := rfl
@[simp] theorem enqueue_sec (p : Packet) : (enqueue s p).sec = s.sec := rfl
@[simp] theorem enqueue_tap (p : Packet) : (enqueue s p).tap = s.tap := rfl
@[simp] theorem enqueue_regs (p : Packet) : (enqueue s p).regs = s.regs := rfl
@[simp] theorem enqueue_blk (p : Packet) : (enqueue s p).blk = s.blk := rfl
@[simp] theorem enqueue_clk (p : Packet) : (enqueue s p).clk = s.clk := rfl
@[simp] theorem enqueue_thr (p : Packet) : (enqueue s p).thr = s.thr := rfl
@[simp] theorem enqueue_ras (p : Packet) : (enqueue s p).ras = s.ras := rfl
@[simp] theorem enqueue_jrn (p : Packet) : (enqueue s p).jrn = s.jrn := rfl
@[simp] theorem enqueue_wear (p : Packet) : (enqueue s p).wear = s.wear := rfl
@[simp] theorem enqueue_host (p : Packet) : (enqueue s p).host = s.host := rfl
@[simp] theorem enqueue_mbx (p : Packet) : (enqueue s p).mbx = s.mbx := rfl
@[simp] theorem enqueue_clu (p : Packet) : (enqueue s p).clu = s.clu := rfl
@[simp] theorem enqueue_sync (p : Packet) : (enqueue s p).sync = s.sync := rfl
@[simp] theorem enqueue_mem (p : Packet) : (enqueue s p).mem = s.mem := rfl
@[simp] theorem enqueue_nbu (p : Packet) : (enqueue s p).nbu = s.nbu := rfl
@[simp] theorem enqueue_bus (p : Packet) : (enqueue s p).bus = s.bus := rfl
@[simp] theorem enqueue_deal (p : Packet) : (enqueue s p).deal = s.deal := rfl
@[simp] theorem enqueue_kv (p : Packet) : (enqueue s p).kv = s.kv := rfl

/-- All that `bumpBy` can change. -/
theorem bumpBy_eq (a n : Nat) : bumpBy s a n = { s with regs := (bumpBy s a n).regs, free := (bumpBy s a n).free } := by
  unfold bumpBy; dsimp only; split
  · rfl
  · split <;> rfl
@[simp] theorem bumpBy_pending (a n : Nat) : (bumpBy s a n).pending = s.pending := by rw [bumpBy_eq]
@[simp] theorem bumpBy_out (a n : Nat) : (bumpBy s a n).out = s.out := by rw [bumpBy_eq]
@[simp] theorem bumpBy_time (a n : Nat) : (bumpBy s a n).time = s.time := by rw [bumpBy_eq]
@[simp] theorem bumpBy_edge (a n : Nat) : (bumpBy s a n).edge = s.edge := by rw [bumpBy_eq]
@[simp] theorem bumpBy_fuses (a n : Nat) : (bumpBy s a n).fuses = s.fuses := by rw [bumpBy_eq]
@[simp] theorem bumpBy_flash (a n : Nat) : (bumpBy s a n).flash = s.flash := by rw [bumpBy_eq]
@[simp] theorem bumpBy_boot (a n : Nat) : (bumpBy s a n).boot = s.boot := by rw [bumpBy_eq]
@[simp] theorem bumpBy_sec (a n : Nat) : (bumpBy s a n).sec = s.sec := by rw [bumpBy_eq]
@[simp] theorem bumpBy_tap (a n : Nat) : (bumpBy s a n).tap = s.tap := by rw [bumpBy_eq]
@[simp] theorem bumpBy_blk (a n : Nat) : (bumpBy s a n).blk = s.blk := by rw [bumpBy_eq]
@[simp] theorem bumpBy_clk (a n : Nat) : (bumpBy s a n).clk = s.clk := by rw [bumpBy_eq]
@[simp] theorem bumpBy_thr (a n : Nat) : (bumpBy s a n).thr = s.thr := by rw [bumpBy_eq]
@[simp] theorem bumpBy_ras (a n : Nat) : (bumpBy s a n).ras = s.ras := by rw [bumpBy_eq]
@[simp] theorem bumpBy_jrn (a n : Nat) : (bumpBy s a n).jrn = s.jrn := by rw [bumpBy_eq]
@[simp] theorem bumpBy_wear (a n : Nat) : (bumpBy s a n).wear = s.wear := by rw [bumpBy_eq]
@[simp] theorem bumpBy_host (a n : Nat) : (bumpBy s a n).host = s.host := by rw [bumpBy_eq]
@[simp] theorem bumpBy_mbx (a n : Nat) : (bumpBy s a n).mbx = s.mbx := by rw [bumpBy_eq]
@[simp] theorem bumpBy_clu (a n : Nat) : (bumpBy s a n).clu = s.clu := by rw [bumpBy_eq]
@[simp] theorem bumpBy_sync (a n : Nat) : (bumpBy s a n).sync = s.sync := by rw [bumpBy_eq]
@[simp] theorem bumpBy_mem (a n : Nat) : (bumpBy s a n).mem = s.mem := by rw [bumpBy_eq]
@[simp] theorem bumpBy_nbu (a n : Nat) : (bumpBy s a n).nbu = s.nbu := by rw [bumpBy_eq]
@[simp] theorem bumpBy_bus (a n : Nat) : (bumpBy s a n).bus = s.bus := by rw [bumpBy_eq]
@[simp] theorem bumpBy_fab (a n : Nat) : (bumpBy s a n).fab = s.fab := by rw [bumpBy_eq]
@[simp] theorem bumpBy_deal (a n : Nat) : (bumpBy s a n).deal = s.deal := by rw [bumpBy_eq]
@[simp] theorem bumpBy_kv (a n : Nat) : (bumpBy s a n).kv = s.kv := by rw [bumpBy_eq]

/-- All that `bump` can change. -/
theorem bump_eq (a : Nat) : bump s a = { s with regs := (bump s a).regs, free := (bump s a).free } := bumpBy_eq s a 1
@[simp] theorem bump_pending (a : Nat) : (bump s a).pending = s.pending := by rw [bump_eq]
@[simp] theorem bump_out (a : Nat) : (bump s a).out = s.out := by rw [bump_eq]
@[simp] theorem bump_time (a : Nat) : (bump s a).time = s.time := by rw [bump_eq]
@[simp] theorem bump_edge (a : Nat) : (bump s a).edge = s.edge := by rw [bump_eq]
@[simp] theorem bump_fuses (a : Nat) : (bump s a).fuses = s.fuses := by rw [bump_eq]
@[simp] theorem bump_flash (a : Nat) : (bump s a).flash = s.flash := by rw [bump_eq]
@[simp] theorem bump_boot (a : Nat) : (bump s a).boot = s.boot := by rw [bump_eq]
@[simp] theorem bump_sec (a : Nat) : (bump s a).sec = s.sec := by rw [bump_eq]
@[simp] theorem bump_tap (a : Nat) : (bump s a).tap = s.tap := by rw [bump_eq]
@[simp] theorem bump_blk (a : Nat) : (bump s a).blk = s.blk := by rw [bump_eq]
@[simp] theorem bump_clk (a : Nat) : (bump s a).clk = s.clk := by rw [bump_eq]
@[simp] theorem bump_thr (a : Nat) : (bump s a).thr = s.thr := by rw [bump_eq]
@[simp] theorem bump_ras (a : Nat) : (bump s a).ras = s.ras := by rw [bump_eq]
@[simp] theorem bump_jrn (a : Nat) : (bump s a).jrn = s.jrn := by rw [bump_eq]
@[simp] theorem bump_wear (a : Nat) : (bump s a).wear = s.wear := by rw [bump_eq]
@[simp] theorem bump_host (a : Nat) : (bump s a).host = s.host := by rw [bump_eq]
@[simp] theorem bump_mbx (a : Nat) : (bump s a).mbx = s.mbx := by rw [bump_eq]
@[simp] theorem bump_clu (a : Nat) : (bump s a).clu = s.clu := by rw [bump_eq]
@[simp] theorem bump_sync (a : Nat) : (bump s a).sync = s.sync := by rw [bump_eq]
@[simp] theorem bump_mem (a : Nat) : (bump s a).mem = s.mem := by rw [bump_eq]
@[simp] theorem bump_nbu (a : Nat) : (bump s a).nbu = s.nbu := by rw [bump_eq]
@[simp] theorem bump_bus (a : Nat) : (bump s a).bus = s.bus := by rw [bump_eq]
@[simp] theorem bump_fab (a : Nat) : (bump s a).fab = s.fab := by rw [bump_eq]
@[simp] theorem bump_deal (a : Nat) : (bump s a).deal = s.deal := by rw [bump_eq]
@[simp] theorem bump_kv (a : Nat) : (bump s a).kv = s.kv := by rw [bump_eq]

/-- All that `hostRef` can change. -/
theorem hostRef_eq : hostRef s = { s with regs := (hostRef s).regs, free := (hostRef s).free, host := (hostRef s).host } := by
  unfold hostRef; rw [bump_eq]
@[simp] theorem hostRef_pending : (hostRef s).pending = s.pending := by rw [hostRef_eq]
@[simp] theorem hostRef_out : (hostRef s).out = s.out := by rw [hostRef_eq]
@[simp] theorem hostRef_time : (hostRef s).time = s.time := by rw [hostRef_eq]
@[simp] theorem hostRef_edge : (hostRef s).edge = s.edge := by rw [hostRef_eq]
@[simp] theorem hostRef_fuses : (hostRef s).fuses = s.fuses := by rw [hostRef_eq]
@[simp] theorem hostRef_flash : (hostRef s).flash = s.flash := by rw [hostRef_eq]
@[simp] theorem hostRef_boot : (hostRef s).boot = s.boot := by rw [hostRef_eq]
@[simp] theorem hostRef_sec : (hostRef s).sec = s.sec := by rw [hostRef_eq]
@[simp] theorem hostRef_tap : (hostRef s).tap = s.tap := by rw [hostRef_eq]
@[simp] theorem hostRef_blk : (hostRef s).blk = s.blk := by rw [hostRef_eq]
@[simp] theorem hostRef_clk : (hostRef s).clk = s.clk := by rw [hostRef_eq]
@[simp] theorem hostRef_thr : (hostRef s).thr = s.thr := by rw [hostRef_eq]
@[simp] theorem hostRef_ras : (hostRef s).ras = s.ras := by rw [hostRef_eq]
@[simp] theorem hostRef_jrn : (hostRef s).jrn = s.jrn := by rw [hostRef_eq]
@[simp] theorem hostRef_wear : (hostRef s).wear = s.wear := by rw [hostRef_eq]
@[simp] theorem hostRef_mbx : (hostRef s).mbx = s.mbx := by rw [hostRef_eq]
@[simp] theorem hostRef_clu : (hostRef s).clu = s.clu := by rw [hostRef_eq]
@[simp] theorem hostRef_sync : (hostRef s).sync = s.sync := by rw [hostRef_eq]
@[simp] theorem hostRef_mem : (hostRef s).mem = s.mem := by rw [hostRef_eq]
@[simp] theorem hostRef_nbu : (hostRef s).nbu = s.nbu := by rw [hostRef_eq]
@[simp] theorem hostRef_bus : (hostRef s).bus = s.bus := by rw [hostRef_eq]
@[simp] theorem hostRef_fab : (hostRef s).fab = s.fab := by rw [hostRef_eq]
@[simp] theorem hostRef_deal : (hostRef s).deal = s.deal := by rw [hostRef_eq]
@[simp] theorem hostRef_kv : (hostRef s).kv = s.kv := by rw [hostRef_eq]

/-- All that `msix` can change. -/
theorem msix_eq (f v : Nat) : msix s f v = { s with out := (msix s f v).out, host := (msix s f v).host } := by
  unfold msix; dsimp only; split
  · rfl
  · split <;> rfl
@[simp] theorem msix_pending (f v : Nat) : (msix s f v).pending = s.pending := by rw [msix_eq]
@[simp] theorem msix_free (f v : Nat) : (msix s f v).free = s.free := by rw [msix_eq]
@[simp] theorem msix_time (f v : Nat) : (msix s f v).time = s.time := by rw [msix_eq]
@[simp] theorem msix_edge (f v : Nat) : (msix s f v).edge = s.edge := by rw [msix_eq]
@[simp] theorem msix_fuses (f v : Nat) : (msix s f v).fuses = s.fuses := by rw [msix_eq]
@[simp] theorem msix_flash (f v : Nat) : (msix s f v).flash = s.flash := by rw [msix_eq]
@[simp] theorem msix_boot (f v : Nat) : (msix s f v).boot = s.boot := by rw [msix_eq]
@[simp] theorem msix_sec (f v : Nat) : (msix s f v).sec = s.sec := by rw [msix_eq]
@[simp] theorem msix_tap (f v : Nat) : (msix s f v).tap = s.tap := by rw [msix_eq]
@[simp] theorem msix_regs (f v : Nat) : (msix s f v).regs = s.regs := by rw [msix_eq]
@[simp] theorem msix_blk (f v : Nat) : (msix s f v).blk = s.blk := by rw [msix_eq]
@[simp] theorem msix_clk (f v : Nat) : (msix s f v).clk = s.clk := by rw [msix_eq]
@[simp] theorem msix_thr (f v : Nat) : (msix s f v).thr = s.thr := by rw [msix_eq]
@[simp] theorem msix_ras (f v : Nat) : (msix s f v).ras = s.ras := by rw [msix_eq]
@[simp] theorem msix_jrn (f v : Nat) : (msix s f v).jrn = s.jrn := by rw [msix_eq]
@[simp] theorem msix_wear (f v : Nat) : (msix s f v).wear = s.wear := by rw [msix_eq]
@[simp] theorem msix_mbx (f v : Nat) : (msix s f v).mbx = s.mbx := by rw [msix_eq]
@[simp] theorem msix_clu (f v : Nat) : (msix s f v).clu = s.clu := by rw [msix_eq]
@[simp] theorem msix_sync (f v : Nat) : (msix s f v).sync = s.sync := by rw [msix_eq]
@[simp] theorem msix_mem (f v : Nat) : (msix s f v).mem = s.mem := by rw [msix_eq]
@[simp] theorem msix_nbu (f v : Nat) : (msix s f v).nbu = s.nbu := by rw [msix_eq]
@[simp] theorem msix_bus (f v : Nat) : (msix s f v).bus = s.bus := by rw [msix_eq]
@[simp] theorem msix_fab (f v : Nat) : (msix s f v).fab = s.fab := by rw [msix_eq]
@[simp] theorem msix_deal (f v : Nat) : (msix s f v).deal = s.deal := by rw [msix_eq]
@[simp] theorem msix_kv (f v : Nat) : (msix s f v).kv = s.kv := by rw [msix_eq]

/-- All that `fnEvent` can change. -/
theorem fnEvent_eq (f b : Nat) : fnEvent s f b = { s with out := (fnEvent s f b).out, host := (fnEvent s f b).host } := by
  unfold fnEvent; dsimp only; split
  · rw [msix_eq]; rfl
  · rfl
@[simp] theorem fnEvent_pending (f b : Nat) : (fnEvent s f b).pending = s.pending := by rw [fnEvent_eq]
@[simp] theorem fnEvent_free (f b : Nat) : (fnEvent s f b).free = s.free := by rw [fnEvent_eq]
@[simp] theorem fnEvent_time (f b : Nat) : (fnEvent s f b).time = s.time := by rw [fnEvent_eq]
@[simp] theorem fnEvent_edge (f b : Nat) : (fnEvent s f b).edge = s.edge := by rw [fnEvent_eq]
@[simp] theorem fnEvent_fuses (f b : Nat) : (fnEvent s f b).fuses = s.fuses := by rw [fnEvent_eq]
@[simp] theorem fnEvent_flash (f b : Nat) : (fnEvent s f b).flash = s.flash := by rw [fnEvent_eq]
@[simp] theorem fnEvent_boot (f b : Nat) : (fnEvent s f b).boot = s.boot := by rw [fnEvent_eq]
@[simp] theorem fnEvent_sec (f b : Nat) : (fnEvent s f b).sec = s.sec := by rw [fnEvent_eq]
@[simp] theorem fnEvent_tap (f b : Nat) : (fnEvent s f b).tap = s.tap := by rw [fnEvent_eq]
@[simp] theorem fnEvent_regs (f b : Nat) : (fnEvent s f b).regs = s.regs := by rw [fnEvent_eq]
@[simp] theorem fnEvent_blk (f b : Nat) : (fnEvent s f b).blk = s.blk := by rw [fnEvent_eq]
@[simp] theorem fnEvent_clk (f b : Nat) : (fnEvent s f b).clk = s.clk := by rw [fnEvent_eq]
@[simp] theorem fnEvent_thr (f b : Nat) : (fnEvent s f b).thr = s.thr := by rw [fnEvent_eq]
@[simp] theorem fnEvent_ras (f b : Nat) : (fnEvent s f b).ras = s.ras := by rw [fnEvent_eq]
@[simp] theorem fnEvent_jrn (f b : Nat) : (fnEvent s f b).jrn = s.jrn := by rw [fnEvent_eq]
@[simp] theorem fnEvent_wear (f b : Nat) : (fnEvent s f b).wear = s.wear := by rw [fnEvent_eq]
@[simp] theorem fnEvent_mbx (f b : Nat) : (fnEvent s f b).mbx = s.mbx := by rw [fnEvent_eq]
@[simp] theorem fnEvent_clu (f b : Nat) : (fnEvent s f b).clu = s.clu := by rw [fnEvent_eq]
@[simp] theorem fnEvent_sync (f b : Nat) : (fnEvent s f b).sync = s.sync := by rw [fnEvent_eq]
@[simp] theorem fnEvent_mem (f b : Nat) : (fnEvent s f b).mem = s.mem := by rw [fnEvent_eq]
@[simp] theorem fnEvent_nbu (f b : Nat) : (fnEvent s f b).nbu = s.nbu := by rw [fnEvent_eq]
@[simp] theorem fnEvent_bus (f b : Nat) : (fnEvent s f b).bus = s.bus := by rw [fnEvent_eq]
@[simp] theorem fnEvent_fab (f b : Nat) : (fnEvent s f b).fab = s.fab := by rw [fnEvent_eq]
@[simp] theorem fnEvent_deal (f b : Nat) : (fnEvent s f b).deal = s.deal := by rw [fnEvent_eq]
@[simp] theorem fnEvent_kv (f b : Nat) : (fnEvent s f b).kv = s.kv := by rw [fnEvent_eq]

/-- All that `raiseIsr` can change. -/
theorem raiseIsr_eq (pg : Nat) (m : W32) : raiseIsr s pg m = { s with regs := (raiseIsr s pg m).regs, out := (raiseIsr s pg m).out, host := (raiseIsr s pg m).host } := by
  unfold raiseIsr; dsimp only; split
  · rw [msix_eq]; rfl
  · rfl
@[simp] theorem raiseIsr_pending (pg : Nat) (m : W32) : (raiseIsr s pg m).pending = s.pending := by rw [raiseIsr_eq]
@[simp] theorem raiseIsr_free (pg : Nat) (m : W32) : (raiseIsr s pg m).free = s.free := by rw [raiseIsr_eq]
@[simp] theorem raiseIsr_time (pg : Nat) (m : W32) : (raiseIsr s pg m).time = s.time := by rw [raiseIsr_eq]
@[simp] theorem raiseIsr_edge (pg : Nat) (m : W32) : (raiseIsr s pg m).edge = s.edge := by rw [raiseIsr_eq]
@[simp] theorem raiseIsr_fuses (pg : Nat) (m : W32) : (raiseIsr s pg m).fuses = s.fuses := by rw [raiseIsr_eq]
@[simp] theorem raiseIsr_flash (pg : Nat) (m : W32) : (raiseIsr s pg m).flash = s.flash := by rw [raiseIsr_eq]
@[simp] theorem raiseIsr_boot (pg : Nat) (m : W32) : (raiseIsr s pg m).boot = s.boot := by rw [raiseIsr_eq]
@[simp] theorem raiseIsr_sec (pg : Nat) (m : W32) : (raiseIsr s pg m).sec = s.sec := by rw [raiseIsr_eq]
@[simp] theorem raiseIsr_tap (pg : Nat) (m : W32) : (raiseIsr s pg m).tap = s.tap := by rw [raiseIsr_eq]
@[simp] theorem raiseIsr_blk (pg : Nat) (m : W32) : (raiseIsr s pg m).blk = s.blk := by rw [raiseIsr_eq]
@[simp] theorem raiseIsr_clk (pg : Nat) (m : W32) : (raiseIsr s pg m).clk = s.clk := by rw [raiseIsr_eq]
@[simp] theorem raiseIsr_thr (pg : Nat) (m : W32) : (raiseIsr s pg m).thr = s.thr := by rw [raiseIsr_eq]
@[simp] theorem raiseIsr_ras (pg : Nat) (m : W32) : (raiseIsr s pg m).ras = s.ras := by rw [raiseIsr_eq]
@[simp] theorem raiseIsr_jrn (pg : Nat) (m : W32) : (raiseIsr s pg m).jrn = s.jrn := by rw [raiseIsr_eq]
@[simp] theorem raiseIsr_wear (pg : Nat) (m : W32) : (raiseIsr s pg m).wear = s.wear := by rw [raiseIsr_eq]
@[simp] theorem raiseIsr_mbx (pg : Nat) (m : W32) : (raiseIsr s pg m).mbx = s.mbx := by rw [raiseIsr_eq]
@[simp] theorem raiseIsr_clu (pg : Nat) (m : W32) : (raiseIsr s pg m).clu = s.clu := by rw [raiseIsr_eq]
@[simp] theorem raiseIsr_sync (pg : Nat) (m : W32) : (raiseIsr s pg m).sync = s.sync := by rw [raiseIsr_eq]
@[simp] theorem raiseIsr_mem (pg : Nat) (m : W32) : (raiseIsr s pg m).mem = s.mem := by rw [raiseIsr_eq]
@[simp] theorem raiseIsr_nbu (pg : Nat) (m : W32) : (raiseIsr s pg m).nbu = s.nbu := by rw [raiseIsr_eq]
@[simp] theorem raiseIsr_bus (pg : Nat) (m : W32) : (raiseIsr s pg m).bus = s.bus := by rw [raiseIsr_eq]
@[simp] theorem raiseIsr_fab (pg : Nat) (m : W32) : (raiseIsr s pg m).fab = s.fab := by rw [raiseIsr_eq]
@[simp] theorem raiseIsr_deal (pg : Nat) (m : W32) : (raiseIsr s pg m).deal = s.deal := by rw [raiseIsr_eq]
@[simp] theorem raiseIsr_kv (pg : Nat) (m : W32) : (raiseIsr s pg m).kv = s.kv := by rw [raiseIsr_eq]

/-- All that `setBlk` can change. -/
theorem setBlk_eq (b : Blk) (i : Nat) (st : BState) : setBlk s b i st = { s with regs := (setBlk s b i st).regs, out := (setBlk s b i st).out, host := (setBlk s b i st).host, blk := (setBlk s b i st).blk } := by
  unfold setBlk; split
  · rfl
  · rw [raiseIsr_eq]
@[simp] theorem setBlk_pending (b : Blk) (i : Nat) (st : BState) : (setBlk s b i st).pending = s.pending := by rw [setBlk_eq]
@[simp] theorem setBlk_free (b : Blk) (i : Nat) (st : BState) : (setBlk s b i st).free = s.free := by rw [setBlk_eq]
@[simp] theorem setBlk_time (b : Blk) (i : Nat) (st : BState) : (setBlk s b i st).time = s.time := by rw [setBlk_eq]
@[simp] theorem setBlk_edge (b : Blk) (i : Nat) (st : BState) : (setBlk s b i st).edge = s.edge := by rw [setBlk_eq]
@[simp] theorem setBlk_fuses (b : Blk) (i : Nat) (st : BState) : (setBlk s b i st).fuses = s.fuses := by rw [setBlk_eq]
@[simp] theorem setBlk_flash (b : Blk) (i : Nat) (st : BState) : (setBlk s b i st).flash = s.flash := by rw [setBlk_eq]
@[simp] theorem setBlk_boot (b : Blk) (i : Nat) (st : BState) : (setBlk s b i st).boot = s.boot := by rw [setBlk_eq]
@[simp] theorem setBlk_sec (b : Blk) (i : Nat) (st : BState) : (setBlk s b i st).sec = s.sec := by rw [setBlk_eq]
@[simp] theorem setBlk_tap (b : Blk) (i : Nat) (st : BState) : (setBlk s b i st).tap = s.tap := by rw [setBlk_eq]
@[simp] theorem setBlk_clk (b : Blk) (i : Nat) (st : BState) : (setBlk s b i st).clk = s.clk := by rw [setBlk_eq]
@[simp] theorem setBlk_thr (b : Blk) (i : Nat) (st : BState) : (setBlk s b i st).thr = s.thr := by rw [setBlk_eq]
@[simp] theorem setBlk_ras (b : Blk) (i : Nat) (st : BState) : (setBlk s b i st).ras = s.ras := by rw [setBlk_eq]
@[simp] theorem setBlk_jrn (b : Blk) (i : Nat) (st : BState) : (setBlk s b i st).jrn = s.jrn := by rw [setBlk_eq]
@[simp] theorem setBlk_wear (b : Blk) (i : Nat) (st : BState) : (setBlk s b i st).wear = s.wear := by rw [setBlk_eq]
@[simp] theorem setBlk_mbx (b : Blk) (i : Nat) (st : BState) : (setBlk s b i st).mbx = s.mbx := by rw [setBlk_eq]
@[simp] theorem setBlk_clu (b : Blk) (i : Nat) (st : BState) : (setBlk s b i st).clu = s.clu := by rw [setBlk_eq]
@[simp] theorem setBlk_sync (b : Blk) (i : Nat) (st : BState) : (setBlk s b i st).sync = s.sync := by rw [setBlk_eq]
@[simp] theorem setBlk_mem (b : Blk) (i : Nat) (st : BState) : (setBlk s b i st).mem = s.mem := by rw [setBlk_eq]
@[simp] theorem setBlk_nbu (b : Blk) (i : Nat) (st : BState) : (setBlk s b i st).nbu = s.nbu := by rw [setBlk_eq]
@[simp] theorem setBlk_bus (b : Blk) (i : Nat) (st : BState) : (setBlk s b i st).bus = s.bus := by rw [setBlk_eq]
@[simp] theorem setBlk_fab (b : Blk) (i : Nat) (st : BState) : (setBlk s b i st).fab = s.fab := by rw [setBlk_eq]
@[simp] theorem setBlk_deal (b : Blk) (i : Nat) (st : BState) : (setBlk s b i st).deal = s.deal := by rw [setBlk_eq]
@[simp] theorem setBlk_kv (b : Blk) (i : Nat) (st : BState) : (setBlk s b i st).kv = s.kv := by rw [setBlk_eq]

/-- All that `errCe` can change. -/
theorem errCe_eq (b : Blk) (i : Nat) : errCe s b i = { s with regs := (errCe s b i).regs, free := (errCe s b i).free, out := (errCe s b i).out, host := (errCe s b i).host } := by
  unfold errCe; rw [raiseIsr_eq, bump_eq]
@[simp] theorem errCe_pending (b : Blk) (i : Nat) : (errCe s b i).pending = s.pending := by rw [errCe_eq]
@[simp] theorem errCe_time (b : Blk) (i : Nat) : (errCe s b i).time = s.time := by rw [errCe_eq]
@[simp] theorem errCe_edge (b : Blk) (i : Nat) : (errCe s b i).edge = s.edge := by rw [errCe_eq]
@[simp] theorem errCe_fuses (b : Blk) (i : Nat) : (errCe s b i).fuses = s.fuses := by rw [errCe_eq]
@[simp] theorem errCe_flash (b : Blk) (i : Nat) : (errCe s b i).flash = s.flash := by rw [errCe_eq]
@[simp] theorem errCe_boot (b : Blk) (i : Nat) : (errCe s b i).boot = s.boot := by rw [errCe_eq]
@[simp] theorem errCe_sec (b : Blk) (i : Nat) : (errCe s b i).sec = s.sec := by rw [errCe_eq]
@[simp] theorem errCe_tap (b : Blk) (i : Nat) : (errCe s b i).tap = s.tap := by rw [errCe_eq]
@[simp] theorem errCe_blk (b : Blk) (i : Nat) : (errCe s b i).blk = s.blk := by rw [errCe_eq]
@[simp] theorem errCe_clk (b : Blk) (i : Nat) : (errCe s b i).clk = s.clk := by rw [errCe_eq]
@[simp] theorem errCe_thr (b : Blk) (i : Nat) : (errCe s b i).thr = s.thr := by rw [errCe_eq]
@[simp] theorem errCe_ras (b : Blk) (i : Nat) : (errCe s b i).ras = s.ras := by rw [errCe_eq]
@[simp] theorem errCe_jrn (b : Blk) (i : Nat) : (errCe s b i).jrn = s.jrn := by rw [errCe_eq]
@[simp] theorem errCe_wear (b : Blk) (i : Nat) : (errCe s b i).wear = s.wear := by rw [errCe_eq]
@[simp] theorem errCe_mbx (b : Blk) (i : Nat) : (errCe s b i).mbx = s.mbx := by rw [errCe_eq]
@[simp] theorem errCe_clu (b : Blk) (i : Nat) : (errCe s b i).clu = s.clu := by rw [errCe_eq]
@[simp] theorem errCe_sync (b : Blk) (i : Nat) : (errCe s b i).sync = s.sync := by rw [errCe_eq]
@[simp] theorem errCe_mem (b : Blk) (i : Nat) : (errCe s b i).mem = s.mem := by rw [errCe_eq]
@[simp] theorem errCe_nbu (b : Blk) (i : Nat) : (errCe s b i).nbu = s.nbu := by rw [errCe_eq]
@[simp] theorem errCe_bus (b : Blk) (i : Nat) : (errCe s b i).bus = s.bus := by rw [errCe_eq]
@[simp] theorem errCe_fab (b : Blk) (i : Nat) : (errCe s b i).fab = s.fab := by rw [errCe_eq]
@[simp] theorem errCe_deal (b : Blk) (i : Nat) : (errCe s b i).deal = s.deal := by rw [errCe_eq]
@[simp] theorem errCe_kv (b : Blk) (i : Nat) : (errCe s b i).kv = s.kv := by rw [errCe_eq]

/-- All that `errUe` can change. -/
theorem errUe_eq (b : Blk) (i : Nat) : errUe s b i = { s with regs := (errUe s b i).regs, free := (errUe s b i).free, out := (errUe s b i).out, host := (errUe s b i).host } := by
  unfold errUe; rw [raiseIsr_eq, bump_eq]
@[simp] theorem errUe_pending (b : Blk) (i : Nat) : (errUe s b i).pending = s.pending := by rw [errUe_eq]
@[simp] theorem errUe_time (b : Blk) (i : Nat) : (errUe s b i).time = s.time := by rw [errUe_eq]
@[simp] theorem errUe_edge (b : Blk) (i : Nat) : (errUe s b i).edge = s.edge := by rw [errUe_eq]
@[simp] theorem errUe_fuses (b : Blk) (i : Nat) : (errUe s b i).fuses = s.fuses := by rw [errUe_eq]
@[simp] theorem errUe_flash (b : Blk) (i : Nat) : (errUe s b i).flash = s.flash := by rw [errUe_eq]
@[simp] theorem errUe_boot (b : Blk) (i : Nat) : (errUe s b i).boot = s.boot := by rw [errUe_eq]
@[simp] theorem errUe_sec (b : Blk) (i : Nat) : (errUe s b i).sec = s.sec := by rw [errUe_eq]
@[simp] theorem errUe_tap (b : Blk) (i : Nat) : (errUe s b i).tap = s.tap := by rw [errUe_eq]
@[simp] theorem errUe_blk (b : Blk) (i : Nat) : (errUe s b i).blk = s.blk := by rw [errUe_eq]
@[simp] theorem errUe_clk (b : Blk) (i : Nat) : (errUe s b i).clk = s.clk := by rw [errUe_eq]
@[simp] theorem errUe_thr (b : Blk) (i : Nat) : (errUe s b i).thr = s.thr := by rw [errUe_eq]
@[simp] theorem errUe_ras (b : Blk) (i : Nat) : (errUe s b i).ras = s.ras := by rw [errUe_eq]
@[simp] theorem errUe_jrn (b : Blk) (i : Nat) : (errUe s b i).jrn = s.jrn := by rw [errUe_eq]
@[simp] theorem errUe_wear (b : Blk) (i : Nat) : (errUe s b i).wear = s.wear := by rw [errUe_eq]
@[simp] theorem errUe_mbx (b : Blk) (i : Nat) : (errUe s b i).mbx = s.mbx := by rw [errUe_eq]
@[simp] theorem errUe_clu (b : Blk) (i : Nat) : (errUe s b i).clu = s.clu := by rw [errUe_eq]
@[simp] theorem errUe_sync (b : Blk) (i : Nat) : (errUe s b i).sync = s.sync := by rw [errUe_eq]
@[simp] theorem errUe_mem (b : Blk) (i : Nat) : (errUe s b i).mem = s.mem := by rw [errUe_eq]
@[simp] theorem errUe_nbu (b : Blk) (i : Nat) : (errUe s b i).nbu = s.nbu := by rw [errUe_eq]
@[simp] theorem errUe_bus (b : Blk) (i : Nat) : (errUe s b i).bus = s.bus := by rw [errUe_eq]
@[simp] theorem errUe_fab (b : Blk) (i : Nat) : (errUe s b i).fab = s.fab := by rw [errUe_eq]
@[simp] theorem errUe_deal (b : Blk) (i : Nat) : (errUe s b i).deal = s.deal := by rw [errUe_eq]
@[simp] theorem errUe_kv (b : Blk) (i : Nat) : (errUe s b i).kv = s.kv := by rw [errUe_eq]

/-- All that `jrnPut` can change. -/
theorem jrnPut_eq (r : JRec) : jrnPut s r = { s with regs := (jrnPut s r).regs, free := (jrnPut s r).free, jrn := (jrnPut s r).jrn } := by
  unfold jrnPut; split
  · rfl
  · split
    · rfl
    · split
      · rfl
      · rw [bump_eq]
@[simp] theorem jrnPut_pending (r : JRec) : (jrnPut s r).pending = s.pending := by rw [jrnPut_eq]
@[simp] theorem jrnPut_out (r : JRec) : (jrnPut s r).out = s.out := by rw [jrnPut_eq]
@[simp] theorem jrnPut_time (r : JRec) : (jrnPut s r).time = s.time := by rw [jrnPut_eq]
@[simp] theorem jrnPut_edge (r : JRec) : (jrnPut s r).edge = s.edge := by rw [jrnPut_eq]
@[simp] theorem jrnPut_fuses (r : JRec) : (jrnPut s r).fuses = s.fuses := by rw [jrnPut_eq]
@[simp] theorem jrnPut_flash (r : JRec) : (jrnPut s r).flash = s.flash := by rw [jrnPut_eq]
@[simp] theorem jrnPut_boot (r : JRec) : (jrnPut s r).boot = s.boot := by rw [jrnPut_eq]
@[simp] theorem jrnPut_sec (r : JRec) : (jrnPut s r).sec = s.sec := by rw [jrnPut_eq]
@[simp] theorem jrnPut_tap (r : JRec) : (jrnPut s r).tap = s.tap := by rw [jrnPut_eq]
@[simp] theorem jrnPut_blk (r : JRec) : (jrnPut s r).blk = s.blk := by rw [jrnPut_eq]
@[simp] theorem jrnPut_clk (r : JRec) : (jrnPut s r).clk = s.clk := by rw [jrnPut_eq]
@[simp] theorem jrnPut_thr (r : JRec) : (jrnPut s r).thr = s.thr := by rw [jrnPut_eq]
@[simp] theorem jrnPut_ras (r : JRec) : (jrnPut s r).ras = s.ras := by rw [jrnPut_eq]
@[simp] theorem jrnPut_wear (r : JRec) : (jrnPut s r).wear = s.wear := by rw [jrnPut_eq]
@[simp] theorem jrnPut_host (r : JRec) : (jrnPut s r).host = s.host := by rw [jrnPut_eq]
@[simp] theorem jrnPut_mbx (r : JRec) : (jrnPut s r).mbx = s.mbx := by rw [jrnPut_eq]
@[simp] theorem jrnPut_clu (r : JRec) : (jrnPut s r).clu = s.clu := by rw [jrnPut_eq]
@[simp] theorem jrnPut_sync (r : JRec) : (jrnPut s r).sync = s.sync := by rw [jrnPut_eq]
@[simp] theorem jrnPut_mem (r : JRec) : (jrnPut s r).mem = s.mem := by rw [jrnPut_eq]
@[simp] theorem jrnPut_nbu (r : JRec) : (jrnPut s r).nbu = s.nbu := by rw [jrnPut_eq]
@[simp] theorem jrnPut_bus (r : JRec) : (jrnPut s r).bus = s.bus := by rw [jrnPut_eq]
@[simp] theorem jrnPut_fab (r : JRec) : (jrnPut s r).fab = s.fab := by rw [jrnPut_eq]
@[simp] theorem jrnPut_deal (r : JRec) : (jrnPut s r).deal = s.deal := by rw [jrnPut_eq]
@[simp] theorem jrnPut_kv (r : JRec) : (jrnPut s r).kv = s.kv := by rw [jrnPut_eq]

/-! `rasPut` changes the registers, the free values, what leaves, the functions' interrupts, the journal, the RAS block and the events only. -/
@[simp] theorem rasPut_pending (k v : Nat) (b : Blk) (i e a : Nat) : (rasPut s k v b i e a).pending = s.pending := by
  unfold rasPut; dsimp only; split <;> split <;> split <;> simp
@[simp] theorem rasPut_time (k v : Nat) (b : Blk) (i e a : Nat) : (rasPut s k v b i e a).time = s.time := by
  unfold rasPut; dsimp only; split <;> split <;> split <;> simp
@[simp] theorem rasPut_fuses (k v : Nat) (b : Blk) (i e a : Nat) : (rasPut s k v b i e a).fuses = s.fuses := by
  unfold rasPut; dsimp only; split <;> split <;> split <;> simp
@[simp] theorem rasPut_flash (k v : Nat) (b : Blk) (i e a : Nat) : (rasPut s k v b i e a).flash = s.flash := by
  unfold rasPut; dsimp only; split <;> split <;> split <;> simp
@[simp] theorem rasPut_boot (k v : Nat) (b : Blk) (i e a : Nat) : (rasPut s k v b i e a).boot = s.boot := by
  unfold rasPut; dsimp only; split <;> split <;> split <;> simp
@[simp] theorem rasPut_sec (k v : Nat) (b : Blk) (i e a : Nat) : (rasPut s k v b i e a).sec = s.sec := by
  unfold rasPut; dsimp only; split <;> split <;> split <;> simp
@[simp] theorem rasPut_tap (k v : Nat) (b : Blk) (i e a : Nat) : (rasPut s k v b i e a).tap = s.tap := by
  unfold rasPut; dsimp only; split <;> split <;> split <;> simp
@[simp] theorem rasPut_blk (k v : Nat) (b : Blk) (i e a : Nat) : (rasPut s k v b i e a).blk = s.blk := by
  unfold rasPut; dsimp only; split <;> split <;> split <;> simp
@[simp] theorem rasPut_clk (k v : Nat) (b : Blk) (i e a : Nat) : (rasPut s k v b i e a).clk = s.clk := by
  unfold rasPut; dsimp only; split <;> split <;> split <;> simp
@[simp] theorem rasPut_thr (k v : Nat) (b : Blk) (i e a : Nat) : (rasPut s k v b i e a).thr = s.thr := by
  unfold rasPut; dsimp only; split <;> split <;> split <;> simp
@[simp] theorem rasPut_wear (k v : Nat) (b : Blk) (i e a : Nat) : (rasPut s k v b i e a).wear = s.wear := by
  unfold rasPut; dsimp only; split <;> split <;> split <;> simp
@[simp] theorem rasPut_mbx (k v : Nat) (b : Blk) (i e a : Nat) : (rasPut s k v b i e a).mbx = s.mbx := by
  unfold rasPut; dsimp only; split <;> split <;> split <;> simp
@[simp] theorem rasPut_clu (k v : Nat) (b : Blk) (i e a : Nat) : (rasPut s k v b i e a).clu = s.clu := by
  unfold rasPut; dsimp only; split <;> split <;> split <;> simp
@[simp] theorem rasPut_sync (k v : Nat) (b : Blk) (i e a : Nat) : (rasPut s k v b i e a).sync = s.sync := by
  unfold rasPut; dsimp only; split <;> split <;> split <;> simp
@[simp] theorem rasPut_mem (k v : Nat) (b : Blk) (i e a : Nat) : (rasPut s k v b i e a).mem = s.mem := by
  unfold rasPut; dsimp only; split <;> split <;> split <;> simp
@[simp] theorem rasPut_nbu (k v : Nat) (b : Blk) (i e a : Nat) : (rasPut s k v b i e a).nbu = s.nbu := by
  unfold rasPut; dsimp only; split <;> split <;> split <;> simp
@[simp] theorem rasPut_bus (k v : Nat) (b : Blk) (i e a : Nat) : (rasPut s k v b i e a).bus = s.bus := by
  unfold rasPut; dsimp only; split <;> split <;> split <;> simp
@[simp] theorem rasPut_fab (k v : Nat) (b : Blk) (i e a : Nat) : (rasPut s k v b i e a).fab = s.fab := by
  unfold rasPut; dsimp only; split <;> split <;> split <;> simp
@[simp] theorem rasPut_deal (k v : Nat) (b : Blk) (i e a : Nat) : (rasPut s k v b i e a).deal = s.deal := by
  unfold rasPut; dsimp only; split <;> split <;> split <;> simp
@[simp] theorem rasPut_kv (k v : Nat) (b : Blk) (i e a : Nat) : (rasPut s k v b i e a).kv = s.kv := by
  unfold rasPut; dsimp only; split <;> split <;> split <;> simp
/-! What is set is what is read. -/
@[simp] theorem rdReg_wrReg_self (a : Nat) (v : W32) : rdReg (wrReg s a v) a = v := by simp [rdReg, wrReg, spFind_spSet_self]
theorem rdReg_wrReg_ne {a b : Nat} (v : W32) (h : b ≠ a) : rdReg (wrReg s a v) b = rdReg s b := by
  simp [rdReg, wrReg, spFind_spSet_ne _ h]
@[simp] theorem rdN_wrReg_self (a : Nat) (v : W32) : rdN (wrReg s a v) a = v.toNat := by simp [rdN]
theorem rdN_wrReg_ne {a b : Nat} (v : W32) (h : b ≠ a) : rdN (wrReg s a v) b = rdN s b := by simp [rdN, rdReg_wrReg_ne s v h]
/-- A register's value depends on the register file alone. -/
theorem rdReg_congr {s t : State} (h : t.regs = s.regs) (a : Nat) : rdReg t a = rdReg s a := by simp [rdReg, h]
theorem rdN_congr {s t : State} (h : t.regs = s.regs) (a : Nat) : rdN t a = rdN s a := by simp [rdN, rdReg, h]
@[simp] theorem getFn_setFn_self (f : Nat) (x : Func) : getFn (setFn s f x) f = x := by simp [getFn, setFn, spFind_spSet_self]
theorem getFn_setFn_ne {f g : Nat} (x : Func) (h : g ≠ f) : getFn (setFn s f x) g = getFn s g := by
  simp [getFn, setFn, funcReset, spFind_spSet_ne _ h]
@[simp] theorem getQ_setQ_self (q : Nat) (x : Queue) : getQ (setQ s q x) q = x := spGet_spSet_self ..
theorem getQ_setQ_ne {q r : Nat} (x : Queue) (h : r ≠ q) : getQ (setQ s q x) r = getQ s r := spGet_spSet_ne _ h
@[simp] theorem getC_setC_self (c : Nat) (k : Cluster) : getC (setC s c k) c = k := spGet_spSet_self ..
theorem getC_setC_ne {c d : Nat} (k : Cluster) (h : d ≠ c) : getC (setC s c k) d = getC s d := spGet_spSet_ne _ h
@[simp] theorem getU_setU_self (u : Nat) (x : Nbu) : getU (setU s u x) u = x := spGet_spSet_self ..
theorem getU_setU_ne {u v : Nat} (x : Nbu) (h : v ≠ u) : getU (setU s u x) v = getU s v := spGet_spSet_ne _ h
@[simp] theorem getE_setE_self (n : Nat) (x : Engine) : getE (setE s n x) n = x := spGet_spSet_self ..
theorem getE_setE_ne {n m : Nat} (x : Engine) (h : m ≠ n) : getE (setE s n x) m = getE s m := spGet_spSet_ne _ h
@[simp] theorem getM_setM_self (m : Nat) (x : Model) : getM (setM s m x) m = x := spGet_spSet_self ..
theorem getM_setM_ne {m n : Nat} (x : Model) (h : n ≠ m) : getM (setM s m x) n = getM s n := spGet_spSet_ne _ h
@[simp] theorem getSlot_setSlot_self (g : Nat) (x : SeqSlot) : getSlot (setSlot s g x) g = x := spGet_spSet_self ..
theorem getSlot_setSlot_ne {g h : Nat} (x : SeqSlot) (n : h ≠ g) : getSlot (setSlot s g x) h = getSlot s h := spGet_spSet_ne _ n
@[simp] theorem getMb_setMb_self (c : Nat) (x : Mbox) : getMb (setMb s c x) c = x := spGet_spSet_self ..
theorem getMb_setMb_ne {c d : Nat} (x : Mbox) (h : d ≠ c) : getMb (setMb s c x) d = getMb s d := spGet_spSet_ne _ h
@[simp] theorem getA_setA_self (a : Nat) (x : Acct) : getA (setA s a x) a = x := by simp [getA, setA, spFind_spSet_self]
theorem getA_setA_ne {a b : Nat} (x : Acct) (h : b ≠ a) : getA (setA s a x) b = getA s b := by simp [getA, setA, spFind_spSet_ne _ h]
@[simp] theorem semVal_setSem_self (d i v : Nat) : semVal (setSem s d i v) d i = v := spGet_spSet_self ..

/-! What the shared operations do, said once. -/
/-- A counter below its last value counts. -/
theorem rdN_bumpBy {a n : Nat} (h : rdN s a + n ≤ 0xFFFFFFFF) : rdN (bumpBy s a n) a = rdN s a + n := by
  simp [bumpBy, h, w32]; omega
/-- Sticky bits are gained, none is lost. -/
@[simp] theorem rdReg_orReg_self (a : Nat) (m : W32) : rdReg (orReg s a m) a = rdReg s a ||| m := by simp [orReg]
theorem rdReg_orReg_ne {a b : Nat} (m : W32) (h : b ≠ a) : rdReg (orReg s a m) b = rdReg s b := by simp [orReg, rdReg_wrReg_ne s _ h]
/-- An event changes its page's BLK_ISR and no other register. -/
theorem raiseIsr_regs (pg : Nat) (m : W32) : (raiseIsr s pg m).regs = (orReg s (pg + 0x14) m).regs := by
  unfold raiseIsr; dsimp only; split
  · rw [msix_eq]
  · rfl
theorem rdReg_raiseIsr_ne {pg a : Nat} (m : W32) (h : a ≠ pg + 0x14) : rdReg (raiseIsr s pg m) a = rdReg s a := by
  rw [rdReg_congr (raiseIsr_regs ..), rdReg_orReg_ne _ _ h]
theorem rdN_raiseIsr_ne {pg a : Nat} (m : W32) (h : a ≠ pg + 0x14) : rdN (raiseIsr s pg m) a = rdN s a := by
  simp [rdN, rdReg_raiseIsr_ne s m h]
@[simp] theorem rdReg_raiseIsr_self (pg : Nat) (m : W32) : rdReg (raiseIsr s pg m) (pg + 0x14) = rdReg s (pg + 0x14) ||| m := by
  rw [rdReg_congr (raiseIsr_regs ..), rdReg_orReg_self]
/-- A block's STATE after it is set; a CH or NBU page follows its stack instead. -/
theorem blkState_setBlk {b : Blk} (h1 : b ≠ .ch) (h2 : b ≠ .nbu) (i : Nat) (st : BState) : blkState (setBlk s b i st) b i = st := by
  unfold setBlk
  split
  · assumption
  · cases b <;> first | exact absurd rfl h1 | exact absurd rfl h2 | simp [blkState, spGet_spSet_self]
/-- STATE depends on the blocks' record alone. -/
theorem blkState_congr {s t : State} (h : t.blk = s.blk) (b : Blk) (i : Nat) : blkState t b i = blkState s b i := by
  simp only [blkState, h]
/-- A bit put into a register is read back. -/
theorem bit_putBit (w : W32) {i : Nat} (h : i < 32) (b : Bool) : bit (putBit w i b) i = b := by
  have hw : w32 (2 ^ i) = BitVec.twoPow 32 i := by
    apply BitVec.eq_of_toNat_eq; simp [w32, BitVec.toNat_twoPow]
  cases b <;> simp [putBit, setBit, clrBit, bit, hw, BitVec.getLsbD_twoPow, h]
theorem bit_wrBit (a : Nat) {i : Nat} (h : i < 32) (b : Bool) : bit (rdReg (wrBit s a i b) a) i = b := by
  rw [wrBit, rdReg_wrReg_self, bit_putBit _ h]
theorem mem_maxN : ∀ {l : List Nat} {a : Nat}, a ∈ l → a ≤ maxN l
  | [], _, h => by cases h
  | b :: t, a, h => by
    simp only [maxN]
    rcases List.mem_cons.1 h with rfl | h
    · omega
    · have := mem_maxN h; omega
/-- An access to a page of the PF and the dealer, by either, outside recovery, of a hub that is powered and not held
in reset. -/
theorem pgReach_pfOrDealer {mid : Nat} {b : Blk} (hm : midOf mid = 1 ∨ midOf mid = 0x101) (hu : hubUp s = true) (hr : s.boot.recovery = false)
    (hb : b ≠ .pcie ∧ b ≠ .deal ∧ b ≠ .svc ∧ b ≠ .que ∧ b ≠ .mbx) : pgReach s mid b = .yes := by
  rcases hm with h | h <;> cases b <;> simp_all [pgReach, present]


end Sys2Proof.Machine
end

