-- ==== Sys2Proof/Laws/Frame.lean ====
section
/-!
SUPPORT. What the shared operations leave of the registers and of the bytes, for the provers to cite: one lemma an
operation, beside the field lemmas of Laws/State.lean.
-/
namespace Sys2Proof.Machine
variable (s : State)

/-! ### Registers an operation does not write read as before -/

theorem rdReg_bumpBy_ne {a b : Nat} (n : Nat) (h : b ≠ a) : rdReg (bumpBy s a n) b = rdReg s b := by
  unfold bumpBy
  dsimp only
  split
  · exact rdReg_wrReg_ne s _ h
  · split
    · exact rdReg_wrReg_ne s _ h
    · rw [rdReg_wrReg_ne _ _ h]; exact rdReg_congr rfl b
theorem rdReg_bump_ne {a b : Nat} (h : b ≠ a) : rdReg (bump s a) b = rdReg s b := rdReg_bumpBy_ne s 1 h
theorem rdN_bump_ne {a b : Nat} (h : b ≠ a) : rdN (bump s a) b = rdN s b := by simp [rdN, rdReg_bump_ne s h]
theorem rdN_bump {a : Nat} (h : rdN s a < 0xFFFFFFFF) : rdN (bump s a) a = rdN s a + 1 := rdN_bumpBy s (by omega)
theorem rdReg_setBlk_ne {a : Nat} (b : Blk) (i : Nat) (st : BState) (h : a ≠ pageOf b i + 0x14) : rdReg (setBlk s b i st) a = rdReg s a := by
  unfold setBlk
  split
  · rfl
  · rw [rdReg_raiseIsr_ne _ _ h]; exact rdReg_congr rfl a
theorem rdReg_errCe_ne {a : Nat} (b : Blk) (i : Nat) (h : a ≠ pageOf b i + 0x14) (g : a ≠ pageOf b i + 0x20) : rdReg (errCe s b i) a = rdReg s a := by
  unfold errCe; rw [rdReg_raiseIsr_ne _ _ h, rdReg_bump_ne _ g]
theorem rdReg_errUe_ne {a : Nat} (b : Blk) (i : Nat) (h : a ≠ pageOf b i + 0x14) (g : a ≠ pageOf b i + 0x24) : rdReg (errUe s b i) a = rdReg s a := by
  unfold errUe; rw [rdReg_raiseIsr_ne _ _ h, rdReg_bump_ne _ g]
theorem rdReg_jrnPut_ne {a : Nat} (r : JRec) (h : a ≠ 0x5064) : rdReg (jrnPut s r) a = rdReg s a := by
  unfold jrnPut
  split
  · exact rdReg_congr rfl a
  · split
    · exact rdReg_congr rfl a
    · split
      · exact rdReg_congr rfl a
      · rw [rdReg_bump_ne _ h]; exact rdReg_congr rfl a
/-- A RAS record changes BLK_ISR and RAS_LOST of the RAS page and the journal's overflow count, no other register. -/
theorem rdReg_rasPut_ne {a : Nat} (k v : Nat) (b : Blk) (i e d : Nat) (h1 : a ≠ 0x4014) (h2 : a ≠ 0x4070) (h3 : a ≠ 0x5064) :
    rdReg (rasPut s k v b i e d) a = rdReg s a := by
  unfold rasPut
  dsimp only
  have h4 : ∀ x : State, rdReg (raiseIsr x 0x4000 1) a = rdReg x a := fun x => rdReg_raiseIsr_ne x _ h1
  have h5 : ∀ (x : State) r, rdReg (jrnPut x r) a = rdReg x a := fun x r => rdReg_jrnPut_ne x r h3
  have h6 : ∀ x : State, rdReg (bump x (0x4000 + 0x070)) a = rdReg x a := fun x => rdReg_bump_ne x h2
  have h7 : ∀ (x : State) e, rdReg (mgmt x e) a = rdReg x a := fun x e => rdReg_congr rfl a
  split <;> split <;> split <;> simp only [h4, h5, h6, h7] <;> exact rdReg_congr rfl a
theorem rdN_rasPut_ne {a : Nat} (k v : Nat) (b : Blk) (i e d : Nat) (h1 : a ≠ 0x4014) (h2 : a ≠ 0x4070) (h3 : a ≠ 0x5064) :
    rdN (rasPut s k v b i e d) a = rdN s a := by simp only [rdN, rdReg_rasPut_ne s k v b i e d h1 h2 h3]

/-! ### Tables: a read after a write, a deletion, a filter -/

/-- A filter by index leaves what it keeps, and what it drops reads as unlisted. -/
theorem spGet_filter {α : Type} {d : α} (p : Nat → Bool) : ∀ (m : Sparse α) (k : Nat), spGet d (m.filter (fun e => p e.1)) k = if p k then spGet d m k else d
  | [], k => by simp [spGet]
  | (i, w) :: t, k => by
    have ih := spGet_filter (d := d) p t k
    rw [List.filter_cons]
    by_cases hk : i = k
    · subst hk
      split
      · simp only [spGet, if_true]
      · rename_i hp; rw [ih, if_neg hp]
    · split
      · simp only [spGet, if_neg hk, ih]
      · simp only [spGet, if_neg hk, ih]
theorem spFind_filter {α : Type} (p : Nat → Bool) : ∀ (m : Sparse α) (k : Nat), spFind (m.filter (fun e => p e.1)) k = if p k then spFind m k else none
  | [], k => by simp [spFind]
  | (i, w) :: t, k => by
    have ih := spFind_filter p t k
    rw [List.filter_cons]
    by_cases hk : i = k
    · subst hk
      split
      · simp only [spFind, if_true]
      · rename_i hp; rw [ih, if_neg hp]
    · split
      · simp only [spFind, if_neg hk, ih]
      · simp only [spFind, if_neg hk, ih]
theorem spGet_spDel_self {α : Type} {d : α} (m : Sparse α) (k : Nat) : spGet d (spDel m k) k = d := by
  unfold spDel; rw [spGet_filter (fun i => i != k)]; simp
theorem spGet_spDel_ne {α : Type} {d : α} (m : Sparse α) {k j : Nat} (n : j ≠ k) : spGet d (spDel m k) j = spGet d m j := by
  unfold spDel; rw [spGet_filter (fun i => i != k)]; simp [n]
theorem spFind_spDel_self {α : Type} (m : Sparse α) (k : Nat) : spFind (spDel m k) k = none := by
  unfold spDel; rw [spFind_filter (fun i => i != k)]; simp
theorem spFind_spDel_ne {α : Type} (m : Sparse α) {k j : Nat} (n : j ≠ k) : spFind (spDel m k) j = spFind m j := by
  unfold spDel; rw [spFind_filter (fun i => i != k)]; simp [n]
theorem spGet_spPut_self {α : Type} [DecidableEq α] {d v : α} (m : Sparse α) (k : Nat) : spGet d (spPut d m k v) k = v := by
  unfold spPut
  split
  · subst v; exact spGet_spDel_self m k
  · exact spGet_spSet_self ..
theorem spGet_spPut_ne {α : Type} [DecidableEq α] {d v : α} (m : Sparse α) {k j : Nat} (n : j ≠ k) : spGet d (spPut d m k v) j = spGet d m j := by
  unfold spPut
  split
  · exact spGet_spDel_ne m n
  · exact spGet_spSet_ne _ n

/-! ### Bytes -/

theorem spGet_zeroBytes (m : Sparse Byte) (lo hi k : Nat) : spGet 0 (zeroBytes m lo hi) k = if lo ≤ k ∧ k < hi then 0 else spGet 0 m k := by
  unfold zeroBytes
  rw [spGet_filter (fun i => decide (i < lo) || decide (hi ≤ i)) m k]
  by_cases a : lo ≤ k ∧ k < hi
  · rw [if_pos a, if_neg (by simp; omega)]
  · rw [if_neg a, if_pos (by simp; omega)]
theorem spGet_fErase (m : Sparse Byte) (lo hi k : Nat) : spGet 0xFF (fErase m lo hi) k = if lo ≤ k ∧ k < hi then 0xFF else spGet 0xFF m k := by
  unfold fErase
  rw [spGet_filter (fun i => decide (i < lo) || decide (hi ≤ i)) m k]
  by_cases a : lo ≤ k ∧ k < hi
  · rw [if_pos a, if_neg (by simp; omega)]
  · rw [if_neg a, if_pos (by simp; omega)]
theorem spGet_wrBytes : ∀ (bs : List Byte) (m : Sparse Byte) (p k : Nat),
    spGet 0 (wrBytes m p bs) k = if p ≤ k ∧ k < p + bs.length then bs.getD (k - p) 0 else spGet 0 m k
  | [], m, p, k => by simp [wrBytes] <;> omega
  | b :: t, m, p, k => by
    unfold wrBytes
    rw [spGet_wrBytes t _ (p + 1) k]
    by_cases e : k = p
    · subst e
      rw [if_neg (by omega), spGet_spPut_self, if_pos (by simp)]
      simp
    · rw [spGet_spPut_ne _ e]
      by_cases a : p + 1 ≤ k ∧ k < p + 1 + t.length
      · rw [if_pos a, if_pos (by simp; omega), show k - p = (k - (p + 1)) + 1 by omega, List.getD_cons_succ]
      · rw [if_neg a, if_neg (by simp; omega)]
theorem spGet_fProg : ∀ (bs : List Byte) (m : Sparse Byte) (p k : Nat),
    spGet 0xFF (fProg m p bs) k = if p ≤ k ∧ k < p + bs.length then spGet 0xFF m k &&& bs.getD (k - p) 0 else spGet 0xFF m k
  | [], m, p, k => by simp [fProg] <;> omega
  | b :: t, m, p, k => by
    unfold fProg
    rw [spGet_fProg t _ (p + 1) k]
    by_cases e : k = p
    · subst e
      rw [if_neg (by omega), spGet_spPut_self, if_pos (by simp)]
      simp
    · rw [spGet_spPut_ne _ e]
      by_cases a : p + 1 ≤ k ∧ k < p + 1 + t.length
      · rw [if_pos a, if_pos (by simp; omega), show k - p = (k - (p + 1)) + 1 by omega, List.getD_cons_succ]
      · rw [if_neg a, if_neg (by simp; omega)]
/-- The bytes of a span copied: what the destination then reads, and every other byte as before. -/
theorem spGet_copyBytes {m : Sparse Byte} (lo hi dst k : Nat) (h : spWf 0 m = true) :
    spGet 0 (copyBytes m lo hi dst) k = if dst ≤ k ∧ k < dst + (hi - lo) then spGet 0 m (lo + (k - dst)) else spGet 0 m k := by
  have key : ∀ (l acc : Sparse Byte) (b : Nat), spWfFrom 0 b l = true → (∀ e ∈ l, lo ≤ e.1) → spWf 0 acc = true →
      (∀ j, (∃ e ∈ l, dst + (e.1 - lo) = j) → spGet 0 acc j = 0) →
      ∀ j, spGet 0 (l.foldl (fun a e => spPut 0 a (dst + (e.1 - lo)) e.2) acc) j = if dst ≤ j ∧ spGet 0 l (lo + (j - dst)) ≠ 0 then spGet 0 l (lo + (j - dst)) else spGet 0 acc j := by
    intro l
    induction l with
    | nil => intro acc b _ _ _ _ j; simp [spGet]
    | cons e t ih =>
      intro acc b hw hl ha hz j
      obtain ⟨i, v⟩ := e
      simp only [spWfFrom, Bool.and_eq_true, decide_eq_true_eq] at hw
      have hi : lo ≤ i := hl (i, v) List.mem_cons_self
      have hge : ∀ e ∈ t, i < e.1 := by
        have : ∀ (t : Sparse Byte) (b : Nat), spWfFrom 0 b t = true → ∀ e ∈ t, b ≤ e.1 := by
          intro t
          induction t with
          | nil => intro _ _ e he; cases he
          | cons x xs ihx =>
            intro b hb e he
            simp only [spWfFrom, Bool.and_eq_true, decide_eq_true_eq] at hb
            rcases List.mem_cons.1 he with rfl | he
            · exact hb.1.1
            · have := ihx _ hb.2 e he; omega
        intro e he; have := this t _ hw.2 e he; omega
      rw [List.foldl_cons, ih _ (i + 1) hw.2 (fun e he => hl e (List.mem_cons_of_mem _ he)) (spPut_wf ha) ?_ j]
      · have hne : ∀ j', j' = dst + (i - lo) → spGet 0 t (lo + (j' - dst)) = 0 := by
          intro j' hj; apply spGet_above (lo := i + 1) _ hw.2; omega
        by_cases hj : j = dst + (i - lo)
        · rw [if_neg (by rintro ⟨_, hh⟩; exact hh (hne j hj)), hj, spGet_spPut_self]
          have e1 : lo + (dst + (i - lo) - dst) = i := by omega
          simp only [spGet, e1, if_true]
          rw [if_pos ⟨by omega, hw.1.2⟩]
        · rw [spGet_spPut_ne _ hj]
          by_cases hd : dst ≤ j
          · have e2 : spGet 0 ((i, v) :: t) (lo + (j - dst)) = spGet 0 t (lo + (j - dst)) := by
              simp only [spGet]
              rw [if_neg (by omega)]
            rw [e2]
          · rw [if_neg (by omega), if_neg (by omega)]
      · intro j' ⟨e, he, hej⟩
        have := hge e he
        rw [spGet_spPut_ne _ (by omega)]
        exact hz j' ⟨e, List.mem_cons_of_mem _ he, hej⟩
  unfold copyBytes
  have hf := filter_wfFrom (d := (0 : Byte)) (fun e => decide (lo ≤ e.1) && decide (e.1 < hi)) (lo := 0) h
  rw [key _ _ 0 hf ?_ (zeroBytes_wf h) ?_ k]
  · rw [spGet_filter (fun i => decide (lo ≤ i) && decide (i < hi)), spGet_zeroBytes]
    by_cases a : dst ≤ k ∧ k < dst + (hi - lo)
    · rw [if_pos a, if_pos (show (decide (lo ≤ lo + (k - dst)) && decide (lo + (k - dst) < hi)) = true by simp; omega), if_pos a]
      split
      · rfl
      · rename_i hh; rw [not_and] at hh
        exact (Decidable.not_not.1 (hh a.1)).symm
    · rw [if_neg a, if_neg a]
      by_cases b : dst ≤ k
      · rw [if_neg (show ¬ (decide (lo ≤ lo + (k - dst)) && decide (lo + (k - dst) < hi)) = true by simp; omega), if_neg (by simp)]
      · rw [if_neg (by omega)]
  · intro e he; simp at he; exact he.2.1
  · rintro j ⟨e, he, rfl⟩
    simp at he
    rw [spGet_zeroBytes, if_pos (by omega)]

end Sys2Proof.Machine
end

