-- ==== Sys2Proof/Laws/Keep.lean ====
section
/-!
SUPPORT. Keep, the relation every operation of the model stands in: its closure properties, and how a record update of the
state comes under it.
-/
namespace Sys2Proof.Machine

theorem FuseLe.refl (a : Fuses) : FuseLe a a := ⟨Nat.le_refl _, fun _ h => h, fun _ h => h, fun _ _ => rfl, id⟩
theorem FuseLe.trans {a b c : Fuses} (x : FuseLe a b) (y : FuseLe b c) : FuseLe a c :=
  ⟨Nat.le_trans x.svn y.svn, fun k h => y.prog k (x.prog k h), fun k h => y.rev k (x.rev k h),
    fun k h => (y.hash k (x.prog k h)).trans (x.hash k h), fun h => y.dbg (x.dbg h)⟩

theorem Keep.refl (s : State) : Keep s s := ⟨rfl, .refl _, id, Nat.le_refl _, [], rfl⟩
theorem Keep.trans {a b c : State} (x : Keep a b) (y : Keep b c) : Keep a c :=
  ⟨y.queue.trans x.queue, x.fuses.trans y.fuses, y.mem ∘ x.mem, Nat.le_trans x.free y.free, by
    obtain ⟨l, hl⟩ := x.out
    obtain ⟨m, hm⟩ := y.out
    exact ⟨m ++ l, by rw [hm, hl, List.append_assoc]⟩⟩

variable {s0 s : State}

/-- A record update that leaves the queue, the free counter, the output, the fuses, the memory and the flash alone. -/
theorem keep_of {time edge boot sec tap regs blk clk thr ras jrn wear host mbx clu sync nbu bus fab deal kv}
    (h : Keep s0 s) :
    Keep s0 (State.mk s.pending s.free s.out time edge s.fuses s.flash boot sec tap regs blk clk thr ras jrn wear host mbx clu
      sync s.mem nbu bus fab deal kv) :=
  h.trans ⟨rfl, .refl _, fun w => ⟨w.dram, w.lpd, w.scratch, w.flash⟩, Nat.le_refl _, [], rfl⟩
/-- The same with the memory's other parts changed. -/
theorem keep_mem {time edge boot sec tap regs blk clk thr ras jrn wear host mbx clu sync nbu bus fab deal kv
      poison scrPoison lines ways jokers rgn retags reloads inv tag0 tag1 stamp bootE temps waits}
    (h : Keep s0 s) :
    Keep s0 (State.mk s.pending s.free s.out time edge s.fuses s.flash boot sec tap regs blk clk thr ras jrn wear host mbx clu
      sync (Mem.mk s.mem.dram poison s.mem.lpd s.mem.scratch scrPoison lines ways jokers rgn retags reloads inv tag0 tag1 stamp
        bootE temps waits) nbu bus fab deal kv) :=
  h.trans ⟨rfl, .refl _, fun w => ⟨w.dram, w.lpd, w.scratch, w.flash⟩, Nat.le_refl _, [], rfl⟩
/-- The byte memories changed in their canonical form. -/
theorem keep_bytes {time edge boot sec tap regs blk clk thr ras jrn wear host mbx clu sync nbu bus fab deal kv
      dram lpd scratch poison scrPoison lines ways jokers rgn retags reloads inv tag0 tag1 stamp bootE temps waits}
    (h : Keep s0 s) (hd : Memory.wf s → spWf 0 dram = true) (hl : Memory.wf s → spWf 0 lpd = true)
    (hc : Memory.wf s → spWf 0 scratch = true) :
    Keep s0 (State.mk s.pending s.free s.out time edge s.fuses s.flash boot sec tap regs blk clk thr ras jrn wear host mbx clu
      sync (Mem.mk dram poison lpd scratch scrPoison lines ways jokers rgn retags reloads inv tag0 tag1 stamp
        bootE temps waits) nbu bus fab deal kv) :=
  h.trans ⟨rfl, .refl _, fun w => ⟨hd w, hl w, hc w, w.flash⟩, Nat.le_refl _, [], rfl⟩
/-- The flash changed in its canonical form. -/
theorem keep_flash {time edge flash boot sec tap regs blk clk thr ras jrn wear host mbx clu sync nbu bus fab deal kv}
    (h : Keep s0 s) (hf : Memory.wf s → spWf 0xFF flash = true) :
    Keep s0 (State.mk s.pending s.free s.out time edge s.fuses flash boot sec tap regs blk clk thr ras jrn wear host mbx clu
      sync s.mem nbu bus fab deal kv) :=
  h.trans ⟨rfl, .refl _, fun w => ⟨w.dram, w.lpd, w.scratch, hf w⟩, Nat.le_refl _, [], rfl⟩

theorem keep_useFree (h : Keep s0 s) : Keep s0 (useFree s) :=
  h.trans ⟨rfl, .refl _, fun w => ⟨w.dram, w.lpd, w.scratch, w.flash⟩, Nat.le_succ _, [], rfl⟩
theorem keep_emit {o : Out} (h : Keep s0 s) : Keep s0 (emit s o) :=
  h.trans ⟨rfl, .refl _, fun w => ⟨w.dram, w.lpd, w.scratch, w.flash⟩, Nat.le_refl _, [o], rfl⟩
theorem keep_free {n : Nat} (h : Keep s0 s) (hn : s.free ≤ n) : Keep s0 { s with free := n } :=
  h.trans ⟨rfl, .refl _, fun w => ⟨w.dram, w.lpd, w.scratch, w.flash⟩, hn, [], rfl⟩

theorem keep_foldl {α : Type} {f : State → α → State} {l : List α} (h : Keep s0 s)
    (hf : ∀ x a, Keep s0 x → Keep s0 (f x a)) : Keep s0 (l.foldl f s) := by
  induction l generalizing s with
  | nil => exact h
  | cons a t ih => exact ih (hf s a h)
theorem keep_ite {c : Prop} [Decidable c] {a b : State} (ha : c → Keep s0 a) (hb : ¬c → Keep s0 b) :
    Keep s0 (if c then a else b) := by
  split
  · exact ha (by assumption)
  · exact hb (by assumption)
/-- A fold over a state and something beside it. -/
theorem keep_foldl1 {α β : Type} {f : State × β → α → State × β} {l : List α} {p : State × β} (h : Keep s0 p.1)
    (hf : ∀ x a, Keep s0 x.1 → Keep s0 (f x a).1) : Keep s0 (l.foldl f p).1 := by
  induction l generalizing p with
  | nil => exact h
  | cons a t ih => exact ih (hf p a h)
theorem keep_foldl1_eq {α β : Type} {f : State × β → α → State × β} {l : List α} {p : State × β} {t : State} {b : β}
    (e : l.foldl f p = (t, b)) (h : Keep s0 p.1) (hf : ∀ x a, Keep s0 x.1 → Keep s0 (f x a).1) : Keep s0 t := by
  have := keep_foldl1 (l := l) h hf
  rw [e] at this
  exact this

/-- A meaning keeps what `Keep` says when it answers a next state. -/
structure KeepR (s0 : State) (r : Host.Outcome State Fault Refusal) : Prop where
  next : ∀ t, r = .next t → Keep s0 t
theorem keepR_next (h : Keep s0 s) : KeepR s0 (.next s) := ⟨fun _ e => by
  cases e
  exact h⟩
theorem keepR_refused {r : Refusal} : KeepR s0 (.refused r) := ⟨fun _ e => by cases e⟩
theorem keepR_ite {c : Prop} [Decidable c] {a b : Host.Outcome State Fault Refusal} (ha : c → KeepR s0 a)
    (hb : ¬c → KeepR s0 b) : KeepR s0 (if c then a else b) := by
  split
  · exact ha (by assumption)
  · exact hb (by assumption)

end Sys2Proof.Machine
end

