-- ==== Sys2Proof/Laws/KeepOps.lean ====
section
/-!
SUPPORT. Keep (the queue, the fuses, the byte memories, the free counter and the output) for every operation of Ops.
-/
set_option linter.unusedVariables false

namespace Sys2Proof.Machine

theorem keep_wrReg {s0 : State} {s : State} {a : Nat} {v : W32} (hs : Keep s0 s) : Keep s0 (wrReg s a v) := by
  unfold wrReg
  repeat' first | with_reducible assumption | intro _ | (with_reducible refine keep_of ?_; first | with_reducible assumption) | split | dsimp only
theorem keep_wrFld {s0 : State} {s : State} {a hi lo v : Nat} (hs : Keep s0 s) : Keep s0 (wrFld s a hi lo v) := by
  unfold wrFld
  repeat' first | with_reducible assumption | with_reducible apply keep_wrReg | intro _ | (with_reducible refine keep_of ?_; first | with_reducible assumption | with_reducible apply keep_wrReg) | split | dsimp only
theorem keep_wrBit {s0 : State} {s : State} {a i : Nat} {b : Bool} (hs : Keep s0 s) : Keep s0 (wrBit s a i b) := by
  unfold wrBit
  repeat' first | with_reducible assumption | with_reducible apply keep_wrReg | intro _ | (with_reducible refine keep_of ?_; first | with_reducible assumption | with_reducible apply keep_wrReg) | split | dsimp only
theorem keep_orReg {s0 : State} {s : State} {a : Nat} {m : W32} (hs : Keep s0 s) : Keep s0 (orReg s a m) := by
  unfold orReg
  repeat' first | with_reducible assumption | with_reducible apply keep_wrReg | intro _ | (with_reducible refine keep_of ?_; first | with_reducible assumption | with_reducible apply keep_wrReg) | split | dsimp only
theorem keep_takeFree {s0 : State} {s : State} {n : Nat} (hs : Keep s0 s) : Keep s0 (takeFree s n) :=
  keep_free hs (Nat.le_add_right _ _)
theorem keep_bumpBy {s0 : State} {s : State} {a n : Nat} (hs : Keep s0 s) : Keep s0 (bumpBy s a n) := by
  unfold bumpBy
  repeat' first | with_reducible assumption | with_reducible apply keep_wrReg | with_reducible apply keep_useFree | with_reducible apply keep_ite | intro _ | (with_reducible refine keep_of ?_; first | with_reducible assumption | with_reducible apply keep_wrReg | with_reducible apply keep_useFree) | split | dsimp only
theorem keep_bump {s0 : State} {s : State} {a : Nat} (hs : Keep s0 s) : Keep s0 (bump s a) := by
  unfold bump
  repeat' first | with_reducible assumption | with_reducible apply keep_bumpBy | intro _ | (with_reducible refine keep_of ?_; first | with_reducible assumption | with_reducible apply keep_bumpBy) | split | dsimp only
theorem keep_wrSel {s0 : State} {s : State} {a mid : Nat} {v : W32} (hs : Keep s0 s) : Keep s0 (wrSel s a mid v) := by
  unfold wrSel
  repeat' first | with_reducible assumption | intro _ | (with_reducible refine keep_of ?_; first | with_reducible assumption) | split | dsimp only
theorem keep_wrPair {s0 : State} {s : State} {lo v : Nat} (hs : Keep s0 s) : Keep s0 (wrPair s lo v) := by
  unfold wrPair
  repeat' first | with_reducible assumption | with_reducible apply keep_wrReg | intro _ | (with_reducible refine keep_of ?_; first | with_reducible assumption | with_reducible apply keep_wrReg) | split | dsimp only
theorem keep_setFn {s0 : State} {s : State} {f : Nat} {x : Func} (hs : Keep s0 s) : Keep s0 (setFn s f x) := by
  unfold setFn
  repeat' first | with_reducible assumption | intro _ | (with_reducible refine keep_of ?_; first | with_reducible assumption) | split | dsimp only
theorem keep_setQ {s0 : State} {s : State} {q : Nat} {x : Queue} (hs : Keep s0 s) : Keep s0 (setQ s q x) := by
  unfold setQ
  repeat' first | with_reducible assumption | intro _ | (with_reducible refine keep_of ?_; first | with_reducible assumption) | split | dsimp only
theorem keep_msix {s0 : State} {s : State} {f v : Nat} (hs : Keep s0 s) : Keep s0 (msix s f v) := by
  unfold msix
  repeat' first | with_reducible assumption | with_reducible apply keep_emit | with_reducible apply keep_setFn | with_reducible apply keep_ite | intro _ | (with_reducible refine keep_of ?_; first | with_reducible assumption | with_reducible apply keep_emit | with_reducible apply keep_setFn) | split | dsimp only
theorem keep_fnEvent {s0 : State} {s : State} {f b : Nat} (hs : Keep s0 s) : Keep s0 (fnEvent s f b) := by
  unfold fnEvent
  repeat' first | with_reducible assumption | with_reducible apply keep_setFn | with_reducible apply keep_msix | with_reducible apply keep_ite | intro _ | (with_reducible refine keep_of ?_; first | with_reducible assumption | with_reducible apply keep_setFn | with_reducible apply keep_msix) | split | dsimp only
theorem keep_raiseIsr {s0 : State} {s : State} {pg : Nat} {m : W32} (hs : Keep s0 s) : Keep s0 (raiseIsr s pg m) := by
  unfold raiseIsr
  repeat' first | with_reducible assumption | with_reducible apply keep_orReg | with_reducible apply keep_msix | with_reducible apply keep_ite | intro _ | (with_reducible refine keep_of ?_; first | with_reducible assumption | with_reducible apply keep_orReg | with_reducible apply keep_msix) | split | dsimp only
theorem keep_setBlk {s0 : State} {s : State} {b : Blk} {i : Nat} {st : BState} (hs : Keep s0 s) : Keep s0 (setBlk s b i st) := by
  unfold setBlk
  repeat' first | with_reducible assumption | with_reducible apply keep_raiseIsr | with_reducible apply keep_ite | intro _ | (with_reducible refine keep_of ?_; first | with_reducible assumption | with_reducible apply keep_raiseIsr) | split | dsimp only
theorem keep_hostRef {s0 : State} {s : State} (hs : Keep s0 s) : Keep s0 (hostRef s) := by
  unfold hostRef
  repeat' first | with_reducible assumption | with_reducible apply keep_bump | intro _ | (with_reducible refine keep_of ?_; first | with_reducible assumption | with_reducible apply keep_bump) | split | dsimp only
theorem keep_pageAccess {s0 : State} {s : State} {mid : Nat} {b : Blk} {f : State → State} (hs : Keep s0 s) (hf : ∀ y0, Keep s0 y0 → Keep s0 (f y0)) : Keep s0 (pageAccess s mid b f) := by
  unfold pageAccess
  repeat' first | with_reducible assumption | with_reducible apply hf | with_reducible apply keep_hostRef | intro _ | (with_reducible refine keep_of ?_; first | with_reducible assumption | with_reducible apply hf | with_reducible apply keep_hostRef) | split | dsimp only
theorem keep_mgmt {s0 : State} {s : State} {e : MEvent} (hs : Keep s0 s) : Keep s0 (mgmt s e) := by
  unfold mgmt
  repeat' first | with_reducible assumption | intro _ | (with_reducible refine keep_of ?_; first | with_reducible assumption) | split | dsimp only
theorem keep_jrnPut {s0 : State} {s : State} {r : JRec} (hs : Keep s0 s) : Keep s0 (jrnPut s r) := by
  unfold jrnPut
  repeat' first | with_reducible assumption | with_reducible apply keep_bump | with_reducible apply keep_ite | intro _ | (with_reducible refine keep_of ?_; first | with_reducible assumption | with_reducible apply keep_bump) | split | dsimp only
theorem keep_rasPut {s0 : State} {s : State} {kind sev : Nat} {b : Blk} {i elem addr : Nat} (hs : Keep s0 s) : Keep s0 (rasPut s kind sev b i elem addr) := by
  unfold rasPut
  repeat' first | with_reducible assumption | with_reducible apply keep_bump | with_reducible apply keep_raiseIsr | with_reducible apply keep_jrnPut | with_reducible apply keep_mgmt | with_reducible apply keep_ite | intro _ | (with_reducible refine keep_of ?_; first | with_reducible assumption | with_reducible apply keep_bump | with_reducible apply keep_raiseIsr | with_reducible apply keep_jrnPut | with_reducible apply keep_mgmt) | split | dsimp only
theorem keep_errCe {s0 : State} {s : State} {b : Blk} {i : Nat} (hs : Keep s0 s) : Keep s0 (errCe s b i) := by
  unfold errCe
  repeat' first | with_reducible assumption | with_reducible apply keep_raiseIsr | with_reducible apply keep_bump | intro _ | (with_reducible refine keep_of ?_; first | with_reducible assumption | with_reducible apply keep_raiseIsr | with_reducible apply keep_bump) | split | dsimp only
theorem keep_errUe {s0 : State} {s : State} {b : Blk} {i : Nat} (hs : Keep s0 s) : Keep s0 (errUe s b i) := by
  unfold errUe
  repeat' first | with_reducible assumption | with_reducible apply keep_raiseIsr | with_reducible apply keep_bump | intro _ | (with_reducible refine keep_of ?_; first | with_reducible assumption | with_reducible apply keep_raiseIsr | with_reducible apply keep_bump) | split | dsimp only
theorem keep_winAdd {s0 : State} {s : State} {b : Blk} {i elem : Nat} (hs : Keep s0 s) : Keep s0 (winAdd s b i elem).1 := by
  unfold winAdd
  repeat' first | with_reducible assumption | with_reducible apply keep_jrnPut | with_reducible apply keep_raiseIsr | with_reducible apply keep_ite | intro _ | (with_reducible refine keep_of ?_; first | with_reducible assumption | with_reducible apply keep_jrnPut | with_reducible apply keep_raiseIsr) | split | dsimp only
theorem keep_winAdd_eq {s0 : State} {s : State} {b : Blk} {i elem : Nat} {tz : State} {rz : Bool} (ez : winAdd s b i elem = (tz, rz)) (hs : Keep s0 s) : Keep s0 tz := by
  rw [show tz = (winAdd s b i elem).1 from by rw [ez]]
  exact keep_winAdd hs
theorem keep_report {s0 : State} {s : State} {r : Report} (hs : Keep s0 s) : Keep s0 (report s r) := by
  unfold report
  repeat' first | with_reducible assumption | intro _ | (with_reducible refine keep_of ?_; first | with_reducible assumption) | split | dsimp only
theorem keep_capacity {s0 : State} {s : State} (hs : Keep s0 s) : Keep s0 (capacity s) := by
  unfold capacity
  repeat' first | with_reducible assumption | intro _ | (with_reducible refine keep_of ?_; first | with_reducible assumption) | split | dsimp only

end Sys2Proof.Machine
end

