-- ==== Sys2Proof/Laws/KeepMem.lean ====
section
/-!
SUPPORT. Keep (the queue, the fuses, the byte memories, the free counter and the output) for every operation of MemOps, Repair, Access.
-/
set_option linter.unusedVariables false

namespace Sys2Proof.Machine

theorem keep_setRgn {s0 : State} {s : State} {r v : Nat} (hs : Keep s0 s) : Keep s0 (setRgn s r v) := by
  unfold setRgn
  repeat' first | with_reducible assumption | intro _ | (with_reducible refine keep_of ?_; first | with_reducible assumption) | (with_reducible refine keep_mem ?_; first | with_reducible assumption) | split | dsimp only
theorem keep_setClass {s0 : State} {s : State} {r cls mode : Nat} (hs : Keep s0 s) : Keep s0 (setClass s r cls mode) := by
  unfold setClass
  repeat' first | with_reducible assumption | with_reducible apply keep_setRgn | intro _ | (with_reducible refine keep_of ?_; first | with_reducible assumption | with_reducible apply keep_setRgn) | split | dsimp only
theorem keep_setWay {s0 : State} {s : State} {k w : Nat} {x : Way} (hs : Keep s0 s) : Keep s0 (setWay s k w x) := by
  unfold setWay
  repeat' first | with_reducible assumption | intro _ | (with_reducible refine keep_of ?_; first | with_reducible assumption) | (with_reducible refine keep_mem ?_; first | with_reducible assumption) | split | dsimp only
theorem keep_dropLine {s0 : State} {s : State} {base : Nat} (hs : Keep s0 s) : Keep s0 (dropLine s base) := by
  unfold dropLine
  repeat' first | with_reducible assumption | intro _ | (with_reducible refine keep_of ?_; first | with_reducible assumption) | (with_reducible refine keep_mem ?_; first | with_reducible assumption) | split | dsimp only
theorem keep_dramPut {s0 : State} {s : State} {p : Nat} {mir : Option Nat} {bs : List Byte} (hs : Keep s0 s) : Keep s0 (dramPut s p mir bs) := by
  unfold dramPut
  repeat' first | with_reducible assumption | intro _ | (with_reducible refine keep_of ?_; first | with_reducible assumption) | (with_reducible refine keep_mem ?_; first | with_reducible assumption) | ((with_reducible refine keep_bytes ?_ (fun w => ?_) (fun w => ?_) (fun w => ?_)) <;> first | with_reducible assumption | ((try dsimp only) <;> (repeat' first | exact spWf_nil | with_reducible exact w.dram | with_reducible exact w.lpd | with_reducible exact w.scratch | with_reducible exact w.flash | assumption | apply wrBytes_wf | apply zeroBytes_wf | apply copyBytes_wf | apply fProg_wf | apply fErase_wf | apply spPut_wf | apply foldl_wf | intro _ | split | rfl) <;> done)) | split | dsimp only
theorem keep_writeBack {s0 : State} {s : State} {l : Line} (hs : Keep s0 s) : Keep s0 (writeBack s l) := by
  unfold writeBack
  repeat' first | with_reducible assumption | with_reducible apply keep_dramPut | with_reducible apply keep_ite | intro _ | (with_reducible refine keep_of ?_; first | with_reducible assumption | with_reducible apply keep_dramPut) | (with_reducible refine keep_mem ?_; first | with_reducible assumption | with_reducible apply keep_dramPut) | ((with_reducible refine keep_bytes ?_ (fun w => ?_) (fun w => ?_) (fun w => ?_)) <;> first | with_reducible assumption | with_reducible apply keep_dramPut | ((try dsimp only) <;> (repeat' first | exact spWf_nil | with_reducible exact w.dram | with_reducible exact w.lpd | with_reducible exact w.scratch | with_reducible exact w.flash | assumption | apply wrBytes_wf | apply zeroBytes_wf | apply copyBytes_wf | apply fProg_wf | apply fErase_wf | apply spPut_wf | apply foldl_wf | intro _ | split | rfl) <;> done)) | split | dsimp only
theorem keep_flushLines {s0 : State} {s : State} {f : Line → Bool} (hs : Keep s0 s) : Keep s0 (flushLines s f) := by
  unfold flushLines
  repeat' first | with_reducible assumption | with_reducible apply keep_writeBack | with_reducible apply keep_foldl | with_reducible apply keep_foldl1 | with_reducible refine keep_foldl1_eq (by assumption) ?_ ?_ | intro _ | (with_reducible refine keep_of ?_; first | with_reducible assumption | with_reducible apply keep_writeBack | with_reducible apply keep_foldl | with_reducible apply keep_foldl1 | with_reducible refine keep_foldl1_eq (by assumption) ?_ ?_) | (with_reducible refine keep_mem ?_; first | with_reducible assumption | with_reducible apply keep_writeBack | with_reducible apply keep_foldl | with_reducible apply keep_foldl1 | with_reducible refine keep_foldl1_eq (by assumption) ?_ ?_) | split | dsimp only
theorem keep_dropLines {s0 : State} {s : State} {f : Line → Bool} (hs : Keep s0 s) : Keep s0 (dropLines s f) := by
  unfold dropLines
  repeat' first | with_reducible assumption | intro _ | (with_reducible refine keep_of ?_; first | with_reducible assumption) | (with_reducible refine keep_mem ?_; first | with_reducible assumption) | split | dsimp only
theorem keep_install {s0 : State} {s : State} {k : Nat} {ws : List Nat} {base : Nat} {d : List Byte} {dirty : Bool} (hs : Keep s0 s) : Keep s0 (install s k ws base d dirty) := by
  unfold install
  repeat' first | with_reducible assumption | with_reducible apply keep_dropLine | with_reducible apply keep_writeBack | intro _ | (with_reducible refine keep_of ?_; first | with_reducible assumption | with_reducible apply keep_dropLine | with_reducible apply keep_writeBack) | (with_reducible refine keep_mem ?_; first | with_reducible assumption | with_reducible apply keep_dropLine | with_reducible apply keep_writeBack) | split | dsimp only
theorem keep_touch {s0 : State} {s : State} {base : Nat} (hs : Keep s0 s) : Keep s0 (touch s base) := by
  unfold touch
  repeat' first | with_reducible assumption | with_reducible apply keep_ite | intro _ | (with_reducible refine keep_of ?_; first | with_reducible assumption) | (with_reducible refine keep_mem ?_; first | with_reducible assumption) | split | dsimp only
theorem keep_regionRetired {s0 : State} {s : State} {r : Nat} (hs : Keep s0 s) : Keep s0 (regionRetired s r) := by
  unfold regionRetired
  repeat' first | with_reducible assumption | with_reducible apply keep_setRgn | with_reducible apply keep_jrnPut | with_reducible apply keep_rasPut | with_reducible apply keep_ite | intro _ | (with_reducible refine keep_of ?_; first | with_reducible assumption | with_reducible apply keep_setRgn | with_reducible apply keep_jrnPut | with_reducible apply keep_rasPut) | split | dsimp only
theorem keep_reloadStart {s0 : State} {s : State} {r : Nat} (hs : Keep s0 s) : Keep s0 (reloadStart s r) := by
  unfold reloadStart
  repeat' first | with_reducible assumption | with_reducible apply keep_setClass | with_reducible apply keep_dropLines | with_reducible apply keep_ite | intro _ | (with_reducible refine keep_of ?_; first | with_reducible assumption | with_reducible apply keep_setClass | with_reducible apply keep_dropLines) | (with_reducible refine keep_mem ?_; first | with_reducible assumption | with_reducible apply keep_setClass | with_reducible apply keep_dropLines) | split | dsimp only
theorem keep_setU {s0 : State} {s : State} {u : Nat} {x : Nbu} (hs : Keep s0 s) : Keep s0 (setU s u x) := by
  unfold setU
  repeat' first | with_reducible assumption | intro _ | (with_reducible refine keep_of ?_; first | with_reducible assumption) | split | dsimp only
theorem keep_copyUnit {s0 : State} {s : State} {src dst : Nat} (hs : Keep s0 s) : Keep s0 (copyUnit s src dst) := by
  unfold copyUnit
  repeat' first | with_reducible assumption | with_reducible apply keep_setU | with_reducible apply keep_wrReg | with_reducible apply keep_foldl | with_reducible apply keep_foldl1 | with_reducible refine keep_foldl1_eq (by assumption) ?_ ?_ | intro _ | (with_reducible refine keep_of ?_; first | with_reducible assumption | with_reducible apply keep_setU | with_reducible apply keep_wrReg | with_reducible apply keep_foldl | with_reducible apply keep_foldl1 | with_reducible refine keep_foldl1_eq (by assumption) ?_ ?_) | split | dsimp only
theorem keep_jrnRemap {s0 : State} {s : State} {stk : Nat} (hs : Keep s0 s) : Keep s0 (jrnRemap s stk) := by
  unfold jrnRemap
  repeat' first | with_reducible assumption | with_reducible apply keep_jrnPut | intro _ | (with_reducible refine keep_of ?_; first | with_reducible assumption | with_reducible apply keep_jrnPut) | split | dsimp only
theorem keep_movePair {s0 : State} {s : State} {stk lch pair jc jp n : Nat} (hs : Keep s0 s) : Keep s0 (movePair s stk lch pair jc jp n) := by
  unfold movePair
  repeat' first | with_reducible assumption | with_reducible apply keep_wrReg | with_reducible apply keep_wrBit | with_reducible apply keep_jrnRemap | with_reducible apply keep_copyUnit | with_reducible apply keep_foldl | with_reducible apply keep_foldl1 | with_reducible refine keep_foldl1_eq (by assumption) ?_ ?_ | with_reducible apply keep_ite | intro _ | (with_reducible refine keep_of ?_; first | with_reducible assumption | with_reducible apply keep_wrReg | with_reducible apply keep_wrBit | with_reducible apply keep_jrnRemap | with_reducible apply keep_copyUnit | with_reducible apply keep_foldl | with_reducible apply keep_foldl1 | with_reducible refine keep_foldl1_eq (by assumption) ?_ ?_) | (with_reducible refine keep_mem ?_; first | with_reducible assumption | with_reducible apply keep_wrReg | with_reducible apply keep_wrBit | with_reducible apply keep_jrnRemap | with_reducible apply keep_copyUnit | with_reducible apply keep_foldl | with_reducible apply keep_foldl1 | with_reducible refine keep_foldl1_eq (by assumption) ?_ ?_) | ((with_reducible refine keep_bytes ?_ (fun w => ?_) (fun w => ?_) (fun w => ?_)) <;> first | with_reducible assumption | with_reducible apply keep_wrReg | with_reducible apply keep_wrBit | with_reducible apply keep_jrnRemap | with_reducible apply keep_copyUnit | with_reducible apply keep_foldl | with_reducible apply keep_foldl1 | with_reducible refine keep_foldl1_eq (by assumption) ?_ ?_ | ((try dsimp only) <;> (repeat' first | exact spWf_nil | with_reducible exact w.dram | with_reducible exact w.lpd | with_reducible exact w.scratch | with_reducible exact w.flash | assumption | apply wrBytes_wf | apply zeroBytes_wf | apply copyBytes_wf | apply fProg_wf | apply fErase_wf | apply spPut_wf | apply foldl_wf | intro _ | split | rfl) <;> done)) | split | dsimp only
theorem keep_retirePairC {s0 : State} {s : State} {stk lch pair : Nat} (hs : Keep s0 s) : Keep s0 (retirePairC s stk lch pair) := by
  unfold retirePairC
  repeat' first | with_reducible assumption | with_reducible apply keep_movePair | with_reducible apply keep_setClass | with_reducible apply keep_report | with_reducible apply keep_foldl | with_reducible apply keep_foldl1 | with_reducible refine keep_foldl1_eq (by assumption) ?_ ?_ | with_reducible apply keep_ite | intro _ | (with_reducible refine keep_of ?_; first | with_reducible assumption | with_reducible apply keep_movePair | with_reducible apply keep_setClass | with_reducible apply keep_report | with_reducible apply keep_foldl | with_reducible apply keep_foldl1 | with_reducible refine keep_foldl1_eq (by assumption) ?_ ?_) | split | dsimp only
theorem keep_retireRow {s0 : State} {s : State} {p : Nat} (hs : Keep s0 s) : Keep s0 (retireRow s p) := by
  unfold retireRow
  repeat' first | with_reducible assumption | with_reducible apply keep_retirePairC | with_reducible apply keep_regionRetired | with_reducible apply keep_ite | intro _ | (with_reducible refine keep_of ?_; first | with_reducible assumption | with_reducible apply keep_retirePairC | with_reducible apply keep_regionRetired) | split | dsimp only
theorem keep_repairRow {s0 : State} {s : State} {p count : Nat} (hs : Keep s0 s) : Keep s0 (repairRow s p count) := by
  unfold repairRow
  repeat' first | with_reducible assumption | with_reducible apply keep_wrFld | with_reducible apply keep_bump | with_reducible apply keep_jrnPut | with_reducible apply keep_rasPut | intro _ | (with_reducible refine keep_of ?_; first | with_reducible assumption | with_reducible apply keep_wrFld | with_reducible apply keep_bump | with_reducible apply keep_jrnPut | with_reducible apply keep_rasPut) | split | dsimp only
theorem keep_rowFail {s0 : State} {s : State} {p : Nat} (hs : Keep s0 s) : Keep s0 (rowFail s p) := by
  unfold rowFail
  repeat' first | with_reducible assumption | with_reducible apply keep_retireRow | with_reducible apply keep_repairRow | with_reducible apply keep_ite | intro _ | (with_reducible refine keep_of ?_; first | with_reducible assumption | with_reducible apply keep_retireRow | with_reducible apply keep_repairRow) | split | dsimp only
theorem keep_migEnds {s0 : State} {s : State} {stk : Nat} (hs : Keep s0 s) : Keep s0 (migEnds s stk) := by
  unfold migEnds
  repeat' first | with_reducible assumption | with_reducible apply keep_wrReg | with_reducible apply keep_ite | intro _ | (with_reducible refine keep_of ?_; first | with_reducible assumption | with_reducible apply keep_wrReg) | split | dsimp only
theorem keep_forgetBytes {s0 : State} {s : State} {stk : Nat} (hs : Keep s0 s) : Keep s0 (forgetBytes s stk) := by
  unfold forgetBytes
  repeat' first | with_reducible assumption | intro _ | (with_reducible refine keep_of ?_; first | with_reducible assumption) | (with_reducible refine keep_mem ?_; first | with_reducible assumption) | ((with_reducible refine keep_bytes ?_ (fun w => ?_) (fun w => ?_) (fun w => ?_)) <;> first | with_reducible assumption | ((try dsimp only) <;> (repeat' first | exact spWf_nil | with_reducible exact w.dram | with_reducible exact w.lpd | with_reducible exact w.scratch | with_reducible exact w.flash | assumption | apply wrBytes_wf | apply zeroBytes_wf | apply copyBytes_wf | apply fProg_wf | apply fErase_wf | apply spPut_wf | apply foldl_wf | intro _ | split | rfl) <;> done)) | split | dsimp only
theorem keep_forgetStack {s0 : State} {s : State} {stk : Nat} (hs : Keep s0 s) : Keep s0 (forgetStack s stk) := by
  unfold forgetStack
  repeat' first | with_reducible assumption | with_reducible apply keep_forgetBytes | with_reducible apply keep_migEnds | intro _ | (with_reducible refine keep_of ?_; first | with_reducible assumption | with_reducible apply keep_forgetBytes | with_reducible apply keep_migEnds) | split | dsimp only
theorem keep_stackLost {s0 : State} {s : State} {stk : Nat} (hs : Keep s0 s) : Keep s0 (stackLost s stk) := by
  unfold stackLost
  repeat' first | with_reducible assumption | with_reducible apply keep_setClass | with_reducible apply keep_dropLines | with_reducible apply keep_forgetStack | with_reducible apply keep_report | with_reducible apply keep_foldl | with_reducible apply keep_foldl1 | with_reducible refine keep_foldl1_eq (by assumption) ?_ ?_ | intro _ | (with_reducible refine keep_of ?_; first | with_reducible assumption | with_reducible apply keep_setClass | with_reducible apply keep_dropLines | with_reducible apply keep_forgetStack | with_reducible apply keep_report | with_reducible apply keep_foldl | with_reducible apply keep_foldl1 | with_reducible refine keep_foldl1_eq (by assumption) ?_ ?_) | (with_reducible refine keep_mem ?_; first | with_reducible assumption | with_reducible apply keep_setClass | with_reducible apply keep_dropLines | with_reducible apply keep_forgetStack | with_reducible apply keep_report | with_reducible apply keep_foldl | with_reducible apply keep_foldl1 | with_reducible refine keep_foldl1_eq (by assumption) ?_ ?_) | split | dsimp only
theorem keep_retireStack {s0 : State} {s : State} {stk : Nat} (hs : Keep s0 s) : Keep s0 (retireStack s stk) := by
  unfold retireStack
  repeat' first | with_reducible assumption | with_reducible apply keep_stackLost | with_reducible apply keep_setBlk | with_reducible apply keep_wrBit | with_reducible apply keep_jrnPut | with_reducible apply keep_rasPut | with_reducible apply keep_capacity | with_reducible apply keep_mgmt | with_reducible apply keep_ite | intro _ | (with_reducible refine keep_of ?_; first | with_reducible assumption | with_reducible apply keep_stackLost | with_reducible apply keep_setBlk | with_reducible apply keep_wrBit | with_reducible apply keep_jrnPut | with_reducible apply keep_rasPut | with_reducible apply keep_capacity | with_reducible apply keep_mgmt) | split | dsimp only
theorem keep_migBegin {s0 : State} {s : State} {stk n j : Nat} (hs : Keep s0 s) : Keep s0 (migBegin s stk n j) := by
  unfold migBegin
  repeat' first | with_reducible assumption | with_reducible apply keep_rasPut | intro _ | (with_reducible refine keep_of ?_; first | with_reducible assumption | with_reducible apply keep_rasPut) | split | dsimp only
theorem keep_migRequest {s0 : State} {s : State} {stk n : Nat} (hs : Keep s0 s) : Keep s0 (migRequest s stk n) := by
  unfold migRequest
  repeat' first | with_reducible assumption | with_reducible apply keep_migBegin | with_reducible apply keep_retireStack | intro _ | (with_reducible refine keep_of ?_; first | with_reducible assumption | with_reducible apply keep_migBegin | with_reducible apply keep_retireStack) | split | dsimp only
theorem keep_migJokerBad {s0 : State} {s : State} {stk : Nat} (hs : Keep s0 s) : Keep s0 (migJokerBad s stk) := by
  unfold migJokerBad
  repeat' first | with_reducible assumption | with_reducible apply keep_wrBit | with_reducible apply keep_wrReg | with_reducible apply keep_rasPut | with_reducible apply keep_migRequest | with_reducible apply keep_ite | intro _ | (with_reducible refine keep_of ?_; first | with_reducible assumption | with_reducible apply keep_wrBit | with_reducible apply keep_wrReg | with_reducible apply keep_rasPut | with_reducible apply keep_migRequest) | split | dsimp only
theorem keep_chCross {s0 : State} {s : State} {stk ch : Nat} (hs : Keep s0 s) : Keep s0 (chCross s stk ch) := by
  unfold chCross
  repeat' first | with_reducible assumption | with_reducible apply keep_migJokerBad | with_reducible apply keep_migRequest | with_reducible apply keep_ite | intro _ | (with_reducible refine keep_of ?_; first | with_reducible assumption | with_reducible apply keep_migJokerBad | with_reducible apply keep_migRequest) | split | dsimp only
theorem keep_chCount {s0 : State} {s : State} {ch : Nat} (hs : Keep s0 s) : Keep s0 (chCount s ch) := by
  unfold chCount
  repeat' first | with_reducible assumption | with_reducible apply keep_winAdd | with_reducible apply keep_chCross | with_reducible refine keep_winAdd_eq (by assumption) ?_ | with_reducible apply keep_ite | intro _ | (with_reducible refine keep_of ?_; first | with_reducible assumption | with_reducible apply keep_winAdd | with_reducible apply keep_chCross | with_reducible refine keep_winAdd_eq (by assumption) ?_) | split | dsimp only
theorem keep_tsvFail {s0 : State} {s : State} {ch lane : Nat} (hs : Keep s0 s) : Keep s0 (tsvFail s ch lane) := by
  unfold tsvFail
  repeat' first | with_reducible assumption | with_reducible apply keep_jrnPut | with_reducible apply keep_rasPut | with_reducible apply keep_migRequest | with_reducible apply keep_ite | intro _ | (with_reducible refine keep_of ?_; first | with_reducible assumption | with_reducible apply keep_jrnPut | with_reducible apply keep_rasPut | with_reducible apply keep_migRequest) | split | dsimp only
theorem keep_tsvCount {s0 : State} {s : State} {ch lane : Nat} (hs : Keep s0 s) : Keep s0 (tsvCount s ch lane) := by
  unfold tsvCount
  repeat' first | with_reducible assumption | with_reducible apply keep_tsvFail | with_reducible apply keep_ite | intro _ | (with_reducible refine keep_of ?_; first | with_reducible assumption | with_reducible apply keep_tsvFail) | split | dsimp only
theorem keep_rowCe {s0 : State} {s : State} {p : Nat} (hs : Keep s0 s) : Keep s0 (rowCe s p) := by
  unfold rowCe
  repeat' first | with_reducible assumption | with_reducible apply keep_rowFail | with_reducible apply keep_ite | intro _ | (with_reducible refine keep_of ?_; first | with_reducible assumption | with_reducible apply keep_rowFail) | split | dsimp only
theorem keep_eCorrected {s0 : State} {s : State} {p _a : Nat} (hs : Keep s0 s) : Keep s0 (eCorrected s p _a) := by
  unfold eCorrected
  repeat' first | with_reducible assumption | with_reducible apply keep_errCe | with_reducible apply keep_wrPair | with_reducible apply keep_rowCe | with_reducible apply keep_chCount | intro _ | (with_reducible refine keep_of ?_; first | with_reducible assumption | with_reducible apply keep_errCe | with_reducible apply keep_wrPair | with_reducible apply keep_rowCe | with_reducible apply keep_chCount) | split | dsimp only
theorem keep_ueAddr {s0 : State} {s : State} {p : Nat} (hs : Keep s0 s) : Keep s0 (ueAddr s p) := by
  unfold ueAddr
  repeat' first | with_reducible assumption | with_reducible apply keep_wrPair | intro _ | (with_reducible refine keep_of ?_; first | with_reducible assumption | with_reducible apply keep_wrPair) | split | dsimp only
theorem keep_eUncorrectable {s0 : State} {s : State} {p a : Nat} (hs : Keep s0 s) : Keep s0 (eUncorrectable s p a) := by
  unfold eUncorrectable
  repeat' first | with_reducible assumption | with_reducible apply keep_ueAddr | with_reducible apply keep_errUe | with_reducible apply keep_chCount | with_reducible apply keep_rowFail | with_reducible apply keep_regionRetired | with_reducible apply keep_ite | intro _ | (with_reducible refine keep_of ?_; first | with_reducible assumption | with_reducible apply keep_ueAddr | with_reducible apply keep_errUe | with_reducible apply keep_chCount | with_reducible apply keep_rowFail | with_reducible apply keep_regionRetired) | (with_reducible refine keep_mem ?_; first | with_reducible assumption | with_reducible apply keep_ueAddr | with_reducible apply keep_errUe | with_reducible apply keep_chCount | with_reducible apply keep_rowFail | with_reducible apply keep_regionRetired) | split | dsimp only
theorem keep_cMismatch {s0 : State} {s : State} {p a : Nat} (hs : Keep s0 s) : Keep s0 (cMismatch s p a) := by
  unfold cMismatch
  repeat' first | with_reducible assumption | with_reducible apply keep_ueAddr | with_reducible apply keep_errUe | with_reducible apply keep_chCount | with_reducible apply keep_rowFail | with_reducible apply keep_reloadStart | with_reducible apply keep_regionRetired | with_reducible apply keep_retirePairC | with_reducible apply keep_ite | intro _ | (with_reducible refine keep_of ?_; first | with_reducible assumption | with_reducible apply keep_ueAddr | with_reducible apply keep_errUe | with_reducible apply keep_chCount | with_reducible apply keep_rowFail | with_reducible apply keep_reloadStart | with_reducible apply keep_regionRetired | with_reducible apply keep_retirePairC) | split | dsimp only
theorem keep_jrnWays {s0 : State} {s : State} {k : Nat} (hs : Keep s0 s) : Keep s0 (jrnWays s k) := by
  unfold jrnWays
  repeat' first | with_reducible assumption | with_reducible apply keep_jrnPut | intro _ | (with_reducible refine keep_of ?_; first | with_reducible assumption | with_reducible apply keep_jrnPut) | split | dsimp only
theorem keep_wayCross {s0 : State} {s : State} {k w : Nat} (hs : Keep s0 s) : Keep s0 (wayCross s k w) := by
  unfold wayCross
  repeat' first | with_reducible assumption | with_reducible apply keep_flushLines | with_reducible apply keep_setWay | with_reducible apply keep_jrnWays | with_reducible apply keep_rasPut | with_reducible apply keep_capacity | with_reducible apply keep_ite | intro _ | (with_reducible refine keep_of ?_; first | with_reducible assumption | with_reducible apply keep_flushLines | with_reducible apply keep_setWay | with_reducible apply keep_jrnWays | with_reducible apply keep_rasPut | with_reducible apply keep_capacity) | (with_reducible refine keep_mem ?_; first | with_reducible assumption | with_reducible apply keep_flushLines | with_reducible apply keep_setWay | with_reducible apply keep_jrnWays | with_reducible apply keep_rasPut | with_reducible apply keep_capacity) | ((with_reducible refine keep_bytes ?_ (fun w => ?_) (fun w => ?_) (fun w => ?_)) <;> first | with_reducible assumption | with_reducible apply keep_flushLines | with_reducible apply keep_setWay | with_reducible apply keep_jrnWays | with_reducible apply keep_rasPut | with_reducible apply keep_capacity | ((try dsimp only) <;> (repeat' first | exact spWf_nil | with_reducible exact w.dram | with_reducible exact w.lpd | with_reducible exact w.scratch | with_reducible exact w.flash | assumption | apply wrBytes_wf | apply zeroBytes_wf | apply copyBytes_wf | apply fProg_wf | apply fErase_wf | apply spPut_wf | apply foldl_wf | intro _ | split | rfl) <;> done)) | split | dsimp only
theorem keep_wayCount {s0 : State} {s : State} {k w : Nat} (hs : Keep s0 s) : Keep s0 (wayCount s k w) := by
  unfold wayCount
  repeat' first | with_reducible assumption | with_reducible apply keep_winAdd | with_reducible apply keep_wayCross | with_reducible refine keep_winAdd_eq (by assumption) ?_ | with_reducible apply keep_ite | intro _ | (with_reducible refine keep_of ?_; first | with_reducible assumption | with_reducible apply keep_winAdd | with_reducible apply keep_wayCross | with_reducible refine keep_winAdd_eq (by assumption) ?_) | split | dsimp only
theorem keep_lpdLink {s0 : State} {s : State} {a : Nat} {err : MemErr} (hs : Keep s0 s) : Keep s0 (lpdLink s a err).1 := by
  unfold lpdLink
  repeat' first | with_reducible assumption | with_reducible apply keep_winAdd | with_reducible apply keep_bump | with_reducible apply keep_errCe | with_reducible apply keep_rasPut | with_reducible apply keep_wrPair | with_reducible apply keep_errUe | with_reducible refine keep_winAdd_eq (by assumption) ?_ | with_reducible apply keep_ite | intro _ | (with_reducible refine keep_of ?_; first | with_reducible assumption | with_reducible apply keep_winAdd | with_reducible apply keep_bump | with_reducible apply keep_errCe | with_reducible apply keep_rasPut | with_reducible apply keep_wrPair | with_reducible apply keep_errUe | with_reducible refine keep_winAdd_eq (by assumption) ?_) | split | dsimp only
theorem keep_lpdLink_eq {s0 : State} {s : State} {a : Nat} {err : MemErr} {tz : State} {rz : Bool} (ez : lpdLink s a err = (tz, rz)) (hs : Keep s0 s) : Keep s0 tz := by
  rw [show tz = (lpdLink s a err).1 from by rw [ez]]
  exact keep_lpdLink hs
theorem keep_cellsRead {s0 : State} {s : State} {a n : Nat} {err : MemErr} (hs : Keep s0 s) : Keep s0 (cellsRead s a n err).1 := by
  unfold cellsRead
  repeat' first | with_reducible assumption | with_reducible apply keep_bump | with_reducible apply keep_eUncorrectable | with_reducible apply keep_eCorrected | with_reducible apply keep_tsvCount | with_reducible apply keep_cMismatch | with_reducible apply keep_lpdLink | with_reducible refine keep_lpdLink_eq (by assumption) ?_ | with_reducible apply keep_ite | intro _ | (with_reducible refine keep_of ?_; first | with_reducible assumption | with_reducible apply keep_bump | with_reducible apply keep_eUncorrectable | with_reducible apply keep_eCorrected | with_reducible apply keep_tsvCount | with_reducible apply keep_cMismatch | with_reducible apply keep_lpdLink | with_reducible refine keep_lpdLink_eq (by assumption) ?_) | split | dsimp only
theorem keep_cellsRead_eq {s0 : State} {s : State} {a n : Nat} {err : MemErr} {tz : State} {rz : MemRes} (ez : cellsRead s a n err = (tz, rz)) (hs : Keep s0 s) : Keep s0 tz := by
  rw [show tz = (cellsRead s a n err).1 from by rw [ez]]
  exact keep_cellsRead hs
theorem keep_cellsWrite {s0 : State} {s : State} {a : Nat} {bs : List Byte} (hs : Keep s0 s) : Keep s0 (cellsWrite s a bs).1 := by
  unfold cellsWrite
  repeat' first | with_reducible assumption | with_reducible apply keep_dramPut | with_reducible apply keep_bump | with_reducible apply keep_ite | intro _ | (with_reducible refine keep_of ?_; first | with_reducible assumption | with_reducible apply keep_dramPut | with_reducible apply keep_bump) | (with_reducible refine keep_mem ?_; first | with_reducible assumption | with_reducible apply keep_dramPut | with_reducible apply keep_bump) | ((with_reducible refine keep_bytes ?_ (fun w => ?_) (fun w => ?_) (fun w => ?_)) <;> first | with_reducible assumption | with_reducible apply keep_dramPut | with_reducible apply keep_bump | ((try dsimp only) <;> (repeat' first | exact spWf_nil | with_reducible exact w.dram | with_reducible exact w.lpd | with_reducible exact w.scratch | with_reducible exact w.flash | assumption | apply wrBytes_wf | apply zeroBytes_wf | apply copyBytes_wf | apply fProg_wf | apply fErase_wf | apply spPut_wf | apply foldl_wf | intro _ | split | rfl) <;> done)) | split | dsimp only
theorem keep_cellsWrite_eq {s0 : State} {s : State} {a : Nat} {bs : List Byte} {tz : State} {rz : MemRes} (ez : cellsWrite s a bs = (tz, rz)) (hs : Keep s0 s) : Keep s0 tz := by
  rw [show tz = (cellsWrite s a bs).1 from by rw [ez]]
  exact keep_cellsWrite hs
theorem keep_winRef {s0 : State} {s : State} {k : Nat} (hs : Keep s0 s) : Keep s0 (winRef s k) := by
  unfold winRef
  repeat' first | with_reducible assumption | with_reducible apply keep_bump | with_reducible apply keep_foldl | with_reducible apply keep_foldl1 | with_reducible refine keep_foldl1_eq (by assumption) ?_ ?_ | with_reducible apply keep_ite | intro _ | (with_reducible refine keep_of ?_; first | with_reducible assumption | with_reducible apply keep_bump | with_reducible apply keep_foldl | with_reducible apply keep_foldl1 | with_reducible refine keep_foldl1_eq (by assumption) ?_ ?_) | split | dsimp only
theorem keep_scratchRead {s0 : State} {s : State} {fn a n : Nat} {err : MemErr} (hs : Keep s0 s) : Keep s0 (scratchRead s fn a n err).1 := by
  unfold scratchRead
  repeat' first | with_reducible assumption | with_reducible apply keep_winRef | with_reducible apply keep_wayCount | with_reducible apply keep_errCe | with_reducible apply keep_errUe | with_reducible apply keep_rasPut | with_reducible apply keep_ite | intro _ | (with_reducible refine keep_of ?_; first | with_reducible assumption | with_reducible apply keep_winRef | with_reducible apply keep_wayCount | with_reducible apply keep_errCe | with_reducible apply keep_errUe | with_reducible apply keep_rasPut) | (with_reducible refine keep_mem ?_; first | with_reducible assumption | with_reducible apply keep_winRef | with_reducible apply keep_wayCount | with_reducible apply keep_errCe | with_reducible apply keep_errUe | with_reducible apply keep_rasPut) | split | dsimp only
theorem keep_scratchRead_eq {s0 : State} {s : State} {fn a n : Nat} {err : MemErr} {tz : State} {rz : MemRes} (ez : scratchRead s fn a n err = (tz, rz)) (hs : Keep s0 s) : Keep s0 tz := by
  rw [show tz = (scratchRead s fn a n err).1 from by rw [ez]]
  exact keep_scratchRead hs
theorem keep_scratchWrite {s0 : State} {s : State} {fn a : Nat} {bs : List Byte} (hs : Keep s0 s) : Keep s0 (scratchWrite s fn a bs).1 := by
  unfold scratchWrite
  repeat' first | with_reducible assumption | with_reducible apply keep_winRef | with_reducible apply keep_ite | intro _ | (with_reducible refine keep_of ?_; first | with_reducible assumption | with_reducible apply keep_winRef) | (with_reducible refine keep_mem ?_; first | with_reducible assumption | with_reducible apply keep_winRef) | ((with_reducible refine keep_bytes ?_ (fun w => ?_) (fun w => ?_) (fun w => ?_)) <;> first | with_reducible assumption | with_reducible apply keep_winRef | ((try dsimp only) <;> (repeat' first | exact spWf_nil | with_reducible exact w.dram | with_reducible exact w.lpd | with_reducible exact w.scratch | with_reducible exact w.flash | assumption | apply wrBytes_wf | apply zeroBytes_wf | apply copyBytes_wf | apply fProg_wf | apply fErase_wf | apply spPut_wf | apply foldl_wf | intro _ | split | rfl) <;> done)) | split | dsimp only
theorem keep_scratchWrite_eq {s0 : State} {s : State} {fn a : Nat} {bs : List Byte} {tz : State} {rz : MemRes} (ez : scratchWrite s fn a bs = (tz, rz)) (hs : Keep s0 s) : Keep s0 tz := by
  rw [show tz = (scratchWrite s fn a bs).1 from by rw [ez]]
  exact keep_scratchWrite hs
theorem keep_lineRead {s0 : State} {s : State} {l : Line} {a n : Nat} {err : MemErr} (hs : Keep s0 s) : Keep s0 (lineRead s l a n err).1 := by
  unfold lineRead
  repeat' first | with_reducible assumption | with_reducible apply keep_errUe | with_reducible apply keep_wayCount | with_reducible apply keep_rasPut | with_reducible apply keep_cellsRead | with_reducible apply keep_dropLine | with_reducible apply keep_errCe | with_reducible refine keep_cellsRead_eq (by assumption) ?_ | with_reducible apply keep_ite | intro _ | (with_reducible refine keep_of ?_; first | with_reducible assumption | with_reducible apply keep_errUe | with_reducible apply keep_wayCount | with_reducible apply keep_rasPut | with_reducible apply keep_cellsRead | with_reducible apply keep_dropLine | with_reducible apply keep_errCe | with_reducible refine keep_cellsRead_eq (by assumption) ?_) | (with_reducible refine keep_mem ?_; first | with_reducible assumption | with_reducible apply keep_errUe | with_reducible apply keep_wayCount | with_reducible apply keep_rasPut | with_reducible apply keep_cellsRead | with_reducible apply keep_dropLine | with_reducible apply keep_errCe | with_reducible refine keep_cellsRead_eq (by assumption) ?_) | split | dsimp only
theorem keep_lineRead_eq {s0 : State} {s : State} {l : Line} {a n : Nat} {err : MemErr} {tz : State} {rz : MemRes} (ez : lineRead s l a n err = (tz, rz)) (hs : Keep s0 s) : Keep s0 tz := by
  rw [show tz = (lineRead s l a n err).1 from by rw [ez]]
  exact keep_lineRead hs
theorem keep_memRead1 {s0 : State} {s : State} {fn : Nat} {alloc : Bool} {a n : Nat} {err : MemErr} (hs : Keep s0 s) : Keep s0 (memRead1 s fn alloc a n err).1 := by
  unfold memRead1
  repeat' first | with_reducible assumption | with_reducible apply keep_scratchRead | with_reducible apply keep_cellsRead | with_reducible apply keep_lineRead | with_reducible apply keep_touch | with_reducible apply keep_bump | with_reducible apply keep_install | with_reducible refine keep_scratchRead_eq (by assumption) ?_ | with_reducible refine keep_cellsRead_eq (by assumption) ?_ | with_reducible refine keep_lineRead_eq (by assumption) ?_ | with_reducible apply keep_ite | intro _ | (with_reducible refine keep_of ?_; first | with_reducible assumption | with_reducible apply keep_scratchRead | with_reducible apply keep_cellsRead | with_reducible apply keep_lineRead | with_reducible apply keep_touch | with_reducible apply keep_bump | with_reducible apply keep_install | with_reducible refine keep_scratchRead_eq (by assumption) ?_ | with_reducible refine keep_cellsRead_eq (by assumption) ?_ | with_reducible refine keep_lineRead_eq (by assumption) ?_) | split | dsimp only
theorem keep_memRead1_eq {s0 : State} {s : State} {fn : Nat} {alloc : Bool} {a n : Nat} {err : MemErr} {tz : State} {rz : MemRes} (ez : memRead1 s fn alloc a n err = (tz, rz)) (hs : Keep s0 s) : Keep s0 tz := by
  rw [show tz = (memRead1 s fn alloc a n err).1 from by rw [ez]]
  exact keep_memRead1 hs
theorem keep_memRead {s0 : State} {s : State} {fn : Nat} {alloc : Bool} {a n : Nat} {err : MemErr} (hs : Keep s0 s) : Keep s0 (memRead s fn alloc a n err).1 := by
  unfold memRead
  repeat' first | with_reducible assumption | with_reducible apply keep_memRead1 | with_reducible refine keep_memRead1_eq (by assumption) ?_ | with_reducible apply keep_foldl | with_reducible apply keep_foldl1 | with_reducible refine keep_foldl1_eq (by assumption) ?_ ?_ | intro _ | (with_reducible refine keep_of ?_; first | with_reducible assumption | with_reducible apply keep_memRead1 | with_reducible refine keep_memRead1_eq (by assumption) ?_ | with_reducible apply keep_foldl | with_reducible apply keep_foldl1 | with_reducible refine keep_foldl1_eq (by assumption) ?_ ?_) | split | dsimp only
theorem keep_memRead_eq {s0 : State} {s : State} {fn : Nat} {alloc : Bool} {a n : Nat} {err : MemErr} {tz : State} {rz : MemRes} (ez : memRead s fn alloc a n err = (tz, rz)) (hs : Keep s0 s) : Keep s0 tz := by
  rw [show tz = (memRead s fn alloc a n err).1 from by rw [ez]]
  exact keep_memRead hs
theorem keep_lineWrite {s0 : State} {s : State} {l : Line} {a : Nat} {bs : List Byte} {dirty : Bool} (hs : Keep s0 s) : Keep s0 (lineWrite s l a bs dirty) := by
  unfold lineWrite
  repeat' first | with_reducible assumption | with_reducible apply keep_ite | intro _ | (with_reducible refine keep_of ?_; first | with_reducible assumption) | (with_reducible refine keep_mem ?_; first | with_reducible assumption) | split | dsimp only
theorem keep_memWrite1 {s0 : State} {s : State} {fn a : Nat} {bs : List Byte} (hs : Keep s0 s) : Keep s0 (memWrite1 s fn a bs).1 := by
  unfold memWrite1
  repeat' first | with_reducible assumption | with_reducible apply keep_scratchWrite | with_reducible apply keep_cellsWrite | with_reducible apply keep_lineWrite | with_reducible apply keep_touch | with_reducible apply keep_bump | with_reducible apply keep_install | with_reducible apply keep_cellsRead | with_reducible refine keep_scratchWrite_eq (by assumption) ?_ | with_reducible refine keep_cellsWrite_eq (by assumption) ?_ | with_reducible refine keep_cellsRead_eq (by assumption) ?_ | with_reducible apply keep_ite | intro _ | (with_reducible refine keep_of ?_; first | with_reducible assumption | with_reducible apply keep_scratchWrite | with_reducible apply keep_cellsWrite | with_reducible apply keep_lineWrite | with_reducible apply keep_touch | with_reducible apply keep_bump | with_reducible apply keep_install | with_reducible apply keep_cellsRead | with_reducible refine keep_scratchWrite_eq (by assumption) ?_ | with_reducible refine keep_cellsWrite_eq (by assumption) ?_ | with_reducible refine keep_cellsRead_eq (by assumption) ?_) | split | dsimp only
theorem keep_memWrite1_eq {s0 : State} {s : State} {fn a : Nat} {bs : List Byte} {tz : State} {rz : MemRes} (ez : memWrite1 s fn a bs = (tz, rz)) (hs : Keep s0 s) : Keep s0 tz := by
  rw [show tz = (memWrite1 s fn a bs).1 from by rw [ez]]
  exact keep_memWrite1 hs
theorem keep_memWrite {s0 : State} {s : State} {fn a : Nat} {bs : List Byte} (hs : Keep s0 s) : Keep s0 (memWrite s fn a bs).1 := by
  unfold memWrite
  repeat' first | with_reducible assumption | with_reducible apply keep_memWrite1 | with_reducible refine keep_memWrite1_eq (by assumption) ?_ | with_reducible apply keep_foldl | with_reducible apply keep_foldl1 | with_reducible refine keep_foldl1_eq (by assumption) ?_ ?_ | intro _ | (with_reducible refine keep_of ?_; first | with_reducible assumption | with_reducible apply keep_memWrite1 | with_reducible refine keep_memWrite1_eq (by assumption) ?_ | with_reducible apply keep_foldl | with_reducible apply keep_foldl1 | with_reducible refine keep_foldl1_eq (by assumption) ?_ ?_) | split | dsimp only
theorem keep_memWrite_eq {s0 : State} {s : State} {fn a : Nat} {bs : List Byte} {tz : State} {rz : MemRes} (ez : memWrite s fn a bs = (tz, rz)) (hs : Keep s0 s) : Keep s0 tz := by
  rw [show tz = (memWrite s fn a bs).1 from by rw [ez]]
  exact keep_memWrite hs
theorem keep_atomRef {s0 : State} {s : State} {k : Nat} (hs : Keep s0 s) : Keep s0 (atomRef s k) := by
  unfold atomRef
  repeat' first | with_reducible assumption | with_reducible apply keep_bump | with_reducible apply keep_foldl | with_reducible apply keep_foldl1 | with_reducible refine keep_foldl1_eq (by assumption) ?_ ?_ | with_reducible apply keep_ite | intro _ | (with_reducible refine keep_of ?_; first | with_reducible assumption | with_reducible apply keep_bump | with_reducible apply keep_foldl | with_reducible apply keep_foldl1 | with_reducible refine keep_foldl1_eq (by assumption) ?_ ?_) | split | dsimp only
theorem keep_atomic {s0 : State} {s : State} {fn : Nat} {op : AtomOp} {a n x swap : Nat} (hs : Keep s0 s) : Keep s0 (atomic s fn op a n x swap).1 := by
  unfold atomic
  repeat' first | with_reducible assumption | with_reducible apply keep_atomRef | with_reducible apply keep_winRef | with_reducible apply keep_memRead1 | with_reducible apply keep_memWrite1 | with_reducible apply keep_bump | with_reducible refine keep_memRead1_eq (by assumption) ?_ | with_reducible refine keep_memWrite1_eq (by assumption) ?_ | with_reducible apply keep_ite | intro _ | (with_reducible refine keep_of ?_; first | with_reducible assumption | with_reducible apply keep_atomRef | with_reducible apply keep_winRef | with_reducible apply keep_memRead1 | with_reducible apply keep_memWrite1 | with_reducible apply keep_bump | with_reducible refine keep_memRead1_eq (by assumption) ?_ | with_reducible refine keep_memWrite1_eq (by assumption) ?_) | split | dsimp only
theorem keep_atomic_eq {s0 : State} {s : State} {fn : Nat} {op : AtomOp} {a n x swap : Nat} {tz : State} {rz : AtomRes} (ez : atomic s fn op a n x swap = (tz, rz)) (hs : Keep s0 s) : Keep s0 tz := by
  rw [show tz = (atomic s fn op a n x swap).1 from by rw [ez]]
  exact keep_atomic hs
theorem keep_reportPoison {s0 : State} {s : State} {b : Blk} {i elem model a : Nat} (hs : Keep s0 s) : Keep s0 (reportPoison s b i elem model a) := by
  unfold reportPoison
  repeat' first | with_reducible assumption | with_reducible apply keep_report | intro _ | (with_reducible refine keep_of ?_; first | with_reducible assumption | with_reducible apply keep_report) | split | dsimp only

end Sys2Proof.Machine
end

