-- ==== Sys2Proof/Laws/KeepDeck.lean ====
section
/-!
SUPPORT. Keep (the queue, the fuses, the byte memories, the free counter and the output) for every operation of Kv, Cluster, Deck.
-/
set_option linter.unusedVariables false

namespace Sys2Proof.Machine

theorem keep_setM {s0 : State} {s : State} {m : Nat} {x : Model} (hs : Keep s0 s) : Keep s0 (setM s m x) := by
  unfold setM
  repeat' first | with_reducible assumption | intro _ | (with_reducible refine keep_of ?_; first | with_reducible assumption) | split | dsimp only
theorem keep_setSlot {s0 : State} {s : State} {g : Nat} {x : SeqSlot} (hs : Keep s0 s) : Keep s0 (setSlot s g x) := by
  unfold setSlot
  repeat' first | with_reducible assumption | intro _ | (with_reducible refine keep_of ?_; first | with_reducible assumption) | split | dsimp only
theorem keep_readCtx {s0 : State} {s : State} {m : Nat} (hs : Keep s0 s) : Keep s0 (readCtx s m).1 := by
  unfold readCtx
  repeat' first | with_reducible assumption | with_reducible apply keep_memRead | with_reducible refine keep_memRead_eq (by assumption) ?_ | intro _ | (with_reducible refine keep_of ?_; first | with_reducible assumption | with_reducible apply keep_memRead | with_reducible refine keep_memRead_eq (by assumption) ?_) | split | dsimp only
theorem keep_readCtx_eq {s0 : State} {s : State} {m : Nat} {tz : State} {rz : Option (List Byte)} (ez : readCtx s m = (tz, rz)) (hs : Keep s0 s) : Keep s0 tz := by
  rw [show tz = (readCtx s m).1 from by rw [ez]]
  exact keep_readCtx hs
theorem keep_rdTab {s0 : State} {s : State} {a n : Nat} (hs : Keep s0 s) : Keep s0 (rdTab s a n).1 := by
  unfold rdTab
  repeat' first | with_reducible assumption | with_reducible apply keep_memRead | with_reducible refine keep_memRead_eq (by assumption) ?_ | intro _ | (with_reducible refine keep_of ?_; first | with_reducible assumption | with_reducible apply keep_memRead | with_reducible refine keep_memRead_eq (by assumption) ?_) | split | dsimp only
theorem keep_rdTab_eq {s0 : State} {s : State} {a n : Nat} {tz : State} {rz : Option Nat} (ez : rdTab s a n = (tz, rz)) (hs : Keep s0 s) : Keep s0 tz := by
  rw [show tz = (rdTab s a n).1 from by rw [ez]]
  exact keep_rdTab hs
theorem keep_wrTab {s0 : State} {s : State} {a n v : Nat} (hs : Keep s0 s) : Keep s0 (wrTab s a n v) := by
  unfold wrTab
  repeat' first | with_reducible assumption | with_reducible apply keep_memWrite | with_reducible refine keep_memWrite_eq (by assumption) ?_ | intro _ | (with_reducible refine keep_of ?_; first | with_reducible assumption | with_reducible apply keep_memWrite | with_reducible refine keep_memWrite_eq (by assumption) ?_) | split | dsimp only
theorem keep_dirEnt {s0 : State} {s : State} {g layer : Nat} (hs : Keep s0 s) : Keep s0 (dirEnt s g layer).1 := by
  unfold dirEnt
  repeat' first | with_reducible assumption | with_reducible apply keep_rdTab | with_reducible refine keep_rdTab_eq (by assumption) ?_ | intro _ | (with_reducible refine keep_of ?_; first | with_reducible assumption | with_reducible apply keep_rdTab | with_reducible refine keep_rdTab_eq (by assumption) ?_) | split | dsimp only
theorem keep_dirEnt_eq {s0 : State} {s : State} {g layer : Nat} {tz : State} {rz : Option (Nat × Nat × Nat)} (ez : dirEnt s g layer = (tz, rz)) (hs : Keep s0 s) : Keep s0 tz := by
  rw [show tz = (dirEnt s g layer).1 from by rw [ez]]
  exact keep_dirEnt hs
theorem keep_tabEnts {s0 : State} {s : State} {a n : Nat} (hs : Keep s0 s) : Keep s0 (tabEnts s a n).1 := by
  unfold tabEnts
  repeat' first | with_reducible assumption | with_reducible apply keep_memRead | with_reducible refine keep_memRead_eq (by assumption) ?_ | with_reducible apply keep_ite | intro _ | (with_reducible refine keep_of ?_; first | with_reducible assumption | with_reducible apply keep_memRead | with_reducible refine keep_memRead_eq (by assumption) ?_) | split | dsimp only
theorem keep_tabEnts_eq {s0 : State} {s : State} {a n : Nat} {tz : State} {rz : Option (List Nat)} (ez : tabEnts s a n = (tz, rz)) (hs : Keep s0 s) : Keep s0 tz := by
  rw [show tz = (tabEnts s a n).1 from by rw [ez]]
  exact keep_tabEnts hs
theorem keep_pagesOf {s0 : State} {s : State} {walk : Bool} {g layer : Nat} (hs : Keep s0 s) : Keep s0 (pagesOf s walk g layer).1 := by
  unfold pagesOf
  repeat' first | with_reducible assumption | with_reducible apply keep_dirEnt | with_reducible apply keep_tabEnts | with_reducible refine keep_dirEnt_eq (by assumption) ?_ | with_reducible refine keep_tabEnts_eq (by assumption) ?_ | with_reducible apply keep_foldl | with_reducible apply keep_foldl1 | with_reducible refine keep_foldl1_eq (by assumption) ?_ ?_ | with_reducible apply keep_ite | intro _ | (with_reducible refine keep_of ?_; first | with_reducible assumption | with_reducible apply keep_dirEnt | with_reducible apply keep_tabEnts | with_reducible refine keep_dirEnt_eq (by assumption) ?_ | with_reducible refine keep_tabEnts_eq (by assumption) ?_ | with_reducible apply keep_foldl | with_reducible apply keep_foldl1 | with_reducible refine keep_foldl1_eq (by assumption) ?_ ?_) | split | dsimp only
theorem keep_pagesOf_eq {s0 : State} {s : State} {walk : Bool} {g layer : Nat} {tz : State} {rz : Option (List (Nat × Nat))} (ez : pagesOf s walk g layer = (tz, rz)) (hs : Keep s0 s) : Keep s0 tz := by
  rw [show tz = (pagesOf s walk g layer).1 from by rw [ez]]
  exact keep_pagesOf hs
theorem keep_walkTab {s0 : State} {s : State} {g layer t : Nat} (hs : Keep s0 s) : Keep s0 (walkTab s g layer t).1 := by
  unfold walkTab
  repeat' first | with_reducible assumption | with_reducible apply keep_dirEnt | with_reducible apply keep_rdTab | with_reducible refine keep_dirEnt_eq (by assumption) ?_ | with_reducible refine keep_rdTab_eq (by assumption) ?_ | with_reducible apply keep_ite | intro _ | (with_reducible refine keep_of ?_; first | with_reducible assumption | with_reducible apply keep_dirEnt | with_reducible apply keep_rdTab | with_reducible refine keep_dirEnt_eq (by assumption) ?_ | with_reducible refine keep_rdTab_eq (by assumption) ?_) | split | dsimp only
theorem keep_walkTab_eq {s0 : State} {s : State} {g layer t : Nat} {tz : State} {rz : Walk} (ez : walkTab s g layer t = (tz, rz)) (hs : Keep s0 s) : Keep s0 tz := by
  rw [show tz = (walkTab s g layer t).1 from by rw [ez]]
  exact keep_walkTab hs
theorem keep_walkTlb {s0 : State} {s : State} {g layer t : Nat} (hs : Keep s0 s) : Keep s0 (walkTlb s g layer t).1 := by
  unfold walkTlb
  repeat' first | with_reducible assumption | with_reducible apply keep_bump | with_reducible apply keep_walkTab | with_reducible refine keep_walkTab_eq (by assumption) ?_ | intro _ | (with_reducible refine keep_of ?_; first | with_reducible assumption | with_reducible apply keep_bump | with_reducible apply keep_walkTab | with_reducible refine keep_walkTab_eq (by assumption) ?_) | split | dsimp only
theorem keep_walkTlb_eq {s0 : State} {s : State} {g layer t : Nat} {tz : State} {rz : Walk} (ez : walkTlb s g layer t = (tz, rz)) (hs : Keep s0 s) : Keep s0 tz := by
  rw [show tz = (walkTlb s g layer t).1 from by rw [ez]]
  exact keep_walkTlb hs
theorem keep_walkErr {s0 : State} {s : State} {model g code gen : Nat} (hs : Keep s0 s) : Keep s0 (walkErr s model g code gen) := by
  unfold walkErr
  repeat' first | with_reducible assumption | with_reducible apply keep_wrReg | intro _ | (with_reducible refine keep_of ?_; first | with_reducible assumption | with_reducible apply keep_wrReg) | split | dsimp only
theorem keep_wrPte {s0 : State} {s : State} {a e : Nat} (hs : Keep s0 s) : Keep s0 (wrPte s a e) := by
  unfold wrPte
  repeat' first | with_reducible assumption | with_reducible apply keep_rdTab | with_reducible apply keep_wrTab | with_reducible refine keep_rdTab_eq (by assumption) ?_ | intro _ | (with_reducible refine keep_of ?_; first | with_reducible assumption | with_reducible apply keep_rdTab | with_reducible apply keep_wrTab | with_reducible refine keep_rdTab_eq (by assumption) ?_) | split | dsimp only
theorem keep_clearTab {s0 : State} {s : State} {a : Nat} (hs : Keep s0 s) : Keep s0 (clearTab s a) := by
  unfold clearTab
  repeat' first | with_reducible assumption | with_reducible apply keep_tabEnts | with_reducible apply keep_memWrite | with_reducible refine keep_tabEnts_eq (by assumption) ?_ | with_reducible refine keep_memWrite_eq (by assumption) ?_ | intro _ | (with_reducible refine keep_of ?_; first | with_reducible assumption | with_reducible apply keep_tabEnts | with_reducible apply keep_memWrite | with_reducible refine keep_tabEnts_eq (by assumption) ?_ | with_reducible refine keep_memWrite_eq (by assumption) ?_) | split | dsimp only
theorem keep_putLeaf {s0 : State} {s : State} {walk : Bool} {at_ e : Nat} (hs : Keep s0 s) : Keep s0 (putLeaf s walk at_ e) := by
  unfold putLeaf
  repeat' first | with_reducible assumption | with_reducible apply keep_wrPte | with_reducible apply keep_foldl | with_reducible apply keep_foldl1 | with_reducible refine keep_foldl1_eq (by assumption) ?_ ?_ | with_reducible apply keep_ite | intro _ | (with_reducible refine keep_of ?_; first | with_reducible assumption | with_reducible apply keep_wrPte | with_reducible apply keep_foldl | with_reducible apply keep_foldl1 | with_reducible refine keep_foldl1_eq (by assumption) ?_ ?_) | split | dsimp only
theorem keep_addLeaf {s0 : State} {s : State} {b : Bundle} {c : List Byte} {g layer e : Nat} (hs : Keep s0 s) : Keep s0 (addLeaf s b c g layer e) := by
  unfold addLeaf
  repeat' first | with_reducible assumption | with_reducible apply keep_dirEnt | with_reducible apply keep_wrTab | with_reducible apply keep_putLeaf | with_reducible apply keep_wrPte | with_reducible apply keep_rdTab | with_reducible apply keep_clearTab | with_reducible refine keep_dirEnt_eq (by assumption) ?_ | with_reducible refine keep_rdTab_eq (by assumption) ?_ | with_reducible apply keep_foldl | with_reducible apply keep_foldl1 | with_reducible refine keep_foldl1_eq (by assumption) ?_ ?_ | with_reducible apply keep_ite | intro _ | (with_reducible refine keep_of ?_; first | with_reducible assumption | with_reducible apply keep_dirEnt | with_reducible apply keep_wrTab | with_reducible apply keep_putLeaf | with_reducible apply keep_wrPte | with_reducible apply keep_rdTab | with_reducible apply keep_clearTab | with_reducible refine keep_dirEnt_eq (by assumption) ?_ | with_reducible refine keep_rdTab_eq (by assumption) ?_ | with_reducible apply keep_foldl | with_reducible apply keep_foldl1 | with_reducible refine keep_foldl1_eq (by assumption) ?_ ?_) | split | dsimp only
theorem keep_dropLeaf {s0 : State} {s : State} {c : List Byte} {g layer fpos : Nat} (hs : Keep s0 s) : Keep s0 (dropLeaf s c g layer fpos) := by
  unfold dropLeaf
  repeat' first | with_reducible assumption | with_reducible apply keep_pagesOf | with_reducible apply keep_putLeaf | with_reducible apply keep_dirEnt | with_reducible apply keep_wrPte | with_reducible apply keep_wrTab | with_reducible refine keep_pagesOf_eq (by assumption) ?_ | with_reducible refine keep_dirEnt_eq (by assumption) ?_ | with_reducible apply keep_foldl | with_reducible apply keep_foldl1 | with_reducible refine keep_foldl1_eq (by assumption) ?_ ?_ | with_reducible apply keep_ite | intro _ | (with_reducible refine keep_of ?_; first | with_reducible assumption | with_reducible apply keep_pagesOf | with_reducible apply keep_putLeaf | with_reducible apply keep_dirEnt | with_reducible apply keep_wrPte | with_reducible apply keep_wrTab | with_reducible refine keep_pagesOf_eq (by assumption) ?_ | with_reducible refine keep_dirEnt_eq (by assumption) ?_ | with_reducible apply keep_foldl | with_reducible apply keep_foldl1 | with_reducible refine keep_foldl1_eq (by assumption) ?_ ?_) | split | dsimp only
theorem keep_poolRing {s0 : State} {s : State} {c : List Byte} {r : Nat} (hs : Keep s0 s) : Keep s0 (poolRing s c r).1 := by
  unfold poolRing
  repeat' first | with_reducible assumption | with_reducible apply keep_rdTab | with_reducible refine keep_rdTab_eq (by assumption) ?_ | with_reducible apply keep_ite | intro _ | (with_reducible refine keep_of ?_; first | with_reducible assumption | with_reducible apply keep_rdTab | with_reducible refine keep_rdTab_eq (by assumption) ?_) | split | dsimp only
theorem keep_poolRing_eq {s0 : State} {s : State} {c : List Byte} {r : Nat} {tz : State} {rz : Option PoolRing} (ez : poolRing s c r = (tz, rz)) (hs : Keep s0 s) : Keep s0 tz := by
  rw [show tz = (poolRing s c r).1 from by rw [ez]]
  exact keep_poolRing hs
theorem keep_popFrame {s0 : State} {s : State} {c : List Byte} {tier sze : Nat} (hs : Keep s0 s) : Keep s0 (popFrame s c tier sze).1 := by
  unfold popFrame
  repeat' first | with_reducible assumption | with_reducible apply keep_poolRing | with_reducible apply keep_rdTab | with_reducible apply keep_wrTab | with_reducible apply keep_capacity | with_reducible refine keep_poolRing_eq (by assumption) ?_ | with_reducible refine keep_rdTab_eq (by assumption) ?_ | with_reducible apply keep_ite | intro _ | (with_reducible refine keep_of ?_; first | with_reducible assumption | with_reducible apply keep_poolRing | with_reducible apply keep_rdTab | with_reducible apply keep_wrTab | with_reducible apply keep_capacity | with_reducible refine keep_poolRing_eq (by assumption) ?_ | with_reducible refine keep_rdTab_eq (by assumption) ?_) | split | dsimp only
theorem keep_popFrame_eq {s0 : State} {s : State} {c : List Byte} {tier sze : Nat} {tz : State} {rz : Option Nat} (ez : popFrame s c tier sze = (tz, rz)) (hs : Keep s0 s) : Keep s0 tz := by
  rw [show tz = (popFrame s c tier sze).1 from by rw [ez]]
  exact keep_popFrame hs
theorem keep_pushFreed {s0 : State} {s : State} {c : List Byte} {base trick : Nat} (hs : Keep s0 s) : Keep s0 (pushFreed s c base trick) := by
  unfold pushFreed
  repeat' first | with_reducible assumption | with_reducible apply keep_poolRing | with_reducible apply keep_wrTab | with_reducible refine keep_poolRing_eq (by assumption) ?_ | intro _ | (with_reducible refine keep_of ?_; first | with_reducible assumption | with_reducible apply keep_poolRing | with_reducible apply keep_wrTab | with_reducible refine keep_poolRing_eq (by assumption) ?_) | split | dsimp only
theorem keep_putHeader {s0 : State} {s : State} {fn : Nat} {c : List Byte} {layer base : Nat} (hs : Keep s0 s) : Keep s0 (putHeader s fn c layer base) := by
  unfold putHeader
  repeat' first | with_reducible assumption | with_reducible apply keep_memRead | with_reducible apply keep_memWrite | with_reducible refine keep_memRead_eq (by assumption) ?_ | with_reducible refine keep_memWrite_eq (by assumption) ?_ | intro _ | (with_reducible refine keep_of ?_; first | with_reducible assumption | with_reducible apply keep_memRead | with_reducible apply keep_memWrite | with_reducible refine keep_memRead_eq (by assumption) ?_ | with_reducible refine keep_memWrite_eq (by assumption) ?_) | split | dsimp only
theorem keep_allocPage {s0 : State} {s : State} {b : Bundle} {c : List Byte} {g layer t : Nat} (hs : Keep s0 s) : Keep s0 (allocPage s b c g layer t).1 := by
  unfold allocPage
  repeat' first | with_reducible assumption | with_reducible apply keep_popFrame | with_reducible apply keep_putHeader | with_reducible apply keep_addLeaf | with_reducible refine keep_popFrame_eq (by assumption) ?_ | with_reducible apply keep_ite | intro _ | (with_reducible refine keep_of ?_; first | with_reducible assumption | with_reducible apply keep_popFrame | with_reducible apply keep_putHeader | with_reducible apply keep_addLeaf | with_reducible refine keep_popFrame_eq (by assumption) ?_) | split | dsimp only
theorem keep_allocPage_eq {s0 : State} {s : State} {b : Bundle} {c : List Byte} {g layer t : Nat} {tz : State} {rz : Bool} (ez : allocPage s b c g layer t = (tz, rz)) (hs : Keep s0 s) : Keep s0 tz := by
  rw [show tz = (allocPage s b c g layer t).1 from by rw [ez]]
  exact keep_allocPage hs
theorem keep_allocPages {s0 : State} {s : State} {b : Bundle} {c : List Byte} {g lo hi : Nat} (hs : Keep s0 s) : Keep s0 (allocPages s b c g lo hi).1 := by
  unfold allocPages
  repeat' first | with_reducible assumption | with_reducible apply keep_allocPage | with_reducible refine keep_allocPage_eq (by assumption) ?_ | with_reducible apply keep_foldl | with_reducible apply keep_foldl1 | with_reducible refine keep_foldl1_eq (by assumption) ?_ ?_ | intro _ | (with_reducible refine keep_of ?_; first | with_reducible assumption | with_reducible apply keep_allocPage | with_reducible refine keep_allocPage_eq (by assumption) ?_ | with_reducible apply keep_foldl | with_reducible apply keep_foldl1 | with_reducible refine keep_foldl1_eq (by assumption) ?_ ?_) | split | dsimp only
theorem keep_allocPages_eq {s0 : State} {s : State} {b : Bundle} {c : List Byte} {g lo hi : Nat} {tz : State} {rz : Bool} (ez : allocPages s b c g lo hi = (tz, rz)) (hs : Keep s0 s) : Keep s0 tz := by
  rw [show tz = (allocPages s b c g lo hi).1 from by rw [ez]]
  exact keep_allocPages hs
theorem keep_newSeq {s0 : State} {s : State} {m g : Nat} (hs : Keep s0 s) : Keep s0 (newSeq s m g) := by
  unfold newSeq
  repeat' first | with_reducible assumption | with_reducible apply keep_wrTab | with_reducible apply keep_foldl | with_reducible apply keep_foldl1 | with_reducible refine keep_foldl1_eq (by assumption) ?_ ?_ | intro _ | (with_reducible refine keep_of ?_; first | with_reducible assumption | with_reducible apply keep_wrTab | with_reducible apply keep_foldl | with_reducible apply keep_foldl1 | with_reducible refine keep_foldl1_eq (by assumption) ?_ ?_) | split | dsimp only
theorem keep_writeUsed {s0 : State} {s : State} {c : List Byte} {g lo hi : Nat} (hs : Keep s0 s) : Keep s0 (writeUsed s c g lo hi) := by
  unfold writeUsed
  repeat' first | with_reducible assumption | with_reducible apply keep_pagesOf | with_reducible apply keep_putLeaf | with_reducible refine keep_pagesOf_eq (by assumption) ?_ | with_reducible apply keep_foldl | with_reducible apply keep_foldl1 | with_reducible refine keep_foldl1_eq (by assumption) ?_ ?_ | with_reducible apply keep_ite | intro _ | (with_reducible refine keep_of ?_; first | with_reducible assumption | with_reducible apply keep_pagesOf | with_reducible apply keep_putLeaf | with_reducible refine keep_pagesOf_eq (by assumption) ?_ | with_reducible apply keep_foldl | with_reducible apply keep_foldl1 | with_reducible refine keep_foldl1_eq (by assumption) ?_ ?_) | split | dsimp only
theorem keep_setHeld {s0 : State} {s : State} (hs : Keep s0 s) : Keep s0 (setHeld s) := by
  unfold setHeld
  repeat' first | with_reducible assumption | with_reducible apply keep_wrReg | intro _ | (with_reducible refine keep_of ?_; first | with_reducible assumption | with_reducible apply keep_wrReg) | split | dsimp only
theorem keep_makeFree {s0 : State} {s : State} {n : Nat} {d : Due} (hs : Keep s0 s) : Keep s0 (makeFree s n d) := by
  unfold makeFree
  repeat' first | with_reducible assumption | with_reducible apply keep_setHeld | with_reducible apply keep_dropLeaf | with_reducible apply keep_pushFreed | with_reducible apply keep_ite | intro _ | (with_reducible refine keep_of ?_; first | with_reducible assumption | with_reducible apply keep_setHeld | with_reducible apply keep_dropLeaf | with_reducible apply keep_pushFreed) | split | dsimp only
theorem keep_slotFree {s0 : State} {s : State} {g : Nat} (hs : Keep s0 s) : Keep s0 (slotFree s g) := by
  unfold slotFree
  repeat' first | with_reducible assumption | with_reducible apply keep_setSlot | with_reducible apply keep_newSeq | with_reducible apply keep_ite | intro _ | (with_reducible refine keep_of ?_; first | with_reducible assumption | with_reducible apply keep_setSlot | with_reducible apply keep_newSeq) | split | dsimp only
theorem keep_prefetchLayer {s0 : State} {s : State} {m l : Nat} (hs : Keep s0 s) : Keep s0 (prefetchLayer s m l) := by
  unfold prefetchLayer
  repeat' first | with_reducible assumption | with_reducible apply keep_bump | with_reducible apply keep_memRead | with_reducible refine keep_memRead_eq (by assumption) ?_ | with_reducible apply keep_foldl | with_reducible apply keep_foldl1 | with_reducible refine keep_foldl1_eq (by assumption) ?_ ?_ | with_reducible apply keep_ite | intro _ | (with_reducible refine keep_of ?_; first | with_reducible assumption | with_reducible apply keep_bump | with_reducible apply keep_memRead | with_reducible refine keep_memRead_eq (by assumption) ?_ | with_reducible apply keep_foldl | with_reducible apply keep_foldl1 | with_reducible refine keep_foldl1_eq (by assumption) ?_ ?_) | split | dsimp only
theorem keep_layerBegin {s0 : State} {s : State} {m l : Nat} (hs : Keep s0 s) : Keep s0 (layerBegin s m l) := by
  unfold layerBegin
  repeat' first | with_reducible assumption | with_reducible apply keep_prefetchLayer | with_reducible apply keep_ite | intro _ | (with_reducible refine keep_of ?_; first | with_reducible assumption | with_reducible apply keep_prefetchLayer) | split | dsimp only
theorem keep_setC {s0 : State} {s : State} {c : Nat} {k : Cluster} (hs : Keep s0 s) : Keep s0 (setC s c k) := by
  unfold setC
  repeat' first | with_reducible assumption | intro _ | (with_reducible refine keep_of ?_; first | with_reducible assumption) | split | dsimp only
theorem keep_seqFault {s0 : State} {s : State} {c q code : Nat} (hs : Keep s0 s) : Keep s0 (seqFault s c q code) := by
  unfold seqFault
  repeat' first | with_reducible assumption | with_reducible apply keep_setC | with_reducible apply keep_orReg | with_reducible apply keep_report | with_reducible apply keep_emit | with_reducible apply keep_winAdd | with_reducible refine keep_winAdd_eq (by assumption) ?_ | with_reducible apply keep_ite | intro _ | (with_reducible refine keep_of ?_; first | with_reducible assumption | with_reducible apply keep_setC | with_reducible apply keep_orReg | with_reducible apply keep_report | with_reducible apply keep_emit | with_reducible apply keep_winAdd | with_reducible refine keep_winAdd_eq (by assumption) ?_) | split | dsimp only
theorem keep_readDeck {s0 : State} {s : State} {fn kind addr : Nat} (hs : Keep s0 s) : Keep s0 (readDeck s fn kind addr).1 := by
  unfold readDeck
  repeat' first | with_reducible assumption | with_reducible apply keep_memRead | with_reducible refine keep_memRead_eq (by assumption) ?_ | with_reducible apply keep_ite | intro _ | (with_reducible refine keep_of ?_; first | with_reducible assumption | with_reducible apply keep_memRead | with_reducible refine keep_memRead_eq (by assumption) ?_) | split | dsimp only
theorem keep_readDeck_eq {s0 : State} {s : State} {fn kind addr : Nat} {tz : State} {rz : Except Nat (List (BitVec 128))} (ez : readDeck s fn kind addr = (tz, rz)) (hs : Keep s0 s) : Keep s0 tz := by
  rw [show tz = (readDeck s fn kind addr).1 from by rw [ez]]
  exact keep_readDeck hs
theorem keep_readDeckTwice {s0 : State} {s : State} {fn kind addr : Nat} (hs : Keep s0 s) : Keep s0 (readDeckTwice s fn kind addr).1 := by
  unfold readDeckTwice
  repeat' first | with_reducible assumption | with_reducible apply keep_readDeck | with_reducible refine keep_readDeck_eq (by assumption) ?_ | intro _ | (with_reducible refine keep_of ?_; first | with_reducible assumption | with_reducible apply keep_readDeck | with_reducible refine keep_readDeck_eq (by assumption) ?_) | split | dsimp only
theorem keep_readDeckTwice_eq {s0 : State} {s : State} {fn kind addr : Nat} {tz : State} {rz : Except Nat (List (BitVec 128))} (ez : readDeckTwice s fn kind addr = (tz, rz)) (hs : Keep s0 s) : Keep s0 tz := by
  rw [show tz = (readDeckTwice s fn kind addr).1 from by rw [ez]]
  exact keep_readDeckTwice hs
theorem keep_fetchDeck {s0 : State} {s : State} {c fn kind addr : Nat} {keep : List Nat} (hs : Keep s0 s) : Keep s0 (fetchDeck s c fn kind addr keep).1 := by
  unfold fetchDeck
  repeat' first | with_reducible assumption | with_reducible apply keep_setC | with_reducible apply keep_readDeckTwice | with_reducible refine keep_readDeckTwice_eq (by assumption) ?_ | with_reducible apply keep_ite | intro _ | (with_reducible refine keep_of ?_; first | with_reducible assumption | with_reducible apply keep_setC | with_reducible apply keep_readDeckTwice | with_reducible refine keep_readDeckTwice_eq (by assumption) ?_) | split | dsimp only
theorem keep_fetchDeck_eq {s0 : State} {s : State} {c fn kind addr : Nat} {keep : List Nat} {tz : State} {rz : Option Nat} (ez : fetchDeck s c fn kind addr keep = (tz, rz)) (hs : Keep s0 s) : Keep s0 tz := by
  rw [show tz = (fetchDeck s c fn kind addr keep).1 from by rw [ez]]
  exact keep_fetchDeck hs
theorem keep_deckFail {s0 : State} {s : State} {c q addr : Nat} {x0 : Option Nat} (hs : Keep s0 s) : Keep s0 (deckFail s c q addr x0) := by
  unfold deckFail
  repeat' first | with_reducible assumption | with_reducible apply keep_reportPoison | with_reducible apply keep_seqFault | intro _ | (with_reducible refine keep_of ?_; first | with_reducible assumption | with_reducible apply keep_reportPoison | with_reducible apply keep_seqFault) | split | dsimp only
theorem keep_qsPut {s0 : State} {s : State} {c : Nat} {q : QsRec} (hs : Keep s0 s) : Keep s0 (qsPut s c q) := by
  unfold qsPut
  repeat' first | with_reducible assumption | with_reducible apply keep_wrReg | with_reducible apply keep_setC | with_reducible apply keep_foldl | with_reducible apply keep_foldl1 | with_reducible refine keep_foldl1_eq (by assumption) ?_ ?_ | intro _ | (with_reducible refine keep_of ?_; first | with_reducible assumption | with_reducible apply keep_wrReg | with_reducible apply keep_setC | with_reducible apply keep_foldl | with_reducible apply keep_foldl1 | with_reducible refine keep_foldl1_eq (by assumption) ?_ ?_) | split | dsimp only
theorem keep_qsSwap {s0 : State} {s : State} {c l : Nat} (hs : Keep s0 s) : Keep s0 (qsSwap s c l) := by
  unfold qsSwap
  repeat' first | with_reducible assumption | with_reducible apply keep_qsPut | with_reducible apply keep_ite | intro _ | (with_reducible refine keep_of ?_; first | with_reducible assumption | with_reducible apply keep_qsPut) | split | dsimp only
theorem keep_qsCheckpoint {s0 : State} {s : State} {c trick : Nat} (hs : Keep s0 s) : Keep s0 (qsCheckpoint s c trick) := by
  unfold qsCheckpoint
  repeat' first | with_reducible assumption | with_reducible apply keep_setC | with_reducible apply keep_wrReg | with_reducible apply keep_foldl | with_reducible apply keep_foldl1 | with_reducible refine keep_foldl1_eq (by assumption) ?_ ?_ | with_reducible apply keep_ite | intro _ | (with_reducible refine keep_of ?_; first | with_reducible assumption | with_reducible apply keep_setC | with_reducible apply keep_wrReg | with_reducible apply keep_foldl | with_reducible apply keep_foldl1 | with_reducible refine keep_foldl1_eq (by assumption) ?_ ?_) | split | dsimp only
theorem keep_fetchDecks {s0 : State} {s : State} {c fn cd vd : Nat} (hs : Keep s0 s) : Keep s0 (fetchDecks s c fn cd vd).1 := by
  unfold fetchDecks
  have h1 := keep_fetchDeck (c := c) (fn := fn) (kind := 0) (addr := cd) (keep := [cd, vd]) hs
  dsimp only
  by_cases hv : vd = 0
  · simp only [hv, if_true]
    split
    · simpa [hv] using h1
    · exact keep_fetchDeck (by simpa [hv] using h1)
  · simp only [hv, if_false]
    split
    · exact keep_fetchDeck h1
    · exact keep_fetchDeck (keep_fetchDeck h1)
theorem keep_fetchDecks_eq {s0 : State} {s : State} {c fn cd vd : Nat} {tz : State} {rz : Option Nat × Option Nat} (ez : fetchDecks s c fn cd vd = (tz, rz)) (hs : Keep s0 s) : Keep s0 tz := by
  rw [show tz = (fetchDecks s c fn cd vd).1 from by rw [ez]]
  exact keep_fetchDecks hs
theorem keep_startRun {s0 : State} {s : State} {c addr : Nat} (hs : Keep s0 s) : Keep s0 (startRun s c addr).1 := by
  unfold startRun
  repeat' first | with_reducible assumption | with_reducible apply keep_memRead | with_reducible apply keep_wrReg | with_reducible apply keep_qsCheckpoint | with_reducible apply keep_qsSwap | with_reducible apply keep_useFree | with_reducible apply keep_wrPair | with_reducible apply keep_setC | with_reducible apply keep_fetchDecks | with_reducible apply keep_deckFail | with_reducible apply keep_seqFault | with_reducible apply keep_reportPoison | with_reducible refine keep_memRead_eq (by assumption) ?_ | with_reducible refine keep_fetchDecks_eq (by assumption) ?_ | with_reducible apply keep_foldl | with_reducible apply keep_foldl1 | with_reducible refine keep_foldl1_eq (by assumption) ?_ ?_ | with_reducible apply keep_ite | intro _ | (with_reducible refine keep_of ?_; first | with_reducible assumption | with_reducible apply keep_memRead | with_reducible apply keep_wrReg | with_reducible apply keep_qsCheckpoint | with_reducible apply keep_qsSwap | with_reducible apply keep_useFree | with_reducible apply keep_wrPair | with_reducible apply keep_setC | with_reducible apply keep_fetchDecks | with_reducible apply keep_deckFail | with_reducible apply keep_seqFault | with_reducible apply keep_reportPoison | with_reducible refine keep_memRead_eq (by assumption) ?_ | with_reducible refine keep_fetchDecks_eq (by assumption) ?_ | with_reducible apply keep_foldl | with_reducible apply keep_foldl1 | with_reducible refine keep_foldl1_eq (by assumption) ?_ ?_) | split | dsimp only
theorem keep_startRun_eq {s0 : State} {s : State} {c addr : Nat} {tz : State} {rz : Bool} (ez : startRun s c addr = (tz, rz)) (hs : Keep s0 s) : Keep s0 tz := by
  rw [show tz = (startRun s c addr).1 from by rw [ez]]
  exact keep_startRun hs
theorem keep_startNext {s0 : State} {c : Nat} {x0 : List Nat} {x1 : State} (hx1 : Keep s0 x1) : Keep s0 (startNext c x0 x1) := by
  fun_induction startNext <;>
  repeat' first | with_reducible assumption | with_reducible apply keep_startRun | with_reducible apply keep_setC | with_reducible refine keep_startRun_eq (by assumption) ?_ | intro _ | (with_reducible refine keep_of ?_; first | with_reducible assumption | with_reducible apply keep_startRun | with_reducible apply keep_setC | with_reducible refine keep_startRun_eq (by assumption) ?_) | apply_assumption | split | dsimp only
theorem keep_noteEnd {s0 : State} {s : State} {c : Nat} {k : Cluster} (hs : Keep s0 s) : Keep s0 (noteEnd s c k) := by
  unfold noteEnd
  repeat' first | with_reducible assumption | with_reducible apply keep_ite | intro _ | (with_reducible refine keep_of ?_; first | with_reducible assumption) | split | dsimp only
theorem keep_endRun {s0 : State} {s : State} {c : Nat} (hs : Keep s0 s) : Keep s0 (endRun s c) := by
  unfold endRun
  repeat' first | with_reducible assumption | with_reducible apply keep_startNext | with_reducible apply keep_noteEnd | with_reducible apply keep_setC | with_reducible apply keep_ite | intro _ | (with_reducible refine keep_of ?_; first | with_reducible assumption | with_reducible apply keep_startNext | with_reducible apply keep_noteEnd | with_reducible apply keep_setC) | split | dsimp only
theorem keep_execRun {s0 : State} {c tpb : Nat} {s : State} (hs : Keep s0 s) : KeepR s0 (execRun c tpb s) := by
  unfold execRun
  repeat' first | with_reducible assumption | with_reducible apply keep_setC | with_reducible apply keep_startNext | with_reducible apply keep_ite | with_reducible apply keepR_ite | exact keepR_refused | with_reducible apply keepR_next | intro _ | (with_reducible refine keep_of ?_; first | with_reducible assumption | with_reducible apply keep_setC | with_reducible apply keep_startNext) | split | dsimp only
theorem keep_execDrop {s0 : State} {c trick mask : Nat} {s : State} (hs : Keep s0 s) : KeepR s0 (execDrop c trick mask s) := by
  unfold execDrop
  repeat' first | with_reducible assumption | with_reducible apply keep_setC | with_reducible apply keep_ite | with_reducible apply keepR_ite | exact keepR_refused | with_reducible apply keepR_next | intro _ | (with_reducible refine keep_of ?_; first | with_reducible assumption | with_reducible apply keep_setC) | split | dsimp only
theorem keep_qsUndefined {s0 : State} {s : State} {c : Nat} (hs : Keep s0 s) : Keep s0 (qsUndefined s c) := by
  unfold qsUndefined
  repeat' first | with_reducible assumption | with_reducible apply keep_wrReg | with_reducible apply keep_foldl | with_reducible apply keep_foldl1 | with_reducible refine keep_foldl1_eq (by assumption) ?_ ?_ | intro _ | (with_reducible refine keep_of ?_; first | with_reducible assumption | with_reducible apply keep_wrReg | with_reducible apply keep_foldl | with_reducible apply keep_foldl1 | with_reducible refine keep_foldl1_eq (by assumption) ?_ ?_) | split | dsimp only
theorem keep_abortRun {s0 : State} {s : State} {c : Nat} (hs : Keep s0 s) : Keep s0 (abortRun s c) := by
  unfold abortRun
  repeat' first | with_reducible assumption | with_reducible apply keep_useFree | with_reducible apply keep_qsUndefined | with_reducible apply keep_setC | with_reducible apply keep_ite | intro _ | (with_reducible refine keep_of ?_; first | with_reducible assumption | with_reducible apply keep_useFree | with_reducible apply keep_qsUndefined | with_reducible apply keep_setC) | split | dsimp only
theorem keep_execAbort {s0 : State} {c trick : Nat} {s : State} (hs : Keep s0 s) : KeepR s0 (execAbort c trick s) := by
  unfold execAbort
  repeat' first | with_reducible assumption | with_reducible apply keep_abortRun | with_reducible apply keep_ite | with_reducible apply keepR_ite | exact keepR_refused | with_reducible apply keepR_next | intro _ | (with_reducible refine keep_of ?_; first | with_reducible assumption | with_reducible apply keep_abortRun) | split | dsimp only
theorem keep_execEvent {s0 : State} {c dest ctr inc : Nat} {s : State} (hs : Keep s0 s) : KeepR s0 (execEvent c dest ctr inc s) := by
  unfold execEvent
  repeat' first | with_reducible assumption | with_reducible apply keep_setC | with_reducible apply keep_ite | with_reducible apply keepR_ite | exact keepR_refused | with_reducible apply keepR_next | intro _ | (with_reducible refine keep_of ?_; first | with_reducible assumption | with_reducible apply keep_setC) | split | dsimp only
theorem keep_execPing {s0 : State} {c seqno : Nat} {s : State} (hs : Keep s0 s) : KeepR s0 (execPing c seqno s) := by
  unfold execPing
  repeat' first | with_reducible assumption | with_reducible apply keep_emit | with_reducible apply keep_ite | with_reducible apply keepR_ite | exact keepR_refused | with_reducible apply keepR_next | intro _ | (with_reducible refine keep_of ?_; first | with_reducible assumption | with_reducible apply keep_emit) | split | dsimp only
theorem keep_gatedWrite {s0 : State} {s : State} {mid : Nat} {b : Blk} {i : Nat} {f : State → State} (hs : Keep s0 s) (hf : ∀ y0, Keep s0 y0 → Keep s0 (f y0)) : Keep s0 (gatedWrite s mid b i f) := by
  unfold gatedWrite
  repeat' first | with_reducible assumption | with_reducible apply hf | with_reducible apply keep_pageAccess | with_reducible apply keep_hostRef | with_reducible apply keep_ite | intro _ | (with_reducible refine keep_of ?_; first | with_reducible assumption | with_reducible apply hf | with_reducible apply keep_pageAccess | with_reducible apply keep_hostRef) | split | dsimp only
theorem keep_stagedWrite {s0 : State} {s : State} {c a : Nat} {v : W32} (hs : Keep s0 s) : Keep s0 (stagedWrite s c a v) := by
  unfold stagedWrite
  repeat' first | with_reducible assumption | with_reducible apply keep_setC | with_reducible apply keep_wrReg | with_reducible apply keep_ite | intro _ | (with_reducible refine keep_of ?_; first | with_reducible assumption | with_reducible apply keep_setC | with_reducible apply keep_wrReg) | split | dsimp only
theorem keep_opDcacheInv {s0 : State} {s : State} {c : Nat} {v : W32} (hs : Keep s0 s) : Keep s0 (opDcacheInv s c v) := by
  unfold opDcacheInv
  repeat' first | with_reducible assumption | with_reducible apply keep_setC | with_reducible apply keep_ite | intro _ | (with_reducible refine keep_of ?_; first | with_reducible assumption | with_reducible apply keep_setC) | split | dsimp only
theorem keep_execDcacheInv {s0 : State} {mid c : Nat} {v : W32} {s : State} (hs : Keep s0 s) : KeepR s0 (execDcacheInv mid c v s) := by
  unfold execDcacheInv
  repeat' first | with_reducible assumption | with_reducible apply keep_gatedWrite | with_reducible apply keep_opDcacheInv | exact keepR_refused | with_reducible apply keepR_next | intro _ | (with_reducible refine keep_of ?_; first | with_reducible assumption | with_reducible apply keep_gatedWrite | with_reducible apply keep_opDcacheInv) | split | dsimp only
theorem keep_opCluCfg {s0 : State} {s : State} {c : Nat} {v : W32} (hs : Keep s0 s) : Keep s0 (opCluCfg s c v) := by
  unfold opCluCfg
  repeat' first | with_reducible assumption | with_reducible apply keep_stagedWrite | intro _ | (with_reducible refine keep_of ?_; first | with_reducible assumption | with_reducible apply keep_stagedWrite) | split | dsimp only
theorem keep_execCluCfg {s0 : State} {mid c : Nat} {v : W32} {s : State} (hs : Keep s0 s) : KeepR s0 (execCluCfg mid c v s) := by
  unfold execCluCfg
  repeat' first | with_reducible assumption | with_reducible apply keep_gatedWrite | with_reducible apply keep_opCluCfg | exact keepR_refused | with_reducible apply keepR_next | intro _ | (with_reducible refine keep_of ?_; first | with_reducible assumption | with_reducible apply keep_gatedWrite | with_reducible apply keep_opCluCfg) | split | dsimp only
theorem keep_opCoreMap {s0 : State} {s : State} {c m : Nat} {v : W32} (hs : Keep s0 s) : Keep s0 (opCoreMap s c m v) := by
  unfold opCoreMap
  repeat' first | with_reducible assumption | with_reducible apply keep_stagedWrite | with_reducible apply keep_ite | intro _ | (with_reducible refine keep_of ?_; first | with_reducible assumption | with_reducible apply keep_stagedWrite) | split | dsimp only
theorem keep_execCoreMap {s0 : State} {mid c m : Nat} {v : W32} {s : State} (hs : Keep s0 s) : KeepR s0 (execCoreMap mid c m v s) := by
  unfold execCoreMap
  repeat' first | with_reducible assumption | with_reducible apply keep_gatedWrite | with_reducible apply keep_opCoreMap | exact keepR_refused | with_reducible apply keepR_next | intro _ | (with_reducible refine keep_of ?_; first | with_reducible assumption | with_reducible apply keep_gatedWrite | with_reducible apply keep_opCoreMap) | split | dsimp only
theorem keep_opCoreRet {s0 : State} {s : State} {c m : Nat} {v : W32} (hs : Keep s0 s) : Keep s0 (opCoreRet s c m v) := by
  unfold opCoreRet
  repeat' first | with_reducible assumption | with_reducible apply keep_orReg | with_reducible apply keep_ite | intro _ | (with_reducible refine keep_of ?_; first | with_reducible assumption | with_reducible apply keep_orReg) | split | dsimp only
theorem keep_execCoreRet {s0 : State} {mid c m : Nat} {v : W32} {s : State} (hs : Keep s0 s) : KeepR s0 (execCoreRet mid c m v s) := by
  unfold execCoreRet
  repeat' first | with_reducible assumption | with_reducible apply keep_gatedWrite | with_reducible apply keep_opCoreRet | exact keepR_refused | with_reducible apply keepR_next | intro _ | (with_reducible refine keep_of ?_; first | with_reducible assumption | with_reducible apply keep_gatedWrite | with_reducible apply keep_opCoreRet) | split | dsimp only
theorem keep_stageCore {s0 : State} {s : State} {c q p : Nat} (hs : Keep s0 s) : Keep s0 (stageCore s c q p) := by
  unfold stageCore
  repeat' first | with_reducible assumption | with_reducible apply keep_setC | intro _ | (with_reducible refine keep_of ?_; first | with_reducible assumption | with_reducible apply keep_setC) | split | dsimp only
theorem keep_deckEcc {s0 : State} {s : State} {c q : Nat} {up : Upset} (hs : Keep s0 s) : Keep s0 (deckEcc s c q up) := by
  unfold deckEcc
  repeat' first | with_reducible assumption | with_reducible apply keep_issue | with_reducible apply keep_errCe | with_reducible apply keep_setC | with_reducible apply keep_fetchDeck | with_reducible apply keep_deckFail | with_reducible refine keep_fetchDeck_eq (by assumption) ?_ | with_reducible apply keep_ite | intro _ | (with_reducible refine keep_of ?_; first | with_reducible assumption | with_reducible apply keep_issue | with_reducible apply keep_errCe | with_reducible apply keep_setC | with_reducible apply keep_fetchDeck | with_reducible apply keep_deckFail | with_reducible refine keep_fetchDeck_eq (by assumption) ?_) | split | dsimp only
theorem keep_issue {s0 : State} {s : State} {c q op : Nat} {sel : Nat → Bool} {f : Cluster → Nat → State} (hs : Keep s0 s) (hf : ∀ y0 y1, Keep s0 (f y0 y1)) : Keep s0 (issue s c q op sel f) := by
  unfold issue
  repeat' first | with_reducible assumption | with_reducible apply hf | with_reducible apply keep_seqFault | with_reducible apply keep_ite | intro _ | (with_reducible refine keep_of ?_; first | with_reducible assumption | with_reducible apply hf | with_reducible apply keep_seqFault) | split | dsimp only
theorem keep_arrPush {s0 : State} {s : State} {c q : Nat} {k : Cluster} {w : Nat} (hs : Keep s0 s) : Keep s0 (arrPush s c q k w) := by
  unfold arrPush
  repeat' first | with_reducible assumption | with_reducible apply keep_setC | intro _ | (with_reducible refine keep_of ?_; first | with_reducible assumption | with_reducible apply keep_setC) | split | dsimp only
theorem keep_arrFault {s0 : State} {s : State} {c q code : Nat} (hs : Keep s0 s) : Keep s0 (arrFault s c q code) := by
  unfold arrFault
  repeat' first | with_reducible assumption | with_reducible apply keep_seqFault | with_reducible apply keep_setC | intro _ | (with_reducible refine keep_of ?_; first | with_reducible assumption | with_reducible apply keep_seqFault | with_reducible apply keep_setC) | split | dsimp only
theorem keep_onArr {s0 : State} {s : State} {c q op : Nat} {sel : Nat → Bool} {f : Cluster → ArrStep → State} (hs : Keep s0 s) (hf : ∀ y0 y1, Keep s0 (f y0 y1)) : Keep s0 (onArr s c q op sel f) := by
  unfold onArr
  repeat' first | with_reducible assumption | with_reducible apply hf | with_reducible apply keep_ite | intro _ | (with_reducible refine keep_of ?_; first | with_reducible assumption | with_reducible apply hf) | split | dsimp only
theorem keep_upCe {s0 : State} {s : State} {c : Nat} {u : Upset} (hs : Keep s0 s) : Keep s0 (upCe s c u) := by
  unfold upCe
  repeat' first | with_reducible assumption | with_reducible apply keep_errCe | with_reducible apply keep_ite | intro _ | (with_reducible refine keep_of ?_; first | with_reducible assumption | with_reducible apply keep_errCe) | split | dsimp only
theorem keep_tensorRows {s0 : State} {s : State} {fn : Nat} {td : TD} {row nrow g ngrp : Nat} {err : MemErr} (hs : Keep s0 s) : Keep s0 (tensorRows s fn td row nrow g ngrp err).1 := by
  unfold tensorRows
  repeat' first | with_reducible assumption | with_reducible apply keep_memRead | with_reducible refine keep_memRead_eq (by assumption) ?_ | with_reducible apply keep_foldl | with_reducible apply keep_foldl1 | with_reducible refine keep_foldl1_eq (by assumption) ?_ ?_ | with_reducible apply keep_ite | intro _ | (with_reducible refine keep_of ?_; first | with_reducible assumption | with_reducible apply keep_memRead | with_reducible refine keep_memRead_eq (by assumption) ?_ | with_reducible apply keep_foldl | with_reducible apply keep_foldl1 | with_reducible refine keep_foldl1_eq (by assumption) ?_ ?_) | split | dsimp only
theorem keep_tensorRows_eq {s0 : State} {s : State} {fn : Nat} {td : TD} {row nrow g ngrp : Nat} {err : MemErr} {tz : State} {rz : MemRes × List (List Nat)} (ez : tensorRows s fn td row nrow g ngrp err = (tz, rz)) (hs : Keep s0 s) : Keep s0 tz := by
  rw [show tz = (tensorRows s fn td row nrow g ngrp err).1 from by rw [ez]]
  exact keep_tensorRows hs
theorem keep_memStop {s0 : State} {s : State} {c q w : Nat} {a : Nat} {r : MemRes} (hs : Keep s0 s) : Keep s0 (memStop s c q w a r) := by
  unfold memStop
  repeat' first | with_reducible assumption | with_reducible apply keep_seqFault | with_reducible apply keep_setC | with_reducible apply keep_reportPoison | intro _ | (with_reducible refine keep_of ?_; first | with_reducible assumption | with_reducible apply keep_seqFault | with_reducible apply keep_setC | with_reducible apply keep_reportPoison) | split | dsimp only
theorem keep_opLoad {s0 : State} {s : State} {c q : Nat} {up : Upset} {k : Cluster} {w : Nat} (hs : Keep s0 s) : Keep s0 (opLoad s c q up k w) := by
  unfold opLoad
  repeat' first | with_reducible assumption | with_reducible apply keep_seqFault | with_reducible apply keep_tensorRows | with_reducible apply keep_setC | with_reducible apply keep_memStop | with_reducible refine keep_tensorRows_eq (by assumption) ?_ | with_reducible apply keep_foldl | with_reducible apply keep_foldl1 | with_reducible refine keep_foldl1_eq (by assumption) ?_ ?_ | with_reducible apply keep_ite | intro _ | (with_reducible refine keep_of ?_; first | with_reducible assumption | with_reducible apply keep_seqFault | with_reducible apply keep_tensorRows | with_reducible apply keep_setC | with_reducible apply keep_memStop | with_reducible refine keep_tensorRows_eq (by assumption) ?_ | with_reducible apply keep_foldl | with_reducible apply keep_foldl1 | with_reducible refine keep_foldl1_eq (by assumption) ?_ ?_) | split | dsimp only
theorem keep_execLoad {s0 : State} {c q : Nat} {up : Upset} {s : State} (hs : Keep s0 s) : KeepR s0 (execLoad c q up s) := by
  unfold execLoad
  repeat' first | with_reducible assumption | with_reducible apply keep_deckEcc | with_reducible apply keep_issue | with_reducible apply keep_opLoad | exact keepR_refused | with_reducible apply keepR_next | intro _ | (with_reducible refine keep_of ?_; first | with_reducible assumption | with_reducible apply keep_deckEcc | with_reducible apply keep_issue | with_reducible apply keep_opLoad) | split | dsimp only
theorem keep_opLoadRaw {s0 : State} {s : State} {c q : Nat} {up : Upset} {k : Cluster} {w : Nat} (hs : Keep s0 s) : Keep s0 (opLoadRaw s c q up k w) := by
  unfold opLoadRaw
  repeat' first | with_reducible assumption | with_reducible apply keep_seqFault | with_reducible apply keep_memRead | with_reducible apply keep_setC | with_reducible apply keep_memStop | with_reducible refine keep_memRead_eq (by assumption) ?_ | with_reducible apply keep_foldl | with_reducible apply keep_foldl1 | with_reducible refine keep_foldl1_eq (by assumption) ?_ ?_ | with_reducible apply keep_ite | intro _ | (with_reducible refine keep_of ?_; first | with_reducible assumption | with_reducible apply keep_seqFault | with_reducible apply keep_memRead | with_reducible apply keep_setC | with_reducible apply keep_memStop | with_reducible refine keep_memRead_eq (by assumption) ?_ | with_reducible apply keep_foldl | with_reducible apply keep_foldl1 | with_reducible refine keep_foldl1_eq (by assumption) ?_ ?_) | split | dsimp only
theorem keep_execLoadRaw {s0 : State} {c q : Nat} {up : Upset} {s : State} (hs : Keep s0 s) : KeepR s0 (execLoadRaw c q up s) := by
  unfold execLoadRaw
  repeat' first | with_reducible assumption | with_reducible apply keep_deckEcc | with_reducible apply keep_issue | with_reducible apply keep_opLoadRaw | exact keepR_refused | with_reducible apply keepR_next | intro _ | (with_reducible refine keep_of ?_; first | with_reducible assumption | with_reducible apply keep_deckEcc | with_reducible apply keep_issue | with_reducible apply keep_opLoadRaw) | split | dsimp only
theorem keep_opStream {s0 : State} {s : State} {c q : Nat} {k : Cluster} {w : Nat} (hs : Keep s0 s) : Keep s0 (opStream s c q k w) := by
  unfold opStream
  repeat' first | with_reducible assumption | with_reducible apply keep_seqFault | with_reducible apply keep_setC | with_reducible apply keep_ite | intro _ | (with_reducible refine keep_of ?_; first | with_reducible assumption | with_reducible apply keep_seqFault | with_reducible apply keep_setC) | split | dsimp only
theorem keep_execStream {s0 : State} {c q : Nat} {s : State} (hs : Keep s0 s) : KeepR s0 (execStream c q s) := by
  unfold execStream
  repeat' first | with_reducible assumption | with_reducible apply keep_issue | with_reducible apply keep_opStream | exact keepR_refused | with_reducible apply keepR_next | intro _ | (with_reducible refine keep_of ?_; first | with_reducible assumption | with_reducible apply keep_issue | with_reducible apply keep_opStream) | split | dsimp only
theorem keep_needRead {s0 : State} {s : State} {fn a n : Nat} {err : MemErr} (hs : Keep s0 s) : Keep s0 (needRead s fn a n err).1 := by
  unfold needRead
  repeat' first | with_reducible assumption | with_reducible apply keep_memRead | with_reducible refine keep_memRead_eq (by assumption) ?_ | intro _ | (with_reducible refine keep_of ?_; first | with_reducible assumption | with_reducible apply keep_memRead | with_reducible refine keep_memRead_eq (by assumption) ?_) | split | dsimp only
theorem keep_needRead_eq {s0 : State} {s : State} {fn a n : Nat} {err : MemErr} {tz : State} {rz : Except (Nat × Nat) (List Byte)} (ez : needRead s fn a n err = (tz, rz)) (hs : Keep s0 s) : Keep s0 tz := by
  rw [show tz = (needRead s fn a n err).1 from by rw [ez]]
  exact keep_needRead hs
theorem keep_readGroup {s0 : State} {s : State} {fn : Nat} {td : TD} {row g : Nat} {err : MemErr} (hs : Keep s0 s) : Keep s0 (readGroup s fn td row g err).1 := by
  unfold readGroup
  repeat' first | with_reducible assumption | with_reducible apply keep_needRead | with_reducible refine keep_needRead_eq (by assumption) ?_ | with_reducible apply keep_ite | intro _ | (with_reducible refine keep_of ?_; first | with_reducible assumption | with_reducible apply keep_needRead | with_reducible refine keep_needRead_eq (by assumption) ?_) | split | dsimp only
theorem keep_readGroup_eq {s0 : State} {s : State} {fn : Nat} {td : TD} {row g : Nat} {err : MemErr} {tz : State} {rz : Except (Nat × Nat) RawGroup} (ez : readGroup s fn td row g err = (tz, rz)) (hs : Keep s0 s) : Keep s0 tz := by
  rw [show tz = (readGroup s fn td row g err).1 from by rw [ez]]
  exact keep_readGroup hs
theorem keep_groupStop {s0 : State} {s : State} {c q : Nat} {e : Nat × Nat} (hs : Keep s0 s) : Keep s0 (groupStop s c q e) := by
  unfold groupStop
  repeat' first | with_reducible assumption | with_reducible apply keep_seqFault | with_reducible apply keep_reportPoison | with_reducible apply keep_ite | intro _ | (with_reducible refine keep_of ?_; first | with_reducible assumption | with_reducible apply keep_seqFault | with_reducible apply keep_reportPoison) | split | dsimp only
theorem keep_ringWeights {s0 : State} {s : State} {c q : Nat} {r : Ring} {err : MemErr} (hs : Keep s0 s) : Keep s0 (ringWeights s c q r err) := by
  unfold ringWeights
  repeat' first | with_reducible assumption | with_reducible apply keep_readGroup | with_reducible apply keep_groupStop | with_reducible apply keep_seqFault | with_reducible apply keep_setC | with_reducible refine keep_readGroup_eq (by assumption) ?_ | with_reducible apply keep_foldl | with_reducible apply keep_foldl1 | with_reducible refine keep_foldl1_eq (by assumption) ?_ ?_ | with_reducible apply keep_ite | intro _ | (with_reducible refine keep_of ?_; first | with_reducible assumption | with_reducible apply keep_readGroup | with_reducible apply keep_groupStop | with_reducible apply keep_seqFault | with_reducible apply keep_setC | with_reducible refine keep_readGroup_eq (by assumption) ?_ | with_reducible apply keep_foldl | with_reducible apply keep_foldl1 | with_reducible refine keep_foldl1_eq (by assumption) ?_ ?_) | split | dsimp only
theorem keep_macGroup {s0 : State} {s : State} {c q : Nat} {a : ArrStep} {r : Ring} (hs : Keep s0 s) : Keep s0 (macGroup s c q a r) := by
  unfold macGroup
  repeat' first | with_reducible assumption | with_reducible apply keep_setC | with_reducible apply keep_orReg | with_reducible apply keep_bumpBy | with_reducible apply keep_foldl | with_reducible apply keep_foldl1 | with_reducible refine keep_foldl1_eq (by assumption) ?_ ?_ | with_reducible apply keep_ite | intro _ | (with_reducible refine keep_of ?_; first | with_reducible assumption | with_reducible apply keep_setC | with_reducible apply keep_orReg | with_reducible apply keep_bumpBy | with_reducible apply keep_foldl | with_reducible apply keep_foldl1 | with_reducible refine keep_foldl1_eq (by assumption) ?_ ?_) | split | dsimp only
theorem keep_macGo {s0 : State} {c q : Nat} {a : ArrStep} {x0 : Nat} {x1 : State} (hx1 : Keep s0 x1) : Keep s0 (macGo c q a x0 x1) := by
  fun_induction macGo <;>
  repeat' first | with_reducible assumption | with_reducible apply keep_arrFault | with_reducible apply keep_macGroup | with_reducible apply keep_ite | intro _ | (with_reducible refine keep_of ?_; first | with_reducible assumption | with_reducible apply keep_arrFault | with_reducible apply keep_macGroup) | apply_assumption | split | dsimp only
theorem keep_opMac {s0 : State} {s : State} {c q : Nat} {k : Cluster} {w : Nat} (hs : Keep s0 s) : Keep s0 (opMac s c q k w) := by
  unfold opMac
  repeat' first | with_reducible assumption | with_reducible apply keep_seqFault | with_reducible apply keep_arrPush | with_reducible apply keep_ite | intro _ | (with_reducible refine keep_of ?_; first | with_reducible assumption | with_reducible apply keep_seqFault | with_reducible apply keep_arrPush) | split | dsimp only
theorem keep_macRun {s0 : State} {s : State} {c q : Nat} {up : Upset} {k : Cluster} {a : ArrStep} (hs : Keep s0 s) : Keep s0 (macRun s c q up k a) := by
  unfold macRun
  repeat' first | with_reducible assumption | with_reducible apply keep_arrFault | with_reducible apply keep_upCe | with_reducible apply keep_setC | with_reducible apply keep_macGo | with_reducible apply keep_foldl | with_reducible apply keep_foldl1 | with_reducible refine keep_foldl1_eq (by assumption) ?_ ?_ | with_reducible apply keep_ite | intro _ | (with_reducible refine keep_of ?_; first | with_reducible assumption | with_reducible apply keep_arrFault | with_reducible apply keep_upCe | with_reducible apply keep_setC | with_reducible apply keep_macGo | with_reducible apply keep_foldl | with_reducible apply keep_foldl1 | with_reducible refine keep_foldl1_eq (by assumption) ?_ ?_) | split | dsimp only
theorem keep_execMac {s0 : State} {c q : Nat} {up : Upset} {s : State} (hs : Keep s0 s) : KeepR s0 (execMac c q up s) := by
  unfold execMac
  repeat' first | with_reducible assumption | with_reducible apply keep_deckEcc | with_reducible apply keep_issue | with_reducible apply keep_opMac | with_reducible apply keep_onArr | with_reducible apply keep_macRun | exact keepR_refused | with_reducible apply keepR_next | intro _ | (with_reducible refine keep_of ?_; first | with_reducible assumption | with_reducible apply keep_deckEcc | with_reducible apply keep_issue | with_reducible apply keep_opMac | with_reducible apply keep_onArr | with_reducible apply keep_macRun) | split | dsimp only
theorem keep_opDrain {s0 : State} {s : State} {c q : Nat} {k : Cluster} {w : Nat} (hs : Keep s0 s) : Keep s0 (opDrain s c q k w) := by
  unfold opDrain
  repeat' first | with_reducible assumption | with_reducible apply keep_seqFault | with_reducible apply keep_arrPush | with_reducible apply keep_ite | intro _ | (with_reducible refine keep_of ?_; first | with_reducible assumption | with_reducible apply keep_seqFault | with_reducible apply keep_arrPush) | split | dsimp only
theorem keep_drainRun {s0 : State} {s : State} {c q : Nat} {up : Upset} {k : Cluster} {a : ArrStep} (hs : Keep s0 s) : Keep s0 (drainRun s c q up k a) := by
  unfold drainRun
  repeat' first | with_reducible assumption | with_reducible apply keep_arrFault | with_reducible apply keep_upCe | with_reducible apply keep_setC | with_reducible apply keep_orReg | with_reducible apply keep_foldl | with_reducible apply keep_foldl1 | with_reducible refine keep_foldl1_eq (by assumption) ?_ ?_ | with_reducible apply keep_ite | intro _ | (with_reducible refine keep_of ?_; first | with_reducible assumption | with_reducible apply keep_arrFault | with_reducible apply keep_upCe | with_reducible apply keep_setC | with_reducible apply keep_orReg | with_reducible apply keep_foldl | with_reducible apply keep_foldl1 | with_reducible refine keep_foldl1_eq (by assumption) ?_ ?_) | split | dsimp only
theorem keep_execDrain {s0 : State} {c q : Nat} {up : Upset} {s : State} (hs : Keep s0 s) : KeepR s0 (execDrain c q up s) := by
  unfold execDrain
  repeat' first | with_reducible assumption | with_reducible apply keep_deckEcc | with_reducible apply keep_issue | with_reducible apply keep_opDrain | with_reducible apply keep_onArr | with_reducible apply keep_drainRun | exact keepR_refused | with_reducible apply keepR_next | intro _ | (with_reducible refine keep_of ?_; first | with_reducible assumption | with_reducible apply keep_deckEcc | with_reducible apply keep_issue | with_reducible apply keep_opDrain | with_reducible apply keep_onArr | with_reducible apply keep_drainRun) | split | dsimp only
theorem keep_opWaitEvent {s0 : State} {s : State} {c q : Nat} {k : Cluster} {w : Nat} (hs : Keep s0 s) : Keep s0 (opWaitEvent s c q k w) := by
  unfold opWaitEvent
  repeat' first | with_reducible assumption | with_reducible apply keep_seqFault | with_reducible apply keep_setC | with_reducible apply keep_ite | intro _ | (with_reducible refine keep_of ?_; first | with_reducible assumption | with_reducible apply keep_seqFault | with_reducible apply keep_setC) | split | dsimp only
theorem keep_execWaitEvent {s0 : State} {c q : Nat} {s : State} (hs : Keep s0 s) : KeepR s0 (execWaitEvent c q s) := by
  unfold execWaitEvent
  repeat' first | with_reducible assumption | with_reducible apply keep_issue | with_reducible apply keep_opWaitEvent | exact keepR_refused | with_reducible apply keepR_next | intro _ | (with_reducible refine keep_of ?_; first | with_reducible assumption | with_reducible apply keep_issue | with_reducible apply keep_opWaitEvent) | split | dsimp only
theorem keep_execWaitRelease {s0 : State} {c q : Nat} {s : State} (hs : Keep s0 s) : KeepR s0 (execWaitRelease c q s) := by
  unfold execWaitRelease
  repeat' first | with_reducible assumption | with_reducible apply keep_setC | with_reducible apply keep_issue | with_reducible apply keep_ite | with_reducible apply keepR_ite | exact keepR_refused | with_reducible apply keepR_next | intro _ | (with_reducible refine keep_of ?_; first | with_reducible assumption | with_reducible apply keep_setC | with_reducible apply keep_issue) | split | dsimp only
theorem keep_setSem {s0 : State} {s : State} {die i v : Nat} (hs : Keep s0 s) : Keep s0 (setSem s die i v) := by
  unfold setSem
  repeat' first | with_reducible assumption | intro _ | (with_reducible refine keep_of ?_; first | with_reducible assumption) | split | dsimp only
theorem keep_opAcquire {s0 : State} {s : State} {c q : Nat} {k : Cluster} {w : Nat} (hs : Keep s0 s) : Keep s0 (opAcquire s c q k w) := by
  unfold opAcquire
  repeat' first | with_reducible assumption | with_reducible apply keep_seqFault | with_reducible apply keep_setC | with_reducible apply keep_setSem | with_reducible apply keep_ite | intro _ | (with_reducible refine keep_of ?_; first | with_reducible assumption | with_reducible apply keep_seqFault | with_reducible apply keep_setC | with_reducible apply keep_setSem) | split | dsimp only
theorem keep_execAcquire {s0 : State} {c q : Nat} {s : State} (hs : Keep s0 s) : KeepR s0 (execAcquire c q s) := by
  unfold execAcquire
  repeat' first | with_reducible assumption | with_reducible apply keep_issue | with_reducible apply keep_opAcquire | exact keepR_refused | with_reducible apply keepR_next | intro _ | (with_reducible refine keep_of ?_; first | with_reducible assumption | with_reducible apply keep_issue | with_reducible apply keep_opAcquire) | split | dsimp only
theorem keep_execAcquireGrant {s0 : State} {die sem : Nat} {s : State} (hs : Keep s0 s) : KeepR s0 (execAcquireGrant die sem s) := by
  unfold execAcquireGrant
  repeat' first | with_reducible assumption | with_reducible apply keep_setSem | with_reducible apply keep_setC | with_reducible apply keep_issue | with_reducible apply keep_ite | with_reducible apply keepR_ite | exact keepR_refused | with_reducible apply keepR_next | intro _ | (with_reducible refine keep_of ?_; first | with_reducible assumption | with_reducible apply keep_setSem | with_reducible apply keep_setC | with_reducible apply keep_issue) | split | dsimp only
theorem keep_opWaitBarrier {s0 : State} {s : State} {c q : Nat} {k : Cluster} {w : Nat} (hs : Keep s0 s) : Keep s0 (opWaitBarrier s c q k w) := by
  unfold opWaitBarrier
  repeat' first | with_reducible assumption | with_reducible apply keep_seqFault | with_reducible apply keep_setC | with_reducible apply keep_ite | intro _ | (with_reducible refine keep_of ?_; first | with_reducible assumption | with_reducible apply keep_seqFault | with_reducible apply keep_setC) | split | dsimp only
theorem keep_execWaitBarrier {s0 : State} {c q : Nat} {s : State} (hs : Keep s0 s) : KeepR s0 (execWaitBarrier c q s) := by
  unfold execWaitBarrier
  repeat' first | with_reducible assumption | with_reducible apply keep_issue | with_reducible apply keep_opWaitBarrier | exact keepR_refused | with_reducible apply keepR_next | intro _ | (with_reducible refine keep_of ?_; first | with_reducible assumption | with_reducible apply keep_issue | with_reducible apply keep_opWaitBarrier) | split | dsimp only
theorem keep_execBarrierRelease {s0 : State} {scope i grp : Nat} {s : State} (hs : Keep s0 s) : KeepR s0 (execBarrierRelease scope i grp s) := by
  unfold execBarrierRelease
  repeat' first | with_reducible assumption | with_reducible apply keep_setC | with_reducible apply keep_issue | with_reducible apply keep_foldl | with_reducible apply keep_foldl1 | with_reducible refine keep_foldl1_eq (by assumption) ?_ ?_ | with_reducible apply keep_ite | with_reducible apply keepR_ite | exact keepR_refused | with_reducible apply keepR_next | intro _ | (with_reducible refine keep_of ?_; first | with_reducible assumption | with_reducible apply keep_setC | with_reducible apply keep_issue | with_reducible apply keep_foldl | with_reducible apply keep_foldl1 | with_reducible refine keep_foldl1_eq (by assumption) ?_ ?_) | split | dsimp only
theorem keep_opSignalEvent {s0 : State} {s : State} {c q : Nat} {k : Cluster} {w : Nat} (hs : Keep s0 s) : Keep s0 (opSignalEvent s c q k w) := by
  unfold opSignalEvent
  repeat' first | with_reducible assumption | with_reducible apply keep_seqFault | with_reducible apply keep_setC | with_reducible apply keep_ite | intro _ | (with_reducible refine keep_of ?_; first | with_reducible assumption | with_reducible apply keep_seqFault | with_reducible apply keep_setC) | split | dsimp only
theorem keep_execSignalEvent {s0 : State} {c q : Nat} {s : State} (hs : Keep s0 s) : KeepR s0 (execSignalEvent c q s) := by
  unfold execSignalEvent
  repeat' first | with_reducible assumption | with_reducible apply keep_issue | with_reducible apply keep_opSignalEvent | exact keepR_refused | with_reducible apply keepR_next | intro _ | (with_reducible refine keep_of ?_; first | with_reducible assumption | with_reducible apply keep_issue | with_reducible apply keep_opSignalEvent) | split | dsimp only
theorem keep_opPost {s0 : State} {s : State} {c q : Nat} {k : Cluster} {w : Nat} (hs : Keep s0 s) : Keep s0 (opPost s c q k w) := by
  unfold opPost
  repeat' first | with_reducible assumption | with_reducible apply keep_seqFault | with_reducible apply keep_setC | with_reducible apply keep_setSem | with_reducible apply keep_ite | intro _ | (with_reducible refine keep_of ?_; first | with_reducible assumption | with_reducible apply keep_seqFault | with_reducible apply keep_setC | with_reducible apply keep_setSem) | split | dsimp only
theorem keep_execPost {s0 : State} {c q : Nat} {s : State} (hs : Keep s0 s) : KeepR s0 (execPost c q s) := by
  unfold execPost
  repeat' first | with_reducible assumption | with_reducible apply keep_issue | with_reducible apply keep_opPost | exact keepR_refused | with_reducible apply keepR_next | intro _ | (with_reducible refine keep_of ?_; first | with_reducible assumption | with_reducible apply keep_issue | with_reducible apply keep_opPost) | split | dsimp only
theorem keep_opDealerNotice {s0 : State} {s : State} {c q : Nat} {k : Cluster} {w : Nat} (hs : Keep s0 s) : Keep s0 (opDealerNotice s c q k w) := by
  unfold opDealerNotice
  repeat' first | with_reducible assumption | with_reducible apply keep_setC | with_reducible apply keep_emit | intro _ | (with_reducible refine keep_of ?_; first | with_reducible assumption | with_reducible apply keep_setC | with_reducible apply keep_emit) | split | dsimp only
theorem keep_execDealerNotice {s0 : State} {c q : Nat} {s : State} (hs : Keep s0 s) : KeepR s0 (execDealerNotice c q s) := by
  unfold execDealerNotice
  repeat' first | with_reducible assumption | with_reducible apply keep_issue | with_reducible apply keep_opDealerNotice | exact keepR_refused | with_reducible apply keepR_next | intro _ | (with_reducible refine keep_of ?_; first | with_reducible assumption | with_reducible apply keep_issue | with_reducible apply keep_opDealerNotice) | split | dsimp only
theorem keep_opMoveCore {s0 : State} {s : State} {c q : Nat} {up : Upset} {k : Cluster} {w : Nat} (hs : Keep s0 s) : Keep s0 (opMoveCore s c q up k w) := by
  unfold opMoveCore
  repeat' first | with_reducible assumption | with_reducible apply keep_seqFault | with_reducible apply keep_upCe | with_reducible apply keep_setC | with_reducible apply keep_ite | intro _ | (with_reducible refine keep_of ?_; first | with_reducible assumption | with_reducible apply keep_seqFault | with_reducible apply keep_upCe | with_reducible apply keep_setC) | split | dsimp only
theorem keep_execMoveCore {s0 : State} {c q : Nat} {up : Upset} {s : State} (hs : Keep s0 s) : KeepR s0 (execMoveCore c q up s) := by
  unfold execMoveCore
  repeat' first | with_reducible assumption | with_reducible apply keep_deckEcc | with_reducible apply keep_issue | with_reducible apply keep_opMoveCore | exact keepR_refused | with_reducible apply keepR_next | intro _ | (with_reducible refine keep_of ?_; first | with_reducible assumption | with_reducible apply keep_deckEcc | with_reducible apply keep_issue | with_reducible apply keep_opMoveCore) | split | dsimp only
theorem keep_opMoveRows {s0 : State} {s : State} {c q : Nat} {up : Upset} {k : Cluster} {w : Nat} (hs : Keep s0 s) : Keep s0 (opMoveRows s c q up k w) := by
  unfold opMoveRows
  repeat' first | with_reducible assumption | with_reducible apply keep_seqFault | with_reducible apply keep_upCe | with_reducible apply keep_memWrite | with_reducible apply keep_setC | with_reducible refine keep_memWrite_eq (by assumption) ?_ | with_reducible apply keep_foldl | with_reducible apply keep_foldl1 | with_reducible refine keep_foldl1_eq (by assumption) ?_ ?_ | with_reducible apply keep_ite | intro _ | (with_reducible refine keep_of ?_; first | with_reducible assumption | with_reducible apply keep_seqFault | with_reducible apply keep_upCe | with_reducible apply keep_memWrite | with_reducible apply keep_setC | with_reducible refine keep_memWrite_eq (by assumption) ?_ | with_reducible apply keep_foldl | with_reducible apply keep_foldl1 | with_reducible refine keep_foldl1_eq (by assumption) ?_ ?_) | split | dsimp only
theorem keep_execMoveRows {s0 : State} {c q : Nat} {up : Upset} {s : State} (hs : Keep s0 s) : KeepR s0 (execMoveRows c q up s) := by
  unfold execMoveRows
  repeat' first | with_reducible assumption | with_reducible apply keep_deckEcc | with_reducible apply keep_issue | with_reducible apply keep_opMoveRows | exact keepR_refused | with_reducible apply keepR_next | intro _ | (with_reducible refine keep_of ?_; first | with_reducible assumption | with_reducible apply keep_deckEcc | with_reducible apply keep_issue | with_reducible apply keep_opMoveRows) | split | dsimp only
theorem keep_opMoveRaw {s0 : State} {s : State} {c q : Nat} {up : Upset} {k : Cluster} {w : Nat} (hs : Keep s0 s) : Keep s0 (opMoveRaw s c q up k w) := by
  unfold opMoveRaw
  repeat' first | with_reducible assumption | with_reducible apply keep_seqFault | with_reducible apply keep_memWrite | with_reducible apply keep_upCe | with_reducible apply keep_setC | with_reducible refine keep_memWrite_eq (by assumption) ?_ | with_reducible apply keep_ite | intro _ | (with_reducible refine keep_of ?_; first | with_reducible assumption | with_reducible apply keep_seqFault | with_reducible apply keep_memWrite | with_reducible apply keep_upCe | with_reducible apply keep_setC | with_reducible refine keep_memWrite_eq (by assumption) ?_) | split | dsimp only
theorem keep_execMoveRaw {s0 : State} {c q : Nat} {up : Upset} {s : State} (hs : Keep s0 s) : KeepR s0 (execMoveRaw c q up s) := by
  unfold execMoveRaw
  repeat' first | with_reducible assumption | with_reducible apply keep_deckEcc | with_reducible apply keep_issue | with_reducible apply keep_opMoveRaw | exact keepR_refused | with_reducible apply keepR_next | intro _ | (with_reducible refine keep_of ?_; first | with_reducible assumption | with_reducible apply keep_deckEcc | with_reducible apply keep_issue | with_reducible apply keep_opMoveRaw) | split | dsimp only
theorem keep_noteDrop {s0 : State} {s : State} {c q : Nat} {k : Cluster} {mask : Nat} (hs : Keep s0 s) : Keep s0 (noteDrop s c q k mask) := by
  unfold noteDrop
  repeat' first | with_reducible assumption | with_reducible apply keep_emit | with_reducible apply keep_ite | intro _ | (with_reducible refine keep_of ?_; first | with_reducible assumption | with_reducible apply keep_emit) | split | dsimp only
theorem keep_opLoop {s0 : State} {before : State} {c q : Nat} {k : Cluster} {w : Nat} (hbefore : Keep s0 before) : Keep s0 (opLoop before c q k w) := by
  unfold opLoop
  repeat' first | with_reducible assumption | with_reducible apply keep_noteDrop | with_reducible apply keep_seqFault | with_reducible apply keep_setC | with_reducible apply keep_ite | intro _ | (with_reducible refine keep_of ?_; first | with_reducible assumption | with_reducible apply keep_noteDrop | with_reducible apply keep_seqFault | with_reducible apply keep_setC) | split | dsimp only
theorem keep_loopLayer {s0 : State} {before s : State} {c q : Nat} (hbefore : Keep s0 before) (hs : Keep s0 s) : Keep s0 (loopLayer before s c q) := by
  unfold loopLayer
  repeat' first | with_reducible assumption | with_reducible apply keep_layerBegin | with_reducible apply keep_ite | intro _ | (with_reducible refine keep_of ?_; first | with_reducible assumption | with_reducible apply keep_layerBegin) | split | dsimp only
theorem keep_execLoop {s0 : State} {c q : Nat} {s : State} (hs : Keep s0 s) : KeepR s0 (execLoop c q s) := by
  unfold execLoop
  repeat' first | with_reducible assumption | with_reducible apply keep_loopLayer | with_reducible apply keep_issue | with_reducible apply keep_opLoop | exact keepR_refused | with_reducible apply keepR_next | intro _ | (with_reducible refine keep_of ?_; first | with_reducible assumption | with_reducible apply keep_loopLayer | with_reducible apply keep_issue | with_reducible apply keep_opLoop) | split | dsimp only
theorem keep_opEnd {s0 : State} {s : State} {c q : Nat} {k : Cluster} {w : Nat} (hs : Keep s0 s) : Keep s0 (opEnd s c q k w) := by
  unfold opEnd
  repeat' first | with_reducible assumption | with_reducible apply keep_seqFault | with_reducible apply keep_endRun | with_reducible apply keep_setC | with_reducible apply keep_ite | intro _ | (with_reducible refine keep_of ?_; first | with_reducible assumption | with_reducible apply keep_seqFault | with_reducible apply keep_endRun | with_reducible apply keep_setC) | split | dsimp only
theorem keep_execEndStep {s0 : State} {c q : Nat} {s : State} (hs : Keep s0 s) : KeepR s0 (execEndStep c q s) := by
  unfold execEndStep
  repeat' first | with_reducible assumption | with_reducible apply keep_issue | with_reducible apply keep_opEnd | exact keepR_refused | with_reducible apply keepR_next | intro _ | (with_reducible refine keep_of ?_; first | with_reducible assumption | with_reducible apply keep_issue | with_reducible apply keep_opEnd) | split | dsimp only
theorem keep_execStepComplete {s0 : State} {c q i : Nat} {s : State} (hs : Keep s0 s) : KeepR s0 (execStepComplete c q i s) := by
  unfold execStepComplete
  repeat' first | with_reducible assumption | with_reducible apply keep_setC | with_reducible apply keep_ite | with_reducible apply keepR_ite | exact keepR_refused | with_reducible apply keepR_next | intro _ | (with_reducible refine keep_of ?_; first | with_reducible assumption | with_reducible apply keep_setC) | split | dsimp only
theorem keep_execHang {s0 : State} {c q : Nat} {s : State} (hs : Keep s0 s) : KeepR s0 (execHang c q s) := by
  unfold execHang
  repeat' first | with_reducible assumption | with_reducible apply keep_idle | with_reducible apply keep_seqFault | with_reducible apply keep_ite | with_reducible apply keepR_ite | exact keepR_refused | with_reducible apply keepR_next | intro _ | (with_reducible refine keep_of ?_; first | with_reducible assumption | with_reducible apply keep_idle | with_reducible apply keep_seqFault) | split | dsimp only

end Sys2Proof.Machine
end

