-- ==== Sys2Proof/Laws/KeepUnits.lean ====
section
/-!
SUPPORT. Keep (the queue, the fuses, the byte memories, the free counter and the output) for every operation of Vector, Units.
-/
set_option linter.unusedVariables false

namespace Sys2Proof.Machine

theorem keep_rmaxNext {s0 : State} {s : State} {a : Nat} {g : Int × Int} (hs : Keep s0 s) : Keep s0 (rmaxNext s a g) := by
  unfold rmaxNext
  repeat' first | with_reducible assumption | with_reducible apply keep_wrFld | with_reducible apply keep_wrReg | with_reducible apply keep_ite | intro _ | (with_reducible refine keep_of ?_; first | with_reducible assumption | with_reducible apply keep_wrFld | with_reducible apply keep_wrReg) | split | dsimp only
theorem keep_quantGroup {s0 : State} {s : State} {c : Nat} {k : Cluster} {g j0 : Nat} {rows : List VRow} (hs : Keep s0 s) : Keep s0 (quantGroup s c k g j0 rows).1 := by
  unfold quantGroup
  repeat' first | with_reducible assumption | with_reducible apply keep_rmaxNext | with_reducible apply keep_useFree | with_reducible apply keep_bumpBy | with_reducible apply keep_bump | with_reducible apply keep_ite | intro _ | (with_reducible refine keep_of ?_; first | with_reducible assumption | with_reducible apply keep_rmaxNext | with_reducible apply keep_useFree | with_reducible apply keep_bumpBy | with_reducible apply keep_bump) | split | dsimp only
theorem keep_quantGroup_eq {s0 : State} {s : State} {c : Nat} {k : Cluster} {g j0 : Nat} {rows : List VRow} {tz : State} {rz : QOut} (ez : quantGroup s c k g j0 rows = (tz, rz)) (hs : Keep s0 s) : Keep s0 tz := by
  rw [show tz = (quantGroup s c k g j0 rows).1 from by rw [ez]]
  exact keep_quantGroup hs
theorem keep_opVec {s0 : State} {s : State} {c : Nat} {k : Cluster} {w : Nat} (hs : Keep s0 s) : Keep s0 (opVec s c k w) := by
  unfold opVec
  repeat' first | with_reducible assumption | with_reducible apply keep_seqFault | with_reducible apply keep_arrPush | with_reducible apply keep_ite | intro _ | (with_reducible refine keep_of ?_; first | with_reducible assumption | with_reducible apply keep_seqFault | with_reducible apply keep_arrPush) | split | dsimp only
theorem keep_vPassStage {s0 : State} {c : Nat} {k : Cluster} {o : VOp} {p : VPass} {i g : Nat} (h : Keep s0 p.s) :
    Keep s0 (vPassStage c k o p i g).s := by
  unfold vPassStage
  dsimp only
  split
  · have hf : Keep s0 ((enumFrom 0 (groupsOf (qSgrl g) p.rows)).foldl (fun (acc : State × List QOut) e =>
        ((quantGroup acc.1 c k g (e.1 * 2 ^ qSgrl g) e.2).1, acc.2 ++ [(quantGroup acc.1 c k g (e.1 * 2 ^ qSgrl g) e.2).2])) (p.s, [])).1 :=
      keep_foldl1 h (fun x a hx => keep_quantGroup hx)
    split
    · exact hf
    · exact hf
  · exact h
theorem keep_vecPass {s0 : State} {s : State} {c : Nat} {k : Cluster} {o : VOp} {nrow : Nat} (h : Keep s0 s) :
    Keep s0 (vecPass s c k o nrow).s := by
  unfold vecPass
  dsimp only
  suffices H : ∀ (l : List (Nat × Nat)) (p : VPass), Keep s0 p.s → Keep s0 (l.foldl (fun p e => vPassStage c k o p e.1 e.2) p).s from H _ _ h
  intro l
  induction l with
  | nil => exact fun p hp => hp
  | cons a t ih => exact fun p hp => ih _ (keep_vPassStage hp)
theorem keep_vecRun {s0 : State} {s : State} {c : Nat} {up : Upset} {k : Cluster} {a : ArrStep} (hs : Keep s0 s) : Keep s0 (vecRun s c up k a) := by
  unfold vecRun
  repeat' first | with_reducible assumption | with_reducible apply keep_vecPass | with_reducible apply keep_arrFault | with_reducible apply keep_useFree | with_reducible apply keep_setC | with_reducible apply keep_orReg | with_reducible apply keep_ite | intro _ | (with_reducible refine keep_of ?_; first | with_reducible assumption | with_reducible apply keep_vecPass | with_reducible apply keep_arrFault | with_reducible apply keep_useFree | with_reducible apply keep_setC | with_reducible apply keep_orReg) | split | dsimp only
theorem keep_execVec {s0 : State} {c : Nat} {up : Upset} {s : State} (hs : Keep s0 s) : KeepR s0 (execVec c up s) := by
  unfold execVec
  repeat' first | with_reducible assumption | with_reducible apply keep_deckEcc | with_reducible apply keep_issue | with_reducible apply keep_opVec | with_reducible apply keep_onArr | with_reducible apply keep_vecRun | exact keepR_refused | with_reducible apply keepR_next | intro _ | (with_reducible refine keep_of ?_; first | with_reducible assumption | with_reducible apply keep_deckEcc | with_reducible apply keep_issue | with_reducible apply keep_opVec | with_reducible apply keep_onArr | with_reducible apply keep_vecRun) | split | dsimp only
theorem keep_xrDeliver {s0 : State} {s : State} {m : Nat} {r : Partial} (hs : Keep s0 s) : Keep s0 (xrDeliver s m r) := by
  unfold xrDeliver
  repeat' first | with_reducible assumption | with_reducible apply keep_setC | with_reducible apply keep_useFree | with_reducible apply keep_orReg | with_reducible apply keep_ite | intro _ | (with_reducible refine keep_of ?_; first | with_reducible assumption | with_reducible apply keep_setC | with_reducible apply keep_useFree | with_reducible apply keep_orReg) | split | dsimp only
theorem keep_execXrCombine {s0 : State} {c : Nat} {s : State} (hs : Keep s0 s) : KeepR s0 (execXrCombine c s) := by
  unfold execXrCombine
  repeat' first | with_reducible assumption | with_reducible apply keep_arrFault | with_reducible apply keep_setC | with_reducible apply keep_xrDeliver | with_reducible apply keep_foldl | with_reducible apply keep_foldl1 | with_reducible refine keep_foldl1_eq (by assumption) ?_ ?_ | with_reducible apply keep_ite | with_reducible apply keepR_ite | exact keepR_refused | with_reducible apply keepR_next | intro _ | (with_reducible refine keep_of ?_; first | with_reducible assumption | with_reducible apply keep_arrFault | with_reducible apply keep_setC | with_reducible apply keep_xrDeliver | with_reducible apply keep_foldl | with_reducible apply keep_foldl1 | with_reducible refine keep_foldl1_eq (by assumption) ?_ ?_) | split | dsimp only
theorem keep_execXrTimeout {s0 : State} {c : Nat} {s : State} (hs : Keep s0 s) : KeepR s0 (execXrTimeout c s) := by
  unfold execXrTimeout
  repeat' first | with_reducible assumption | with_reducible apply keep_arrFault | with_reducible apply keep_setC | exact keepR_refused | with_reducible apply keepR_next | intro _ | (with_reducible refine keep_of ?_; first | with_reducible assumption | with_reducible apply keep_arrFault | with_reducible apply keep_setC) | split | dsimp only
theorem keep_nbuStat {s0 : State} {s : State} {u i : Nat} (hs : Keep s0 s) : Keep s0 (nbuStat s u i) := by
  unfold nbuStat
  repeat' first | with_reducible assumption | with_reducible apply keep_orReg | intro _ | (with_reducible refine keep_of ?_; first | with_reducible assumption | with_reducible apply keep_orReg) | split | dsimp only
theorem keep_unitFault {s0 : State} {s : State} {u code pc : Nat} {a : Nat} (hs : Keep s0 s) : Keep s0 (unitFault s u code pc a) := by
  unfold unitFault
  repeat' first | with_reducible assumption | with_reducible apply keep_setU | with_reducible apply keep_wrReg | with_reducible apply keep_nbuStat | with_reducible apply keep_report | with_reducible apply keep_errUe | with_reducible apply keep_winAdd | with_reducible refine keep_winAdd_eq (by assumption) ?_ | with_reducible apply keep_ite | intro _ | (with_reducible refine keep_of ?_; first | with_reducible assumption | with_reducible apply keep_setU | with_reducible apply keep_wrReg | with_reducible apply keep_nbuStat | with_reducible apply keep_report | with_reducible apply keep_errUe | with_reducible apply keep_winAdd | with_reducible refine keep_winAdd_eq (by assumption) ?_) | split | dsimp only
theorem keep_unitFaults {s0 : State} {s : State} {u : Nat} {codes : List Nat} {pc : Nat} (hs : Keep s0 s) : Keep s0 (unitFaults s u codes pc) := by
  unfold unitFaults
  repeat' first | with_reducible assumption | with_reducible apply keep_unitFault | with_reducible apply keep_nbuStat | with_reducible apply keep_foldl | with_reducible apply keep_foldl1 | with_reducible refine keep_foldl1_eq (by assumption) ?_ ?_ | intro _ | (with_reducible refine keep_of ?_; first | with_reducible assumption | with_reducible apply keep_unitFault | with_reducible apply keep_nbuStat | with_reducible apply keep_foldl | with_reducible apply keep_foldl1 | with_reducible refine keep_foldl1_eq (by assumption) ?_ ?_) | split | dsimp only
theorem keep_cmdErr {s0 : State} {s : State} {u : Nat} (hs : Keep s0 s) : Keep s0 (cmdErr s u) := by
  unfold cmdErr
  repeat' first | with_reducible assumption | with_reducible apply keep_nbuStat | with_reducible apply keep_setU | intro _ | (with_reducible refine keep_of ?_; first | with_reducible assumption | with_reducible apply keep_nbuStat | with_reducible apply keep_setU) | split | dsimp only
theorem keep_unitRun1 {s0 : State} {s : State} {u entry tag : Nat} (hs : Keep s0 s) : Keep s0 (unitRun1 s u entry tag) := by
  unfold unitRun1
  repeat' first | with_reducible assumption | with_reducible apply keep_idle | with_reducible apply keep_wrReg | with_reducible apply keep_setU | with_reducible apply keep_cmdErr | with_reducible apply keep_ite | intro _ | (with_reducible refine keep_of ?_; first | with_reducible assumption | with_reducible apply keep_idle | with_reducible apply keep_wrReg | with_reducible apply keep_setU | with_reducible apply keep_cmdErr) | split | dsimp only
theorem keep_unitAbort1 {s0 : State} {s : State} {u tag : Nat} (hs : Keep s0 s) : Keep s0 (unitAbort1 s u tag) := by
  unfold unitAbort1
  repeat' first | with_reducible assumption | with_reducible apply keep_idle | with_reducible apply keep_useFree | with_reducible apply keep_setU | with_reducible apply keep_cmdErr | intro _ | (with_reducible refine keep_of ?_; first | with_reducible assumption | with_reducible apply keep_idle | with_reducible apply keep_useFree | with_reducible apply keep_setU | with_reducible apply keep_cmdErr) | split | dsimp only
theorem keep_unitFence1 {s0 : State} {s : State} {u tag : Nat} (hs : Keep s0 s) : Keep s0 (unitFence1 s u tag) := by
  unfold unitFence1
  repeat' first | with_reducible assumption | with_reducible apply keep_idle | with_reducible apply keep_setU | with_reducible apply keep_cmdErr | with_reducible apply keep_ite | intro _ | (with_reducible refine keep_of ?_; first | with_reducible assumption | with_reducible apply keep_idle | with_reducible apply keep_setU | with_reducible apply keep_cmdErr) | split | dsimp only
theorem keep_unitClear1 {s0 : State} {s : State} {u tag : Nat} (hs : Keep s0 s) : Keep s0 (unitClear1 s u tag) := by
  unfold unitClear1
  repeat' first | with_reducible assumption | with_reducible apply keep_idle | with_reducible apply keep_setU | with_reducible apply keep_cmdErr | intro _ | (with_reducible refine keep_of ?_; first | with_reducible assumption | with_reducible apply keep_idle | with_reducible apply keep_setU | with_reducible apply keep_cmdErr) | split | dsimp only
theorem keep_unitSelftest1 {s0 : State} {s : State} {u tag : Nat} (hs : Keep s0 s) : Keep s0 (unitSelftest1 s u tag) := by
  unfold unitSelftest1
  repeat' first | with_reducible assumption | with_reducible apply keep_idle | with_reducible apply keep_setU | with_reducible apply keep_cmdErr | with_reducible apply keep_ite | intro _ | (with_reducible refine keep_of ?_; first | with_reducible assumption | with_reducible apply keep_idle | with_reducible apply keep_setU | with_reducible apply keep_cmdErr) | split | dsimp only
theorem keep_execUnitRun {s0 : State} {tgt : UTarget} {entry tag : Nat} {s : State} (hs : Keep s0 s) : KeepR s0 (execUnitRun tgt entry tag s) := by
  unfold execUnitRun
  repeat' first | with_reducible assumption | with_reducible apply keep_unitRun1 | with_reducible apply keep_foldl | with_reducible apply keep_foldl1 | with_reducible refine keep_foldl1_eq (by assumption) ?_ ?_ | exact keepR_refused | with_reducible apply keepR_next | intro _ | (with_reducible refine keep_of ?_; first | with_reducible assumption | with_reducible apply keep_unitRun1 | with_reducible apply keep_foldl | with_reducible apply keep_foldl1 | with_reducible refine keep_foldl1_eq (by assumption) ?_ ?_) | split | dsimp only
theorem keep_execUnitAbort {s0 : State} {tgt : UTarget} {tag : Nat} {s : State} (hs : Keep s0 s) : KeepR s0 (execUnitAbort tgt tag s) := by
  unfold execUnitAbort
  repeat' first | with_reducible assumption | with_reducible apply keep_unitAbort1 | with_reducible apply keep_foldl | with_reducible apply keep_foldl1 | with_reducible refine keep_foldl1_eq (by assumption) ?_ ?_ | exact keepR_refused | with_reducible apply keepR_next | intro _ | (with_reducible refine keep_of ?_; first | with_reducible assumption | with_reducible apply keep_unitAbort1 | with_reducible apply keep_foldl | with_reducible apply keep_foldl1 | with_reducible refine keep_foldl1_eq (by assumption) ?_ ?_) | split | dsimp only
theorem keep_execFenceCmd {s0 : State} {tgt : UTarget} {tag : Nat} {s : State} (hs : Keep s0 s) : KeepR s0 (execFenceCmd tgt tag s) := by
  unfold execFenceCmd
  repeat' first | with_reducible assumption | with_reducible apply keep_unitFence1 | with_reducible apply keep_foldl | with_reducible apply keep_foldl1 | with_reducible refine keep_foldl1_eq (by assumption) ?_ ?_ | exact keepR_refused | with_reducible apply keepR_next | intro _ | (with_reducible refine keep_of ?_; first | with_reducible assumption | with_reducible apply keep_unitFence1 | with_reducible apply keep_foldl | with_reducible apply keep_foldl1 | with_reducible refine keep_foldl1_eq (by assumption) ?_ ?_) | split | dsimp only
theorem keep_execClear {s0 : State} {tgt : UTarget} {tag : Nat} {s : State} (hs : Keep s0 s) : KeepR s0 (execClear tgt tag s) := by
  unfold execClear
  repeat' first | with_reducible assumption | with_reducible apply keep_unitClear1 | with_reducible apply keep_foldl | with_reducible apply keep_foldl1 | with_reducible refine keep_foldl1_eq (by assumption) ?_ ?_ | exact keepR_refused | with_reducible apply keepR_next | intro _ | (with_reducible refine keep_of ?_; first | with_reducible assumption | with_reducible apply keep_unitClear1 | with_reducible apply keep_foldl | with_reducible apply keep_foldl1 | with_reducible refine keep_foldl1_eq (by assumption) ?_ ?_) | split | dsimp only
theorem keep_execSelftest {s0 : State} {tgt : UTarget} {tag : Nat} {s : State} (hs : Keep s0 s) : KeepR s0 (execSelftest tgt tag s) := by
  unfold execSelftest
  repeat' first | with_reducible assumption | with_reducible apply keep_unitSelftest1 | with_reducible apply keep_foldl | with_reducible apply keep_foldl1 | with_reducible refine keep_foldl1_eq (by assumption) ?_ ?_ | exact keepR_refused | with_reducible apply keepR_next | intro _ | (with_reducible refine keep_of ?_; first | with_reducible assumption | with_reducible apply keep_unitSelftest1 | with_reducible apply keep_foldl | with_reducible apply keep_foldl1 | with_reducible refine keep_foldl1_eq (by assumption) ?_ ?_) | split | dsimp only
theorem keep_opUnitCmd {s0 : State} {s : State} {u : Nat} {v : W32} (hs : Keep s0 s) : Keep s0 (opUnitCmd s u v) := by
  unfold opUnitCmd
  repeat' first | with_reducible assumption | with_reducible apply keep_unitRun1 | with_reducible apply keep_unitAbort1 | with_reducible apply keep_unitFence1 | with_reducible apply keep_unitClear1 | with_reducible apply keep_unitSelftest1 | with_reducible apply keep_cmdErr | intro _ | (with_reducible refine keep_of ?_; first | with_reducible assumption | with_reducible apply keep_unitRun1 | with_reducible apply keep_unitAbort1 | with_reducible apply keep_unitFence1 | with_reducible apply keep_unitClear1 | with_reducible apply keep_unitSelftest1 | with_reducible apply keep_cmdErr) | split | dsimp only
theorem keep_execUnitCommandComplete {s0 : State} {u : Nat} {pass : Bool} {s : State} (hs : Keep s0 s) : KeepR s0 (execUnitCommandComplete u pass s) := by
  unfold execUnitCommandComplete
  repeat' first | with_reducible assumption | with_reducible apply keep_useFree | with_reducible apply keep_setU | with_reducible apply keep_wrReg | with_reducible apply keep_report | with_reducible apply keep_ite | with_reducible apply keepR_ite | exact keepR_refused | with_reducible apply keepR_next | intro _ | (with_reducible refine keep_of ?_; first | with_reducible assumption | with_reducible apply keep_useFree | with_reducible apply keep_setU | with_reducible apply keep_wrReg | with_reducible apply keep_report) | split | dsimp only
theorem keep_idleWrite {s0 : State} {s : State} {u : Nat} {f : State → State} (hs : Keep s0 s) (hf : ∀ y0, Keep s0 y0 → Keep s0 (f y0)) : Keep s0 (idleWrite s u f) := by
  unfold idleWrite
  repeat' first | with_reducible assumption | with_reducible apply hf | with_reducible apply keep_idle | with_reducible apply keep_nbuStat | with_reducible apply keep_ite | intro _ | (with_reducible refine keep_of ?_; first | with_reducible assumption | with_reducible apply hf | with_reducible apply keep_idle | with_reducible apply keep_nbuStat) | split | dsimp only
theorem keep_opCrWrite {s0 : State} {s : State} {u n : Nat} {v : W32} (hs : Keep s0 s) : Keep s0 (opCrWrite s u n v) := by
  unfold opCrWrite
  repeat' first | with_reducible assumption | with_reducible apply keep_idleWrite | with_reducible apply keep_wrReg | with_reducible apply keep_ite | intro _ | (with_reducible refine keep_of ?_; first | with_reducible assumption | with_reducible apply keep_idleWrite | with_reducible apply keep_wrReg) | split | dsimp only
theorem keep_execCommandParameterWrite {s0 : State} {mid u n : Nat} {v : W32} {s : State} (hs : Keep s0 s) : KeepR s0 (execCommandParameterWrite mid u n v s) := by
  unfold execCommandParameterWrite
  repeat' first | with_reducible assumption | with_reducible apply keep_gatedWrite | with_reducible apply keep_opCrWrite | exact keepR_refused | with_reducible apply keepR_next | intro _ | (with_reducible refine keep_of ?_; first | with_reducible assumption | with_reducible apply keep_gatedWrite | with_reducible apply keep_opCrWrite) | split | dsimp only
theorem keep_opMpWindow {s0 : State} {s : State} {mid u n : Nat} {v : W32} (hs : Keep s0 s) : Keep s0 (opMpWindow s mid u n v) := by
  unfold opMpWindow
  repeat' first | with_reducible assumption | with_reducible apply keep_idleWrite | with_reducible apply keep_setU | with_reducible apply keep_ite | intro _ | (with_reducible refine keep_of ?_; first | with_reducible assumption | with_reducible apply keep_idleWrite | with_reducible apply keep_setU) | split | dsimp only
theorem keep_execMpWindow {s0 : State} {mid u n : Nat} {v : W32} {s : State} (hs : Keep s0 s) : KeepR s0 (execMpWindow mid u n v s) := by
  unfold execMpWindow
  repeat' first | with_reducible assumption | with_reducible apply keep_gatedWrite | with_reducible apply keep_opMpWindow | exact keepR_refused | with_reducible apply keepR_next | intro _ | (with_reducible refine keep_of ?_; first | with_reducible assumption | with_reducible apply keep_gatedWrite | with_reducible apply keep_opMpWindow) | split | dsimp only
theorem keep_opNbuCfg {s0 : State} {s : State} {u : Nat} {v : W32} (hs : Keep s0 s) : Keep s0 (opNbuCfg s u v) := by
  unfold opNbuCfg
  repeat' first | with_reducible assumption | with_reducible apply keep_idle | with_reducible apply keep_wrReg | with_reducible apply keep_setU | with_reducible apply keep_ite | intro _ | (with_reducible refine keep_of ?_; first | with_reducible assumption | with_reducible apply keep_idle | with_reducible apply keep_wrReg | with_reducible apply keep_setU) | split | dsimp only
theorem keep_execNbuCfg {s0 : State} {mid u : Nat} {v : W32} {s : State} (hs : Keep s0 s) : KeepR s0 (execNbuCfg mid u v s) := by
  unfold execNbuCfg
  repeat' first | with_reducible assumption | with_reducible apply keep_gatedWrite | with_reducible apply keep_opNbuCfg | exact keepR_refused | with_reducible apply keepR_next | intro _ | (with_reducible refine keep_of ?_; first | with_reducible assumption | with_reducible apply keep_gatedWrite | with_reducible apply keep_opNbuCfg) | split | dsimp only
theorem keep_uIssue {s0 : State} {s : State} {u op : Nat} {up : Upset} {sel : Nat → Bool} {f : State → Nbu → Nat → State} (hs : Keep s0 s) (hf : ∀ y0 y1 y2, Keep s0 y0 → Keep s0 (f y0 y1 y2)) : Keep s0 (uIssue s u op up sel f) := by
  unfold uIssue
  repeat' first | with_reducible assumption | with_reducible apply hf | with_reducible apply keep_unitFault | with_reducible apply keep_errCe | with_reducible apply keep_ite | intro _ | (with_reducible refine keep_of ?_; first | with_reducible assumption | with_reducible apply hf | with_reducible apply keep_unitFault | with_reducible apply keep_errCe) | split | dsimp only
theorem keep_yieldNow {s0 : State} {s : State} {u : Nat} (hs : Keep s0 s) : Keep s0 (yieldNow s u) := by
  unfold yieldNow
  repeat' first | with_reducible assumption | with_reducible apply keep_bump | with_reducible apply keep_setU | with_reducible apply keep_ite | intro _ | (with_reducible refine keep_of ?_; first | with_reducible assumption | with_reducible apply keep_bump | with_reducible apply keep_setU) | split | dsimp only
theorem keep_execNop {s0 : State} {u : Nat} {up : Upset} {s : State} (hs : Keep s0 s) : KeepR s0 (execNop u up s) := by
  unfold execNop
  repeat' first | with_reducible assumption | with_reducible apply keep_uIssue | with_reducible apply keep_setU | exact keepR_refused | with_reducible apply keepR_next | intro _ | (with_reducible refine keep_of ?_; first | with_reducible assumption | with_reducible apply keep_uIssue | with_reducible apply keep_setU) | split | dsimp only
theorem keep_execMpEnd {s0 : State} {u : Nat} {up : Upset} {s : State} (hs : Keep s0 s) : KeepR s0 (execMpEnd u up s) := by
  unfold execMpEnd
  repeat' first | with_reducible assumption | with_reducible apply keep_uIssue | with_reducible apply keep_emit | with_reducible apply keep_yieldNow | with_reducible apply keep_setU | with_reducible apply keep_ite | with_reducible apply keepR_ite | exact keepR_refused | with_reducible apply keepR_next | intro _ | (with_reducible refine keep_of ?_; first | with_reducible assumption | with_reducible apply keep_uIssue | with_reducible apply keep_emit | with_reducible apply keep_yieldNow | with_reducible apply keep_setU) | split | dsimp only
theorem keep_execYieldPoint {s0 : State} {u : Nat} {up : Upset} {s : State} (hs : Keep s0 s) : KeepR s0 (execYieldPoint u up s) := by
  unfold execYieldPoint
  repeat' first | with_reducible assumption | with_reducible apply keep_uIssue | with_reducible apply keep_yieldNow | with_reducible apply keep_setU | exact keepR_refused | with_reducible apply keepR_next | intro _ | (with_reducible refine keep_of ?_; first | with_reducible assumption | with_reducible apply keep_uIssue | with_reducible apply keep_yieldNow | with_reducible apply keep_setU) | split | dsimp only
theorem keep_execFence {s0 : State} {u : Nat} {up : Upset} {s : State} (hs : Keep s0 s) : KeepR s0 (execFence u up s) := by
  unfold execFence
  repeat' first | with_reducible assumption | with_reducible apply keep_uIssue | with_reducible apply keep_yieldNow | with_reducible apply keep_setU | with_reducible apply keep_ite | with_reducible apply keepR_ite | exact keepR_refused | with_reducible apply keepR_next | intro _ | (with_reducible refine keep_of ?_; first | with_reducible assumption | with_reducible apply keep_uIssue | with_reducible apply keep_yieldNow | with_reducible apply keep_setU) | split | dsimp only
theorem keep_execMovi {s0 : State} {u : Nat} {up : Upset} {s : State} (hs : Keep s0 s) : KeepR s0 (execMovi u up s) := by
  unfold execMovi
  repeat' first | with_reducible assumption | with_reducible apply keep_uIssue | with_reducible apply keep_setU | exact keepR_refused | with_reducible apply keepR_next | intro _ | (with_reducible refine keep_of ?_; first | with_reducible assumption | with_reducible apply keep_uIssue | with_reducible apply keep_setU) | split | dsimp only
theorem keep_execMovh {s0 : State} {u : Nat} {up : Upset} {s : State} (hs : Keep s0 s) : KeepR s0 (execMovh u up s) := by
  unfold execMovh
  repeat' first | with_reducible assumption | with_reducible apply keep_uIssue | with_reducible apply keep_setU | exact keepR_refused | with_reducible apply keepR_next | intro _ | (with_reducible refine keep_of ?_; first | with_reducible assumption | with_reducible apply keep_uIssue | with_reducible apply keep_setU) | split | dsimp only
theorem keep_execAddi {s0 : State} {u : Nat} {up : Upset} {s : State} (hs : Keep s0 s) : KeepR s0 (execAddi u up s) := by
  unfold execAddi
  repeat' first | with_reducible assumption | with_reducible apply keep_uIssue | with_reducible apply keep_setU | exact keepR_refused | with_reducible apply keepR_next | intro _ | (with_reducible refine keep_of ?_; first | with_reducible assumption | with_reducible apply keep_uIssue | with_reducible apply keep_setU) | split | dsimp only
theorem keep_execLdc {s0 : State} {u : Nat} {up : Upset} {s : State} (hs : Keep s0 s) : KeepR s0 (execLdc u up s) := by
  unfold execLdc
  repeat' first | with_reducible assumption | with_reducible apply keep_uIssue | with_reducible apply keep_setU | exact keepR_refused | with_reducible apply keepR_next | intro _ | (with_reducible refine keep_of ?_; first | with_reducible assumption | with_reducible apply keep_uIssue | with_reducible apply keep_setU) | split | dsimp only
theorem keep_execBnz {s0 : State} {u : Nat} {up : Upset} {s : State} (hs : Keep s0 s) : KeepR s0 (execBnz u up s) := by
  unfold execBnz
  repeat' first | with_reducible assumption | with_reducible apply keep_uIssue | with_reducible apply keep_unitFault | with_reducible apply keep_setU | with_reducible apply keep_ite | with_reducible apply keepR_ite | exact keepR_refused | with_reducible apply keepR_next | intro _ | (with_reducible refine keep_of ?_; first | with_reducible assumption | with_reducible apply keep_uIssue | with_reducible apply keep_unitFault | with_reducible apply keep_setU) | split | dsimp only
theorem keep_execWaitb {s0 : State} {u : Nat} {up : Upset} {s : State} (hs : Keep s0 s) : KeepR s0 (execWaitb u up s) := by
  unfold execWaitb
  repeat' first | with_reducible assumption | with_reducible apply keep_uIssue | with_reducible apply keep_setU | with_reducible apply keep_yieldNow | with_reducible apply keep_ite | with_reducible apply keepR_ite | exact keepR_refused | with_reducible apply keepR_next | intro _ | (with_reducible refine keep_of ?_; first | with_reducible assumption | with_reducible apply keep_uIssue | with_reducible apply keep_setU | with_reducible apply keep_yieldNow) | split | dsimp only
theorem keep_execAsyncInstructionComplete {s0 : State} {u k : Nat} {s : State} (hs : Keep s0 s) : KeepR s0 (execAsyncInstructionComplete u k s) := by
  unfold execAsyncInstructionComplete
  repeat' first | with_reducible assumption | with_reducible apply keep_setU | with_reducible apply keep_ite | with_reducible apply keepR_ite | exact keepR_refused | with_reducible apply keepR_next | intro _ | (with_reducible refine keep_of ?_; first | with_reducible assumption | with_reducible apply keep_setU) | split | dsimp only
theorem keep_uMismatch {s0 : State} {s : State} {u off pc : Nat} (hs : Keep s0 s) : Keep s0 (uMismatch s u off pc) := by
  unfold uMismatch
  repeat' first | with_reducible assumption | with_reducible apply keep_unitFault | with_reducible apply keep_cMismatch | intro _ | (with_reducible refine keep_of ?_; first | with_reducible assumption | with_reducible apply keep_unitFault | with_reducible apply keep_cMismatch) | split | dsimp only
theorem keep_opRdl {s0 : State} {s : State} {u : Nat} {up : Upset} {x : Nbu} {w : Nat} (hs : Keep s0 s) : Keep s0 (opRdl s u up x w) := by
  unfold opRdl
  repeat' first | with_reducible assumption | with_reducible apply keep_unitFaults | with_reducible apply keep_uMismatch | with_reducible apply keep_setU | with_reducible apply keep_ite | intro _ | (with_reducible refine keep_of ?_; first | with_reducible assumption | with_reducible apply keep_unitFaults | with_reducible apply keep_uMismatch | with_reducible apply keep_setU) | split | dsimp only
theorem keep_execRdl {s0 : State} {u : Nat} {up : Upset} {s : State} (hs : Keep s0 s) : KeepR s0 (execRdl u up s) := by
  unfold execRdl
  repeat' first | with_reducible assumption | with_reducible apply keep_uIssue | with_reducible apply keep_opRdl | exact keepR_refused | with_reducible apply keepR_next | intro _ | (with_reducible refine keep_of ?_; first | with_reducible assumption | with_reducible apply keep_uIssue | with_reducible apply keep_opRdl) | split | dsimp only
theorem keep_opWrl {s0 : State} {s : State} {u : Nat} {x : Nbu} {w : Nat} (hs : Keep s0 s) : Keep s0 (opWrl s u x w) := by
  unfold opWrl
  repeat' first | with_reducible assumption | with_reducible apply keep_unitFaults | with_reducible apply keep_setU | with_reducible apply keep_dramPut | with_reducible apply keep_ite | intro _ | (with_reducible refine keep_of ?_; first | with_reducible assumption | with_reducible apply keep_unitFaults | with_reducible apply keep_setU | with_reducible apply keep_dramPut) | split | dsimp only
theorem keep_execWrl {s0 : State} {u : Nat} {up : Upset} {s : State} (hs : Keep s0 s) : KeepR s0 (execWrl u up s) := by
  unfold execWrl
  repeat' first | with_reducible assumption | with_reducible apply keep_uIssue | with_reducible apply keep_opWrl | exact keepR_refused | with_reducible apply keepR_next | intro _ | (with_reducible refine keep_of ?_; first | with_reducible assumption | with_reducible apply keep_uIssue | with_reducible apply keep_opWrl) | split | dsimp only
theorem keep_opTbld {s0 : State} {s : State} {u : Nat} {x : Nbu} {w : Nat} (hs : Keep s0 s) : Keep s0 (opTbld s u x w) := by
  unfold opTbld
  repeat' first | with_reducible assumption | with_reducible apply keep_unitFaults | with_reducible apply keep_setU | with_reducible apply keep_foldl | with_reducible apply keep_foldl1 | with_reducible refine keep_foldl1_eq (by assumption) ?_ ?_ | with_reducible apply keep_ite | intro _ | (with_reducible refine keep_of ?_; first | with_reducible assumption | with_reducible apply keep_unitFaults | with_reducible apply keep_setU | with_reducible apply keep_foldl | with_reducible apply keep_foldl1 | with_reducible refine keep_foldl1_eq (by assumption) ?_ ?_) | split | dsimp only
theorem keep_execTbld {s0 : State} {u : Nat} {up : Upset} {s : State} (hs : Keep s0 s) : KeepR s0 (execTbld u up s) := by
  unfold execTbld
  repeat' first | with_reducible assumption | with_reducible apply keep_uIssue | with_reducible apply keep_opTbld | exact keepR_refused | with_reducible apply keepR_next | intro _ | (with_reducible refine keep_of ?_; first | with_reducible assumption | with_reducible apply keep_uIssue | with_reducible apply keep_opTbld) | split | dsimp only
theorem keep_opLmac {s0 : State} {s : State} {u : Nat} {x : Nbu} {w : Nat} (hs : Keep s0 s) : Keep s0 (opLmac s u x w) := by
  unfold opLmac
  repeat' first | with_reducible assumption | with_reducible apply keep_unitFaults | with_reducible apply keep_unitFault | with_reducible apply keep_useFree | with_reducible apply keep_setU | with_reducible apply keep_ite | intro _ | (with_reducible refine keep_of ?_; first | with_reducible assumption | with_reducible apply keep_unitFaults | with_reducible apply keep_unitFault | with_reducible apply keep_useFree | with_reducible apply keep_setU) | split | dsimp only
theorem keep_execLmac {s0 : State} {u : Nat} {up : Upset} {s : State} (hs : Keep s0 s) : KeepR s0 (execLmac u up s) := by
  unfold execLmac
  repeat' first | with_reducible assumption | with_reducible apply keep_uIssue | with_reducible apply keep_opLmac | exact keepR_refused | with_reducible apply keepR_next | intro _ | (with_reducible refine keep_of ?_; first | with_reducible assumption | with_reducible apply keep_uIssue | with_reducible apply keep_opLmac) | split | dsimp only
theorem keep_execRecordFetch {s0 : State} {u : Nat} {up : Upset} {s : State} (hs : Keep s0 s) : KeepR s0 (execRecordFetch u up s) := by
  unfold execRecordFetch
  repeat' first | with_reducible assumption | with_reducible apply keep_unitFault | with_reducible apply keep_unitFaults | with_reducible apply keep_uMismatch | with_reducible apply keep_errCe | with_reducible apply keep_setU | with_reducible apply keep_ite | with_reducible apply keepR_ite | exact keepR_refused | with_reducible apply keepR_next | intro _ | (with_reducible refine keep_of ?_; first | with_reducible assumption | with_reducible apply keep_unitFault | with_reducible apply keep_unitFaults | with_reducible apply keep_uMismatch | with_reducible apply keep_errCe | with_reducible apply keep_setU) | split | dsimp only
theorem keep_execLmacWave {s0 : State} {u : Nat} {up : Upset} {s : State} (hs : Keep s0 s) : KeepR s0 (execLmacWave u up s) := by
  unfold execLmacWave
  repeat' first | with_reducible assumption | with_reducible apply keep_errCe | with_reducible apply keep_unitFault | with_reducible apply keep_setU | with_reducible apply keep_nbuStat | with_reducible apply keep_bumpBy | with_reducible apply keep_ite | with_reducible apply keepR_ite | exact keepR_refused | with_reducible apply keepR_next | intro _ | (with_reducible refine keep_of ?_; first | with_reducible assumption | with_reducible apply keep_errCe | with_reducible apply keep_unitFault | with_reducible apply keep_setU | with_reducible apply keep_nbuStat | with_reducible apply keep_bumpBy) | split | dsimp only
theorem keep_opAccz {s0 : State} {s : State} {u : Nat} {x : Nbu} {w : Nat} (hs : Keep s0 s) : Keep s0 (opAccz s u x w) := by
  unfold opAccz
  repeat' first | with_reducible assumption | with_reducible apply keep_unitFaults | with_reducible apply keep_setU | with_reducible apply keep_foldl | with_reducible apply keep_foldl1 | with_reducible refine keep_foldl1_eq (by assumption) ?_ ?_ | with_reducible apply keep_ite | intro _ | (with_reducible refine keep_of ?_; first | with_reducible assumption | with_reducible apply keep_unitFaults | with_reducible apply keep_setU | with_reducible apply keep_foldl | with_reducible apply keep_foldl1 | with_reducible refine keep_foldl1_eq (by assumption) ?_ ?_) | split | dsimp only
theorem keep_execAccz {s0 : State} {u : Nat} {up : Upset} {s : State} (hs : Keep s0 s) : KeepR s0 (execAccz u up s) := by
  unfold execAccz
  repeat' first | with_reducible assumption | with_reducible apply keep_uIssue | with_reducible apply keep_opAccz | exact keepR_refused | with_reducible apply keepR_next | intro _ | (with_reducible refine keep_of ?_; first | with_reducible assumption | with_reducible apply keep_uIssue | with_reducible apply keep_opAccz) | split | dsimp only
theorem keep_opEop {s0 : State} {s : State} {u : Nat} {x : Nbu} {w : Nat} (hs : Keep s0 s) : Keep s0 (opEop s u x w) := by
  unfold opEop
  repeat' first | with_reducible assumption | with_reducible apply keep_unitFaults | with_reducible apply keep_unitFault | with_reducible apply keep_useFree | with_reducible apply keep_setU | with_reducible apply keep_nbuStat | with_reducible apply keep_bumpBy | with_reducible apply keep_ite | intro _ | (with_reducible refine keep_of ?_; first | with_reducible assumption | with_reducible apply keep_unitFaults | with_reducible apply keep_unitFault | with_reducible apply keep_useFree | with_reducible apply keep_setU | with_reducible apply keep_nbuStat | with_reducible apply keep_bumpBy) | split | dsimp only
theorem keep_eopCmd {s0 : State} {efn u : Nat} {up : Upset} {s : State} (hs : Keep s0 s) : Keep s0 (eopCmd efn u up s) := by
  unfold eopCmd
  repeat' first | with_reducible assumption | with_reducible apply keep_uIssue | with_reducible apply keep_opEop | intro _ | (with_reducible refine keep_of ?_; first | with_reducible assumption | with_reducible apply keep_uIssue | with_reducible apply keep_opEop) | split | dsimp only
theorem keep_execEopCvt {s0 : State} {u : Nat} {up : Upset} {s : State} (hs : Keep s0 s) : KeepR s0 (execEopCvt u up s) := by
  unfold execEopCvt
  repeat' first | with_reducible assumption | with_reducible apply keep_eopCmd | exact keepR_refused | with_reducible apply keepR_next | intro _ | (with_reducible refine keep_of ?_; first | with_reducible assumption | with_reducible apply keep_eopCmd) | split | dsimp only
theorem keep_execEopResc {s0 : State} {u : Nat} {up : Upset} {s : State} (hs : Keep s0 s) : KeepR s0 (execEopResc u up s) := by
  unfold execEopResc
  repeat' first | with_reducible assumption | with_reducible apply keep_eopCmd | exact keepR_refused | with_reducible apply keepR_next | intro _ | (with_reducible refine keep_of ?_; first | with_reducible assumption | with_reducible apply keep_eopCmd) | split | dsimp only
theorem keep_execEopAdd {s0 : State} {u : Nat} {up : Upset} {s : State} (hs : Keep s0 s) : KeepR s0 (execEopAdd u up s) := by
  unfold execEopAdd
  repeat' first | with_reducible assumption | with_reducible apply keep_eopCmd | exact keepR_refused | with_reducible apply keepR_next | intro _ | (with_reducible refine keep_of ?_; first | with_reducible assumption | with_reducible apply keep_eopCmd) | split | dsimp only
theorem keep_execEopSub {s0 : State} {u : Nat} {up : Upset} {s : State} (hs : Keep s0 s) : KeepR s0 (execEopSub u up s) := by
  unfold execEopSub
  repeat' first | with_reducible assumption | with_reducible apply keep_eopCmd | exact keepR_refused | with_reducible apply keepR_next | intro _ | (with_reducible refine keep_of ?_; first | with_reducible assumption | with_reducible apply keep_eopCmd) | split | dsimp only
theorem keep_execEopMul {s0 : State} {u : Nat} {up : Upset} {s : State} (hs : Keep s0 s) : KeepR s0 (execEopMul u up s) := by
  unfold execEopMul
  repeat' first | with_reducible assumption | with_reducible apply keep_eopCmd | exact keepR_refused | with_reducible apply keepR_next | intro _ | (with_reducible refine keep_of ?_; first | with_reducible assumption | with_reducible apply keep_eopCmd) | split | dsimp only
theorem keep_execEopTable {s0 : State} {u : Nat} {up : Upset} {s : State} (hs : Keep s0 s) : KeepR s0 (execEopTable u up s) := by
  unfold execEopTable
  repeat' first | with_reducible assumption | with_reducible apply keep_eopCmd | exact keepR_refused | with_reducible apply keepR_next | intro _ | (with_reducible refine keep_of ?_; first | with_reducible assumption | with_reducible apply keep_eopCmd) | split | dsimp only
theorem keep_execEopSsq {s0 : State} {u : Nat} {up : Upset} {s : State} (hs : Keep s0 s) : KeepR s0 (execEopSsq u up s) := by
  unfold execEopSsq
  repeat' first | with_reducible assumption | with_reducible apply keep_eopCmd | exact keepR_refused | with_reducible apply keepR_next | intro _ | (with_reducible refine keep_of ?_; first | with_reducible assumption | with_reducible apply keep_eopCmd) | split | dsimp only
theorem keep_execEopAmax {s0 : State} {u : Nat} {up : Upset} {s : State} (hs : Keep s0 s) : KeepR s0 (execEopAmax u up s) := by
  unfold execEopAmax
  repeat' first | with_reducible assumption | with_reducible apply keep_eopCmd | exact keepR_refused | with_reducible apply keepR_next | intro _ | (with_reducible refine keep_of ?_; first | with_reducible assumption | with_reducible apply keep_eopCmd) | split | dsimp only
theorem keep_execEopQnt {s0 : State} {u : Nat} {up : Upset} {s : State} (hs : Keep s0 s) : KeepR s0 (execEopQnt u up s) := by
  unfold execEopQnt
  repeat' first | with_reducible assumption | with_reducible apply keep_eopCmd | exact keepR_refused | with_reducible apply keepR_next | intro _ | (with_reducible refine keep_of ?_; first | with_reducible assumption | with_reducible apply keep_eopCmd) | split | dsimp only
theorem keep_opBsend {s0 : State} {s : State} {u : Nat} {x : Nbu} {w : Nat} (hs : Keep s0 s) : Keep s0 (opBsend s u x w) := by
  unfold opBsend
  repeat' first | with_reducible assumption | with_reducible apply keep_unitFaults | with_reducible apply keep_setU | with_reducible apply keep_ite | intro _ | (with_reducible refine keep_of ?_; first | with_reducible assumption | with_reducible apply keep_unitFaults | with_reducible apply keep_setU) | split | dsimp only
theorem keep_bsendCmd {s0 : State} {bop u : Nat} {up : Upset} {s : State} (hs : Keep s0 s) : Keep s0 (bsendCmd bop u up s) := by
  unfold bsendCmd
  repeat' first | with_reducible assumption | with_reducible apply keep_uIssue | with_reducible apply keep_opBsend | intro _ | (with_reducible refine keep_of ?_; first | with_reducible assumption | with_reducible apply keep_uIssue | with_reducible apply keep_opBsend) | split | dsimp only
theorem keep_execBsendGather {s0 : State} {u : Nat} {up : Upset} {s : State} (hs : Keep s0 s) : KeepR s0 (execBsendGather u up s) := by
  unfold execBsendGather
  repeat' first | with_reducible assumption | with_reducible apply keep_bsendCmd | exact keepR_refused | with_reducible apply keepR_next | intro _ | (with_reducible refine keep_of ?_; first | with_reducible assumption | with_reducible apply keep_bsendCmd) | split | dsimp only
theorem keep_execBsendSum {s0 : State} {u : Nat} {up : Upset} {s : State} (hs : Keep s0 s) : KeepR s0 (execBsendSum u up s) := by
  unfold execBsendSum
  repeat' first | with_reducible assumption | with_reducible apply keep_bsendCmd | exact keepR_refused | with_reducible apply keepR_next | intro _ | (with_reducible refine keep_of ?_; first | with_reducible assumption | with_reducible apply keep_bsendCmd) | split | dsimp only
theorem keep_execBsendMax {s0 : State} {u : Nat} {up : Upset} {s : State} (hs : Keep s0 s) : KeepR s0 (execBsendMax u up s) := by
  unfold execBsendMax
  repeat' first | with_reducible assumption | with_reducible apply keep_bsendCmd | exact keepR_refused | with_reducible apply keepR_next | intro _ | (with_reducible refine keep_of ?_; first | with_reducible assumption | with_reducible apply keep_bsendCmd) | split | dsimp only
theorem keep_broadcast1 {s0 : State} {s : State} {u word : Nat} {data : List (BitVec 256)} (hs : Keep s0 s) : Keep s0 (broadcast1 s u word data) := by
  unfold broadcast1
  repeat' first | with_reducible assumption | with_reducible apply keep_setU | with_reducible apply keep_nbuStat | with_reducible apply keep_ite | intro _ | (with_reducible refine keep_of ?_; first | with_reducible assumption | with_reducible apply keep_setU | with_reducible apply keep_nbuStat) | split | dsimp only
theorem keep_markDrops {s0 : State} {s : State} {stk g : Nat} (hs : Keep s0 s) : Keep s0 (markDrops s stk g) := by
  unfold markDrops
  repeat' first | with_reducible assumption | with_reducible apply keep_ite | intro _ | (with_reducible refine keep_of ?_; first | with_reducible assumption) | split | dsimp only
theorem keep_broadcast {s0 : State} {s : State} {stk g word : Nat} {data : List (BitVec 256)} (hs : Keep s0 s) : Keep s0 (broadcast s stk g word data) := by
  unfold broadcast
  repeat' first | with_reducible assumption | with_reducible apply keep_broadcast1 | with_reducible apply keep_markDrops | with_reducible apply keep_foldl | with_reducible apply keep_foldl1 | with_reducible refine keep_foldl1_eq (by assumption) ?_ ?_ | intro _ | (with_reducible refine keep_of ?_; first | with_reducible assumption | with_reducible apply keep_broadcast1 | with_reducible apply keep_markDrops | with_reducible apply keep_foldl | with_reducible apply keep_foldl1 | with_reducible refine keep_foldl1_eq (by assumption) ?_ ?_) | split | dsimp only
theorem keep_execBusBroadcast {s0 : State} {stk g word : Nat} {data : List (BitVec 256)} {s : State} (hs : Keep s0 s) : KeepR s0 (execBusBroadcast stk g word data s) := by
  unfold execBusBroadcast
  repeat' first | with_reducible assumption | with_reducible apply keep_broadcast | exact keepR_refused | with_reducible apply keepR_next | intro _ | (with_reducible refine keep_of ?_; first | with_reducible assumption | with_reducible apply keep_broadcast) | split | dsimp only
theorem keep_tagError {s0 : State} {s : State} {us : List Nat} (hs : Keep s0 s) : Keep s0 (tagError s us) := by
  unfold tagError
  repeat' first | with_reducible assumption | with_reducible apply keep_unitFault | with_reducible apply keep_foldl | with_reducible apply keep_foldl1 | with_reducible refine keep_foldl1_eq (by assumption) ?_ ?_ | intro _ | (with_reducible refine keep_of ?_; first | with_reducible assumption | with_reducible apply keep_unitFault | with_reducible apply keep_foldl | with_reducible apply keep_foldl1 | with_reducible refine keep_foldl1_eq (by assumption) ?_ ?_) | split | dsimp only
theorem keep_execBusCombine {s0 : State} {stk tag : Nat} {s : State} (hs : Keep s0 s) : KeepR s0 (execBusCombine stk tag s) := by
  unfold execBusCombine
  repeat' first | with_reducible assumption | with_reducible apply keep_tagError | with_reducible apply keep_broadcast | with_reducible apply keep_memWrite | with_reducible refine keep_memWrite_eq (by assumption) ?_ | with_reducible apply keep_foldl | with_reducible apply keep_foldl1 | with_reducible refine keep_foldl1_eq (by assumption) ?_ ?_ | with_reducible apply keep_ite | with_reducible apply keepR_ite | exact keepR_refused | with_reducible apply keepR_next | intro _ | (with_reducible refine keep_of ?_; first | with_reducible assumption | with_reducible apply keep_tagError | with_reducible apply keep_broadcast | with_reducible apply keep_memWrite | with_reducible refine keep_memWrite_eq (by assumption) ?_ | with_reducible apply keep_foldl | with_reducible apply keep_foldl1 | with_reducible refine keep_foldl1_eq (by assumption) ?_ ?_) | split | dsimp only
theorem keep_execRefreshDue {s0 : State} {u : Nat} {s : State} (hs : Keep s0 s) : KeepR s0 (execRefreshDue u s) := by
  unfold execRefreshDue
  repeat' first | with_reducible assumption | with_reducible apply keep_setU | with_reducible apply keep_yieldNow | with_reducible apply keep_ite | with_reducible apply keepR_ite | exact keepR_refused | with_reducible apply keepR_next | intro _ | (with_reducible refine keep_of ?_; first | with_reducible assumption | with_reducible apply keep_setU | with_reducible apply keep_yieldNow) | split | dsimp only
theorem keep_execPreemption {s0 : State} {u : Nat} {s : State} (hs : Keep s0 s) : KeepR s0 (execPreemption u s) := by
  unfold execPreemption
  repeat' first | with_reducible assumption | with_reducible apply keep_bump | with_reducible apply keep_setU | with_reducible apply keep_ite | with_reducible apply keepR_ite | exact keepR_refused | with_reducible apply keepR_next | intro _ | (with_reducible refine keep_of ?_; first | with_reducible assumption | with_reducible apply keep_bump | with_reducible apply keep_setU) | split | dsimp only
theorem keep_execRefreshDone {s0 : State} {u : Nat} {s : State} (hs : Keep s0 s) : KeepR s0 (execRefreshDone u s) := by
  unfold execRefreshDone
  repeat' first | with_reducible assumption | with_reducible apply keep_setU | with_reducible apply keep_ite | with_reducible apply keepR_ite | exact keepR_refused | with_reducible apply keepR_next | intro _ | (with_reducible refine keep_of ?_; first | with_reducible assumption | with_reducible apply keep_setU) | split | dsimp only
theorem keep_execUnitHang {s0 : State} {u : Nat} {s : State} (hs : Keep s0 s) : KeepR s0 (execUnitHang u s) := by
  unfold execUnitHang
  repeat' first | with_reducible assumption | with_reducible apply keep_unitFault | with_reducible apply keep_ite | with_reducible apply keepR_ite | exact keepR_refused | with_reducible apply keepR_next | intro _ | (with_reducible refine keep_of ?_; first | with_reducible assumption | with_reducible apply keep_unitFault) | split | dsimp only

end Sys2Proof.Machine
end

