-- ==== Sys2Proof/Laws/KeepJrn.lean ====
section
/-!
SUPPORT. Keep (the queue, the fuses, the byte memories, the free counter and the output) for every operation of Journal, Wear, Throttle.
-/
set_option linter.unusedVariables false

namespace Sys2Proof.Machine

theorem keep_jrnFailed {s0 : State} {s : State} (hs : Keep s0 s) : Keep s0 (jrnFailed s) := by
  unfold jrnFailed
  repeat' first | with_reducible assumption | with_reducible apply keep_errCe | with_reducible apply keep_bump | with_reducible apply keep_winAdd | with_reducible apply keep_rasPut | with_reducible refine keep_winAdd_eq (by assumption) ?_ | with_reducible apply keep_ite | intro _ | (with_reducible refine keep_of ?_; first | with_reducible assumption | with_reducible apply keep_errCe | with_reducible apply keep_bump | with_reducible apply keep_winAdd | with_reducible apply keep_rasPut | with_reducible refine keep_winAdd_eq (by assumption) ?_) | split | dsimp only
theorem keep_jrnCompactStart {s0 : State} {s : State} (hs : Keep s0 s) : Keep s0 (jrnCompactStart s) := by
  unfold jrnCompactStart
  repeat' first | with_reducible assumption | with_reducible apply keep_ite | intro _ | (with_reducible refine keep_of ?_; first | with_reducible assumption) | ((with_reducible refine keep_flash ?_ (fun w => ?_)) <;> first | with_reducible assumption | ((try dsimp only) <;> (repeat' first | exact spWf_nil | with_reducible exact w.dram | with_reducible exact w.lpd | with_reducible exact w.scratch | with_reducible exact w.flash | assumption | apply wrBytes_wf | apply zeroBytes_wf | apply copyBytes_wf | apply fProg_wf | apply fErase_wf | apply spPut_wf | apply foldl_wf | intro _ | split | rfl) <;> done)) | split | dsimp only
theorem keep_jrnCompactIf {s0 : State} {s : State} (hs : Keep s0 s) : Keep s0 (jrnCompactIf s) := by
  unfold jrnCompactIf
  repeat' first | with_reducible assumption | with_reducible apply keep_jrnCompactStart | with_reducible apply keep_ite | intro _ | (with_reducible refine keep_of ?_; first | with_reducible assumption | with_reducible apply keep_jrnCompactStart) | split | dsimp only
theorem keep_jrnDue {s0 : State} {s : State} (hs : Keep s0 s) : Keep s0 (jrnDue s) := by
  unfold jrnDue
  repeat' first | with_reducible assumption | with_reducible apply keep_jrnCompactIf | with_reducible apply keep_ite | intro _ | (with_reducible refine keep_of ?_; first | with_reducible assumption | with_reducible apply keep_jrnCompactIf) | split | dsimp only
theorem keep_jrnProgram1 {s0 : State} {s : State} (hs : Keep s0 s) : Keep s0 (jrnProgram1 s) := by
  unfold jrnProgram1
  repeat' first | with_reducible assumption | with_reducible apply keep_jrnDue | with_reducible apply keep_ite | intro _ | (with_reducible refine keep_of ?_; first | with_reducible assumption | with_reducible apply keep_jrnDue) | ((with_reducible refine keep_flash ?_ (fun w => ?_)) <;> first | with_reducible assumption | with_reducible apply keep_jrnDue | ((try dsimp only) <;> (repeat' first | exact spWf_nil | with_reducible exact w.dram | with_reducible exact w.lpd | with_reducible exact w.scratch | with_reducible exact w.flash | assumption | apply wrBytes_wf | apply zeroBytes_wf | apply copyBytes_wf | apply fProg_wf | apply fErase_wf | apply spPut_wf | apply foldl_wf | intro _ | split | rfl) <;> done)) | split | dsimp only
theorem keep_jrnFlush {s0 : State} {x0 : Nat} {x1 : State} (hx1 : Keep s0 x1) : Keep s0 (jrnFlush x0 x1) := by
  fun_induction jrnFlush <;>
  repeat' first | with_reducible assumption | with_reducible apply keep_jrnProgram1 | with_reducible apply keep_ite | intro _ | (with_reducible refine keep_of ?_; first | with_reducible assumption | with_reducible apply keep_jrnProgram1) | apply_assumption | split | dsimp only
theorem keep_flashTorn {s0 : State} {s : State} {a n : Nat} (hs : Keep s0 s) : Keep s0 (flashTorn s a n) :=
  hs.trans ⟨rfl, .refl _, fun w => ⟨w.dram, w.lpd, w.scratch, fProg_wf w.flash⟩, Nat.le_add_right _ _, [], rfl⟩
theorem keep_execJournalProgram {s0 : State} {ok : Bool} {s : State} (hs : Keep s0 s) : KeepR s0 (execJournalProgram ok s) := by
  unfold execJournalProgram
  repeat' first | with_reducible assumption | with_reducible apply keep_jrnProgram1 | with_reducible apply keep_flashTorn | with_reducible apply keep_jrnFailed | with_reducible apply keep_ite | with_reducible apply keepR_ite | exact keepR_refused | with_reducible apply keepR_next | intro _ | (with_reducible refine keep_of ?_; first | with_reducible assumption | with_reducible apply keep_jrnProgram1 | with_reducible apply keep_flashTorn | with_reducible apply keep_jrnFailed) | split | dsimp only
theorem keep_opJrnCompact {s0 : State} {s : State} {v : W32} (hs : Keep s0 s) : Keep s0 (opJrnCompact s v) := by
  unfold opJrnCompact
  repeat' first | with_reducible assumption | with_reducible apply keep_jrnCompactIf | with_reducible apply keep_ite | intro _ | (with_reducible refine keep_of ?_; first | with_reducible assumption | with_reducible apply keep_jrnCompactIf) | split | dsimp only
theorem keep_execJrnCompact {s0 : State} {mid : Nat} {v : W32} {s : State} (hs : Keep s0 s) : KeepR s0 (execJrnCompact mid v s) := by
  unfold execJrnCompact
  repeat' first | with_reducible assumption | with_reducible apply keep_pageAccess | with_reducible apply keep_opJrnCompact | with_reducible apply keep_hostRef | with_reducible apply keep_ite | with_reducible apply keepR_ite | exact keepR_refused | with_reducible apply keepR_next | intro _ | (with_reducible refine keep_of ?_; first | with_reducible assumption | with_reducible apply keep_pageAccess | with_reducible apply keep_opJrnCompact | with_reducible apply keep_hostRef) | split | dsimp only
theorem keep_execCompactionCommit {s0 : State} {s : State} (hs : Keep s0 s) : KeepR s0 (execCompactionCommit s) := by
  unfold execCompactionCommit
  repeat' first | with_reducible assumption | with_reducible apply keep_bump | with_reducible apply keep_ite | with_reducible apply keepR_ite | exact keepR_refused | with_reducible apply keepR_next | intro _ | (with_reducible refine keep_of ?_; first | with_reducible assumption | with_reducible apply keep_bump) | ((with_reducible refine keep_flash ?_ (fun w => ?_)) <;> first | with_reducible assumption | with_reducible apply keep_bump | ((try dsimp only) <;> (repeat' first | exact spWf_nil | with_reducible exact w.dram | with_reducible exact w.lpd | with_reducible exact w.scratch | with_reducible exact w.flash | assumption | apply wrBytes_wf | apply zeroBytes_wf | apply copyBytes_wf | apply fProg_wf | apply fErase_wf | apply spPut_wf | apply foldl_wf | intro _ | split | rfl) <;> done)) | split | dsimp only
theorem keep_execSegmentEraseDone {s0 : State} {ok : Bool} {s : State} (hs : Keep s0 s) : KeepR s0 (execSegmentEraseDone ok s) := by
  unfold execSegmentEraseDone
  repeat' first | with_reducible assumption | with_reducible apply keep_jrnDue | with_reducible apply keep_jrnFailed | with_reducible apply keep_ite | with_reducible apply keepR_ite | exact keepR_refused | with_reducible apply keepR_next | intro _ | (with_reducible refine keep_of ?_; first | with_reducible assumption | with_reducible apply keep_jrnDue | with_reducible apply keep_jrnFailed) | ((with_reducible refine keep_flash ?_ (fun w => ?_)) <;> first | with_reducible assumption | with_reducible apply keep_jrnDue | with_reducible apply keep_jrnFailed | ((try dsimp only) <;> (repeat' first | exact spWf_nil | with_reducible exact w.dram | with_reducible exact w.lpd | with_reducible exact w.scratch | with_reducible exact w.flash | assumption | apply wrBytes_wf | apply zeroBytes_wf | apply copyBytes_wf | apply fProg_wf | apply fErase_wf | apply spPut_wf | apply foldl_wf | intro _ | split | rfl) <;> done)) | split | dsimp only
theorem keep_jrnMount {s0 : State} {s : State} (hs : Keep s0 s) : Keep s0 (jrnMount s) := by
  unfold jrnMount
  repeat' first | with_reducible assumption | with_reducible apply keep_ite | intro _ | (with_reducible refine keep_of ?_; first | with_reducible assumption) | ((with_reducible refine keep_flash ?_ (fun w => ?_)) <;> first | with_reducible assumption | ((try dsimp only) <;> (repeat' first | exact spWf_nil | with_reducible exact w.dram | with_reducible exact w.lpd | with_reducible exact w.scratch | with_reducible exact w.flash | assumption | apply wrBytes_wf | apply zeroBytes_wf | apply copyBytes_wf | apply fProg_wf | apply fErase_wf | apply spPut_wf | apply foldl_wf | intro _ | split | rfl) <;> done)) | split | dsimp only
theorem keep_jrnRestore1 {s0 : State} {s : State} {r : JRec} (hs : Keep s0 s) : Keep s0 (jrnRestore1 s r) := by
  unfold jrnRestore1
  repeat' first | with_reducible assumption | with_reducible apply keep_wrReg | with_reducible apply keep_wrFld | with_reducible apply keep_setRgn | with_reducible apply keep_setWay | with_reducible apply keep_foldl | with_reducible apply keep_foldl1 | with_reducible refine keep_foldl1_eq (by assumption) ?_ ?_ | with_reducible apply keep_ite | intro _ | (with_reducible refine keep_of ?_; first | with_reducible assumption | with_reducible apply keep_wrReg | with_reducible apply keep_wrFld | with_reducible apply keep_setRgn | with_reducible apply keep_setWay | with_reducible apply keep_foldl | with_reducible apply keep_foldl1 | with_reducible refine keep_foldl1_eq (by assumption) ?_ ?_) | (with_reducible refine keep_mem ?_; first | with_reducible assumption | with_reducible apply keep_wrReg | with_reducible apply keep_wrFld | with_reducible apply keep_setRgn | with_reducible apply keep_setWay | with_reducible apply keep_foldl | with_reducible apply keep_foldl1 | with_reducible refine keep_foldl1_eq (by assumption) ?_ ?_) | split | dsimp only
theorem keep_jrnRestore {s0 : State} {s : State} (hs : Keep s0 s) : Keep s0 (jrnRestore s) := by
  unfold jrnRestore
  repeat' first | with_reducible assumption | with_reducible apply keep_jrnRestore1 | with_reducible apply keep_foldl | with_reducible apply keep_foldl1 | with_reducible refine keep_foldl1_eq (by assumption) ?_ ?_ | intro _ | (with_reducible refine keep_of ?_; first | with_reducible assumption | with_reducible apply keep_jrnRestore1 | with_reducible apply keep_foldl | with_reducible apply keep_foldl1 | with_reducible refine keep_foldl1_eq (by assumption) ?_ ?_) | split | dsimp only
theorem keep_trainPut {s0 : State} {s : State} {ch : Nat} {t : Train} (hs : Keep s0 s) : Keep s0 (trainPut s ch t) := by
  unfold trainPut
  repeat' first | with_reducible assumption | with_reducible apply keep_jrnPut | intro _ | (with_reducible refine keep_of ?_; first | with_reducible assumption | with_reducible apply keep_jrnPut) | split | dsimp only
theorem keep_chTrouble {s0 : State} {s : State} {stk ch : Nat} {probe : Bool} (hs : Keep s0 s) : Keep s0 (chTrouble s stk ch probe) := by
  unfold chTrouble
  repeat' first | with_reducible assumption | with_reducible apply keep_migJokerBad | with_reducible apply keep_migRequest | with_reducible apply keep_ite | intro _ | (with_reducible refine keep_of ?_; first | with_reducible assumption | with_reducible apply keep_migJokerBad | with_reducible apply keep_migRequest) | split | dsimp only
theorem keep_trainSelect {s0 : State} {s : State} {stk ch : Nat} (hs : Keep s0 s) : Keep s0 (trainSelect s stk ch) := by
  unfold trainSelect
  repeat' first | with_reducible assumption | with_reducible apply keep_chTrouble | intro _ | (with_reducible refine keep_of ?_; first | with_reducible assumption | with_reducible apply keep_chTrouble) | split | dsimp only
theorem keep_trainSelectStk {s0 : State} {s : State} {stk : Nat} (hs : Keep s0 s) : Keep s0 (trainSelectStk s stk) := by
  unfold trainSelectStk
  repeat' first | with_reducible assumption | with_reducible apply keep_trainSelect | with_reducible apply keep_foldl | with_reducible apply keep_foldl1 | with_reducible refine keep_foldl1_eq (by assumption) ?_ ?_ | with_reducible apply keep_ite | intro _ | (with_reducible refine keep_of ?_; first | with_reducible assumption | with_reducible apply keep_trainSelect | with_reducible apply keep_foldl | with_reducible apply keep_foldl1 | with_reducible refine keep_foldl1_eq (by assumption) ?_ ?_) | split | dsimp only
theorem keep_trainSelectAll {s0 : State} {s : State} (hs : Keep s0 s) : Keep s0 (trainSelectAll s) := by
  unfold trainSelectAll
  repeat' first | with_reducible assumption | with_reducible apply keep_trainSelectStk | with_reducible apply keep_foldl | with_reducible apply keep_foldl1 | with_reducible refine keep_foldl1_eq (by assumption) ?_ ?_ | intro _ | (with_reducible refine keep_of ?_; first | with_reducible assumption | with_reducible apply keep_trainSelectStk | with_reducible apply keep_foldl | with_reducible apply keep_foldl1 | with_reducible refine keep_foldl1_eq (by assumption) ?_ ?_) | split | dsimp only
theorem keep_execMarginProbe {s0 : State} {stk ch timing voltage : Nat} {lanes : List Nat} {s : State} (hs : Keep s0 s) : KeepR s0 (execMarginProbe stk ch timing voltage lanes s) := by
  unfold execMarginProbe
  repeat' first | with_reducible assumption | with_reducible apply keep_bump | with_reducible apply keep_wrReg | with_reducible apply keep_tsvFail | with_reducible apply keep_chTrouble | with_reducible apply keep_trainSelect | with_reducible apply keep_foldl | with_reducible apply keep_foldl1 | with_reducible refine keep_foldl1_eq (by assumption) ?_ ?_ | with_reducible apply keep_ite | with_reducible apply keepR_ite | exact keepR_refused | with_reducible apply keepR_next | intro _ | (with_reducible refine keep_of ?_; first | with_reducible assumption | with_reducible apply keep_bump | with_reducible apply keep_wrReg | with_reducible apply keep_tsvFail | with_reducible apply keep_chTrouble | with_reducible apply keep_trainSelect | with_reducible apply keep_foldl | with_reducible apply keep_foldl1 | with_reducible refine keep_foldl1_eq (by assumption) ?_ ?_) | split | dsimp only
theorem keep_opMigCmd {s0 : State} {s : State} {v : W32} (hs : Keep s0 s) : Keep s0 (opMigCmd s v) := by
  unfold opMigCmd
  repeat' first | with_reducible assumption | with_reducible apply keep_migRequest | with_reducible apply keep_ite | intro _ | (with_reducible refine keep_of ?_; first | with_reducible assumption | with_reducible apply keep_migRequest) | split | dsimp only
theorem keep_execMigCmd {s0 : State} {mid : Nat} {v : W32} {s : State} (hs : Keep s0 s) : KeepR s0 (execMigCmd mid v s) := by
  unfold execMigCmd
  repeat' first | with_reducible assumption | with_reducible apply keep_pageAccess | with_reducible apply keep_opMigCmd | exact keepR_refused | with_reducible apply keepR_next | intro _ | (with_reducible refine keep_of ?_; first | with_reducible assumption | with_reducible apply keep_pageAccess | with_reducible apply keep_opMigCmd) | split | dsimp only
theorem keep_execMigrationStart {s0 : State} {stk : Nat} {s : State} (hs : Keep s0 s) : KeepR s0 (execMigrationStart stk s) := by
  unfold execMigrationStart
  repeat' first | with_reducible assumption | with_reducible apply keep_wrReg | with_reducible apply keep_ite | with_reducible apply keepR_ite | exact keepR_refused | with_reducible apply keepR_next | intro _ | (with_reducible refine keep_of ?_; first | with_reducible assumption | with_reducible apply keep_wrReg) | split | dsimp only
theorem keep_copyChannel {s0 : State} {s : State} {stk src dst : Nat} (hs : Keep s0 s) : Keep s0 (copyChannel s stk src dst) := by
  unfold copyChannel
  repeat' first | with_reducible assumption | intro _ | (with_reducible refine keep_of ?_; first | with_reducible assumption) | (with_reducible refine keep_mem ?_; first | with_reducible assumption) | ((with_reducible refine keep_bytes ?_ (fun w => ?_) (fun w => ?_) (fun w => ?_)) <;> first | with_reducible assumption | ((try dsimp only) <;> (repeat' first | exact spWf_nil | with_reducible exact w.dram | with_reducible exact w.lpd | with_reducible exact w.scratch | with_reducible exact w.flash | assumption | apply wrBytes_wf | apply zeroBytes_wf | apply copyBytes_wf | apply fProg_wf | apply fErase_wf | apply spPut_wf | apply foldl_wf | intro _ | split | rfl) <;> done)) | split | dsimp only
theorem keep_execMigrationCopyDone {s0 : State} {stk : Nat} {s : State} (hs : Keep s0 s) : KeepR s0 (execMigrationCopyDone stk s) := by
  unfold execMigrationCopyDone
  repeat' first | with_reducible assumption | with_reducible apply keep_copyChannel | with_reducible apply keep_copyUnit | with_reducible apply keep_wrFld | with_reducible apply keep_wrReg | with_reducible apply keep_foldl | with_reducible apply keep_foldl1 | with_reducible refine keep_foldl1_eq (by assumption) ?_ ?_ | with_reducible apply keep_ite | with_reducible apply keepR_ite | exact keepR_refused | with_reducible apply keepR_next | intro _ | (with_reducible refine keep_of ?_; first | with_reducible assumption | with_reducible apply keep_copyChannel | with_reducible apply keep_copyUnit | with_reducible apply keep_wrFld | with_reducible apply keep_wrReg | with_reducible apply keep_foldl | with_reducible apply keep_foldl1 | with_reducible refine keep_foldl1_eq (by assumption) ?_ ?_) | split | dsimp only
theorem keep_chRetire {s0 : State} {s : State} {stk ch : Nat} (hs : Keep s0 s) : Keep s0 (chRetire s stk ch) := by
  unfold chRetire
  repeat' first | with_reducible assumption | with_reducible apply keep_wrBit | with_reducible apply keep_rasPut | with_reducible apply keep_ite | intro _ | (with_reducible refine keep_of ?_; first | with_reducible assumption | with_reducible apply keep_wrBit | with_reducible apply keep_rasPut) | split | dsimp only
theorem keep_retrained {s0 : State} {s : State} {stk ch timing voltage : Nat} {ok : Bool} (hs : Keep s0 s) : Keep s0 (retrained s stk ch timing voltage ok) := by
  unfold retrained
  repeat' first | with_reducible assumption | with_reducible apply keep_trainPut | with_reducible apply keep_chRetire | with_reducible apply keep_ite | intro _ | (with_reducible refine keep_of ?_; first | with_reducible assumption | with_reducible apply keep_trainPut | with_reducible apply keep_chRetire) | split | dsimp only
theorem keep_execRetrainDone {s0 : State} {stk timing voltage : Nat} {s : State} (hs : Keep s0 s) : KeepR s0 (execRetrainDone stk timing voltage s) := by
  unfold execRetrainDone
  repeat' first | with_reducible assumption | with_reducible apply keep_retrained | with_reducible apply keep_jrnRemap | with_reducible apply keep_rasPut | with_reducible apply keep_migRequest | with_reducible apply keep_ite | with_reducible apply keepR_ite | exact keepR_refused | with_reducible apply keepR_next | intro _ | (with_reducible refine keep_of ?_; first | with_reducible assumption | with_reducible apply keep_retrained | with_reducible apply keep_jrnRemap | with_reducible apply keep_rasPut | with_reducible apply keep_migRequest) | split | dsimp only
theorem keep_opRasPop {s0 : State} {s : State} {v : W32} (hs : Keep s0 s) : Keep s0 (opRasPop s v) := by
  unfold opRasPop
  repeat' first | with_reducible assumption | with_reducible apply keep_ite | intro _ | (with_reducible refine keep_of ?_; first | with_reducible assumption) | split | dsimp only
theorem keep_execRasPop {s0 : State} {mid : Nat} {v : W32} {s : State} (hs : Keep s0 s) : KeepR s0 (execRasPop mid v s) := by
  unfold execRasPop
  repeat' first | with_reducible assumption | with_reducible apply keep_pageAccess | with_reducible apply keep_opRasPop | exact keepR_refused | with_reducible apply keepR_next | intro _ | (with_reducible refine keep_of ?_; first | with_reducible assumption | with_reducible apply keep_pageAccess | with_reducible apply keep_opRasPop) | split | dsimp only
theorem keep_setLevel {s0 : State} {s : State} {l : Nat} (hs : Keep s0 s) : Keep s0 (setLevel s l) := by
  unfold setLevel
  repeat' first | with_reducible assumption | with_reducible apply keep_wrReg | with_reducible apply keep_trainSelectAll | with_reducible apply keep_capacity | with_reducible apply keep_raiseIsr | intro _ | (with_reducible refine keep_of ?_; first | with_reducible assumption | with_reducible apply keep_wrReg | with_reducible apply keep_trainSelectAll | with_reducible apply keep_capacity | with_reducible apply keep_raiseIsr) | split | dsimp only
theorem keep_raiseLevel {s0 : State} {s : State} (hs : Keep s0 s) : Keep s0 (raiseLevel s) := by
  unfold raiseLevel
  repeat' first | with_reducible assumption | with_reducible apply keep_setLevel | with_reducible apply keep_bump | with_reducible apply keep_ite | intro _ | (with_reducible refine keep_of ?_; first | with_reducible assumption | with_reducible apply keep_setLevel | with_reducible apply keep_bump) | split | dsimp only
theorem keep_thrFell {s0 : State} {before s : State} (hbefore : Keep s0 before) (hs : Keep s0 s) : Keep s0 (thrFell before s) := by
  unfold thrFell
  repeat' first | with_reducible assumption | with_reducible apply keep_ite | intro _ | (with_reducible refine keep_of ?_; first | with_reducible assumption) | split | dsimp only
theorem keep_thrSettle {s0 : State} {before s : State} (hbefore : Keep s0 before) (hs : Keep s0 s) : Keep s0 (thrSettle before s) := by
  unfold thrSettle
  repeat' first | with_reducible assumption | with_reducible apply keep_thrFell | with_reducible apply keep_raiseLevel | intro _ | (with_reducible refine keep_of ?_; first | with_reducible assumption | with_reducible apply keep_thrFell | with_reducible apply keep_raiseLevel) | split | dsimp only
theorem keep_thrAfter {s0 : State} {before s : State} (hbefore : Keep s0 before) (hs : Keep s0 s) : Keep s0 (thrAfter before s) := by
  unfold thrAfter
  repeat' first | with_reducible assumption | with_reducible apply keep_thrSettle | with_reducible apply keep_raiseIsr | with_reducible apply keep_ite | intro _ | (with_reducible refine keep_of ?_; first | with_reducible assumption | with_reducible apply keep_thrSettle | with_reducible apply keep_raiseIsr) | split | dsimp only
theorem keep_execLevelFall {s0 : State} {s : State} (hs : Keep s0 s) : KeepR s0 (execLevelFall s) := by
  unfold execLevelFall
  repeat' first | with_reducible assumption | with_reducible apply keep_setLevel | with_reducible apply keep_ite | with_reducible apply keepR_ite | exact keepR_refused | with_reducible apply keepR_next | intro _ | (with_reducible refine keep_of ?_; first | with_reducible assumption | with_reducible apply keep_setLevel) | split | dsimp only
theorem keep_execPowerMeasure {s0 : State} {now avg1 avg100 : Nat} {s : State} (hs : Keep s0 s) : KeepR s0 (execPowerMeasure now avg1 avg100 s) := by
  unfold execPowerMeasure
  repeat' first | with_reducible assumption | with_reducible apply keep_wrReg | with_reducible apply keep_thrFell | with_reducible apply keep_raiseLevel | with_reducible apply keep_ite | with_reducible apply keepR_ite | exact keepR_refused | with_reducible apply keepR_next | intro _ | (with_reducible refine keep_of ?_; first | with_reducible assumption | with_reducible apply keep_wrReg | with_reducible apply keep_thrFell | with_reducible apply keep_raiseLevel) | split | dsimp only
theorem keep_mgmtOpt {s0 : State} {s : State} {x0 : Option MEvent} (hs : Keep s0 s) : Keep s0 (mgmtOpt s x0) := by
  unfold mgmtOpt
  repeat' first | with_reducible assumption | with_reducible apply keep_mgmt | intro _ | (with_reducible refine keep_of ?_; first | with_reducible assumption | with_reducible apply keep_mgmt) | split | dsimp only
theorem keep_execPwrbrk {s0 : State} {asserted : Bool} {s : State} (hs : Keep s0 s) : KeepR s0 (execPwrbrk asserted s) := by
  unfold execPwrbrk
  repeat' first | with_reducible assumption | with_reducible apply keep_thrAfter | with_reducible apply keep_mgmtOpt | with_reducible apply keep_ite | with_reducible apply keepR_ite | exact keepR_refused | with_reducible apply keepR_next | intro _ | (with_reducible refine keep_of ?_; first | with_reducible assumption | with_reducible apply keep_thrAfter | with_reducible apply keep_mgmtOpt) | split | dsimp only
theorem keep_execThrottleN {s0 : State} {asserted : Bool} {s : State} (hs : Keep s0 s) : KeepR s0 (execThrottleN asserted s) := by
  unfold execThrottleN
  repeat' first | with_reducible assumption | with_reducible apply keep_thrAfter | with_reducible apply keep_mgmtOpt | with_reducible apply keep_ite | with_reducible apply keepR_ite | exact keepR_refused | with_reducible apply keepR_next | intro _ | (with_reducible refine keep_of ?_; first | with_reducible assumption | with_reducible apply keep_thrAfter | with_reducible apply keep_mgmtOpt) | split | dsimp only
theorem keep_execThrottleHeld {s0 : State} {inp : Nat} {s : State} (hs : Keep s0 s) : KeepR s0 (execThrottleHeld inp s) := by
  unfold execThrottleHeld
  repeat' first | with_reducible assumption | with_reducible apply keep_thrAfter | with_reducible apply keep_mgmt | with_reducible apply keep_ite | with_reducible apply keepR_ite | exact keepR_refused | with_reducible apply keepR_next | intro _ | (with_reducible refine keep_of ?_; first | with_reducible assumption | with_reducible apply keep_thrAfter | with_reducible apply keep_mgmt) | split | dsimp only
theorem keep_execStormEnd {s0 : State} {inp : Nat} {s : State} (hs : Keep s0 s) : KeepR s0 (execStormEnd inp s) := by
  unfold execStormEnd
  repeat' first | with_reducible assumption | with_reducible apply keep_thrFell | with_reducible apply keep_ite | with_reducible apply keepR_ite | exact keepR_refused | with_reducible apply keepR_next | intro _ | (with_reducible refine keep_of ?_; first | with_reducible assumption | with_reducible apply keep_thrFell) | split | dsimp only
theorem keep_opThrCap {s0 : State} {s : State} {v : W32} (hs : Keep s0 s) : Keep s0 (opThrCap s v) := by
  unfold opThrCap
  repeat' first | with_reducible assumption | with_reducible apply keep_thrSettle | with_reducible apply keep_wrReg | intro _ | (with_reducible refine keep_of ?_; first | with_reducible assumption | with_reducible apply keep_thrSettle | with_reducible apply keep_wrReg) | split | dsimp only
theorem keep_execThrCap {s0 : State} {mid : Nat} {v : W32} {s : State} (hs : Keep s0 s) : KeepR s0 (execThrCap mid v s) := by
  unfold execThrCap
  repeat' first | with_reducible assumption | with_reducible apply keep_pageAccess | with_reducible apply keep_opThrCap | exact keepR_refused | with_reducible apply keepR_next | intro _ | (with_reducible refine keep_of ?_; first | with_reducible assumption | with_reducible apply keep_pageAccess | with_reducible apply keep_opThrCap) | split | dsimp only
theorem keep_execInputLow {s0 : State} {s : State} (hs : Keep s0 s) : KeepR s0 (execInputLow s) := by
  unfold execInputLow
  repeat' first | with_reducible assumption | with_reducible apply keep_thrAfter | with_reducible apply keep_mgmt | with_reducible apply keep_ite | with_reducible apply keepR_ite | exact keepR_refused | with_reducible apply keepR_next | intro _ | (with_reducible refine keep_of ?_; first | with_reducible assumption | with_reducible apply keep_thrAfter | with_reducible apply keep_mgmt) | split | dsimp only
theorem keep_execInputLowClear {s0 : State} {s : State} (hs : Keep s0 s) : KeepR s0 (execInputLowClear s) := by
  unfold execInputLowClear
  repeat' first | with_reducible assumption | with_reducible apply keep_thrFell | with_reducible apply keep_ite | with_reducible apply keepR_ite | exact keepR_refused | with_reducible apply keepR_next | intro _ | (with_reducible refine keep_of ?_; first | with_reducible assumption | with_reducible apply keep_thrFell) | split | dsimp only
theorem keep_tripLog {s0 : State} {s : State} {ty inst temp : Nat} {shut : Bool} (hs : Keep s0 s) : Keep s0 (tripLog s ty inst temp shut) := by
  unfold tripLog
  repeat' first | with_reducible assumption | with_reducible apply keep_raiseIsr | with_reducible apply keep_wrReg | intro _ | (with_reducible refine keep_of ?_; first | with_reducible assumption | with_reducible apply keep_raiseIsr | with_reducible apply keep_wrReg) | split | dsimp only
theorem keep_tripHold {s0 : State} {s : State} {ty idx inst temp : Nat} (hs : Keep s0 s) : Keep s0 (tripHold s ty idx inst temp) := by
  unfold tripHold
  repeat' first | with_reducible assumption | with_reducible apply keep_tripLog | with_reducible apply keep_ite | intro _ | (with_reducible refine keep_of ?_; first | with_reducible assumption | with_reducible apply keep_tripLog) | split | dsimp only
theorem keep_tripEnd {s0 : State} {s : State} {ty idx : Nat} (hs : Keep s0 s) : Keep s0 (tripEnd s ty idx) := by
  unfold tripEnd
  repeat' first | with_reducible assumption | intro _ | (with_reducible refine keep_of ?_; first | with_reducible assumption) | split | dsimp only
theorem keep_tripCheck {s0 : State} {s : State} {ty idx inst temp thr : Nat} (hs : Keep s0 s) : Keep s0 (tripCheck s ty idx inst temp thr) := by
  unfold tripCheck
  repeat' first | with_reducible assumption | with_reducible apply keep_tripHold | with_reducible apply keep_tripEnd | with_reducible apply keep_ite | intro _ | (with_reducible refine keep_of ?_; first | with_reducible assumption | with_reducible apply keep_tripHold | with_reducible apply keep_tripEnd) | split | dsimp only

end Sys2Proof.Machine
end

