-- ==== Sys2Proof/Laws/KeepFab.lean ====
section
/-!
SUPPORT. Keep (the queue, the fuses, the byte memories, the free counter and the output) for every operation of MemSys, Mailbox, Fabric.
-/
set_option linter.unusedVariables false

namespace Sys2Proof.Machine

theorem keep_hostAbort {s0 : State} {s : State} {f : Nat} (hs : Keep s0 s) : Keep s0 (hostAbort s f) := by
  unfold hostAbort
  repeat' first | with_reducible assumption | with_reducible apply keep_emit | with_reducible apply keep_hostRef | intro _ | (with_reducible refine keep_of ?_; first | with_reducible assumption | with_reducible apply keep_emit | with_reducible apply keep_hostRef) | split | dsimp only
theorem keep_outsideOf {s0 : State} {s : State} {rq : Requester} {a : Nat} (hs : Keep s0 s) : Keep s0 (outsideOf s rq a) := by
  unfold outsideOf
  repeat' first | with_reducible assumption | with_reducible apply keep_report | intro _ | (with_reducible refine keep_of ?_; first | with_reducible assumption | with_reducible apply keep_report) | split | dsimp only
theorem keep_deliver {s0 : State} {s : State} {rq : Requester} {a : Nat} {r : MemRes} (hs : Keep s0 s) : Keep s0 (deliver s rq a r) := by
  unfold deliver
  repeat' first | with_reducible assumption | with_reducible apply keep_emit | with_reducible apply keep_hostAbort | with_reducible apply keep_outsideOf | with_reducible apply keep_bump | with_reducible apply keep_reportPoison | intro _ | (with_reducible refine keep_of ?_; first | with_reducible assumption | with_reducible apply keep_emit | with_reducible apply keep_hostAbort | with_reducible apply keep_outsideOf | with_reducible apply keep_bump | with_reducible apply keep_reportPoison) | split | dsimp only
theorem keep_doRead {s0 : State} {s : State} {rq : Requester} {a n : Nat} {err : MemErr} (hs : Keep s0 s) : Keep s0 (doRead s rq a n err) := by
  unfold doRead
  repeat' first | with_reducible assumption | with_reducible apply keep_memRead | with_reducible apply keep_deliver | with_reducible refine keep_memRead_eq (by assumption) ?_ | with_reducible apply keep_ite | intro _ | (with_reducible refine keep_of ?_; first | with_reducible assumption | with_reducible apply keep_memRead | with_reducible apply keep_deliver | with_reducible refine keep_memRead_eq (by assumption) ?_) | (with_reducible refine keep_mem ?_; first | with_reducible assumption | with_reducible apply keep_memRead | with_reducible apply keep_deliver | with_reducible refine keep_memRead_eq (by assumption) ?_) | split | dsimp only
theorem keep_writeRefused {s0 : State} {s : State} {rq : Requester} {a : Nat} {r : MemRes} (hs : Keep s0 s) : Keep s0 (writeRefused s rq a r) := by
  unfold writeRefused
  repeat' first | with_reducible assumption | with_reducible apply keep_hostRef | with_reducible apply keep_outsideOf | intro _ | (with_reducible refine keep_of ?_; first | with_reducible assumption | with_reducible apply keep_hostRef | with_reducible apply keep_outsideOf) | split | dsimp only
theorem keep_lpdWriteErr {s0 : State} {s : State} {a n : Nat} {err : MemErr} (hs : Keep s0 s) : Keep s0 (lpdWriteErr s a n err) := by
  unfold lpdWriteErr
  repeat' first | with_reducible assumption | with_reducible apply keep_lpdLink | with_reducible apply keep_useFree | with_reducible refine keep_lpdLink_eq (by assumption) ?_ | intro _ | (with_reducible refine keep_of ?_; first | with_reducible assumption | with_reducible apply keep_lpdLink | with_reducible apply keep_useFree | with_reducible refine keep_lpdLink_eq (by assumption) ?_) | (with_reducible refine keep_mem ?_; first | with_reducible assumption | with_reducible apply keep_lpdLink | with_reducible apply keep_useFree | with_reducible refine keep_lpdLink_eq (by assumption) ?_) | ((with_reducible refine keep_bytes ?_ (fun w => ?_) (fun w => ?_) (fun w => ?_)) <;> first | with_reducible assumption | with_reducible apply keep_lpdLink | with_reducible apply keep_useFree | with_reducible refine keep_lpdLink_eq (by assumption) ?_ | ((try dsimp only) <;> (repeat' first | exact spWf_nil | with_reducible exact w.dram | with_reducible exact w.lpd | with_reducible exact w.scratch | with_reducible exact w.flash | assumption | apply wrBytes_wf | apply zeroBytes_wf | apply copyBytes_wf | apply fProg_wf | apply fErase_wf | apply spPut_wf | apply foldl_wf | intro _ | split | rfl) <;> done)) | split | dsimp only
theorem keep_doWrite {s0 : State} {s : State} {rq : Requester} {a : Nat} {bs : List Byte} {err : MemErr} (hs : Keep s0 s) : Keep s0 (doWrite s rq a bs err) := by
  unfold doWrite
  repeat' first | with_reducible assumption | with_reducible apply keep_cellsRead | with_reducible apply keep_memWrite | with_reducible apply keep_lpdWriteErr | with_reducible apply keep_writeRefused | with_reducible refine keep_cellsRead_eq (by assumption) ?_ | with_reducible refine keep_memWrite_eq (by assumption) ?_ | with_reducible apply keep_ite | intro _ | (with_reducible refine keep_of ?_; first | with_reducible assumption | with_reducible apply keep_cellsRead | with_reducible apply keep_memWrite | with_reducible apply keep_lpdWriteErr | with_reducible apply keep_writeRefused | with_reducible refine keep_cellsRead_eq (by assumption) ?_ | with_reducible refine keep_memWrite_eq (by assumption) ?_) | (with_reducible refine keep_mem ?_; first | with_reducible assumption | with_reducible apply keep_cellsRead | with_reducible apply keep_memWrite | with_reducible apply keep_lpdWriteErr | with_reducible apply keep_writeRefused | with_reducible refine keep_cellsRead_eq (by assumption) ?_ | with_reducible refine keep_memWrite_eq (by assumption) ?_) | split | dsimp only
theorem keep_execMemoryRead {s0 : State} {rq : Requester} {a len : Nat} {err : MemErr} {s : State} (hs : Keep s0 s) : KeepR s0 (execMemoryRead rq a len err s) := by
  unfold execMemoryRead
  repeat' first | with_reducible assumption | with_reducible apply keep_doRead | with_reducible apply keep_hostAbort | with_reducible apply keep_ite | with_reducible apply keepR_ite | exact keepR_refused | with_reducible apply keepR_next | intro _ | (with_reducible refine keep_of ?_; first | with_reducible assumption | with_reducible apply keep_doRead | with_reducible apply keep_hostAbort) | split | dsimp only
theorem keep_execMemoryWrite {s0 : State} {rq : Requester} {a : Nat} {data : List Byte} {err : MemErr} {s : State} (hs : Keep s0 s) : KeepR s0 (execMemoryWrite rq a data err s) := by
  unfold execMemoryWrite
  repeat' first | with_reducible assumption | with_reducible apply keep_doWrite | with_reducible apply keep_hostRef | with_reducible apply keep_ite | with_reducible apply keepR_ite | exact keepR_refused | with_reducible apply keepR_next | intro _ | (with_reducible refine keep_of ?_; first | with_reducible assumption | with_reducible apply keep_doWrite | with_reducible apply keep_hostRef) | split | dsimp only
theorem keep_doAtomic {s0 : State} {s : State} {rq : Requester} {op : AtomOp} {a n x swap : Nat} (hs : Keep s0 s) : Keep s0 (doAtomic s rq op a n x swap) := by
  unfold doAtomic
  repeat' first | with_reducible assumption | with_reducible apply keep_atomic | with_reducible apply keep_emit | with_reducible apply keep_hostRef | with_reducible apply keep_hostAbort | with_reducible refine keep_atomic_eq (by assumption) ?_ | with_reducible apply keep_ite | intro _ | (with_reducible refine keep_of ?_; first | with_reducible assumption | with_reducible apply keep_atomic | with_reducible apply keep_emit | with_reducible apply keep_hostRef | with_reducible apply keep_hostAbort | with_reducible refine keep_atomic_eq (by assumption) ?_) | (with_reducible refine keep_mem ?_; first | with_reducible assumption | with_reducible apply keep_atomic | with_reducible apply keep_emit | with_reducible apply keep_hostRef | with_reducible apply keep_hostAbort | with_reducible refine keep_atomic_eq (by assumption) ?_) | split | dsimp only
theorem keep_opAtomic {s0 : State} {s : State} {rq : Requester} {op : AtomOp} {a n x swap : Nat} (hs : Keep s0 s) : Keep s0 (opAtomic s rq op a n x swap) := by
  unfold opAtomic
  repeat' first | with_reducible assumption | with_reducible apply keep_doAtomic | with_reducible apply keep_hostAbort | with_reducible apply keep_ite | intro _ | (with_reducible refine keep_of ?_; first | with_reducible assumption | with_reducible apply keep_doAtomic | with_reducible apply keep_hostAbort) | split | dsimp only
theorem keep_execAtomicAdd {s0 : State} {rq : Requester} {a size x : Nat} {s : State} (hs : Keep s0 s) : KeepR s0 (execAtomicAdd rq a size x s) := by
  unfold execAtomicAdd
  repeat' first | with_reducible assumption | with_reducible apply keep_opAtomic | exact keepR_refused | with_reducible apply keepR_next | intro _ | (with_reducible refine keep_of ?_; first | with_reducible assumption | with_reducible apply keep_opAtomic) | split | dsimp only
theorem keep_execAtomicSmin {s0 : State} {rq : Requester} {a size x : Nat} {s : State} (hs : Keep s0 s) : KeepR s0 (execAtomicSmin rq a size x s) := by
  unfold execAtomicSmin
  repeat' first | with_reducible assumption | with_reducible apply keep_opAtomic | exact keepR_refused | with_reducible apply keepR_next | intro _ | (with_reducible refine keep_of ?_; first | with_reducible assumption | with_reducible apply keep_opAtomic) | split | dsimp only
theorem keep_execAtomicSmax {s0 : State} {rq : Requester} {a size x : Nat} {s : State} (hs : Keep s0 s) : KeepR s0 (execAtomicSmax rq a size x s) := by
  unfold execAtomicSmax
  repeat' first | with_reducible assumption | with_reducible apply keep_opAtomic | exact keepR_refused | with_reducible apply keepR_next | intro _ | (with_reducible refine keep_of ?_; first | with_reducible assumption | with_reducible apply keep_opAtomic) | split | dsimp only
theorem keep_execAtomicUmin {s0 : State} {rq : Requester} {a size x : Nat} {s : State} (hs : Keep s0 s) : KeepR s0 (execAtomicUmin rq a size x s) := by
  unfold execAtomicUmin
  repeat' first | with_reducible assumption | with_reducible apply keep_opAtomic | exact keepR_refused | with_reducible apply keepR_next | intro _ | (with_reducible refine keep_of ?_; first | with_reducible assumption | with_reducible apply keep_opAtomic) | split | dsimp only
theorem keep_execAtomicUmax {s0 : State} {rq : Requester} {a size x : Nat} {s : State} (hs : Keep s0 s) : KeepR s0 (execAtomicUmax rq a size x s) := by
  unfold execAtomicUmax
  repeat' first | with_reducible assumption | with_reducible apply keep_opAtomic | exact keepR_refused | with_reducible apply keepR_next | intro _ | (with_reducible refine keep_of ?_; first | with_reducible assumption | with_reducible apply keep_opAtomic) | split | dsimp only
theorem keep_execAtomicCas {s0 : State} {rq : Requester} {a size x swap : Nat} {s : State} (hs : Keep s0 s) : KeepR s0 (execAtomicCas rq a size x swap s) := by
  unfold execAtomicCas
  repeat' first | with_reducible assumption | with_reducible apply keep_opAtomic | exact keepR_refused | with_reducible apply keepR_next | intro _ | (with_reducible refine keep_of ?_; first | with_reducible assumption | with_reducible apply keep_opAtomic) | split | dsimp only
theorem keep_execGatherRead {s0 : State} {rq : Requester} {a : Nat} {err : MemErr} {s : State} (hs : Keep s0 s) : KeepR s0 (execGatherRead rq a err s) := by
  unfold execGatherRead
  repeat' first | with_reducible assumption | with_reducible apply keep_memRead1 | with_reducible apply keep_deliver | with_reducible refine keep_memRead1_eq (by assumption) ?_ | with_reducible apply keep_ite | with_reducible apply keepR_ite | exact keepR_refused | with_reducible apply keepR_next | intro _ | (with_reducible refine keep_of ?_; first | with_reducible assumption | with_reducible apply keep_memRead1 | with_reducible apply keep_deliver | with_reducible refine keep_memRead1_eq (by assumption) ?_) | (with_reducible refine keep_mem ?_; first | with_reducible assumption | with_reducible apply keep_memRead1 | with_reducible apply keep_deliver | with_reducible refine keep_memRead1_eq (by assumption) ?_) | split | dsimp only
theorem keep_rtSts {s0 : State} {s : State} {stk code rgn : Nat} (hs : Keep s0 s) : Keep s0 (rtSts s stk code rgn) := by
  unfold rtSts
  repeat' first | with_reducible assumption | with_reducible apply keep_wrReg | intro _ | (with_reducible refine keep_of ?_; first | with_reducible assumption | with_reducible apply keep_wrReg) | split | dsimp only
theorem keep_opRetag {s0 : State} {s : State} {stk target mode rgn : Nat} (hs : Keep s0 s) : Keep s0 (opRetag s stk target mode rgn) := by
  unfold opRetag
  repeat' first | with_reducible assumption | with_reducible apply keep_rtSts | with_reducible apply keep_dropLines | with_reducible apply keep_setRgn | with_reducible apply keep_foldl | with_reducible apply keep_foldl1 | with_reducible refine keep_foldl1_eq (by assumption) ?_ ?_ | intro _ | (with_reducible refine keep_of ?_; first | with_reducible assumption | with_reducible apply keep_rtSts | with_reducible apply keep_dropLines | with_reducible apply keep_setRgn | with_reducible apply keep_foldl | with_reducible apply keep_foldl1 | with_reducible refine keep_foldl1_eq (by assumption) ?_ ?_) | (with_reducible refine keep_mem ?_; first | with_reducible assumption | with_reducible apply keep_rtSts | with_reducible apply keep_dropLines | with_reducible apply keep_setRgn | with_reducible apply keep_foldl | with_reducible apply keep_foldl1 | with_reducible refine keep_foldl1_eq (by assumption) ?_ ?_) | split | dsimp only
theorem keep_execRetagC {s0 : State} {mid stk rgn : Nat} {s : State} (hs : Keep s0 s) : KeepR s0 (execRetagC mid stk rgn s) := by
  unfold execRetagC
  repeat' first | with_reducible assumption | with_reducible apply keep_gatedWrite | with_reducible apply keep_opRetag | with_reducible apply keep_ite | with_reducible apply keepR_ite | exact keepR_refused | with_reducible apply keepR_next | intro _ | (with_reducible refine keep_of ?_; first | with_reducible assumption | with_reducible apply keep_gatedWrite | with_reducible apply keep_opRetag) | split | dsimp only
theorem keep_execRetagE {s0 : State} {mid stk rgn mode : Nat} {s : State} (hs : Keep s0 s) : KeepR s0 (execRetagE mid stk rgn mode s) := by
  unfold execRetagE
  repeat' first | with_reducible assumption | with_reducible apply keep_gatedWrite | with_reducible apply keep_opRetag | with_reducible apply keep_ite | with_reducible apply keepR_ite | exact keepR_refused | with_reducible apply keepR_next | intro _ | (with_reducible refine keep_of ?_; first | with_reducible assumption | with_reducible apply keep_gatedWrite | with_reducible apply keep_opRetag) | split | dsimp only
theorem keep_execRetagOffline {s0 : State} {mid stk rgn : Nat} {s : State} (hs : Keep s0 s) : KeepR s0 (execRetagOffline mid stk rgn s) := by
  unfold execRetagOffline
  repeat' first | with_reducible assumption | with_reducible apply keep_gatedWrite | with_reducible apply keep_opRetag | with_reducible apply keep_ite | with_reducible apply keepR_ite | exact keepR_refused | with_reducible apply keepR_next | intro _ | (with_reducible refine keep_of ?_; first | with_reducible assumption | with_reducible apply keep_gatedWrite | with_reducible apply keep_opRetag) | split | dsimp only
theorem keep_zeroRgn {s0 : State} {s : State} {isC : Bool} {r : Nat} (hs : Keep s0 s) : Keep s0 (zeroRgn s isC r) := by
  unfold zeroRgn
  repeat' first | with_reducible assumption | intro _ | (with_reducible refine keep_of ?_; first | with_reducible assumption) | (with_reducible refine keep_mem ?_; first | with_reducible assumption) | ((with_reducible refine keep_bytes ?_ (fun w => ?_) (fun w => ?_) (fun w => ?_)) <;> first | with_reducible assumption | ((try dsimp only) <;> (repeat' first | exact spWf_nil | with_reducible exact w.dram | with_reducible exact w.lpd | with_reducible exact w.scratch | with_reducible exact w.flash | assumption | apply wrBytes_wf | apply zeroBytes_wf | apply copyBytes_wf | apply fProg_wf | apply fErase_wf | apply spPut_wf | apply foldl_wf | intro _ | split | rfl) <;> done)) | split | dsimp only
theorem keep_execRetagDone {s0 : State} {stk : Nat} {s : State} (hs : Keep s0 s) : KeepR s0 (execRetagDone stk s) := by
  unfold execRetagDone
  repeat' first | with_reducible assumption | with_reducible apply keep_zeroRgn | with_reducible apply keep_setClass | with_reducible apply keep_foldl | with_reducible apply keep_foldl1 | with_reducible refine keep_foldl1_eq (by assumption) ?_ ?_ | with_reducible apply keep_ite | with_reducible apply keepR_ite | exact keepR_refused | with_reducible apply keepR_next | intro _ | (with_reducible refine keep_of ?_; first | with_reducible assumption | with_reducible apply keep_zeroRgn | with_reducible apply keep_setClass | with_reducible apply keep_foldl | with_reducible apply keep_foldl1 | with_reducible refine keep_foldl1_eq (by assumption) ?_ ?_) | (with_reducible refine keep_mem ?_; first | with_reducible assumption | with_reducible apply keep_zeroRgn | with_reducible apply keep_setClass | with_reducible apply keep_foldl | with_reducible apply keep_foldl1 | with_reducible refine keep_foldl1_eq (by assumption) ?_ ?_) | split | dsimp only
theorem keep_reloadFail {s0 : State} {s : State} {stk rgn r : Nat} (hs : Keep s0 s) : Keep s0 (reloadFail s stk rgn r) := by
  unfold reloadFail
  repeat' first | with_reducible assumption | with_reducible apply keep_report | with_reducible apply keep_rtSts | with_reducible apply keep_setClass | intro _ | (with_reducible refine keep_of ?_; first | with_reducible assumption | with_reducible apply keep_report | with_reducible apply keep_rtSts | with_reducible apply keep_setClass) | split | dsimp only
theorem keep_opReload {s0 : State} {s : State} {stk rgn n : Nat} {err : MemErr} (hs : Keep s0 s) : Keep s0 (opReload s stk rgn n err) := by
  unfold opReload
  repeat' first | with_reducible assumption | with_reducible apply keep_memRead | with_reducible apply keep_setClass | with_reducible apply keep_bump | with_reducible apply keep_dramPut | with_reducible apply keep_reloadFail | with_reducible refine keep_memRead_eq (by assumption) ?_ | with_reducible apply keep_ite | intro _ | (with_reducible refine keep_of ?_; first | with_reducible assumption | with_reducible apply keep_memRead | with_reducible apply keep_setClass | with_reducible apply keep_bump | with_reducible apply keep_dramPut | with_reducible apply keep_reloadFail | with_reducible refine keep_memRead_eq (by assumption) ?_) | split | dsimp only
theorem keep_execGoldenReloadDone {s0 : State} {stk rgn : Nat} {err : MemErr} {s : State} (hs : Keep s0 s) : KeepR s0 (execGoldenReloadDone stk rgn err s) := by
  unfold execGoldenReloadDone
  repeat' first | with_reducible assumption | with_reducible apply keep_opReload | with_reducible apply keep_ite | with_reducible apply keepR_ite | exact keepR_refused | with_reducible apply keepR_next | intro _ | (with_reducible refine keep_of ?_; first | with_reducible assumption | with_reducible apply keep_opReload) | (with_reducible refine keep_mem ?_; first | with_reducible assumption | with_reducible apply keep_opReload) | split | dsimp only
theorem keep_opRemap {s0 : State} {s : State} {stk n : Nat} {v : W32} (hs : Keep s0 s) : Keep s0 (opRemap s stk n v) := by
  unfold opRemap
  repeat' first | with_reducible assumption | with_reducible apply keep_wrReg | with_reducible apply keep_ite | intro _ | (with_reducible refine keep_of ?_; first | with_reducible assumption | with_reducible apply keep_wrReg) | split | dsimp only
theorem keep_execRemap {s0 : State} {mid stk n : Nat} {v : W32} {s : State} (hs : Keep s0 s) : KeepR s0 (execRemap mid stk n v s) := by
  unfold execRemap
  repeat' first | with_reducible assumption | with_reducible apply keep_gatedWrite | with_reducible apply keep_opRemap | with_reducible apply keep_ite | with_reducible apply keepR_ite | exact keepR_refused | with_reducible apply keepR_next | intro _ | (with_reducible refine keep_of ?_; first | with_reducible assumption | with_reducible apply keep_gatedWrite | with_reducible apply keep_opRemap) | split | dsimp only
theorem keep_opRgnEnt {s0 : State} {s : State} {mid stk : Nat} {v : W32} (hs : Keep s0 s) : Keep s0 (opRgnEnt s mid stk v) := by
  unfold opRgnEnt
  repeat' first | with_reducible assumption | with_reducible apply keep_dropLines | with_reducible apply keep_setRgn | with_reducible apply keep_ite | intro _ | (with_reducible refine keep_of ?_; first | with_reducible assumption | with_reducible apply keep_dropLines | with_reducible apply keep_setRgn) | split | dsimp only
theorem keep_execRgnEnt {s0 : State} {mid stk : Nat} {v : W32} {s : State} (hs : Keep s0 s) : KeepR s0 (execRgnEnt mid stk v s) := by
  unfold execRgnEnt
  repeat' first | with_reducible assumption | with_reducible apply keep_gatedWrite | with_reducible apply keep_opRgnEnt | with_reducible apply keep_ite | with_reducible apply keepR_ite | exact keepR_refused | with_reducible apply keepR_next | intro _ | (with_reducible refine keep_of ?_; first | with_reducible assumption | with_reducible apply keep_gatedWrite | with_reducible apply keep_opRgnEnt) | split | dsimp only
theorem keep_opWayCfg {s0 : State} {s : State} {mid k : Nat} {v : W32} (hs : Keep s0 s) : Keep s0 (opWayCfg s mid k v) := by
  unfold opWayCfg
  repeat' first | with_reducible assumption | with_reducible apply keep_bump | with_reducible apply keep_setWay | with_reducible apply keep_ite | intro _ | (with_reducible refine keep_of ?_; first | with_reducible assumption | with_reducible apply keep_bump | with_reducible apply keep_setWay) | split | dsimp only
theorem keep_execWayCfg {s0 : State} {mid k : Nat} {v : W32} {s : State} (hs : Keep s0 s) : KeepR s0 (execWayCfg mid k v s) := by
  unfold execWayCfg
  repeat' first | with_reducible assumption | with_reducible apply keep_gatedWrite | with_reducible apply keep_opWayCfg | with_reducible apply keep_ite | with_reducible apply keepR_ite | exact keepR_refused | with_reducible apply keepR_next | intro _ | (with_reducible refine keep_of ?_; first | with_reducible assumption | with_reducible apply keep_gatedWrite | with_reducible apply keep_opWayCfg) | split | dsimp only
theorem keep_zeroWay {s0 : State} {s : State} {k w : Nat} (hs : Keep s0 s) : Keep s0 (zeroWay s k w) := by
  unfold zeroWay
  repeat' first | with_reducible assumption | intro _ | (with_reducible refine keep_of ?_; first | with_reducible assumption) | (with_reducible refine keep_mem ?_; first | with_reducible assumption) | ((with_reducible refine keep_bytes ?_ (fun w => ?_) (fun w => ?_) (fun w => ?_)) <;> first | with_reducible assumption | ((try dsimp only) <;> (repeat' first | exact spWf_nil | with_reducible exact w.dram | with_reducible exact w.lpd | with_reducible exact w.scratch | with_reducible exact w.flash | assumption | apply wrBytes_wf | apply zeroBytes_wf | apply copyBytes_wf | apply fProg_wf | apply fErase_wf | apply spPut_wf | apply foldl_wf | intro _ | split | rfl) <;> done)) | split | dsimp only
theorem keep_clearWay {s0 : State} {s : State} {k w : Nat} (hs : Keep s0 s) : Keep s0 (clearWay s k w) := by
  unfold clearWay
  repeat' first | with_reducible assumption | with_reducible apply keep_flushLines | with_reducible apply keep_zeroWay | intro _ | (with_reducible refine keep_of ?_; first | with_reducible assumption | with_reducible apply keep_flushLines | with_reducible apply keep_zeroWay) | split | dsimp only
theorem keep_runWait {s0 : State} {s : State} {x0 : MemWait} (hs : Keep s0 s) : Keep s0 (runWait s x0) := by
  unfold runWait
  repeat' first | with_reducible assumption | with_reducible apply keep_doRead | with_reducible apply keep_doWrite | with_reducible apply keep_doAtomic | intro _ | (with_reducible refine keep_of ?_; first | with_reducible assumption | with_reducible apply keep_doRead | with_reducible apply keep_doWrite | with_reducible apply keep_doAtomic) | split | dsimp only
theorem keep_runWaits {s0 : State} {s : State} (hs : Keep s0 s) : Keep s0 (runWaits s) := by
  unfold runWaits
  repeat' first | with_reducible assumption | with_reducible apply keep_runWait | with_reducible apply keep_foldl | with_reducible apply keep_foldl1 | with_reducible refine keep_foldl1_eq (by assumption) ?_ ?_ | intro _ | (with_reducible refine keep_of ?_; first | with_reducible assumption | with_reducible apply keep_runWait | with_reducible apply keep_foldl | with_reducible apply keep_foldl1 | with_reducible refine keep_foldl1_eq (by assumption) ?_ ?_) | (with_reducible refine keep_mem ?_; first | with_reducible assumption | with_reducible apply keep_runWait | with_reducible apply keep_foldl | with_reducible apply keep_foldl1 | with_reducible refine keep_foldl1_eq (by assumption) ?_ ?_) | split | dsimp only
theorem keep_execWayCfgDone {s0 : State} {k way : Nat} {s : State} (hs : Keep s0 s) : KeepR s0 (execWayCfgDone k way s) := by
  unfold execWayCfgDone
  repeat' first | with_reducible assumption | with_reducible apply keep_clearWay | with_reducible apply keep_runWaits | with_reducible apply keep_setWay | with_reducible apply keep_ite | with_reducible apply keepR_ite | exact keepR_refused | with_reducible apply keepR_next | intro _ | (with_reducible refine keep_of ?_; first | with_reducible assumption | with_reducible apply keep_clearWay | with_reducible apply keep_runWaits | with_reducible apply keep_setWay) | split | dsimp only
theorem keep_opInvCmd {s0 : State} {s : State} {k : Nat} {v : W32} (hs : Keep s0 s) : Keep s0 (opInvCmd s k v) := by
  unfold opInvCmd
  repeat' first | with_reducible assumption | with_reducible apply keep_ite | intro _ | (with_reducible refine keep_of ?_; first | with_reducible assumption) | (with_reducible refine keep_mem ?_; first | with_reducible assumption) | split | dsimp only
theorem keep_execInvCmd {s0 : State} {mid k : Nat} {v : W32} {s : State} (hs : Keep s0 s) : KeepR s0 (execInvCmd mid k v s) := by
  unfold execInvCmd
  repeat' first | with_reducible assumption | with_reducible apply keep_gatedWrite | with_reducible apply keep_opInvCmd | with_reducible apply keep_ite | with_reducible apply keepR_ite | exact keepR_refused | with_reducible apply keepR_next | intro _ | (with_reducible refine keep_of ?_; first | with_reducible assumption | with_reducible apply keep_gatedWrite | with_reducible apply keep_opInvCmd) | split | dsimp only
theorem keep_execInvCmdDone {s0 : State} {s : State} (hs : Keep s0 s) : KeepR s0 (execInvCmdDone s) := by
  unfold execInvCmdDone
  repeat' first | with_reducible assumption | with_reducible apply keep_flushLines | exact keepR_refused | with_reducible apply keepR_next | intro _ | (with_reducible refine keep_of ?_; first | with_reducible assumption | with_reducible apply keep_flushLines) | (with_reducible refine keep_mem ?_; first | with_reducible assumption | with_reducible apply keep_flushLines) | split | dsimp only
theorem keep_pwrOn {s0 : State} {s : State} {d : Nat} {on : Bool} (hs : Keep s0 s) : Keep s0 (pwrOn s d on) := by
  unfold pwrOn
  repeat' first | with_reducible assumption | with_reducible apply keep_wrBit | intro _ | (with_reducible refine keep_of ?_; first | with_reducible assumption | with_reducible apply keep_wrBit) | split | dsimp only
theorem keep_stackTrip {s0 : State} {s : State} {stk : Nat} {temps : List Nat} (hs : Keep s0 s) : Keep s0 (stackTrip s stk temps) := by
  unfold stackTrip
  repeat' first | with_reducible assumption | with_reducible apply keep_tripLog | with_reducible apply keep_setBlk | with_reducible apply keep_stackLost | with_reducible apply keep_pwrOn | with_reducible apply keep_capacity | with_reducible apply keep_rasPut | intro _ | (with_reducible refine keep_of ?_; first | with_reducible assumption | with_reducible apply keep_tripLog | with_reducible apply keep_setBlk | with_reducible apply keep_stackLost | with_reducible apply keep_pwrOn | with_reducible apply keep_capacity | with_reducible apply keep_rasPut) | split | dsimp only
theorem keep_execStackTempRead {s0 : State} {stk : Nat} {temps : List Nat} {s : State} (hs : Keep s0 s) : KeepR s0 (execStackTempRead stk temps s) := by
  unfold execStackTempRead
  repeat' first | with_reducible assumption | with_reducible apply keep_wrReg | with_reducible apply keep_raiseLevel | with_reducible apply keep_tripCheck | with_reducible apply keep_stackTrip | with_reducible apply keep_trainSelectStk | with_reducible apply keep_ite | with_reducible apply keepR_ite | exact keepR_refused | with_reducible apply keepR_next | intro _ | (with_reducible refine keep_of ?_; first | with_reducible assumption | with_reducible apply keep_wrReg | with_reducible apply keep_raiseLevel | with_reducible apply keep_tripCheck | with_reducible apply keep_stackTrip | with_reducible apply keep_trainSelectStk) | (with_reducible refine keep_mem ?_; first | with_reducible assumption | with_reducible apply keep_wrReg | with_reducible apply keep_raiseLevel | with_reducible apply keep_tripCheck | with_reducible apply keep_stackTrip | with_reducible apply keep_trainSelectStk) | split | dsimp only
theorem keep_execLpddrTemperatureReport {s0 : State} {ch mult : Nat} {s : State} (hs : Keep s0 s) : KeepR s0 (execLpddrTemperatureReport ch mult s) := by
  unfold execLpddrTemperatureReport
  repeat' first | with_reducible assumption | with_reducible apply keep_wrFld | with_reducible apply keep_ite | with_reducible apply keepR_ite | exact keepR_refused | with_reducible apply keepR_next | intro _ | (with_reducible refine keep_of ?_; first | with_reducible assumption | with_reducible apply keep_wrFld) | split | dsimp only
theorem keep_setMb {s0 : State} {s : State} {ch : Nat} {x : Mbox} (hs : Keep s0 s) : Keep s0 (setMb s ch x) := by
  unfold setMb
  repeat' first | with_reducible assumption | intro _ | (with_reducible refine keep_of ?_; first | with_reducible assumption) | split | dsimp only
theorem keep_mbDeny {s0 : State} {s : State} {ch : Nat} (hs : Keep s0 s) : Keep s0 (mbDeny s ch) := by
  unfold mbDeny
  repeat' first | with_reducible assumption | with_reducible apply keep_bump | intro _ | (with_reducible refine keep_of ?_; first | with_reducible assumption | with_reducible apply keep_bump) | split | dsimp only
theorem keep_mbSignal {s0 : State} {s : State} {ch m b : Nat} (hs : Keep s0 s) : Keep s0 (mbSignal s ch m b) := by
  unfold mbSignal
  repeat' first | with_reducible assumption | with_reducible apply keep_orReg | with_reducible apply keep_msix | with_reducible apply keep_fnEvent | with_reducible apply keep_ite | intro _ | (with_reducible refine keep_of ?_; first | with_reducible assumption | with_reducible apply keep_orReg | with_reducible apply keep_msix | with_reducible apply keep_fnEvent) | split | dsimp only
theorem keep_opMbLock {s0 : State} {s : State} {mid ch : Nat} (hs : Keep s0 s) : Keep s0 (opMbLock s mid ch).1 := by
  unfold opMbLock
  repeat' first | with_reducible assumption | with_reducible apply keep_mbDeny | with_reducible apply keep_setMb | with_reducible apply keep_ite | intro _ | (with_reducible refine keep_of ?_; first | with_reducible assumption | with_reducible apply keep_mbDeny | with_reducible apply keep_setMb) | split | dsimp only
theorem keep_opMbLock_eq {s0 : State} {s : State} {mid ch : Nat} {tz : State} {rz : W32} (ez : opMbLock s mid ch = (tz, rz)) (hs : Keep s0 s) : Keep s0 tz := by
  rw [show tz = (opMbLock s mid ch).1 from by rw [ez]]
  exact keep_opMbLock hs
theorem keep_execMbLock {s0 : State} {mid ch : Nat} {s : State} (hs : Keep s0 s) : KeepR s0 (execMbLock mid ch s) := by
  unfold execMbLock
  repeat' first | with_reducible assumption | with_reducible apply keep_hostAbort | with_reducible apply keep_opMbLock | with_reducible apply keep_emit | with_reducible refine keep_opMbLock_eq (by assumption) ?_ | with_reducible apply keep_ite | with_reducible apply keepR_ite | exact keepR_refused | with_reducible apply keepR_next | intro _ | (with_reducible refine keep_of ?_; first | with_reducible assumption | with_reducible apply keep_hostAbort | with_reducible apply keep_opMbLock | with_reducible apply keep_emit | with_reducible refine keep_opMbLock_eq (by assumption) ?_) | split | dsimp only
theorem keep_opAck {s0 : State} {s : State} {m ch : Nat} (hs : Keep s0 s) : Keep s0 (opAck s m ch) := by
  unfold opAck
  repeat' first | with_reducible assumption | with_reducible apply keep_mbDeny | with_reducible apply keep_mbSignal | with_reducible apply keep_setMb | with_reducible apply keep_ite | intro _ | (with_reducible refine keep_of ?_; first | with_reducible assumption | with_reducible apply keep_mbDeny | with_reducible apply keep_mbSignal | with_reducible apply keep_setMb) | split | dsimp only
theorem keep_opGo {s0 : State} {s : State} {m ch : Nat} (hs : Keep s0 s) : Keep s0 (opGo s m ch) := by
  unfold opGo
  repeat' first | with_reducible assumption | with_reducible apply keep_mbDeny | with_reducible apply keep_mbSignal | with_reducible apply keep_setMb | with_reducible apply keep_ite | intro _ | (with_reducible refine keep_of ?_; first | with_reducible assumption | with_reducible apply keep_mbDeny | with_reducible apply keep_mbSignal | with_reducible apply keep_setMb) | split | dsimp only
theorem keep_opRelease {s0 : State} {s : State} {m ch : Nat} (hs : Keep s0 s) : Keep s0 (opRelease s m ch) := by
  unfold opRelease
  repeat' first | with_reducible assumption | with_reducible apply keep_mbDeny | with_reducible apply keep_setMb | with_reducible apply keep_ite | intro _ | (with_reducible refine keep_of ?_; first | with_reducible assumption | with_reducible apply keep_mbDeny | with_reducible apply keep_setMb) | split | dsimp only
theorem keep_opMbCtl {s0 : State} {s : State} {mid ch : Nat} {v : W32} (hs : Keep s0 s) : Keep s0 (opMbCtl s mid ch v) := by
  unfold opMbCtl
  repeat' first | with_reducible assumption | with_reducible apply keep_hostRef | with_reducible apply keep_mbDeny | with_reducible apply keep_opAck | with_reducible apply keep_opGo | with_reducible apply keep_opRelease | with_reducible apply keep_ite | intro _ | (with_reducible refine keep_of ?_; first | with_reducible assumption | with_reducible apply keep_hostRef | with_reducible apply keep_mbDeny | with_reducible apply keep_opAck | with_reducible apply keep_opGo | with_reducible apply keep_opRelease) | split | dsimp only
theorem keep_execGo {s0 : State} {mid ch : Nat} {s : State} (hs : Keep s0 s) : KeepR s0 (execGo mid ch s) := by
  unfold execGo
  repeat' first | with_reducible assumption | with_reducible apply keep_opMbCtl | with_reducible apply keep_ite | with_reducible apply keepR_ite | exact keepR_refused | with_reducible apply keepR_next | intro _ | (with_reducible refine keep_of ?_; first | with_reducible assumption | with_reducible apply keep_opMbCtl) | split | dsimp only
theorem keep_execAck {s0 : State} {mid ch : Nat} {s : State} (hs : Keep s0 s) : KeepR s0 (execAck mid ch s) := by
  unfold execAck
  repeat' first | with_reducible assumption | with_reducible apply keep_opMbCtl | with_reducible apply keep_ite | with_reducible apply keepR_ite | exact keepR_refused | with_reducible apply keepR_next | intro _ | (with_reducible refine keep_of ?_; first | with_reducible assumption | with_reducible apply keep_opMbCtl) | split | dsimp only
theorem keep_execMbRelease {s0 : State} {mid ch : Nat} {s : State} (hs : Keep s0 s) : KeepR s0 (execMbRelease mid ch s) := by
  unfold execMbRelease
  repeat' first | with_reducible assumption | with_reducible apply keep_opMbCtl | with_reducible apply keep_ite | with_reducible apply keepR_ite | exact keepR_refused | with_reducible apply keepR_next | intro _ | (with_reducible refine keep_of ?_; first | with_reducible assumption | with_reducible apply keep_opMbCtl) | split | dsimp only
theorem keep_opMbData {s0 : State} {s : State} {mid ch n : Nat} {v : W32} (hs : Keep s0 s) : Keep s0 (opMbData s mid ch n v) := by
  unfold opMbData
  repeat' first | with_reducible assumption | with_reducible apply keep_hostRef | with_reducible apply keep_mbDeny | with_reducible apply keep_setMb | with_reducible apply keep_ite | intro _ | (with_reducible refine keep_of ?_; first | with_reducible assumption | with_reducible apply keep_hostRef | with_reducible apply keep_mbDeny | with_reducible apply keep_setMb) | split | dsimp only
theorem keep_mbDiscard {s0 : State} {s : State} {ch : Nat} (hs : Keep s0 s) : Keep s0 (mbDiscard s ch) := by
  unfold mbDiscard
  repeat' first | with_reducible assumption | with_reducible apply keep_mbSignal | with_reducible apply keep_setMb | with_reducible apply keep_ite | intro _ | (with_reducible refine keep_of ?_; first | with_reducible assumption | with_reducible apply keep_mbSignal | with_reducible apply keep_setMb) | split | dsimp only
theorem keep_mbReset1 {s0 : State} {s : State} {m ch : Nat} (hs : Keep s0 s) : Keep s0 (mbReset1 s m ch) := by
  unfold mbReset1
  repeat' first | with_reducible assumption | with_reducible apply keep_setMb | with_reducible apply keep_mbDiscard | with_reducible apply keep_ite | intro _ | (with_reducible refine keep_of ?_; first | with_reducible assumption | with_reducible apply keep_setMb | with_reducible apply keep_mbDiscard) | split | dsimp only
theorem keep_mbFnReset {s0 : State} {s : State} {f : Nat} (hs : Keep s0 s) : Keep s0 (mbFnReset s f) := by
  unfold mbFnReset
  repeat' first | with_reducible assumption | with_reducible apply keep_mbReset1 | with_reducible apply keep_foldl | with_reducible apply keep_foldl1 | with_reducible refine keep_foldl1_eq (by assumption) ?_ ?_ | intro _ | (with_reducible refine keep_of ?_; first | with_reducible assumption | with_reducible apply keep_mbReset1 | with_reducible apply keep_foldl | with_reducible apply keep_foldl1 | with_reducible refine keep_foldl1_eq (by assumption) ?_ ?_) | split | dsimp only
theorem keep_mbSoftReset {s0 : State} {s : State} {ch : Nat} (hs : Keep s0 s) : Keep s0 (mbSoftReset s ch) := by
  unfold mbSoftReset
  repeat' first | with_reducible assumption | with_reducible apply keep_wrReg | with_reducible apply keep_mbDiscard | with_reducible apply keep_setMb | with_reducible apply keep_foldl | with_reducible apply keep_foldl1 | with_reducible refine keep_foldl1_eq (by assumption) ?_ ?_ | intro _ | (with_reducible refine keep_of ?_; first | with_reducible assumption | with_reducible apply keep_wrReg | with_reducible apply keep_mbDiscard | with_reducible apply keep_setMb | with_reducible apply keep_foldl | with_reducible apply keep_foldl1 | with_reducible refine keep_foldl1_eq (by assumption) ?_ ?_) | split | dsimp only
theorem keep_mbReply {s0 : State} {s : State} {ch self status : Nat} {ws : List Nat} (hs : Keep s0 s) : Keep s0 (mbReply s ch self status ws) := by
  unfold mbReply
  repeat' first | with_reducible assumption | with_reducible apply keep_opAck | with_reducible apply keep_opGo | with_reducible apply keep_setMb | with_reducible apply keep_foldl | with_reducible apply keep_foldl1 | with_reducible refine keep_foldl1_eq (by assumption) ?_ ?_ | intro _ | (with_reducible refine keep_of ?_; first | with_reducible assumption | with_reducible apply keep_opAck | with_reducible apply keep_opGo | with_reducible apply keep_setMb | with_reducible apply keep_foldl | with_reducible apply keep_foldl1 | with_reducible refine keep_foldl1_eq (by assumption) ?_ ?_) | split | dsimp only
theorem keep_setE {s0 : State} {s : State} {n : Nat} {x : Engine} (hs : Keep s0 s) : Keep s0 (setE s n x) := by
  unfold setE
  repeat' first | with_reducible assumption | intro _ | (with_reducible refine keep_of ?_; first | with_reducible assumption) | split | dsimp only
theorem keep_fabChanged {s0 : State} {before s : State} (hbefore : Keep s0 before) (hs : Keep s0 s) : Keep s0 (fabChanged before s) := by
  unfold fabChanged
  repeat' first | with_reducible assumption | with_reducible apply keep_capacity | with_reducible apply keep_report | with_reducible apply keep_ite | intro _ | (with_reducible refine keep_of ?_; first | with_reducible assumption | with_reducible apply keep_capacity | with_reducible apply keep_report) | split | dsimp only
theorem keep_engLeave {s0 : State} {s : State} {n : Nat} {st : EngSt} (hs : Keep s0 s) : Keep s0 (engLeave s n st) := by
  unfold engLeave
  repeat' first | with_reducible assumption | with_reducible apply keep_setE | with_reducible apply keep_fabChanged | with_reducible apply keep_ite | intro _ | (with_reducible refine keep_of ?_; first | with_reducible assumption | with_reducible apply keep_setE | with_reducible apply keep_fabChanged) | split | dsimp only
theorem keep_engStart {s0 : State} {s : State} {n : Nat} (hs : Keep s0 s) : Keep s0 (engStart s n) := by
  unfold engStart
  repeat' first | with_reducible assumption | with_reducible apply keep_setE | intro _ | (with_reducible refine keep_of ?_; first | with_reducible assumption | with_reducible apply keep_setE) | split | dsimp only
theorem keep_engStop {s0 : State} {s : State} {n : Nat} (hs : Keep s0 s) : Keep s0 (engStop s n) := by
  unfold engStop
  repeat' first | with_reducible assumption | with_reducible apply keep_engLeave | with_reducible apply keep_setE | intro _ | (with_reducible refine keep_of ?_; first | with_reducible assumption | with_reducible apply keep_engLeave | with_reducible apply keep_setE) | split | dsimp only
theorem keep_execDataFibreDisconnect {s0 : State} {n : Nat} {s : State} (hs : Keep s0 s) : KeepR s0 (execDataFibreDisconnect n s) := by
  unfold execDataFibreDisconnect
  repeat' first | with_reducible assumption | with_reducible apply keep_engLeave | with_reducible apply keep_ite | with_reducible apply keepR_ite | exact keepR_refused | with_reducible apply keepR_next | intro _ | (with_reducible refine keep_of ?_; first | with_reducible assumption | with_reducible apply keep_engLeave) | split | dsimp only
theorem keep_execLaserInputLost {s0 : State} {conn : Nat} {s : State} (hs : Keep s0 s) : KeepR s0 (execLaserInputLost conn s) := by
  unfold execLaserInputLost
  repeat' first | with_reducible assumption | with_reducible apply keep_setE | with_reducible apply keep_engLeave | with_reducible apply keep_foldl | with_reducible apply keep_foldl1 | with_reducible refine keep_foldl1_eq (by assumption) ?_ ?_ | with_reducible apply keep_ite | with_reducible apply keepR_ite | exact keepR_refused | with_reducible apply keepR_next | intro _ | (with_reducible refine keep_of ?_; first | with_reducible assumption | with_reducible apply keep_setE | with_reducible apply keep_engLeave | with_reducible apply keep_foldl | with_reducible apply keep_foldl1 | with_reducible refine keep_foldl1_eq (by assumption) ?_ ?_) | split | dsimp only
theorem keep_execLaserInputRestored {s0 : State} {n : Nat} {s : State} (hs : Keep s0 s) : KeepR s0 (execLaserInputRestored n s) := by
  unfold execLaserInputRestored
  repeat' first | with_reducible assumption | with_reducible apply keep_setE | with_reducible apply keep_engLeave | with_reducible apply keep_ite | with_reducible apply keepR_ite | exact keepR_refused | with_reducible apply keepR_next | intro _ | (with_reducible refine keep_of ?_; first | with_reducible assumption | with_reducible apply keep_setE | with_reducible apply keep_engLeave) | split | dsimp only
theorem keep_execFarEndLightLost {s0 : State} {n : Nat} {s : State} (hs : Keep s0 s) : KeepR s0 (execFarEndLightLost n s) := by
  unfold execFarEndLightLost
  repeat' first | with_reducible assumption | with_reducible apply keep_engLeave | with_reducible apply keep_ite | with_reducible apply keepR_ite | exact keepR_refused | with_reducible apply keepR_next | intro _ | (with_reducible refine keep_of ?_; first | with_reducible assumption | with_reducible apply keep_engLeave) | split | dsimp only
theorem keep_execTrainingUp {s0 : State} {n ver topo ring pos : Nat} {s : State} (hs : Keep s0 s) : KeepR s0 (execTrainingUp n ver topo ring pos s) := by
  unfold execTrainingUp
  repeat' first | with_reducible assumption | with_reducible apply keep_fabChanged | with_reducible apply keep_setE | with_reducible apply keep_ite | with_reducible apply keepR_ite | exact keepR_refused | with_reducible apply keepR_next | intro _ | (with_reducible refine keep_of ?_; first | with_reducible assumption | with_reducible apply keep_fabChanged | with_reducible apply keep_setE) | split | dsimp only
theorem keep_execTrainingTimeout {s0 : State} {n : Nat} {s : State} (hs : Keep s0 s) : KeepR s0 (execTrainingTimeout n s) := by
  unfold execTrainingTimeout
  repeat' first | with_reducible assumption | with_reducible apply keep_setE | with_reducible apply keep_ite | with_reducible apply keepR_ite | exact keepR_refused | with_reducible apply keepR_next | intro _ | (with_reducible refine keep_of ?_; first | with_reducible assumption | with_reducible apply keep_setE) | split | dsimp only
theorem keep_laneMove {s0 : State} {s : State} {n : Nat} {tx : Bool} {lane : Nat} (hs : Keep s0 s) : Keep s0 (laneMove s n tx lane) := by
  unfold laneMove
  repeat' first | with_reducible assumption | with_reducible apply keep_rasPut | with_reducible apply keep_wrReg | with_reducible apply keep_ite | intro _ | (with_reducible refine keep_of ?_; first | with_reducible assumption | with_reducible apply keep_rasPut | with_reducible apply keep_wrReg) | split | dsimp only
theorem keep_engRetire {s0 : State} {s : State} {n : Nat} (hs : Keep s0 s) : Keep s0 (engRetire s n) := by
  unfold engRetire
  repeat' first | with_reducible assumption | with_reducible apply keep_engLeave | with_reducible apply keep_rasPut | with_reducible apply keep_capacity | with_reducible apply keep_setBlk | intro _ | (with_reducible refine keep_of ?_; first | with_reducible assumption | with_reducible apply keep_engLeave | with_reducible apply keep_rasPut | with_reducible apply keep_capacity | with_reducible apply keep_setBlk) | split | dsimp only
theorem keep_execLaneSwap {s0 : State} {n : Nat} {tx : Bool} {lane : Nat} {s : State} (hs : Keep s0 s) : KeepR s0 (execLaneSwap n tx lane s) := by
  unfold execLaneSwap
  repeat' first | with_reducible assumption | with_reducible apply keep_laneMove | with_reducible apply keep_engRetire | with_reducible apply keep_ite | with_reducible apply keepR_ite | exact keepR_refused | with_reducible apply keepR_next | intro _ | (with_reducible refine keep_of ?_; first | with_reducible assumption | with_reducible apply keep_laneMove | with_reducible apply keep_engRetire) | split | dsimp only
theorem keep_retireLane {s0 : State} {s : State} {n : Nat} {tx : Bool} {lane : Nat} (hs : Keep s0 s) : Keep s0 (retireLane s n tx lane) := by
  unfold retireLane
  repeat' first | with_reducible assumption | with_reducible apply keep_emit | with_reducible apply keep_laneMove | with_reducible apply keep_engRetire | with_reducible apply keep_ite | intro _ | (with_reducible refine keep_of ?_; first | with_reducible assumption | with_reducible apply keep_emit | with_reducible apply keep_laneMove | with_reducible apply keep_engRetire) | split | dsimp only
theorem keep_execLaneRetire {s0 : State} {n : Nat} {tx : Bool} {lane : Nat} {s : State} (hs : Keep s0 s) : KeepR s0 (execLaneRetire n tx lane s) := by
  unfold execLaneRetire
  repeat' first | with_reducible assumption | with_reducible apply keep_retireLane | with_reducible apply keep_ite | with_reducible apply keepR_ite | exact keepR_refused | with_reducible apply keepR_next | intro _ | (with_reducible refine keep_of ?_; first | with_reducible assumption | with_reducible apply keep_retireLane) | split | dsimp only
theorem keep_symCount {s0 : State} {s : State} {n lane : Nat} (hs : Keep s0 s) : Keep s0 (symCount s n lane) := by
  unfold symCount
  repeat' first | with_reducible assumption | with_reducible apply keep_winAdd | with_reducible apply keep_bump | with_reducible apply keep_retireLane | with_reducible refine keep_winAdd_eq (by assumption) ?_ | with_reducible apply keep_ite | intro _ | (with_reducible refine keep_of ?_; first | with_reducible assumption | with_reducible apply keep_winAdd | with_reducible apply keep_bump | with_reducible apply keep_retireLane | with_reducible refine keep_winAdd_eq (by assumption) ?_) | split | dsimp only
theorem keep_sendFrame {s0 : State} {s : State} {n : Nat} {p : Packet} (hs : Keep s0 s) : Keep s0 (sendFrame s n p) := by
  unfold sendFrame
  repeat' first | with_reducible assumption | with_reducible apply keep_emit | with_reducible apply keep_setE | with_reducible apply keep_ite | intro _ | (with_reducible refine keep_of ?_; first | with_reducible assumption | with_reducible apply keep_emit | with_reducible apply keep_setE) | split | dsimp only
theorem keep_enqueue {s0 : State} {s : State} {p : Packet} (hs : Keep s0 s) : Keep s0 (enqueue s p) := by
  unfold enqueue
  repeat' first | with_reducible assumption | intro _ | (with_reducible refine keep_of ?_; first | with_reducible assumption) | split | dsimp only
theorem keep_noteReq {s0 : State} {s : State} {p : Packet} (hs : Keep s0 s) : Keep s0 (noteReq s p) := by
  unfold noteReq
  repeat' first | with_reducible assumption | with_reducible apply keep_ite | intro _ | (with_reducible refine keep_of ?_; first | with_reducible assumption) | split | dsimp only
theorem keep_noteSent {s0 : State} {s : State} {p : Packet} (hs : Keep s0 s) : Keep s0 (noteSent s p) := by
  unfold noteSent
  repeat' first | with_reducible assumption | with_reducible apply keep_ite | intro _ | (with_reducible refine keep_of ?_; first | with_reducible assumption) | split | dsimp only
theorem keep_opTransmit {s0 : State} {s : State} {n : Nat} {pkt : Packet} (hs : Keep s0 s) : Keep s0 (opTransmit s n pkt) := by
  unfold opTransmit
  repeat' first | with_reducible assumption | with_reducible apply keep_sendFrame | with_reducible apply keep_noteReq | with_reducible apply keep_noteSent | with_reducible apply keep_ite | intro _ | (with_reducible refine keep_of ?_; first | with_reducible assumption | with_reducible apply keep_sendFrame | with_reducible apply keep_noteReq | with_reducible apply keep_noteSent) | split | dsimp only
theorem keep_fabRefused {s0 : State} {s : State} (hs : Keep s0 s) : Keep s0 (fabRefused s) := by
  unfold fabRefused
  repeat' first | with_reducible assumption | with_reducible apply keep_bump | intro _ | (with_reducible refine keep_of ?_; first | with_reducible assumption | with_reducible apply keep_bump) | split | dsimp only
theorem keep_forwardPkt {s0 : State} {s : State} {n : Nat} {p : Packet} (hs : Keep s0 s) : Keep s0 (forwardPkt s n p) := by
  unfold forwardPkt
  repeat' first | with_reducible assumption | with_reducible apply keep_enqueue | with_reducible apply keep_ite | intro _ | (with_reducible refine keep_of ?_; first | with_reducible assumption | with_reducible apply keep_enqueue) | split | dsimp only
theorem keep_ctlNews {s0 : State} {s : State} (hs : Keep s0 s) : Keep s0 (ctlNews s) := by
  unfold ctlNews
  repeat' first | with_reducible assumption | with_reducible apply keep_fabChanged | with_reducible apply keep_useFree | intro _ | (with_reducible refine keep_of ?_; first | with_reducible assumption | with_reducible apply keep_fabChanged | with_reducible apply keep_useFree) | split | dsimp only
theorem keep_execFrameReceive {s0 : State} {n seq ack crv : Nat} {crdl : Bool} {crcnt : Nat} {rx : FrameRx} {pkt : Packet} {s : State} (hs : Keep s0 s) : KeepR s0 (execFrameReceive n seq ack crv crdl crcnt rx pkt s) := by
  unfold execFrameReceive
  repeat' first | with_reducible assumption | with_reducible apply keep_symCount | with_reducible apply keep_bumpBy | with_reducible apply keep_emit | with_reducible apply keep_bump | with_reducible apply keep_fabRefused | with_reducible apply keep_setE | with_reducible apply keep_ctlNews | with_reducible apply keep_forwardPkt | with_reducible apply keep_foldl | with_reducible apply keep_foldl1 | with_reducible refine keep_foldl1_eq (by assumption) ?_ ?_ | with_reducible apply keep_ite | with_reducible apply keepR_ite | exact keepR_refused | with_reducible apply keepR_next | intro _ | (with_reducible refine keep_of ?_; first | with_reducible assumption | with_reducible apply keep_symCount | with_reducible apply keep_bumpBy | with_reducible apply keep_emit | with_reducible apply keep_bump | with_reducible apply keep_fabRefused | with_reducible apply keep_setE | with_reducible apply keep_ctlNews | with_reducible apply keep_forwardPkt | with_reducible apply keep_foldl | with_reducible apply keep_foldl1 | with_reducible refine keep_foldl1_eq (by assumption) ?_ ?_) | split | dsimp only
theorem keep_execNak {s0 : State} {n seq : Nat} {syms : List Nat} {s : State} (hs : Keep s0 s) : KeepR s0 (execNak n seq syms s) := by
  unfold execNak
  repeat' first | with_reducible assumption | with_reducible apply keep_symCount | with_reducible apply keep_setE | with_reducible apply keep_engLeave | with_reducible apply keep_bump | with_reducible apply keep_emit | with_reducible apply keep_foldl | with_reducible apply keep_foldl1 | with_reducible refine keep_foldl1_eq (by assumption) ?_ ?_ | with_reducible apply keep_ite | with_reducible apply keepR_ite | exact keepR_refused | with_reducible apply keepR_next | intro _ | (with_reducible refine keep_of ?_; first | with_reducible assumption | with_reducible apply keep_symCount | with_reducible apply keep_setE | with_reducible apply keep_engLeave | with_reducible apply keep_bump | with_reducible apply keep_emit | with_reducible apply keep_foldl | with_reducible apply keep_foldl1 | with_reducible refine keep_foldl1_eq (by assumption) ?_ ?_) | split | dsimp only
theorem keep_takePkt {s0 : State} {s : State} {n : Nat} {p : Packet} (hs : Keep s0 s) : Keep s0 (takePkt s n p) := by
  unfold takePkt
  repeat' first | with_reducible assumption | with_reducible apply keep_setE | intro _ | (with_reducible refine keep_of ?_; first | with_reducible assumption | with_reducible apply keep_setE) | split | dsimp only
theorem keep_respond {s0 : State} {s : State} {p : Packet} {ty stat : Nat} {bs : List Byte} (hs : Keep s0 s) : Keep s0 (respond s p ty stat bs) := by
  unfold respond
  repeat' first | with_reducible assumption | with_reducible apply keep_enqueue | intro _ | (with_reducible refine keep_of ?_; first | with_reducible assumption | with_reducible apply keep_enqueue) | split | dsimp only
theorem keep_addBytes {s0 : State} {s : State} {src vc n : Nat} (hs : Keep s0 s) : Keep s0 (addBytes s src vc n) := by
  unfold addBytes
  repeat' first | with_reducible assumption | intro _ | (with_reducible refine keep_of ?_; first | with_reducible assumption) | split | dsimp only
theorem keep_execWr {s0 : State} {n : Nat} {s : State} (hs : Keep s0 s) : KeepR s0 (execWr n s) := by
  unfold execWr
  repeat' first | with_reducible assumption | with_reducible apply keep_addBytes | with_reducible apply keep_respond | with_reducible apply keep_fabRefused | with_reducible apply keep_takePkt | with_reducible apply keep_memWrite | with_reducible refine keep_memWrite_eq (by assumption) ?_ | with_reducible apply keep_ite | with_reducible apply keepR_ite | exact keepR_refused | with_reducible apply keepR_next | intro _ | (with_reducible refine keep_of ?_; first | with_reducible assumption | with_reducible apply keep_addBytes | with_reducible apply keep_respond | with_reducible apply keep_fabRefused | with_reducible apply keep_takePkt | with_reducible apply keep_memWrite | with_reducible refine keep_memWrite_eq (by assumption) ?_) | split | dsimp only
theorem keep_execRd {s0 : State} {n : Nat} {s : State} (hs : Keep s0 s) : KeepR s0 (execRd n s) := by
  unfold execRd
  repeat' first | with_reducible assumption | with_reducible apply keep_respond | with_reducible apply keep_fabRefused | with_reducible apply keep_takePkt | with_reducible apply keep_memRead | with_reducible apply keep_bump | with_reducible refine keep_memRead_eq (by assumption) ?_ | with_reducible apply keep_ite | with_reducible apply keepR_ite | exact keepR_refused | with_reducible apply keepR_next | intro _ | (with_reducible refine keep_of ?_; first | with_reducible assumption | with_reducible apply keep_respond | with_reducible apply keep_fabRefused | with_reducible apply keep_takePkt | with_reducible apply keep_memRead | with_reducible apply keep_bump | with_reducible refine keep_memRead_eq (by assumption) ?_) | split | dsimp only
theorem keep_opResponse {s0 : State} {s : State} {n : Nat} {p : Packet} (hs : Keep s0 s) : Keep s0 (opResponse s n p) := by
  unfold opResponse
  repeat' first | with_reducible assumption | with_reducible apply keep_takePkt | with_reducible apply keep_report | with_reducible apply keep_emit | with_reducible apply keep_ite | intro _ | (with_reducible refine keep_of ?_; first | with_reducible assumption | with_reducible apply keep_takePkt | with_reducible apply keep_report | with_reducible apply keep_emit) | split | dsimp only
theorem keep_execRdrsp {s0 : State} {n : Nat} {s : State} (hs : Keep s0 s) : KeepR s0 (execRdrsp n s) := by
  unfold execRdrsp
  repeat' first | with_reducible assumption | with_reducible apply keep_opResponse | with_reducible apply keep_takePkt | with_reducible apply keep_ite | with_reducible apply keepR_ite | exact keepR_refused | with_reducible apply keepR_next | intro _ | (with_reducible refine keep_of ?_; first | with_reducible assumption | with_reducible apply keep_opResponse | with_reducible apply keep_takePkt) | split | dsimp only
theorem keep_execWrrsp {s0 : State} {n : Nat} {s : State} (hs : Keep s0 s) : KeepR s0 (execWrrsp n s) := by
  unfold execWrrsp
  repeat' first | with_reducible assumption | with_reducible apply keep_opResponse | with_reducible apply keep_takePkt | with_reducible apply keep_ite | with_reducible apply keepR_ite | exact keepR_refused | with_reducible apply keepR_next | intro _ | (with_reducible refine keep_of ?_; first | with_reducible assumption | with_reducible apply keep_opResponse | with_reducible apply keep_takePkt) | split | dsimp only
theorem keep_execFabTimeout {s0 : State} {tag : Nat} {s : State} (hs : Keep s0 s) : KeepR s0 (execFabTimeout tag s) := by
  unfold execFabTimeout
  repeat' first | with_reducible assumption | with_reducible apply keep_emit | with_reducible apply keep_bump | with_reducible apply keep_ite | with_reducible apply keepR_ite | exact keepR_refused | with_reducible apply keepR_next | intro _ | (with_reducible refine keep_of ?_; first | with_reducible assumption | with_reducible apply keep_emit | with_reducible apply keep_bump) | split | dsimp only
theorem keep_execNotify {s0 : State} {n : Nat} {s : State} (hs : Keep s0 s) : KeepR s0 (execNotify n s) := by
  unfold execNotify
  repeat' first | with_reducible assumption | with_reducible apply keep_takePkt | exact keepR_refused | with_reducible apply keepR_next | intro _ | (with_reducible refine keep_of ?_; first | with_reducible assumption | with_reducible apply keep_takePkt) | split | dsimp only
theorem keep_execNotifyPost {s0 : State} {src vc : Nat} {s : State} (hs : Keep s0 s) : KeepR s0 (execNotifyPost src vc s) := by
  unfold execNotifyPost
  repeat' first | with_reducible assumption | with_reducible apply keep_fabRefused | with_reducible apply keep_setSem | with_reducible apply keep_ite | with_reducible apply keepR_ite | exact keepR_refused | with_reducible apply keepR_next | intro _ | (with_reducible refine keep_of ?_; first | with_reducible assumption | with_reducible apply keep_fabRefused | with_reducible apply keep_setSem) | split | dsimp only

end Sys2Proof.Machine
end

