-- ==== Sys2Proof/Laws/KeepAtt.lean ====
section
/-!
SUPPORT. Keep (the queue, the fuses, the byte memories, the free counter and the output) for every operation of Attention, Tenant, Accept.
-/
set_option linter.unusedVariables false

namespace Sys2Proof.Machine

theorem keep_walkFault {s0 : State} {s : State} {model g code e : Nat} (hs : Keep s0 s) : Keep s0 (walkFault s model g code e) := by
  unfold walkFault
  repeat' first | with_reducible assumption | with_reducible apply keep_walkErr | with_reducible apply keep_bump | with_reducible apply keep_report | with_reducible apply keep_ite | intro _ | (with_reducible refine keep_of ?_; first | with_reducible assumption | with_reducible apply keep_walkErr | with_reducible apply keep_bump | with_reducible apply keep_report) | split | dsimp only
theorem keep_scaleWords {s0 : State} {s : State} {fn : Nat} {c : List Byte} {layer kvh : Nat} {app : Bool} {e : Nat} (hs : Keep s0 s) : Keep s0 (scaleWords s fn c layer kvh app e).1 := by
  unfold scaleWords
  repeat' first | with_reducible assumption | with_reducible apply keep_memRead | with_reducible apply keep_reportPoison | with_reducible refine keep_memRead_eq (by assumption) ?_ | with_reducible apply keep_ite | intro _ | (with_reducible refine keep_of ?_; first | with_reducible assumption | with_reducible apply keep_memRead | with_reducible apply keep_reportPoison | with_reducible refine keep_memRead_eq (by assumption) ?_) | split | dsimp only
theorem keep_scaleWords_eq {s0 : State} {s : State} {fn : Nat} {c : List Byte} {layer kvh : Nat} {app : Bool} {e : Nat} {tz : State} {rz : Option (Nat × Nat)} (ez : scaleWords s fn c layer kvh app e = (tz, rz)) (hs : Keep s0 s) : Keep s0 tz := by
  rw [show tz = (scaleWords s fn c layer kvh app e).1 from by rw [ez]]
  exact keep_scaleWords hs
theorem keep_prefLate {s0 : State} {s : State} {c : List Byte} {model g layer e : Nat} (hs : Keep s0 s) : Keep s0 (prefLate s c model g layer e) := by
  unfold prefLate
  repeat' first | with_reducible assumption | with_reducible apply keep_bump | with_reducible apply keep_ite | intro _ | (with_reducible refine keep_of ?_; first | with_reducible assumption | with_reducible apply keep_bump) | split | dsimp only
theorem keep_cutPage {s0 : State} {s : State} {fn : Nat} {c : List Byte} {model g layer kvh : Nat} {app : Bool} {e slot pos n : Nat} (hs : Keep s0 s) : Keep s0 (cutPage s fn c model g layer kvh app e slot pos n).1 := by
  unfold cutPage
  repeat' first | with_reducible assumption | with_reducible apply keep_walkFault | with_reducible apply keep_scaleWords | with_reducible apply keep_walkErr | with_reducible apply keep_prefLate | with_reducible refine keep_scaleWords_eq (by assumption) ?_ | with_reducible apply keep_ite | intro _ | (with_reducible refine keep_of ?_; first | with_reducible assumption | with_reducible apply keep_walkFault | with_reducible apply keep_scaleWords | with_reducible apply keep_walkErr | with_reducible apply keep_prefLate | with_reducible refine keep_scaleWords_eq (by assumption) ?_) | split | dsimp only
theorem keep_cutPage_eq {s0 : State} {s : State} {fn : Nat} {c : List Byte} {model g layer kvh : Nat} {app : Bool} {e slot pos n : Nat} {tz : State} {rz : List KGroup} (ez : cutPage s fn c model g layer kvh app e slot pos n = (tz, rz)) (hs : Keep s0 s) : Keep s0 tz := by
  rw [show tz = (cutPage s fn c model g layer kvh app e slot pos n).1 from by rw [ez]]
  exact keep_cutPage hs
theorem keep_cutRange {s0 : State} {fn : Nat} {c : List Byte} {model g layer kvh : Nat} {x0 : Nat} {x1 : State} {x2 x3 : Nat}
    (hx1 : Keep s0 x1) : Keep s0 (cutRange fn c model g layer kvh x0 x1 x2 x3).1 := by
  induction x0 generalizing x1 x2 x3 with
  | zero => exact hx1
  | succ f ih =>
    unfold cutRange
    split
    · exact hx1
    · split
      · have h1 := keep_walkTlb_eq (by assumption) hx1
        dsimp only
        exact ih (keep_cutPage h1)
      · have h1 := keep_walkTlb_eq (by assumption) hx1
        dsimp only
        apply ih
        split
        · exact keep_walkFault h1
        · exact keep_reportPoison (keep_walkErr h1)
        · exact keep_walkFault h1
        · exact h1
theorem keep_cutRange_eq {s0 : State} {fn : Nat} {c : List Byte} {model g layer kvh : Nat} {x0 : Nat} {x1 : State} {x2 : Nat} {x3 : Nat} {tz : State} {rz : List KGroup} (ez : cutRange fn c model g layer kvh x0 x1 x2 x3 = (tz, rz)) (hx1 : Keep s0 x1) : Keep s0 tz := by
  rw [show tz = (cutRange fn c model g layer kvh x0 x1 x2 x3).1 from by rw [ez]]
  exact keep_cutRange hx1
theorem keep_cutRec {s0 : State} {s : State} {fn : Nat} {c : List Byte} {model g layer kvh : Nat} {b : List Byte} (hs : Keep s0 s) : Keep s0 (cutRec s fn c model g layer kvh b).1 := by
  unfold cutRec
  repeat' first | with_reducible assumption | with_reducible apply keep_cutRange | with_reducible apply keep_cutPage | with_reducible apply keep_walkFault | with_reducible refine keep_cutRange_eq (by assumption) ?_ | with_reducible refine keep_cutPage_eq (by assumption) ?_ | with_reducible apply keep_ite | intro _ | (with_reducible refine keep_of ?_; first | with_reducible assumption | with_reducible apply keep_cutRange | with_reducible apply keep_cutPage | with_reducible apply keep_walkFault | with_reducible refine keep_cutRange_eq (by assumption) ?_ | with_reducible refine keep_cutPage_eq (by assumption) ?_) | split | dsimp only
theorem keep_cutRec_eq {s0 : State} {s : State} {fn : Nat} {c : List Byte} {model g layer kvh : Nat} {b : List Byte} {tz : State} {rz : List KGroup} (ez : cutRec s fn c model g layer kvh b = (tz, rz)) (hs : Keep s0 s) : Keep s0 tz := by
  rw [show tz = (cutRec s fn c model g layer kvh b).1 from by rw [ez]]
  exact keep_cutRec hs
theorem keep_cutCpl {s0 : State} {s : State} {fn : Nat} {c : List Byte} {model : Nat} {b : List Byte} {kvh : Nat} (hs : Keep s0 s) : Keep s0 (cutCpl s fn c model b kvh).1 := by
  unfold cutCpl
  repeat' first | with_reducible assumption | with_reducible apply keep_cutRec | with_reducible refine keep_cutRec_eq (by assumption) ?_ | with_reducible apply keep_foldl | with_reducible apply keep_foldl1 | with_reducible refine keep_foldl1_eq (by assumption) ?_ ?_ | intro _ | (with_reducible refine keep_of ?_; first | with_reducible assumption | with_reducible apply keep_cutRec | with_reducible refine keep_cutRec_eq (by assumption) ?_ | with_reducible apply keep_foldl | with_reducible apply keep_foldl1 | with_reducible refine keep_foldl1_eq (by assumption) ?_ ?_) | split | dsimp only
theorem keep_cutCpl_eq {s0 : State} {s : State} {fn : Nat} {c : List Byte} {model : Nat} {b : List Byte} {kvh : Nat} {tz : State} {rz : List (List KGroup)} (ez : cutCpl s fn c model b kvh = (tz, rz)) (hs : Keep s0 s) : Keep s0 tz := by
  rw [show tz = (cutCpl s fn c model b kvh).1 from by rw [ez]]
  exact keep_cutCpl hs
theorem keep_readCpl {s0 : State} {s : State} {fn a : Nat} (hs : Keep s0 s) : Keep s0 (readCpl s fn a).1 := by
  unfold readCpl
  repeat' first | with_reducible assumption | with_reducible apply keep_memRead | with_reducible refine keep_memRead_eq (by assumption) ?_ | intro _ | (with_reducible refine keep_of ?_; first | with_reducible assumption | with_reducible apply keep_memRead | with_reducible refine keep_memRead_eq (by assumption) ?_) | split | dsimp only
theorem keep_readCpl_eq {s0 : State} {s : State} {fn a : Nat} {tz : State} {rz : Option (List Byte)} (ez : readCpl s fn a = (tz, rz)) (hs : Keep s0 s) : Keep s0 tz := by
  rw [show tz = (readCpl s fn a).1 from by rw [ez]]
  exact keep_readCpl hs
theorem keep_opStreamPage {s0 : State} {s : State} {c q : Nat} {k : Cluster} {w : Nat} (hs : Keep s0 s) : Keep s0 (opStreamPage s c q k w) := by
  unfold opStreamPage
  repeat' first | with_reducible assumption | with_reducible apply keep_seqFault | with_reducible apply keep_readCpl | with_reducible apply keep_memStop | with_reducible apply keep_cutCpl | with_reducible apply keep_setC | with_reducible refine keep_readCpl_eq (by assumption) ?_ | with_reducible refine keep_cutCpl_eq (by assumption) ?_ | with_reducible apply keep_ite | intro _ | (with_reducible refine keep_of ?_; first | with_reducible assumption | with_reducible apply keep_seqFault | with_reducible apply keep_readCpl | with_reducible apply keep_memStop | with_reducible apply keep_cutCpl | with_reducible apply keep_setC | with_reducible refine keep_readCpl_eq (by assumption) ?_ | with_reducible refine keep_cutCpl_eq (by assumption) ?_) | split | dsimp only
theorem keep_execStreamPage {s0 : State} {c q : Nat} {s : State} (hs : Keep s0 s) : KeepR s0 (execStreamPage c q s) := by
  unfold execStreamPage
  repeat' first | with_reducible assumption | with_reducible apply keep_issue | with_reducible apply keep_opStreamPage | exact keepR_refused | with_reducible apply keepR_next | intro _ | (with_reducible refine keep_of ?_; first | with_reducible assumption | with_reducible apply keep_issue | with_reducible apply keep_opStreamPage) | split | dsimp only
theorem keep_rdCodes {s0 : State} {s : State} {fn a bits n : Nat} {err : MemErr} (hs : Keep s0 s) : Keep s0 (rdCodes s fn a bits n err).1 := by
  unfold rdCodes
  repeat' first | with_reducible assumption | with_reducible apply keep_memRead | with_reducible apply keep_reportPoison | with_reducible refine keep_memRead_eq (by assumption) ?_ | intro _ | (with_reducible refine keep_of ?_; first | with_reducible assumption | with_reducible apply keep_memRead | with_reducible apply keep_reportPoison | with_reducible refine keep_memRead_eq (by assumption) ?_) | split | dsimp only
theorem keep_rdCodes_eq {s0 : State} {s : State} {fn a bits n : Nat} {err : MemErr} {tz : State} {rz : Option (List Nat)} (ez : rdCodes s fn a bits n err = (tz, rz)) (hs : Keep s0 s) : Keep s0 tz := by
  rw [show tz = (rdCodes s fn a bits n err).1 from by rw [ez]]
  exact keep_rdCodes hs
theorem keep_keyColumns {s0 : State} {s : State} {fn : Nat} {c : List Byte} {ps : PStream} {k : KGroup} {err : MemErr} (hs : Keep s0 s) : Keep s0 (keyColumns s fn c ps k err).1 := by
  unfold keyColumns
  repeat' first | with_reducible assumption | with_reducible apply keep_rdCodes | with_reducible refine keep_rdCodes_eq (by assumption) ?_ | with_reducible apply keep_foldl | with_reducible apply keep_foldl1 | with_reducible refine keep_foldl1_eq (by assumption) ?_ ?_ | with_reducible apply keep_ite | intro _ | (with_reducible refine keep_of ?_; first | with_reducible assumption | with_reducible apply keep_rdCodes | with_reducible refine keep_rdCodes_eq (by assumption) ?_ | with_reducible apply keep_foldl | with_reducible apply keep_foldl1 | with_reducible refine keep_foldl1_eq (by assumption) ?_ ?_) | split | dsimp only
theorem keep_keyColumns_eq {s0 : State} {s : State} {fn : Nat} {c : List Byte} {ps : PStream} {k : KGroup} {err : MemErr} {tz : State} {rz : Option (List (List Nat))} (ez : keyColumns s fn c ps k err = (tz, rz)) (hs : Keep s0 s) : Keep s0 tz := by
  rw [show tz = (keyColumns s fn c ps k err).1 from by rw [ez]]
  exact keep_keyColumns hs
theorem keep_valColumns {s0 : State} {s : State} {fn : Nat} {c : List Byte} {ps : PStream} {b : List KGroup} {v : Nat} {err : MemErr} (hs : Keep s0 s) : Keep s0 (valColumns s fn c ps b v err).1 := by
  unfold valColumns
  repeat' first | with_reducible assumption | with_reducible apply keep_rdCodes | with_reducible refine keep_rdCodes_eq (by assumption) ?_ | with_reducible apply keep_foldl | with_reducible apply keep_foldl1 | with_reducible refine keep_foldl1_eq (by assumption) ?_ ?_ | with_reducible apply keep_ite | intro _ | (with_reducible refine keep_of ?_; first | with_reducible assumption | with_reducible apply keep_rdCodes | with_reducible refine keep_rdCodes_eq (by assumption) ?_ | with_reducible apply keep_foldl | with_reducible apply keep_foldl1 | with_reducible refine keep_foldl1_eq (by assumption) ?_ ?_) | split | dsimp only
theorem keep_valColumns_eq {s0 : State} {s : State} {fn : Nat} {c : List Byte} {ps : PStream} {b : List KGroup} {v : Nat} {err : MemErr} {tz : State} {rz : Option (List (List Nat))} (ez : valColumns s fn c ps b v err = (tz, rz)) (hs : Keep s0 s) : Keep s0 tz := by
  rw [show tz = (valColumns s fn c ps b v err).1 from by rw [ez]]
  exact keep_valColumns hs
theorem keep_pgColumns {s0 : State} {s : State} {fn : Nat} {c : List Byte} {ps : PStream} {b : List KGroup} {i : Nat} {err : MemErr} (hs : Keep s0 s) : Keep s0 (pgColumns s fn c ps b i err).1 := by
  unfold pgColumns
  repeat' first | with_reducible assumption | with_reducible apply keep_keyColumns | with_reducible apply keep_valColumns | with_reducible refine keep_keyColumns_eq (by assumption) ?_ | with_reducible refine keep_valColumns_eq (by assumption) ?_ | with_reducible apply keep_ite | intro _ | (with_reducible refine keep_of ?_; first | with_reducible assumption | with_reducible apply keep_keyColumns | with_reducible apply keep_valColumns | with_reducible refine keep_keyColumns_eq (by assumption) ?_ | with_reducible refine keep_valColumns_eq (by assumption) ?_) | split | dsimp only
theorem keep_pgColumns_eq {s0 : State} {s : State} {fn : Nat} {c : List Byte} {ps : PStream} {b : List KGroup} {i : Nat} {err : MemErr} {tz : State} {rz : Option (List (List Nat))} (ez : pgColumns s fn c ps b i err = (tz, rz)) (hs : Keep s0 s) : Keep s0 tz := by
  rw [show tz = (pgColumns s fn c ps b i err).1 from by rw [ez]]
  exact keep_pgColumns hs
theorem keep_ringPages {s0 : State} {s : State} {c q : Nat} {r : Ring} {ps : PStream} {err : MemErr} (hs : Keep s0 s) : Keep s0 (ringPages s c q r ps err) := by
  unfold ringPages
  repeat' first | with_reducible assumption | with_reducible apply keep_pgColumns | with_reducible apply keep_bump | with_reducible apply keep_setC | with_reducible refine keep_pgColumns_eq (by assumption) ?_ | with_reducible apply keep_ite | intro _ | (with_reducible refine keep_of ?_; first | with_reducible assumption | with_reducible apply keep_pgColumns | with_reducible apply keep_bump | with_reducible apply keep_setC | with_reducible refine keep_pgColumns_eq (by assumption) ?_) | split | dsimp only
theorem keep_opRingGroup {s0 : State} {s : State} {c q : Nat} {err : MemErr} (hs : Keep s0 s) : Keep s0 (opRingGroup s c q err) := by
  unfold opRingGroup
  repeat' first | with_reducible assumption | with_reducible apply keep_ringWeights | with_reducible apply keep_ringPages | with_reducible apply keep_ite | intro _ | (with_reducible refine keep_of ?_; first | with_reducible assumption | with_reducible apply keep_ringWeights | with_reducible apply keep_ringPages) | split | dsimp only
theorem keep_execRingGroupWrite {s0 : State} {c q : Nat} {up : Upset} {s : State} (hs : Keep s0 s) : KeepR s0 (execRingGroupWrite c q up s) := by
  unfold execRingGroupWrite
  repeat' first | with_reducible assumption | with_reducible apply keep_opRingGroup | exact keepR_refused | with_reducible apply keepR_next | intro _ | (with_reducible refine keep_of ?_; first | with_reducible assumption | with_reducible apply keep_opRingGroup) | split | dsimp only
theorem keep_biasTab {s0 : State} {s : State} {fn : Nat} {cx : List Byte} {layer qh : Nat} (hs : Keep s0 s) : Keep s0 (biasTab s fn cx layer qh).1 := by
  unfold biasTab
  repeat' first | with_reducible assumption | with_reducible apply keep_memRead | with_reducible apply keep_reportPoison | with_reducible refine keep_memRead_eq (by assumption) ?_ | with_reducible apply keep_ite | intro _ | (with_reducible refine keep_of ?_; first | with_reducible assumption | with_reducible apply keep_memRead | with_reducible apply keep_reportPoison | with_reducible refine keep_memRead_eq (by assumption) ?_) | split | dsimp only
theorem keep_biasTab_eq {s0 : State} {s : State} {fn : Nat} {cx : List Byte} {layer qh : Nat} {tz : State} {rz : List Int} (ez : biasTab s fn cx layer qh = (tz, rz)) (hs : Keep s0 s) : Keep s0 tz := by
  rw [show tz = (biasTab s fn cx layer qh).1 from by rw [ez]]
  exact keep_biasTab hs
theorem keep_rsIssue {s0 : State} {s : State} {c q : Nat} {k : Cluster} {w : Nat} {ok : Bool} (hs : Keep s0 s) : Keep s0 (rsIssue s c q k w ok) := by
  unfold rsIssue
  repeat' first | with_reducible assumption | with_reducible apply keep_seqFault | with_reducible apply keep_arrPush | with_reducible apply keep_ite | intro _ | (with_reducible refine keep_of ?_; first | with_reducible assumption | with_reducible apply keep_seqFault | with_reducible apply keep_arrPush) | split | dsimp only
theorem keep_rsDrain {s0 : State} {s : State} {c q : Nat} {up : Upset} {k : Cluster} {w : Nat} {f : State → Core → List Slot → State × Core × Bool} (hs : Keep s0 s) (hf : ∀ y0 y1 y2, Keep s0 y0 → Keep s0 (f y0 y1 y2).1) : Keep s0 (rsDrain s c q up k w f) := by
  unfold rsDrain
  repeat' first | with_reducible assumption | with_reducible apply hf | with_reducible apply keep_arrFault | with_reducible apply keep_upCe | with_reducible apply keep_setC | with_reducible apply keep_orReg | with_reducible apply keep_foldl | with_reducible apply keep_foldl1 | with_reducible refine keep_foldl1_eq (by assumption) ?_ ?_ | with_reducible apply keep_ite | intro _ | (with_reducible refine keep_of ?_; first | with_reducible assumption | with_reducible apply hf | with_reducible apply keep_arrFault | with_reducible apply keep_upCe | with_reducible apply keep_setC | with_reducible apply keep_orReg | with_reducible apply keep_foldl | with_reducible apply keep_foldl1 | with_reducible refine keep_foldl1_eq (by assumption) ?_ ?_) | split | dsimp only
theorem keep_rsStep {s0 : State} {s : State} {c q : Nat} {up : Upset} {n : Nat} {op : State → Cluster → Nat → State} {run : State → Cluster → ArrStep → State} (hs : Keep s0 s) (hop : ∀ y0 y1 y2, Keep s0 y0 → Keep s0 (op y0 y1 y2)) (hrun : ∀ y0 y1 y2, Keep s0 y0 → Keep s0 (run y0 y1 y2)) : Keep s0 (rsStep s c q up n op run) := by
  unfold rsStep
  repeat' first | with_reducible assumption | with_reducible apply hop | with_reducible apply hrun | with_reducible apply keep_deckEcc | with_reducible apply keep_issue | with_reducible apply keep_onArr | intro _ | (with_reducible refine keep_of ?_; first | with_reducible assumption | with_reducible apply hop | with_reducible apply hrun | with_reducible apply keep_deckEcc | with_reducible apply keep_issue | with_reducible apply keep_onArr) | split | dsimp only
theorem keep_drainScore {s0 : State} {s : State} {c q : Nat} {up : Upset} {k : Cluster} {a : ArrStep} (hs : Keep s0 s) : Keep s0 (drainScore s c q up k a) := by
  unfold drainScore
  repeat' first | with_reducible assumption | with_reducible apply keep_arrFault | with_reducible apply keep_rsDrain | with_reducible apply keep_biasTab | with_reducible refine keep_biasTab_eq (by assumption) ?_ | with_reducible apply keep_foldl | with_reducible apply keep_foldl1 | with_reducible refine keep_foldl1_eq (by assumption) ?_ ?_ | with_reducible apply keep_ite | intro _ | (with_reducible refine keep_of ?_; first | with_reducible assumption | with_reducible apply keep_arrFault | with_reducible apply keep_rsDrain | with_reducible apply keep_biasTab | with_reducible refine keep_biasTab_eq (by assumption) ?_ | with_reducible apply keep_foldl | with_reducible apply keep_foldl1 | with_reducible refine keep_foldl1_eq (by assumption) ?_ ?_) | split | dsimp only
theorem keep_execDrainScore {s0 : State} {c q : Nat} {up : Upset} {s : State} (hs : Keep s0 s) : KeepR s0 (execDrainScore c q up s) := by
  unfold execDrainScore
  repeat' first | with_reducible assumption | with_reducible apply keep_rsStep | with_reducible apply keep_rsIssue | with_reducible apply keep_drainScore | exact keepR_refused | with_reducible apply keepR_next | intro _ | (with_reducible refine keep_of ?_; first | with_reducible assumption | with_reducible apply keep_rsStep | with_reducible apply keep_rsIssue | with_reducible apply keep_drainScore) | split | dsimp only
theorem keep_drainValue {s0 : State} {s : State} {c q : Nat} {up : Upset} {k : Cluster} {a : ArrStep} (hs : Keep s0 s) : Keep s0 (drainValue s c q up k a) := by
  unfold drainValue
  repeat' first | with_reducible assumption | with_reducible apply keep_rsDrain | with_reducible apply keep_foldl | with_reducible apply keep_foldl1 | with_reducible refine keep_foldl1_eq (by assumption) ?_ ?_ | intro _ | (with_reducible refine keep_of ?_; first | with_reducible assumption | with_reducible apply keep_rsDrain | with_reducible apply keep_foldl | with_reducible apply keep_foldl1 | with_reducible refine keep_foldl1_eq (by assumption) ?_ ?_) | split | dsimp only
theorem keep_execDrainValue {s0 : State} {c q : Nat} {up : Upset} {s : State} (hs : Keep s0 s) : KeepR s0 (execDrainValue c q up s) := by
  unfold execDrainValue
  repeat' first | with_reducible assumption | with_reducible apply keep_rsStep | with_reducible apply keep_rsIssue | with_reducible apply keep_drainValue | exact keepR_refused | with_reducible apply keepR_next | intro _ | (with_reducible refine keep_of ?_; first | with_reducible assumption | with_reducible apply keep_rsStep | with_reducible apply keep_rsIssue | with_reducible apply keep_drainValue) | split | dsimp only
theorem keep_drainFinal {s0 : State} {s : State} {c q : Nat} {up : Upset} {k : Cluster} {a : ArrStep} (hs : Keep s0 s) : Keep s0 (drainFinal s c q up k a) := by
  unfold drainFinal
  repeat' first | with_reducible assumption | with_reducible apply keep_arrFault | with_reducible apply keep_upCe | with_reducible apply keep_setC | with_reducible apply keep_orReg | with_reducible apply keep_foldl | with_reducible apply keep_foldl1 | with_reducible refine keep_foldl1_eq (by assumption) ?_ ?_ | with_reducible apply keep_ite | intro _ | (with_reducible refine keep_of ?_; first | with_reducible assumption | with_reducible apply keep_arrFault | with_reducible apply keep_upCe | with_reducible apply keep_setC | with_reducible apply keep_orReg | with_reducible apply keep_foldl | with_reducible apply keep_foldl1 | with_reducible refine keep_foldl1_eq (by assumption) ?_ ?_) | split | dsimp only
theorem keep_execDrainFinal {s0 : State} {c q : Nat} {up : Upset} {s : State} (hs : Keep s0 s) : KeepR s0 (execDrainFinal c q up s) := by
  unfold execDrainFinal
  repeat' first | with_reducible assumption | with_reducible apply keep_rsStep | with_reducible apply keep_seqFault | with_reducible apply keep_arrPush | with_reducible apply keep_drainFinal | with_reducible apply keep_ite | with_reducible apply keepR_ite | exact keepR_refused | with_reducible apply keepR_next | intro _ | (with_reducible refine keep_of ?_; first | with_reducible assumption | with_reducible apply keep_rsStep | with_reducible apply keep_seqFault | with_reducible apply keep_arrPush | with_reducible apply keep_drainFinal) | split | dsimp only
theorem keep_invalDrop {s0 : State} {s : State} {l : List (Nat × Nat)} (hs : Keep s0 s) : Keep s0 (invalDrop s l) := by
  unfold invalDrop
  repeat' first | with_reducible assumption | intro _ | (with_reducible refine keep_of ?_; first | with_reducible assumption) | split | dsimp only
theorem keep_invalDone {s0 : State} {s : State} {n : Nat} (hs : Keep s0 s) : Keep s0 (invalDone s n) := by
  unfold invalDone
  repeat' first | with_reducible assumption | with_reducible apply keep_invalDrop | with_reducible apply keep_wrPair | with_reducible apply keep_wrReg | with_reducible apply keep_ite | intro _ | (with_reducible refine keep_of ?_; first | with_reducible assumption | with_reducible apply keep_invalDrop | with_reducible apply keep_wrPair | with_reducible apply keep_wrReg) | split | dsimp only
theorem keep_opKvInval {s0 : State} {s : State} {v : W32} (hs : Keep s0 s) : Keep s0 (opKvInval s v) := by
  unfold opKvInval
  repeat' first | with_reducible assumption | with_reducible apply keep_wrReg | with_reducible apply keep_invalDone | with_reducible apply keep_ite | intro _ | (with_reducible refine keep_of ?_; first | with_reducible assumption | with_reducible apply keep_wrReg | with_reducible apply keep_invalDone) | split | dsimp only
theorem keep_execKvInval {s0 : State} {mid : Nat} {v : W32} {s : State} (hs : Keep s0 s) : KeepR s0 (execKvInval mid v s) := by
  unfold execKvInval
  repeat' first | with_reducible assumption | with_reducible apply keep_pageAccess | with_reducible apply keep_opKvInval | exact keepR_refused | with_reducible apply keepR_next | intro _ | (with_reducible refine keep_of ?_; first | with_reducible assumption | with_reducible apply keep_pageAccess | with_reducible apply keep_opKvInval) | split | dsimp only
theorem keep_copyRow {s0 : State} {s : State} {fn : Nat} {cx : List Byte} {layer row e t : Nat} (hs : Keep s0 s) : Keep s0 (copyRow s fn cx layer row e t) := by
  unfold copyRow
  repeat' first | with_reducible assumption | with_reducible apply keep_memRead | with_reducible apply keep_memWrite | with_reducible apply keep_reportPoison | with_reducible refine keep_memRead_eq (by assumption) ?_ | with_reducible refine keep_memWrite_eq (by assumption) ?_ | with_reducible apply keep_foldl | with_reducible apply keep_foldl1 | with_reducible refine keep_foldl1_eq (by assumption) ?_ ?_ | intro _ | (with_reducible refine keep_of ?_; first | with_reducible assumption | with_reducible apply keep_memRead | with_reducible apply keep_memWrite | with_reducible apply keep_reportPoison | with_reducible refine keep_memRead_eq (by assumption) ?_ | with_reducible refine keep_memWrite_eq (by assumption) ?_ | with_reducible apply keep_foldl | with_reducible apply keep_foldl1 | with_reducible refine keep_foldl1_eq (by assumption) ?_ ?_) | split | dsimp only
theorem keep_copyLayer {s0 : State} {s : State} {t : Trick} {l : Nat} {ms : List Nat} (hs : Keep s0 s) : Keep s0 (copyLayer s t l ms) := by
  unfold copyLayer
  repeat' first | with_reducible assumption | with_reducible apply keep_copyRow | with_reducible apply keep_foldl | with_reducible apply keep_foldl1 | with_reducible refine keep_foldl1_eq (by assumption) ?_ ?_ | intro _ | (with_reducible refine keep_of ?_; first | with_reducible assumption | with_reducible apply keep_copyRow | with_reducible apply keep_foldl | with_reducible apply keep_foldl1 | with_reducible refine keep_foldl1_eq (by assumption) ?_ ?_) | split | dsimp only
theorem keep_execAppendCopy {s0 : State} {layer : Nat} {s : State} (hs : Keep s0 s) : KeepR s0 (execAppendCopy layer s) := by
  unfold execAppendCopy
  repeat' first | with_reducible assumption | with_reducible apply keep_copyLayer | with_reducible apply keep_ite | with_reducible apply keepR_ite | exact keepR_refused | with_reducible apply keepR_next | intro _ | (with_reducible refine keep_of ?_; first | with_reducible assumption | with_reducible apply keep_copyLayer) | split | dsimp only
theorem keep_vacate {s0 : State} {s : State} {m g layer fpos base : Nat} (hs : Keep s0 s) : Keep s0 (vacate s m g layer fpos base) := by
  unfold vacate
  repeat' first | with_reducible assumption | with_reducible apply keep_makeFree | with_reducible apply keep_ite | intro _ | (with_reducible refine keep_of ?_; first | with_reducible assumption | with_reducible apply keep_makeFree) | split | dsimp only
theorem keep_snapMove {s0 : State} {s : State} {g layer old e : Nat} (hs : Keep s0 s) : Keep s0 (snapMove s g layer old e) := by
  unfold snapMove
  repeat' first | with_reducible assumption | with_reducible apply keep_ite | intro _ | (with_reducible refine keep_of ?_; first | with_reducible assumption) | split | dsimp only
theorem keep_movePage {s0 : State} {s : State} {m g layer : Nat} {p : Nat × Nat} {tier : Nat} (hs : Keep s0 s) : Keep s0 (movePage s m g layer p tier).1 := by
  unfold movePage
  repeat' first | with_reducible assumption | with_reducible apply keep_popFrame | with_reducible apply keep_memRead | with_reducible apply keep_memWrite | with_reducible apply keep_vacate | with_reducible apply keep_snapMove | with_reducible apply keep_putLeaf | with_reducible apply keep_reportPoison | with_reducible refine keep_popFrame_eq (by assumption) ?_ | with_reducible refine keep_memRead_eq (by assumption) ?_ | with_reducible refine keep_memWrite_eq (by assumption) ?_ | intro _ | (with_reducible refine keep_of ?_; first | with_reducible assumption | with_reducible apply keep_popFrame | with_reducible apply keep_memRead | with_reducible apply keep_memWrite | with_reducible apply keep_vacate | with_reducible apply keep_snapMove | with_reducible apply keep_putLeaf | with_reducible apply keep_reportPoison | with_reducible refine keep_popFrame_eq (by assumption) ?_ | with_reducible refine keep_memRead_eq (by assumption) ?_ | with_reducible refine keep_memWrite_eq (by assumption) ?_) | split | dsimp only
theorem keep_movePage_eq {s0 : State} {s : State} {m g layer : Nat} {p : Nat × Nat} {tier : Nat} {tz : State} {rz : Bool} (ez : movePage s m g layer p tier = (tz, rz)) (hs : Keep s0 s) : Keep s0 tz := by
  rw [show tz = (movePage s m g layer p tier).1 from by rw [ez]]
  exact keep_movePage hs
theorem keep_pauseMove {s0 : State} {s : State} {m g : Nat} (hs : Keep s0 s) : Keep s0 (pauseMove s m g) := by
  unfold pauseMove
  repeat' first | with_reducible assumption | with_reducible apply keep_movePage | with_reducible refine keep_movePage_eq (by assumption) ?_ | with_reducible apply keep_foldl | with_reducible apply keep_foldl1 | with_reducible refine keep_foldl1_eq (by assumption) ?_ ?_ | with_reducible apply keep_ite | intro _ | (with_reducible refine keep_of ?_; first | with_reducible assumption | with_reducible apply keep_movePage | with_reducible refine keep_movePage_eq (by assumption) ?_ | with_reducible apply keep_foldl | with_reducible apply keep_foldl1 | with_reducible refine keep_foldl1_eq (by assumption) ?_ ?_) | split | dsimp only
theorem keep_resumeMove {s0 : State} {s : State} {m g : Nat} (hs : Keep s0 s) : Keep s0 (resumeMove s m g) := by
  unfold resumeMove
  repeat' first | with_reducible assumption | with_reducible apply keep_movePage | with_reducible refine keep_movePage_eq (by assumption) ?_ | with_reducible apply keep_foldl | with_reducible apply keep_foldl1 | with_reducible refine keep_foldl1_eq (by assumption) ?_ ?_ | with_reducible apply keep_ite | intro _ | (with_reducible refine keep_of ?_; first | with_reducible assumption | with_reducible apply keep_movePage | with_reducible refine keep_movePage_eq (by assumption) ?_ | with_reducible apply keep_foldl | with_reducible apply keep_foldl1 | with_reducible refine keep_foldl1_eq (by assumption) ?_ ?_) | split | dsimp only
theorem keep_spillGo {s0 : State} {s : State} {m : Nat} (hs : Keep s0 s) : Keep s0 (spillGo s m) := by
  unfold spillGo
  repeat' first | with_reducible assumption | with_reducible apply keep_movePage | with_reducible apply keep_bump | with_reducible refine keep_movePage_eq (by assumption) ?_ | with_reducible apply keep_foldl | with_reducible apply keep_foldl1 | with_reducible refine keep_foldl1_eq (by assumption) ?_ ?_ | with_reducible apply keep_ite | intro _ | (with_reducible refine keep_of ?_; first | with_reducible assumption | with_reducible apply keep_movePage | with_reducible apply keep_bump | with_reducible refine keep_movePage_eq (by assumption) ?_ | with_reducible apply keep_foldl | with_reducible apply keep_foldl1 | with_reducible refine keep_foldl1_eq (by assumption) ?_ ?_) | split | dsimp only
theorem keep_opSpill {s0 : State} {s : State} {m : Nat} (hs : Keep s0 s) : Keep s0 (opSpill s m) := by
  unfold opSpill
  repeat' first | with_reducible assumption | with_reducible apply keep_spillGo | with_reducible apply keep_ite | intro _ | (with_reducible refine keep_of ?_; first | with_reducible assumption | with_reducible apply keep_spillGo) | split | dsimp only
theorem keep_execSpill {s0 : State} {slot : Nat} {s : State} (hs : Keep s0 s) : KeepR s0 (execSpill slot s) := by
  unfold execSpill
  repeat' first | with_reducible assumption | with_reducible apply keep_opSpill | exact keepR_refused | with_reducible apply keepR_next | intro _ | (with_reducible refine keep_of ?_; first | with_reducible assumption | with_reducible apply keep_opSpill) | split | dsimp only
theorem keep_undefer {s0 : State} {m : Nat} {x0 : Nat} {x1 : State} (hx1 : Keep s0 x1) : Keep s0 (undefer m x0 x1) := by
  fun_induction undefer <;>
  repeat' first | with_reducible assumption | with_reducible apply keep_dropLeaf | with_reducible apply keep_slotFree | with_reducible apply keep_pushFreed | with_reducible apply keep_ite | intro _ | (with_reducible refine keep_of ?_; first | with_reducible assumption | with_reducible apply keep_dropLeaf | with_reducible apply keep_slotFree | with_reducible apply keep_pushFreed) | apply_assumption | split | dsimp only
theorem keep_execDeferredFree {s0 : State} {slot : Nat} {s : State} (hs : Keep s0 s) : KeepR s0 (execDeferredFree slot s) := by
  unfold execDeferredFree
  repeat' first | with_reducible assumption | with_reducible apply keep_setHeld | with_reducible apply keep_undefer | exact keepR_refused | with_reducible apply keepR_next | intro _ | (with_reducible refine keep_of ?_; first | with_reducible assumption | with_reducible apply keep_setHeld | with_reducible apply keep_undefer) | split | dsimp only
theorem keep_setA {s0 : State} {s : State} {a : Nat} {x : Acct} (hs : Keep s0 s) : Keep s0 (setA s a x) := by
  unfold setA
  repeat' first | with_reducible assumption | intro _ | (with_reducible refine keep_of ?_; first | with_reducible assumption) | split | dsimp only
theorem keep_cqAdd {s0 : State} {s : State} {q gid commit : Nat} {ack : Bool} {e : BitVec 256} (hs : Keep s0 s) : Keep s0 (cqAdd s q gid commit ack e) := by
  unfold cqAdd
  repeat' first | with_reducible assumption | intro _ | (with_reducible refine keep_of ?_; first | with_reducible assumption) | split | dsimp only
theorem keep_cqDetail {s0 : State} {s : State} {q gid htag seq status reason : Nat} {ack : Bool} (hs : Keep s0 s) : Keep s0 (cqDetail s q gid htag seq status reason ack) := by
  unfold cqDetail
  repeat' first | with_reducible assumption | with_reducible apply keep_cqAdd | with_reducible apply keep_useFree | intro _ | (with_reducible refine keep_of ?_; first | with_reducible assumption | with_reducible apply keep_cqAdd | with_reducible apply keep_useFree) | split | dsimp only
theorem keep_modReq {s0 : State} {s : State} {g : Nat} {f : Req → Req} (hs : Keep s0 s) : Keep s0 (modReq s g f) := by
  unfold modReq
  repeat' first | with_reducible assumption | with_reducible apply keep_setSlot | intro _ | (with_reducible refine keep_of ?_; first | with_reducible assumption | with_reducible apply keep_setSlot) | split | dsimp only
theorem keep_breachOut {s0 : State} {s : State} {g : Nat} {r : Req} {item first last : Nat} (hs : Keep s0 s) : Keep s0 (breachOut s g r item first last) := by
  unfold breachOut
  repeat' first | with_reducible assumption | with_reducible apply keep_setA | with_reducible apply keep_cqAdd | intro _ | (with_reducible refine keep_of ?_; first | with_reducible assumption | with_reducible apply keep_setA | with_reducible apply keep_cqAdd) | split | dsimp only
theorem keep_breachEnd {s0 : State} {s : State} {g : Nat} (hs : Keep s0 s) : Keep s0 (breachEnd s g) := by
  unfold breachEnd
  repeat' first | with_reducible assumption | with_reducible apply keep_breachOut | with_reducible apply keep_modReq | intro _ | (with_reducible refine keep_of ?_; first | with_reducible assumption | with_reducible apply keep_breachOut | with_reducible apply keep_modReq) | split | dsimp only
theorem keep_svcOk {s0 : State} {s : State} {ws : List Nat} (hs : Keep s0 s) : Keep s0 (svcOk s ws).1 := by
  unfold svcOk
  repeat' first | with_reducible assumption | intro _ | (with_reducible refine keep_of ?_; first | with_reducible assumption) | split | dsimp only
theorem keep_svcOk_eq {s0 : State} {s : State} {ws : List Nat} {tz : State} {rz : Nat × List Nat} (ez : svcOk s ws = (tz, rz)) (hs : Keep s0 s) : Keep s0 tz := by
  rw [show tz = (svcOk s ws).1 from by rw [ez]]
  exact keep_svcOk hs
theorem keep_svcNo {s0 : State} {s : State} {status : Nat} (hs : Keep s0 s) : Keep s0 (svcNo s status).1 := by
  unfold svcNo
  repeat' first | with_reducible assumption | intro _ | (with_reducible refine keep_of ?_; first | with_reducible assumption) | split | dsimp only
theorem keep_svcNo_eq {s0 : State} {s : State} {status : Nat} {tz : State} {rz : Nat × List Nat} (ez : svcNo s status = (tz, rz)) (hs : Keep s0 s) : Keep s0 tz := by
  rw [show tz = (svcNo s status).1 from by rw [ez]]
  exact keep_svcNo hs
theorem keep_opFnSet {s0 : State} {s : State} (hs : Keep s0 s) : Keep s0 (opFnSet s).1 := by
  unfold opFnSet
  repeat' first | with_reducible assumption | with_reducible apply keep_svcNo | with_reducible apply keep_svcOk | with_reducible refine keep_svcNo_eq (by assumption) ?_ | with_reducible refine keep_svcOk_eq (by assumption) ?_ | with_reducible apply keep_ite | intro _ | (with_reducible refine keep_of ?_; first | with_reducible assumption | with_reducible apply keep_svcNo | with_reducible apply keep_svcOk | with_reducible refine keep_svcNo_eq (by assumption) ?_ | with_reducible refine keep_svcOk_eq (by assumption) ?_) | split | dsimp only
theorem keep_opFnSet_eq {s0 : State} {s : State} {tz : State} {rz : Nat × List Nat} (ez : opFnSet s = (tz, rz)) (hs : Keep s0 s) : Keep s0 tz := by
  rw [show tz = (opFnSet s).1 from by rw [ez]]
  exact keep_opFnSet hs
theorem keep_opAcctSet {s0 : State} {s : State} (hs : Keep s0 s) : Keep s0 (opAcctSet s).1 := by
  unfold opAcctSet
  repeat' first | with_reducible assumption | with_reducible apply keep_svcNo | with_reducible apply keep_svcOk | with_reducible apply keep_setA | with_reducible refine keep_svcNo_eq (by assumption) ?_ | with_reducible refine keep_svcOk_eq (by assumption) ?_ | with_reducible apply keep_ite | intro _ | (with_reducible refine keep_of ?_; first | with_reducible assumption | with_reducible apply keep_svcNo | with_reducible apply keep_svcOk | with_reducible apply keep_setA | with_reducible refine keep_svcNo_eq (by assumption) ?_ | with_reducible refine keep_svcOk_eq (by assumption) ?_) | split | dsimp only
theorem keep_opAcctSet_eq {s0 : State} {s : State} {tz : State} {rz : Nat × List Nat} (ez : opAcctSet s = (tz, rz)) (hs : Keep s0 s) : Keep s0 tz := by
  rw [show tz = (opAcctSet s).1 from by rw [ez]]
  exact keep_opAcctSet hs
theorem keep_opAcctGet {s0 : State} {s : State} (hs : Keep s0 s) : Keep s0 (opAcctGet s).1 := by
  unfold opAcctGet
  repeat' first | with_reducible assumption | with_reducible apply keep_svcNo | with_reducible apply keep_svcOk | with_reducible refine keep_svcNo_eq (by assumption) ?_ | with_reducible refine keep_svcOk_eq (by assumption) ?_ | with_reducible apply keep_ite | intro _ | (with_reducible refine keep_of ?_; first | with_reducible assumption | with_reducible apply keep_svcNo | with_reducible apply keep_svcOk | with_reducible refine keep_svcNo_eq (by assumption) ?_ | with_reducible refine keep_svcOk_eq (by assumption) ?_) | split | dsimp only
theorem keep_opAcctGet_eq {s0 : State} {s : State} {tz : State} {rz : Nat × List Nat} (ez : opAcctGet s = (tz, rz)) (hs : Keep s0 s) : Keep s0 tz := by
  rw [show tz = (opAcctGet s).1 from by rw [ez]]
  exact keep_opAcctGet hs
theorem keep_opModelAdm {s0 : State} {s : State} (hs : Keep s0 s) : Keep s0 (opModelAdm s).1 := by
  unfold opModelAdm
  repeat' first | with_reducible assumption | with_reducible apply keep_svcNo | with_reducible apply keep_svcOk | with_reducible refine keep_svcNo_eq (by assumption) ?_ | with_reducible refine keep_svcOk_eq (by assumption) ?_ | with_reducible apply keep_ite | intro _ | (with_reducible refine keep_of ?_; first | with_reducible assumption | with_reducible apply keep_svcNo | with_reducible apply keep_svcOk | with_reducible refine keep_svcNo_eq (by assumption) ?_ | with_reducible refine keep_svcOk_eq (by assumption) ?_) | split | dsimp only
theorem keep_opModelAdm_eq {s0 : State} {s : State} {tz : State} {rz : Nat × List Nat} (ez : opModelAdm s = (tz, rz)) (hs : Keep s0 s) : Keep s0 tz := by
  rw [show tz = (opModelAdm s).1 from by rw [ez]]
  exact keep_opModelAdm hs
theorem keep_opAdmGet {s0 : State} {s : State} (hs : Keep s0 s) : Keep s0 (opAdmGet s).1 := by
  unfold opAdmGet
  repeat' first | with_reducible assumption | with_reducible apply keep_svcNo | with_reducible apply keep_svcOk | with_reducible apply keep_useFree | with_reducible refine keep_svcNo_eq (by assumption) ?_ | with_reducible refine keep_svcOk_eq (by assumption) ?_ | with_reducible apply keep_ite | intro _ | (with_reducible refine keep_of ?_; first | with_reducible assumption | with_reducible apply keep_svcNo | with_reducible apply keep_svcOk | with_reducible apply keep_useFree | with_reducible refine keep_svcNo_eq (by assumption) ?_ | with_reducible refine keep_svcOk_eq (by assumption) ?_) | split | dsimp only
theorem keep_opAdmGet_eq {s0 : State} {s : State} {tz : State} {rz : Nat × List Nat} (ez : opAdmGet s = (tz, rz)) (hs : Keep s0 s) : Keep s0 tz := by
  rw [show tz = (opAdmGet s).1 from by rw [ez]]
  exact keep_opAdmGet hs
theorem keep_opSvcSet {s0 : State} {s : State} (hs : Keep s0 s) : Keep s0 (opSvcSet s).1 := by
  unfold opSvcSet
  repeat' first | with_reducible assumption | with_reducible apply keep_svcNo | with_reducible apply keep_svcOk | with_reducible refine keep_svcNo_eq (by assumption) ?_ | with_reducible refine keep_svcOk_eq (by assumption) ?_ | with_reducible apply keep_ite | intro _ | (with_reducible refine keep_of ?_; first | with_reducible assumption | with_reducible apply keep_svcNo | with_reducible apply keep_svcOk | with_reducible refine keep_svcNo_eq (by assumption) ?_ | with_reducible refine keep_svcOk_eq (by assumption) ?_) | split | dsimp only
theorem keep_opSvcSet_eq {s0 : State} {s : State} {tz : State} {rz : Nat × List Nat} (ez : opSvcSet s = (tz, rz)) (hs : Keep s0 s) : Keep s0 tz := by
  rw [show tz = (opSvcSet s).1 from by rw [ez]]
  exact keep_opSvcSet hs
theorem keep_svcCmd {s0 : State} {cmd : Nat} {f : State → State × Nat × List Nat} {s : State} (hs : Keep s0 s) (hf : ∀ y0, Keep s0 y0 → Keep s0 (f y0).1) : Keep s0 (svcCmd cmd f s) := by
  unfold svcCmd
  repeat' first | with_reducible assumption | with_reducible apply hf | with_reducible apply keep_mbReply | with_reducible apply keep_ite | intro _ | (with_reducible refine keep_of ?_; first | with_reducible assumption | with_reducible apply hf | with_reducible apply keep_mbReply) | split | dsimp only
theorem keep_execFnSet {s0 : State} {s : State} (hs : Keep s0 s) : KeepR s0 (execFnSet s) := by
  unfold execFnSet
  repeat' first | with_reducible assumption | with_reducible apply keep_svcCmd | with_reducible apply keep_opFnSet | with_reducible refine keep_opFnSet_eq (by assumption) ?_ | exact keepR_refused | with_reducible apply keepR_next | intro _ | (with_reducible refine keep_of ?_; first | with_reducible assumption | with_reducible apply keep_svcCmd | with_reducible apply keep_opFnSet | with_reducible refine keep_opFnSet_eq (by assumption) ?_) | split | dsimp only
theorem keep_execAcctSet {s0 : State} {s : State} (hs : Keep s0 s) : KeepR s0 (execAcctSet s) := by
  unfold execAcctSet
  repeat' first | with_reducible assumption | with_reducible apply keep_svcCmd | with_reducible apply keep_opAcctSet | with_reducible refine keep_opAcctSet_eq (by assumption) ?_ | exact keepR_refused | with_reducible apply keepR_next | intro _ | (with_reducible refine keep_of ?_; first | with_reducible assumption | with_reducible apply keep_svcCmd | with_reducible apply keep_opAcctSet | with_reducible refine keep_opAcctSet_eq (by assumption) ?_) | split | dsimp only
theorem keep_execAcctGet {s0 : State} {s : State} (hs : Keep s0 s) : KeepR s0 (execAcctGet s) := by
  unfold execAcctGet
  repeat' first | with_reducible assumption | with_reducible apply keep_svcCmd | with_reducible apply keep_opAcctGet | with_reducible refine keep_opAcctGet_eq (by assumption) ?_ | exact keepR_refused | with_reducible apply keepR_next | intro _ | (with_reducible refine keep_of ?_; first | with_reducible assumption | with_reducible apply keep_svcCmd | with_reducible apply keep_opAcctGet | with_reducible refine keep_opAcctGet_eq (by assumption) ?_) | split | dsimp only
theorem keep_execModelAdm {s0 : State} {s : State} (hs : Keep s0 s) : KeepR s0 (execModelAdm s) := by
  unfold execModelAdm
  repeat' first | with_reducible assumption | with_reducible apply keep_svcCmd | with_reducible apply keep_opModelAdm | with_reducible refine keep_opModelAdm_eq (by assumption) ?_ | exact keepR_refused | with_reducible apply keepR_next | intro _ | (with_reducible refine keep_of ?_; first | with_reducible assumption | with_reducible apply keep_svcCmd | with_reducible apply keep_opModelAdm | with_reducible refine keep_opModelAdm_eq (by assumption) ?_) | split | dsimp only
theorem keep_execAdmGet {s0 : State} {s : State} (hs : Keep s0 s) : KeepR s0 (execAdmGet s) := by
  unfold execAdmGet
  repeat' first | with_reducible assumption | with_reducible apply keep_svcCmd | with_reducible apply keep_opAdmGet | with_reducible refine keep_opAdmGet_eq (by assumption) ?_ | exact keepR_refused | with_reducible apply keepR_next | intro _ | (with_reducible refine keep_of ?_; first | with_reducible assumption | with_reducible apply keep_svcCmd | with_reducible apply keep_opAdmGet | with_reducible refine keep_opAdmGet_eq (by assumption) ?_) | split | dsimp only
theorem keep_execSvcSet {s0 : State} {s : State} (hs : Keep s0 s) : KeepR s0 (execSvcSet s) := by
  unfold execSvcSet
  repeat' first | with_reducible assumption | with_reducible apply keep_svcCmd | with_reducible apply keep_opSvcSet | with_reducible refine keep_opSvcSet_eq (by assumption) ?_ | exact keepR_refused | with_reducible apply keepR_next | intro _ | (with_reducible refine keep_of ?_; first | with_reducible assumption | with_reducible apply keep_svcCmd | with_reducible apply keep_opSvcSet | with_reducible refine keep_opSvcSet_eq (by assumption) ?_) | split | dsimp only
theorem keep_execReplenish {s0 : State} {s : State} (hs : Keep s0 s) : KeepR s0 (execReplenish s) := by
  unfold execReplenish
  repeat' first | with_reducible assumption | with_reducible apply keep_breachOut | with_reducible apply keep_modReq | with_reducible apply keep_foldl | with_reducible apply keep_foldl1 | with_reducible refine keep_foldl1_eq (by assumption) ?_ ?_ | with_reducible apply keep_ite | with_reducible apply keepR_ite | exact keepR_refused | with_reducible apply keepR_next | intro _ | (with_reducible refine keep_of ?_; first | with_reducible assumption | with_reducible apply keep_breachOut | with_reducible apply keep_modReq | with_reducible apply keep_foldl | with_reducible apply keep_foldl1 | with_reducible refine keep_foldl1_eq (by assumption) ?_ ?_) | split | dsimp only
theorem keep_execCqStall {s0 : State} {q : Nat} {s : State} (hs : Keep s0 s) : KeepR s0 (execCqStall q s) := by
  unfold execCqStall
  repeat' first | with_reducible assumption | with_reducible apply keep_setQ | with_reducible apply keep_ite | with_reducible apply keepR_ite | exact keepR_refused | with_reducible apply keepR_next | intro _ | (with_reducible refine keep_of ?_; first | with_reducible assumption | with_reducible apply keep_setQ) | split | dsimp only
theorem keep_execModelLoad {s0 : State} {slot : Nat} {b : Bundle} {s : State} (hs : Keep s0 s) : KeepR s0 (execModelLoad slot b s) := by
  unfold execModelLoad
  repeat' first | with_reducible assumption | with_reducible apply keep_readCtx | with_reducible apply keep_setM | with_reducible refine keep_readCtx_eq (by assumption) ?_ | with_reducible apply keep_ite | with_reducible apply keepR_ite | exact keepR_refused | with_reducible apply keepR_next | intro _ | (with_reducible refine keep_of ?_; first | with_reducible assumption | with_reducible apply keep_readCtx | with_reducible apply keep_setM | with_reducible refine keep_readCtx_eq (by assumption) ?_) | split | dsimp only
theorem keep_applyAdm {s0 : State} {s : State} {m : Nat} (hs : Keep s0 s) : Keep s0 (applyAdm s m) := by
  unfold applyAdm
  repeat' first | with_reducible assumption | intro _ | (with_reducible refine keep_of ?_; first | with_reducible assumption) | split | dsimp only
theorem keep_execModelLoadDone {s0 : State} {slot : Nat} {s : State} (hs : Keep s0 s) : KeepR s0 (execModelLoadDone slot s) := by
  unfold execModelLoadDone
  repeat' first | with_reducible assumption | with_reducible apply keep_capacity | with_reducible apply keep_applyAdm | with_reducible apply keep_setM | with_reducible apply keep_ite | with_reducible apply keepR_ite | exact keepR_refused | with_reducible apply keepR_next | intro _ | (with_reducible refine keep_of ?_; first | with_reducible assumption | with_reducible apply keep_capacity | with_reducible apply keep_applyAdm | with_reducible apply keep_setM) | split | dsimp only
theorem keep_hostAsk {s0 : State} {s : State} {f q : Nat} {wr : Bool} (hs : Keep s0 s) : Keep s0 (hostAsk s f q wr) := by
  unfold hostAsk
  repeat' first | with_reducible assumption | with_reducible apply keep_emit | with_reducible apply keep_ite | intro _ | (with_reducible refine keep_of ?_; first | with_reducible assumption | with_reducible apply keep_emit) | split | dsimp only
theorem keep_readStops {s0 : State} {s : State} {q f : Nat} {d : Desc} {rd : StopRead} (hs : Keep s0 s) : Keep s0 (readStops s q f d rd).1 := by
  unfold readStops
  repeat' first | with_reducible assumption | with_reducible apply keep_memRead | with_reducible apply keep_hostAsk | with_reducible refine keep_memRead_eq (by assumption) ?_ | with_reducible apply keep_ite | intro _ | (with_reducible refine keep_of ?_; first | with_reducible assumption | with_reducible apply keep_memRead | with_reducible apply keep_hostAsk | with_reducible refine keep_memRead_eq (by assumption) ?_) | split | dsimp only
theorem keep_readStops_eq {s0 : State} {s : State} {q f : Nat} {d : Desc} {rd : StopRead} {tz : State} {rz : StopTab} (ez : readStops s q f d rd = (tz, rz)) (hs : Keep s0 s) : Keep s0 tz := by
  rw [show tz = (readStops s q f d rd).1 from by rw [ez]]
  exact keep_readStops hs
theorem keep_popDesc {s0 : State} {s : State} {q : Nat} (hs : Keep s0 s) : Keep s0 (popDesc s q) := by
  unfold popDesc
  repeat' first | with_reducible assumption | with_reducible apply keep_setQ | intro _ | (with_reducible refine keep_of ?_; first | with_reducible assumption | with_reducible apply keep_setQ) | split | dsimp only
theorem keep_refuse {s0 : State} {s : State} {q g : Nat} {d : Desc} {row status : Nat} (hs : Keep s0 s) : Keep s0 (refuse s q g d row status) := by
  unfold refuse
  repeat' first | with_reducible assumption | with_reducible apply keep_cqDetail | with_reducible apply keep_bump | intro _ | (with_reducible refine keep_of ?_; first | with_reducible assumption | with_reducible apply keep_cqDetail | with_reducible apply keep_bump) | split | dsimp only
theorem keep_ackDesc {s0 : State} {s : State} {q g : Nat} {d : Desc} {status : Nat} (hs : Keep s0 s) : Keep s0 (ackDesc s q g d status) := by
  unfold ackDesc
  repeat' first | with_reducible assumption | with_reducible apply keep_cqDetail | intro _ | (with_reducible refine keep_of ?_; first | with_reducible assumption | with_reducible apply keep_cqDetail) | split | dsimp only
theorem keep_opCreate {s0 : State} {s : State} {g : Nat} {r : Req} (hs : Keep s0 s) : Keep s0 (opCreate s g r) := by
  unfold opCreate
  repeat' first | with_reducible assumption | with_reducible apply keep_bump | with_reducible apply keep_newSeq | with_reducible apply keep_setSlot | intro _ | (with_reducible refine keep_of ?_; first | with_reducible assumption | with_reducible apply keep_bump | with_reducible apply keep_newSeq | with_reducible apply keep_setSlot) | split | dsimp only
theorem keep_acceptGen {s0 : State} {opc q : Nat} {rd : StopRead} {s : State} (hs : Keep s0 s) : Keep s0 (acceptGen opc q rd s) := by
  unfold acceptGen
  repeat' first | with_reducible assumption | with_reducible apply keep_popDesc | with_reducible apply keep_readStops | with_reducible apply keep_refuse | with_reducible apply keep_opCreate | with_reducible refine keep_readStops_eq (by assumption) ?_ | with_reducible apply keep_ite | intro _ | (with_reducible refine keep_of ?_; first | with_reducible assumption | with_reducible apply keep_popDesc | with_reducible apply keep_readStops | with_reducible apply keep_refuse | with_reducible apply keep_opCreate | with_reducible refine keep_readStops_eq (by assumption) ?_) | split | dsimp only
theorem keep_execGenerate {s0 : State} {q : Nat} {rd : StopRead} {s : State} (hs : Keep s0 s) : KeepR s0 (execGenerate q rd s) := by
  unfold execGenerate
  repeat' first | with_reducible assumption | with_reducible apply keep_acceptGen | exact keepR_refused | with_reducible apply keepR_next | intro _ | (with_reducible refine keep_of ?_; first | with_reducible assumption | with_reducible apply keep_acceptGen) | split | dsimp only
theorem keep_execAppend {s0 : State} {q : Nat} {rd : StopRead} {s : State} (hs : Keep s0 s) : KeepR s0 (execAppend q rd s) := by
  unfold execAppend
  repeat' first | with_reducible assumption | with_reducible apply keep_acceptGen | exact keepR_refused | with_reducible apply keepR_next | intro _ | (with_reducible refine keep_of ?_; first | with_reducible assumption | with_reducible apply keep_acceptGen) | split | dsimp only
theorem keep_freeSlot {s0 : State} {s : State} {g : Nat} (hs : Keep s0 s) : Keep s0 (freeSlot s g) := by
  unfold freeSlot
  repeat' first | with_reducible assumption | with_reducible apply keep_setSlot | intro _ | (with_reducible refine keep_of ?_; first | with_reducible assumption | with_reducible apply keep_setSlot) | split | dsimp only
theorem keep_dropSeq {s0 : State} {s : State} {g : Nat} (hs : Keep s0 s) : Keep s0 (dropSeq s g) := by
  unfold dropSeq
  repeat' first | with_reducible assumption | with_reducible apply keep_ite | intro _ | (with_reducible refine keep_of ?_; first | with_reducible assumption) | split | dsimp only
theorem keep_tokEntry {s0 : State} {s : State} {g : Nat} {r : Req} {commit status : Nat} {ts : List (Nat × Int)} {more : Bool} {trick : Nat} (hs : Keep s0 s) : Keep s0 (tokEntry s g r commit status ts more trick) := by
  unfold tokEntry
  repeat' first | with_reducible assumption | with_reducible apply keep_cqAdd | with_reducible apply keep_ite | intro _ | (with_reducible refine keep_of ?_; first | with_reducible assumption | with_reducible apply keep_cqAdd) | split | dsimp only
theorem keep_endReq {s0 : State} {s : State} {g status reason ctr : Nat} (hs : Keep s0 s) : Keep s0 (endReq s g status reason ctr) := by
  unfold endReq
  repeat' first | with_reducible assumption | with_reducible apply keep_breachEnd | with_reducible apply keep_tokEntry | with_reducible apply keep_bump | with_reducible apply keep_cqDetail | with_reducible apply keep_freeSlot | with_reducible apply keep_dropSeq | with_reducible apply keep_setSlot | with_reducible apply keep_ite | intro _ | (with_reducible refine keep_of ?_; first | with_reducible assumption | with_reducible apply keep_breachEnd | with_reducible apply keep_tokEntry | with_reducible apply keep_bump | with_reducible apply keep_cqDetail | with_reducible apply keep_freeSlot | with_reducible apply keep_dropSeq | with_reducible apply keep_setSlot) | split | dsimp only
theorem keep_failReq {s0 : State} {s : State} {g cause : Nat} (hs : Keep s0 s) : Keep s0 (failReq s g cause) := by
  unfold failReq
  repeat' first | with_reducible assumption | with_reducible apply keep_endReq | intro _ | (with_reducible refine keep_of ?_; first | with_reducible assumption | with_reducible apply keep_endReq) | split | dsimp only
theorem keep_acceptCtl {s0 : State} {opc q : Nat} {s : State} {rows : State → Nat → Desc → List (Bool × Nat × Nat)} {f : State → Nat → Desc → State} (hs : Keep s0 s) (hf : ∀ y0 y1 y2, Keep s0 y0 → Keep s0 (f y0 y1 y2)) : Keep s0 (acceptCtl opc q s rows f) := by
  unfold acceptCtl
  repeat' first | with_reducible assumption | with_reducible apply hf | with_reducible apply keep_popDesc | with_reducible apply keep_refuse | intro _ | (with_reducible refine keep_of ?_; first | with_reducible assumption | with_reducible apply hf | with_reducible apply keep_popDesc | with_reducible apply keep_refuse) | split | dsimp only
theorem keep_execCancel {s0 : State} {q : Nat} {s : State} (hs : Keep s0 s) : KeepR s0 (execCancel q s) := by
  unfold execCancel
  repeat' first | with_reducible assumption | with_reducible apply keep_acceptCtl | with_reducible apply keep_ackDesc | with_reducible apply keep_endReq | exact keepR_refused | with_reducible apply keepR_next | intro _ | (with_reducible refine keep_of ?_; first | with_reducible assumption | with_reducible apply keep_acceptCtl | with_reducible apply keep_ackDesc | with_reducible apply keep_endReq) | split | dsimp only
theorem keep_hostPauseNow {s0 : State} {s : State} {g commit : Nat} (hs : Keep s0 s) : Keep s0 (hostPauseNow s g commit) := by
  unfold hostPauseNow
  repeat' first | with_reducible assumption | with_reducible apply keep_cqDetail | with_reducible apply keep_cqAdd | with_reducible apply keep_modReq | with_reducible apply keep_pauseMove | with_reducible apply keep_ite | intro _ | (with_reducible refine keep_of ?_; first | with_reducible assumption | with_reducible apply keep_cqDetail | with_reducible apply keep_cqAdd | with_reducible apply keep_modReq | with_reducible apply keep_pauseMove) | split | dsimp only
theorem keep_opPause {s0 : State} {s : State} {q g : Nat} {d : Desc} (hs : Keep s0 s) : Keep s0 (opPause s q g d) := by
  unfold opPause
  repeat' first | with_reducible assumption | with_reducible apply keep_modReq | with_reducible apply keep_hostPauseNow | with_reducible apply keep_ackDesc | with_reducible apply keep_ite | intro _ | (with_reducible refine keep_of ?_; first | with_reducible assumption | with_reducible apply keep_modReq | with_reducible apply keep_hostPauseNow | with_reducible apply keep_ackDesc) | split | dsimp only
theorem keep_execPause {s0 : State} {q : Nat} {s : State} (hs : Keep s0 s) : KeepR s0 (execPause q s) := by
  unfold execPause
  repeat' first | with_reducible assumption | with_reducible apply keep_acceptCtl | with_reducible apply keep_opPause | exact keepR_refused | with_reducible apply keepR_next | intro _ | (with_reducible refine keep_of ?_; first | with_reducible assumption | with_reducible apply keep_acceptCtl | with_reducible apply keep_opPause) | split | dsimp only
theorem keep_opResume {s0 : State} {s : State} {q g : Nat} {d : Desc} (hs : Keep s0 s) : Keep s0 (opResume s q g d) := by
  unfold opResume
  repeat' first | with_reducible assumption | with_reducible apply keep_modReq | with_reducible apply keep_resumeMove | with_reducible apply keep_ackDesc | with_reducible apply keep_ite | intro _ | (with_reducible refine keep_of ?_; first | with_reducible assumption | with_reducible apply keep_modReq | with_reducible apply keep_resumeMove | with_reducible apply keep_ackDesc) | split | dsimp only
theorem keep_execResume {s0 : State} {q : Nat} {s : State} (hs : Keep s0 s) : KeepR s0 (execResume q s) := by
  unfold execResume
  repeat' first | with_reducible assumption | with_reducible apply keep_acceptCtl | with_reducible apply keep_opResume | exact keepR_refused | with_reducible apply keepR_next | intro _ | (with_reducible refine keep_of ?_; first | with_reducible assumption | with_reducible apply keep_acceptCtl | with_reducible apply keep_opResume) | split | dsimp only
theorem keep_execRelease {s0 : State} {q : Nat} {s : State} (hs : Keep s0 s) : KeepR s0 (execRelease q s) := by
  unfold execRelease
  repeat' first | with_reducible assumption | with_reducible apply keep_acceptCtl | with_reducible apply keep_ackDesc | with_reducible apply keep_freeSlot | exact keepR_refused | with_reducible apply keepR_next | intro _ | (with_reducible refine keep_of ?_; first | with_reducible assumption | with_reducible apply keep_acceptCtl | with_reducible apply keep_ackDesc | with_reducible apply keep_freeSlot) | split | dsimp only
theorem keep_execDraft {s0 : State} {q : Nat} {s : State} (hs : Keep s0 s) : KeepR s0 (execDraft q s) := by
  unfold execDraft
  repeat' first | with_reducible assumption | with_reducible apply keep_acceptCtl | with_reducible apply keep_modReq | exact keepR_refused | with_reducible apply keepR_next | intro _ | (with_reducible refine keep_of ?_; first | with_reducible assumption | with_reducible apply keep_acceptCtl | with_reducible apply keep_modReq) | split | dsimp only
theorem keep_execTtlExpiry {s0 : State} {gid : Nat} {s : State} (hs : Keep s0 s) : KeepR s0 (execTtlExpiry gid s) := by
  unfold execTtlExpiry
  repeat' first | with_reducible assumption | with_reducible apply keep_bump | with_reducible apply keep_endReq | with_reducible apply keep_ite | with_reducible apply keepR_ite | exact keepR_refused | with_reducible apply keepR_next | intro _ | (with_reducible refine keep_of ?_; first | with_reducible assumption | with_reducible apply keep_bump | with_reducible apply keep_endReq) | split | dsimp only

end Sys2Proof.Machine
end

