-- ==== Sys2Proof/Laws/KeepDeal.lean ====
section
/-!
SUPPORT. Keep (the queue, the fuses, the byte memories, the free counter and the output) for every operation of Dealer, Commit, Recovery.
-/
set_option linter.unusedVariables false

namespace Sys2Proof.Machine

theorem keep_reportOnce {s0 : State} {s : State} {m a : Nat} (hs : Keep s0 s) : Keep s0 (reportOnce s m a) := by
  unfold reportOnce
  repeat' first | with_reducible assumption | with_reducible apply keep_reportPoison | with_reducible apply keep_ite | intro _ | (with_reducible refine keep_of ?_; first | with_reducible assumption | with_reducible apply keep_reportPoison) | split | dsimp only
theorem keep_setAdm {s0 : State} {s : State} {g a : Nat} (hs : Keep s0 s) : Keep s0 (setAdm s g a) := by
  unfold setAdm
  repeat' first | with_reducible assumption | with_reducible apply keep_modReq | intro _ | (with_reducible refine keep_of ?_; first | with_reducible assumption | with_reducible apply keep_modReq) | split | dsimp only
theorem keep_admitModel {s0 : State} {s : State} {m : Nat} (hs : Keep s0 s) : Keep s0 (admitModel s m) := by
  unfold admitModel
  repeat' first | with_reducible assumption | with_reducible apply keep_setAdm | with_reducible apply keep_foldl | with_reducible apply keep_foldl1 | with_reducible refine keep_foldl1_eq (by assumption) ?_ ?_ | with_reducible apply keep_ite | intro _ | (with_reducible refine keep_of ?_; first | with_reducible assumption | with_reducible apply keep_setAdm | with_reducible apply keep_foldl | with_reducible apply keep_foldl1 | with_reducible refine keep_foldl1_eq (by assumption) ?_ ?_) | split | dsimp only
theorem keep_withdrawModel {s0 : State} {s : State} {m : Nat} (hs : Keep s0 s) : Keep s0 (withdrawModel s m) := by
  unfold withdrawModel
  repeat' first | with_reducible assumption | with_reducible apply keep_modReq | with_reducible apply keep_foldl | with_reducible apply keep_foldl1 | with_reducible refine keep_foldl1_eq (by assumption) ?_ ?_ | intro _ | (with_reducible refine keep_of ?_; first | with_reducible assumption | with_reducible apply keep_modReq | with_reducible apply keep_foldl | with_reducible apply keep_foldl1 | with_reducible refine keep_foldl1_eq (by assumption) ?_ ?_) | split | dsimp only
theorem keep_declass {s0 : State} {s : State} (hs : Keep s0 s) : Keep s0 (declass s) := by
  unfold declass
  repeat' first | with_reducible assumption | with_reducible apply keep_modReq | with_reducible apply keep_foldl | with_reducible apply keep_foldl1 | with_reducible refine keep_foldl1_eq (by assumption) ?_ ?_ | with_reducible apply keep_ite | intro _ | (with_reducible refine keep_of ?_; first | with_reducible assumption | with_reducible apply keep_modReq | with_reducible apply keep_foldl | with_reducible apply keep_foldl1 | with_reducible refine keep_foldl1_eq (by assumption) ?_ ?_) | split | dsimp only
theorem keep_withdrawInter {s0 : State} {s : State} {m : Nat} (hs : Keep s0 s) : Keep s0 (withdrawInter s m) := by
  unfold withdrawInter
  repeat' first | with_reducible assumption | with_reducible apply keep_modReq | with_reducible apply keep_foldl | with_reducible apply keep_foldl1 | with_reducible refine keep_foldl1_eq (by assumption) ?_ ?_ | with_reducible apply keep_ite | intro _ | (with_reducible refine keep_of ?_; first | with_reducible assumption | with_reducible apply keep_modReq | with_reducible apply keep_foldl | with_reducible apply keep_foldl1 | with_reducible refine keep_foldl1_eq (by assumption) ?_ ?_) | split | dsimp only
theorem keep_admitAll {s0 : State} {s : State} (hs : Keep s0 s) : Keep s0 (admitAll s) := by
  unfold admitAll
  repeat' first | with_reducible assumption | with_reducible apply keep_declass | with_reducible apply keep_withdrawModel | with_reducible apply keep_withdrawInter | with_reducible apply keep_admitModel | with_reducible apply keep_foldl | with_reducible apply keep_foldl1 | with_reducible refine keep_foldl1_eq (by assumption) ?_ ?_ | with_reducible apply keep_ite | intro _ | (with_reducible refine keep_of ?_; first | with_reducible assumption | with_reducible apply keep_declass | with_reducible apply keep_withdrawModel | with_reducible apply keep_withdrawInter | with_reducible apply keep_admitModel | with_reducible apply keep_foldl | with_reducible apply keep_foldl1 | with_reducible refine keep_foldl1_eq (by assumption) ?_ ?_) | split | dsimp only
theorem keep_holdAll {s0 : State} {s : State} (hs : Keep s0 s) : Keep s0 (holdAll s).1 := by
  unfold holdAll
  repeat' first | with_reducible assumption | with_reducible apply keep_modReq | with_reducible apply keep_foldl | with_reducible apply keep_foldl1 | with_reducible refine keep_foldl1_eq (by assumption) ?_ ?_ | intro _ | (with_reducible refine keep_of ?_; first | with_reducible assumption | with_reducible apply keep_modReq | with_reducible apply keep_foldl | with_reducible apply keep_foldl1 | with_reducible refine keep_foldl1_eq (by assumption) ?_ ?_) | split | dsimp only
theorem keep_holdAll_eq {s0 : State} {s : State} {tz : State} {rz : Sparse Nat} (ez : holdAll s = (tz, rz)) (hs : Keep s0 s) : Keep s0 tz := by
  rw [show tz = (holdAll s).1 from by rw [ez]]
  exact keep_holdAll hs
theorem keep_seqOut {s0 : State} {s : State} {m g len : Nat} {tz : State} (ez : seqOut s m g len = some tz) (hs : Keep s0 s) :
    Keep s0 tz := by
  unfold seqOut at ez
  split at ez
  · cases ez
    exact keep_reportOnce hs
  · rw [Option.map_eq_some_iff] at ez
    obtain ⟨p, _, rfl⟩ := ez
    exact keep_walkErr (keep_bump hs)
theorem keep_readChunk {s0 : State} {s : State} {g : Nat} {r : Req} {i n : Nat} {prompts : List PromptRead} (hs : Keep s0 s) : Keep s0 (readChunk s g r i n prompts).1 := by
  unfold readChunk
  repeat' first | with_reducible assumption | with_reducible apply keep_memRead | with_reducible apply keep_hostAsk | with_reducible refine keep_memRead_eq (by assumption) ?_ | with_reducible apply keep_ite | intro _ | (with_reducible refine keep_of ?_; first | with_reducible assumption | with_reducible apply keep_memRead | with_reducible apply keep_hostAsk | with_reducible refine keep_memRead_eq (by assumption) ?_) | split | dsimp only
theorem keep_readChunk_eq {s0 : State} {s : State} {g : Nat} {r : Req} {i n : Nat} {prompts : List PromptRead} {tz : State} {rz : Chunk} (ez : readChunk s g r i n prompts = (tz, rz)) (hs : Keep s0 s) : Keep s0 tz := by
  rw [show tz = (readChunk s g r i n prompts).1 from by rw [ez]]
  exact keep_readChunk hs
theorem keep_putCpls {s0 : State} {s : State} {snap : Sparse (List Nat)} {m : Nat} {cores : List Nat} {es : List TEntry} {round : Nat} (hs : Keep s0 s) : Keep s0 (putCpls s snap m cores es round).1 := by
  unfold putCpls
  repeat' first | with_reducible assumption | with_reducible apply keep_memWrite | with_reducible refine keep_memWrite_eq (by assumption) ?_ | with_reducible apply keep_foldl | with_reducible apply keep_foldl1 | with_reducible refine keep_foldl1_eq (by assumption) ?_ ?_ | with_reducible apply keep_ite | intro _ | (with_reducible refine keep_of ?_; first | with_reducible assumption | with_reducible apply keep_memWrite | with_reducible refine keep_memWrite_eq (by assumption) ?_ | with_reducible apply keep_foldl | with_reducible apply keep_foldl1 | with_reducible refine keep_foldl1_eq (by assumption) ?_ ?_) | split | dsimp only
theorem keep_putCpls_eq {s0 : State} {s : State} {snap : Sparse (List Nat)} {m : Nat} {cores : List Nat} {es : List TEntry} {round : Nat} {tz : State} {rz : Nat} (ez : putCpls s snap m cores es round = (tz, rz)) (hs : Keep s0 s) : Keep s0 tz := by
  rw [show tz = (putCpls s snap m cores es round).1 from by rw [ez]]
  exact keep_putCpls hs
theorem keep_dealRuns {s0 : State} {s : State} {t : Trick} (hs : Keep s0 s) : Keep s0 (dealRuns s t).1 := by
  unfold dealRuns
  repeat' first | with_reducible assumption | with_reducible apply keep_memWrite | with_reducible apply keep_putCpls | with_reducible refine keep_memWrite_eq (by assumption) ?_ | with_reducible refine keep_putCpls_eq (by assumption) ?_ | with_reducible apply keep_foldl | with_reducible apply keep_foldl1 | with_reducible refine keep_foldl1_eq (by assumption) ?_ ?_ | with_reducible apply keep_ite | intro _ | (with_reducible refine keep_of ?_; first | with_reducible assumption | with_reducible apply keep_memWrite | with_reducible apply keep_putCpls | with_reducible refine keep_memWrite_eq (by assumption) ?_ | with_reducible refine keep_putCpls_eq (by assumption) ?_ | with_reducible apply keep_foldl | with_reducible apply keep_foldl1 | with_reducible refine keep_foldl1_eq (by assumption) ?_ ?_) | split | dsimp only
theorem keep_dealRuns_eq {s0 : State} {s : State} {t : Trick} {tz : State} {rz : List TRun} (ez : dealRuns s t = (tz, rz)) (hs : Keep s0 s) : Keep s0 tz := by
  rw [show tz = (dealRuns s t).1 from by rw [ez]]
  exact keep_dealRuns hs
theorem keep_rereadCtx {s0 : State} {s : State} (hs : Keep s0 s) : Keep s0 (rereadCtx s) := by
  unfold rereadCtx
  repeat' first | with_reducible assumption | with_reducible apply keep_readCtx | with_reducible apply keep_setM | with_reducible refine keep_readCtx_eq (by assumption) ?_ | with_reducible apply keep_foldl | with_reducible apply keep_foldl1 | with_reducible refine keep_foldl1_eq (by assumption) ?_ ?_ | with_reducible apply keep_ite | intro _ | (with_reducible refine keep_of ?_; first | with_reducible assumption | with_reducible apply keep_readCtx | with_reducible apply keep_setM | with_reducible refine keep_readCtx_eq (by assumption) ?_ | with_reducible apply keep_foldl | with_reducible apply keep_foldl1 | with_reducible refine keep_foldl1_eq (by assumption) ?_ ?_) | split | dsimp only
theorem keep_noteDemand {s0 : State} {s : State} (hs : Keep s0 s) : Keep s0 (noteDemand s) := by
  unfold noteDemand
  repeat' first | with_reducible assumption | intro _ | (with_reducible refine keep_of ?_; first | with_reducible assumption) | split | dsimp only
theorem keep_applyWaits {s0 : State} {s : State} (hs : Keep s0 s) : Keep s0 (applyWaits s) := by
  unfold applyWaits
  repeat' first | with_reducible assumption | with_reducible apply keep_applyAdm | with_reducible apply keep_foldl | with_reducible apply keep_foldl1 | with_reducible refine keep_foldl1_eq (by assumption) ?_ ?_ | intro _ | (with_reducible refine keep_of ?_; first | with_reducible assumption | with_reducible apply keep_applyAdm | with_reducible apply keep_foldl | with_reducible apply keep_foldl1 | with_reducible refine keep_foldl1_eq (by assumption) ?_ ?_) | split | dsimp only
theorem keep_spillFirst {s0 : State} {s : State} (hs : Keep s0 s) : Keep s0 (spillFirst s) := by
  unfold spillFirst
  repeat' first | with_reducible assumption | with_reducible apply keep_spillGo | with_reducible apply keep_foldl | with_reducible apply keep_foldl1 | with_reducible refine keep_foldl1_eq (by assumption) ?_ ?_ | with_reducible apply keep_ite | intro _ | (with_reducible refine keep_of ?_; first | with_reducible assumption | with_reducible apply keep_spillGo | with_reducible apply keep_foldl | with_reducible apply keep_foldl1 | with_reducible refine keep_foldl1_eq (by assumption) ?_ ?_) | split | dsimp only
theorem keep_clearSems {s0 : State} {s : State} {ms : List Nat} (hs : Keep s0 s) : Keep s0 (clearSems s ms) := by
  unfold clearSems
  repeat' first | with_reducible assumption | intro _ | (with_reducible refine keep_of ?_; first | with_reducible assumption) | split | dsimp only
theorem keep_placeDecode {s0 : State} {keep : Sparse Nat} {b : Build} {e : Nat × Req} (h : Keep s0 b.s) :
    Keep s0 (placeDecode keep b e).s := by
  unfold placeDecode
  repeat' first
    | with_reducible assumption
    | with_reducible apply keep_allocPages
    | with_reducible refine keep_seqOut (by assumption) ?_
    | with_reducible refine keep_allocPages_eq (by assumption) ?_
    | with_reducible apply keep_modReq
    | split
    | dsimp only
theorem keep_placeChunk {s0 : State} {prompts : List PromptRead} {b : Build} {e : Nat × Req} (h : Keep s0 b.s) :
    Keep s0 (placeChunk prompts b e).s := by
  unfold placeChunk
  dsimp only
  repeat' first
    | with_reducible assumption
    | with_reducible apply keep_allocPages
    | with_reducible refine keep_seqOut (by assumption) ?_
    | with_reducible refine keep_allocPages_eq (by assumption) ?_
    | with_reducible apply keep_modReq
    | with_reducible apply keep_failReq
    | with_reducible refine keep_readChunk_eq (by assumption) ?_
    | split
    | dsimp only
theorem keep_buildEntries {s0 : State} {s : State} {keep : Sparse Nat} {prompts : List PromptRead} (h : Keep s0 s) :
    Keep s0 (buildEntries s keep prompts).s := by
  unfold buildEntries
  dsimp only
  have H : ∀ (f : Build → (Nat × Req) → Build), (∀ b e, Keep s0 b.s → Keep s0 (f b e).s) → ∀ (l : List (Nat × Req)) (b : Build),
      Keep s0 b.s → Keep s0 (l.foldl f b).s := fun f hf l => by
    induction l with
    | nil => exact fun b hb => hb
    | cons a t ih => exact fun b hb => ih _ (hf b a hb)
  exact H _ (fun b e => keep_placeChunk) _ _ (H _ (fun b e => keep_placeDecode) _ _ h)
theorem keep_opBuild {s0 : State} {s : State} {prompts : List PromptRead} (hs : Keep s0 s) : Keep s0 (opBuild s prompts) := by
  unfold opBuild
  repeat' first | with_reducible assumption | with_reducible apply keep_buildEntries | with_reducible apply keep_invalDrop | with_reducible apply keep_applyWaits | with_reducible apply keep_holdAll | with_reducible apply keep_admitAll | with_reducible apply keep_spillFirst | with_reducible apply keep_rereadCtx | with_reducible apply keep_noteDemand | with_reducible apply keep_dealRuns | with_reducible apply keep_bump | with_reducible apply keep_layerBegin | with_reducible apply keep_clearSems | with_reducible refine keep_holdAll_eq (by assumption) ?_ | with_reducible refine keep_dealRuns_eq (by assumption) ?_ | with_reducible apply keep_foldl | with_reducible apply keep_foldl1 | with_reducible refine keep_foldl1_eq (by assumption) ?_ ?_ | with_reducible apply keep_ite | intro _ | (with_reducible refine keep_of ?_; first | with_reducible assumption | with_reducible apply keep_buildEntries | with_reducible apply keep_invalDrop | with_reducible apply keep_applyWaits | with_reducible apply keep_holdAll | with_reducible apply keep_admitAll | with_reducible apply keep_spillFirst | with_reducible apply keep_rereadCtx | with_reducible apply keep_noteDemand | with_reducible apply keep_dealRuns | with_reducible apply keep_bump | with_reducible apply keep_layerBegin | with_reducible apply keep_clearSems | with_reducible refine keep_holdAll_eq (by assumption) ?_ | with_reducible refine keep_dealRuns_eq (by assumption) ?_ | with_reducible apply keep_foldl | with_reducible apply keep_foldl1 | with_reducible refine keep_foldl1_eq (by assumption) ?_ ?_) | split | dsimp only
theorem keep_execTrickBuild {s0 : State} {prompts : List PromptRead} {s : State} (hs : Keep s0 s) : KeepR s0 (execTrickBuild prompts s) := by
  unfold execTrickBuild
  repeat' first | with_reducible assumption | with_reducible apply keep_opBuild | with_reducible apply keep_ite | with_reducible apply keepR_ite | exact keepR_refused | with_reducible apply keepR_next | intro _ | (with_reducible refine keep_of ?_; first | with_reducible assumption | with_reducible apply keep_opBuild) | split | dsimp only
theorem keep_tokEntries {s0 : State} {s : State} {g : Nat} {r : Req} {num status : Nat} {x0 : List (List (Nat × Int))} (hs : Keep s0 s) : Keep s0 (tokEntries s g r num status x0) := by
  fun_induction tokEntries <;>
  repeat' first | with_reducible assumption | with_reducible apply keep_tokEntry | intro _ | (with_reducible refine keep_of ?_; first | with_reducible assumption | with_reducible apply keep_tokEntry) | apply_assumption | split | dsimp only
theorem keep_outTokens {s0 : State} {s : State} {g : Nat} {r : Req} {num : Nat} {ts : List (Nat × Int)} (hs : Keep s0 s) : Keep s0 (outTokens s g r num ts).1 := by
  unfold outTokens
  repeat' first | with_reducible assumption | with_reducible apply keep_tokEntry | with_reducible apply keep_tokEntries | with_reducible apply keep_foldl | with_reducible apply keep_foldl1 | with_reducible refine keep_foldl1_eq (by assumption) ?_ ?_ | with_reducible apply keep_ite | intro _ | (with_reducible refine keep_of ?_; first | with_reducible assumption | with_reducible apply keep_tokEntry | with_reducible apply keep_tokEntries | with_reducible apply keep_foldl | with_reducible apply keep_foldl1 | with_reducible refine keep_foldl1_eq (by assumption) ?_ ?_) | split | dsimp only
theorem keep_outTokens_eq {s0 : State} {s : State} {g : Nat} {r : Req} {num : Nat} {ts : List (Nat × Int)} {tz : State} {rz : List (Nat × Int)} (ez : outTokens s g r num ts = (tz, rz)) (hs : Keep s0 s) : Keep s0 tz := by
  rw [show tz = (outTokens s g r num ts).1 from by rw [ez]]
  exact keep_outTokens hs
theorem keep_finishReq {s0 : State} {s : State} {g : Nat} {r : Req} {num status : Nat} {ts : List (Nat × Int)} (hs : Keep s0 s) : Keep s0 (finishReq s g r num status ts) := by
  unfold finishReq
  repeat' first | with_reducible assumption | with_reducible apply keep_bump | with_reducible apply keep_tokEntries | with_reducible apply keep_breachEnd | with_reducible apply keep_setSlot | with_reducible apply keep_freeSlot | with_reducible apply keep_ite | intro _ | (with_reducible refine keep_of ?_; first | with_reducible assumption | with_reducible apply keep_bump | with_reducible apply keep_tokEntries | with_reducible apply keep_breachEnd | with_reducible apply keep_setSlot | with_reducible apply keep_freeSlot) | split | dsimp only
theorem keep_commitSample {s0 : State} {s : State} {num : Nat} {e : TEntry} {rows : List (List Cand)} (hs : Keep s0 s) : Keep s0 (commitSample s num e rows) := by
  unfold commitSample
  repeat' first | with_reducible assumption | with_reducible apply keep_setA | with_reducible apply keep_bumpBy | with_reducible apply keep_writeUsed | with_reducible apply keep_setSlot | with_reducible apply keep_finishReq | with_reducible apply keep_modReq | with_reducible apply keep_outTokens | with_reducible apply keep_cqAdd | with_reducible refine keep_outTokens_eq (by assumption) ?_ | with_reducible apply keep_ite | intro _ | (with_reducible refine keep_of ?_; first | with_reducible assumption | with_reducible apply keep_setA | with_reducible apply keep_bumpBy | with_reducible apply keep_writeUsed | with_reducible apply keep_setSlot | with_reducible apply keep_finishReq | with_reducible apply keep_modReq | with_reducible apply keep_outTokens | with_reducible apply keep_cqAdd | with_reducible refine keep_outTokens_eq (by assumption) ?_) | split | dsimp only
theorem keep_commitChunk {s0 : State} {s : State} {num : Nat} {e : TEntry} (hs : Keep s0 s) : Keep s0 (commitChunk s num e) := by
  unfold commitChunk
  repeat' first | with_reducible assumption | with_reducible apply keep_setA | with_reducible apply keep_writeUsed | with_reducible apply keep_setSlot | with_reducible apply keep_modReq | intro _ | (with_reducible refine keep_of ?_; first | with_reducible assumption | with_reducible apply keep_setA | with_reducible apply keep_writeUsed | with_reducible apply keep_setSlot | with_reducible apply keep_modReq) | split | dsimp only
theorem keep_commitGo {s0 : State} {num : Nat} {x0 : State} {x1 : List TEntry} {x2 : List (List Cand)} (hx0 : Keep s0 x0) : Keep s0 (commitGo num x0 x1 x2) := by
  fun_induction commitGo <;>
  repeat' first | with_reducible assumption | with_reducible apply keep_commitSample | with_reducible apply keep_commitChunk | with_reducible apply keep_ite | intro _ | (with_reducible refine keep_of ?_; first | with_reducible assumption | with_reducible apply keep_commitSample | with_reducible apply keep_commitChunk) | apply_assumption | split | dsimp only
theorem keep_commitPauses {s0 : State} {s : State} {t : Trick} (hs : Keep s0 s) : Keep s0 (commitPauses s t) := by
  unfold commitPauses
  repeat' first | with_reducible assumption | with_reducible apply keep_hostPauseNow | with_reducible apply keep_foldl | with_reducible apply keep_foldl1 | with_reducible refine keep_foldl1_eq (by assumption) ?_ ?_ | with_reducible apply keep_ite | intro _ | (with_reducible refine keep_of ?_; first | with_reducible assumption | with_reducible apply keep_hostPauseNow | with_reducible apply keep_foldl | with_reducible apply keep_foldl1 | with_reducible refine keep_foldl1_eq (by assumption) ?_ ?_) | split | dsimp only
theorem keep_breachStep {s0 : State} {t : Trick} {s : State} {e : Nat × Req} (hs : Keep s0 s) : Keep s0 (breachStep t s e) := by
  unfold breachStep
  repeat' first | with_reducible assumption | with_reducible apply keep_breachOut | with_reducible apply keep_modReq | with_reducible apply keep_ite | intro _ | (with_reducible refine keep_of ?_; first | with_reducible assumption | with_reducible apply keep_breachOut | with_reducible apply keep_modReq) | split | dsimp only
theorem keep_noteWin {s0 : State} {s : State} {t : Trick} (hs : Keep s0 s) : Keep s0 (noteWin s t) := by
  unfold noteWin
  repeat' first | with_reducible assumption | intro _ | (with_reducible refine keep_of ?_; first | with_reducible assumption) | split | dsimp only
theorem keep_countTrick {s0 : State} {s : State} {t : Trick} (hs : Keep s0 s) : Keep s0 (countTrick s t) := by
  unfold countTrick
  repeat' first | with_reducible assumption | with_reducible apply keep_bumpBy | intro _ | (with_reducible refine keep_of ?_; first | with_reducible assumption | with_reducible apply keep_bumpBy) | split | dsimp only
theorem keep_noteAccts {s0 : State} {s : State} (hs : Keep s0 s) : Keep s0 (noteAccts s) := by
  unfold noteAccts
  repeat' first | with_reducible assumption | intro _ | (with_reducible refine keep_of ?_; first | with_reducible assumption) | split | dsimp only
theorem keep_opCommit {s0 : State} {s : State} {t : Trick} {cands : List (List Cand)} (hs : Keep s0 s) : Keep s0 (opCommit s t cands) := by
  unfold opCommit
  repeat' first | with_reducible assumption | with_reducible apply keep_breachStep | with_reducible apply keep_commitGo | with_reducible apply keep_wrPair | with_reducible apply keep_countTrick | with_reducible apply keep_noteWin | with_reducible apply keep_noteAccts | with_reducible apply keep_commitPauses | with_reducible apply keep_foldl | with_reducible apply keep_foldl1 | with_reducible refine keep_foldl1_eq (by assumption) ?_ ?_ | intro _ | (with_reducible refine keep_of ?_; first | with_reducible assumption | with_reducible apply keep_breachStep | with_reducible apply keep_commitGo | with_reducible apply keep_wrPair | with_reducible apply keep_countTrick | with_reducible apply keep_noteWin | with_reducible apply keep_noteAccts | with_reducible apply keep_commitPauses | with_reducible apply keep_foldl | with_reducible apply keep_foldl1 | with_reducible refine keep_foldl1_eq (by assumption) ?_ ?_) | split | dsimp only
theorem keep_execCommit {s0 : State} {cands : List (List Cand)} {s : State} (hs : Keep s0 s) : KeepR s0 (execCommit cands s) := by
  unfold execCommit
  repeat' first | with_reducible assumption | with_reducible apply keep_opCommit | with_reducible apply keep_ite | with_reducible apply keepR_ite | exact keepR_refused | with_reducible apply keepR_next | intro _ | (with_reducible refine keep_of ?_; first | with_reducible assumption | with_reducible apply keep_opCommit) | split | dsimp only
theorem keep_execCompletionWrite {s0 : State} {q : Nat} {ok : Bool} {s : State} (hs : Keep s0 s) : KeepR s0 (execCompletionWrite q ok s) := by
  unfold execCompletionWrite
  repeat' first | with_reducible assumption | with_reducible apply keep_hostAsk | with_reducible apply keep_setQ | with_reducible apply keep_memWrite | with_reducible apply keep_emit | with_reducible refine keep_memWrite_eq (by assumption) ?_ | with_reducible apply keep_ite | with_reducible apply keepR_ite | exact keepR_refused | with_reducible apply keepR_next | intro _ | (with_reducible refine keep_of ?_; first | with_reducible assumption | with_reducible apply keep_hostAsk | with_reducible apply keep_setQ | with_reducible apply keep_memWrite | with_reducible apply keep_emit | with_reducible refine keep_memWrite_eq (by assumption) ?_) | split | dsimp only
theorem keep_opTrickEnd {s0 : State} {s : State} {t : Trick} (hs : Keep s0 s) : Keep s0 (opTrickEnd s t) := by
  unfold opTrickEnd
  repeat' first | with_reducible assumption | with_reducible apply keep_wrPair | with_reducible apply keep_makeFree | with_reducible apply keep_slotFree | with_reducible apply keep_invalDone | with_reducible apply keep_foldl | with_reducible apply keep_foldl1 | with_reducible refine keep_foldl1_eq (by assumption) ?_ ?_ | intro _ | (with_reducible refine keep_of ?_; first | with_reducible assumption | with_reducible apply keep_wrPair | with_reducible apply keep_makeFree | with_reducible apply keep_slotFree | with_reducible apply keep_invalDone | with_reducible apply keep_foldl | with_reducible apply keep_foldl1 | with_reducible refine keep_foldl1_eq (by assumption) ?_ ?_) | split | dsimp only
theorem keep_execTrickEnd {s0 : State} {s : State} (hs : Keep s0 s) : KeepR s0 (execTrickEnd s) := by
  unfold execTrickEnd
  repeat' first | with_reducible assumption | with_reducible apply keep_opTrickEnd | with_reducible apply keep_ite | with_reducible apply keepR_ite | exact keepR_refused | with_reducible apply keepR_next | intro _ | (with_reducible refine keep_of ?_; first | with_reducible assumption | with_reducible apply keep_opTrickEnd) | split | dsimp only
theorem keep_abortTrick {s0 : State} {s : State} (hs : Keep s0 s) : Keep s0 (abortTrick s) := by
  unfold abortTrick
  repeat' first | with_reducible assumption | with_reducible apply keep_abortRun | with_reducible apply keep_unitAbort1 | with_reducible apply keep_foldl | with_reducible apply keep_foldl1 | with_reducible refine keep_foldl1_eq (by assumption) ?_ ?_ | intro _ | (with_reducible refine keep_of ?_; first | with_reducible assumption | with_reducible apply keep_abortRun | with_reducible apply keep_unitAbort1 | with_reducible apply keep_foldl | with_reducible apply keep_foldl1 | with_reducible refine keep_foldl1_eq (by assumption) ?_ ?_) | split | dsimp only
theorem keep_dropAtStart {s0 : State} {s : State} {t : Trick} {gs : List Nat} (hs : Keep s0 s) : Keep s0 (dropAtStart s t gs) := by
  unfold dropAtStart
  repeat' first | with_reducible assumption | with_reducible apply keep_memRead | with_reducible apply keep_memWrite | with_reducible refine keep_memRead_eq (by assumption) ?_ | with_reducible refine keep_memWrite_eq (by assumption) ?_ | with_reducible apply keep_foldl | with_reducible apply keep_foldl1 | with_reducible refine keep_foldl1_eq (by assumption) ?_ ?_ | with_reducible apply keep_ite | intro _ | (with_reducible refine keep_of ?_; first | with_reducible assumption | with_reducible apply keep_memRead | with_reducible apply keep_memWrite | with_reducible refine keep_memRead_eq (by assumption) ?_ | with_reducible refine keep_memWrite_eq (by assumption) ?_ | with_reducible apply keep_foldl | with_reducible apply keep_foldl1 | with_reducible refine keep_foldl1_eq (by assumption) ?_ ?_) | split | dsimp only
theorem keep_replayTrick {s0 : State} {s : State} {gs : List Nat} (hs : Keep s0 s) : Keep s0 (replayTrick s gs) := by
  unfold replayTrick
  repeat' first | with_reducible assumption | with_reducible apply keep_dropAtStart | with_reducible apply keep_abortTrick | with_reducible apply keep_bump | with_reducible apply keep_layerBegin | with_reducible apply keep_clearSems | with_reducible apply keep_foldl | with_reducible apply keep_foldl1 | with_reducible refine keep_foldl1_eq (by assumption) ?_ ?_ | with_reducible apply keep_ite | intro _ | (with_reducible refine keep_of ?_; first | with_reducible assumption | with_reducible apply keep_dropAtStart | with_reducible apply keep_abortTrick | with_reducible apply keep_bump | with_reducible apply keep_layerBegin | with_reducible apply keep_clearSems | with_reducible apply keep_foldl | with_reducible apply keep_foldl1 | with_reducible refine keep_foldl1_eq (by assumption) ?_ ?_) | split | dsimp only
theorem keep_recCode {s0 : State} {s : State} {r : Report} (hs : Keep s0 s) : Keep s0 (recCode s r).1 := by
  unfold recCode
  repeat' first | with_reducible assumption | with_reducible apply keep_useFree | intro _ | (with_reducible refine keep_of ?_; first | with_reducible assumption | with_reducible apply keep_useFree) | split | dsimp only
theorem keep_recCode_eq {s0 : State} {s : State} {r : Report} {tz : State} {rz : Nat} (ez : recCode s r = (tz, rz)) (hs : Keep s0 s) : Keep s0 tz := by
  rw [show tz = (recCode s r).1 from by rw [ez]]
  exact keep_recCode hs
theorem keep_modelFault {s0 : State} {s : State} {m code trick : Nat} (hs : Keep s0 s) : Keep s0 (modelFault s m code trick) := by
  unfold modelFault
  repeat' first | with_reducible assumption | with_reducible apply keep_setM | with_reducible apply keep_failReq | with_reducible apply keep_foldl | with_reducible apply keep_foldl1 | with_reducible refine keep_foldl1_eq (by assumption) ?_ ?_ | with_reducible apply keep_ite | intro _ | (with_reducible refine keep_of ?_; first | with_reducible assumption | with_reducible apply keep_setM | with_reducible apply keep_failReq | with_reducible apply keep_foldl | with_reducible apply keep_foldl1 | with_reducible refine keep_foldl1_eq (by assumption) ?_ ?_) | split | dsimp only
theorem keep_modelFaultFree {s0 : State} {s : State} {m trick : Nat} (hs : Keep s0 s) : Keep s0 (modelFaultFree s m trick) := by
  unfold modelFaultFree
  repeat' first | with_reducible assumption | with_reducible apply keep_modelFault | with_reducible apply keep_useFree | intro _ | (with_reducible refine keep_of ?_; first | with_reducible assumption | with_reducible apply keep_modelFault | with_reducible apply keep_useFree) | split | dsimp only
theorem keep_stackGone {s0 : State} {s : State} {stk trick : Nat} (hs : Keep s0 s) : Keep s0 (stackGone s stk trick) := by
  unfold stackGone
  repeat' first | with_reducible assumption | with_reducible apply keep_modelFaultFree | with_reducible apply keep_replayTrick | with_reducible apply keep_failReq | with_reducible apply keep_foldl | with_reducible apply keep_foldl1 | with_reducible refine keep_foldl1_eq (by assumption) ?_ ?_ | intro _ | (with_reducible refine keep_of ?_; first | with_reducible assumption | with_reducible apply keep_modelFaultFree | with_reducible apply keep_replayTrick | with_reducible apply keep_failReq | with_reducible apply keep_foldl | with_reducible apply keep_foldl1 | with_reducible refine keep_foldl1_eq (by assumption) ?_ ?_) | split | dsimp only
theorem keep_poisoned {s0 : State} {s : State} {r : Report} (hs : Keep s0 s) : Keep s0 (poisoned s r) := by
  unfold poisoned
  repeat' first | with_reducible assumption | with_reducible apply keep_replayTrick | with_reducible apply keep_modelFault | with_reducible apply keep_failReq | with_reducible apply keep_foldl | with_reducible apply keep_foldl1 | with_reducible refine keep_foldl1_eq (by assumption) ?_ ?_ | with_reducible apply keep_ite | intro _ | (with_reducible refine keep_of ?_; first | with_reducible assumption | with_reducible apply keep_replayTrick | with_reducible apply keep_modelFault | with_reducible apply keep_failReq | with_reducible apply keep_foldl | with_reducible apply keep_foldl1 | with_reducible refine keep_foldl1_eq (by assumption) ?_ ?_) | split | dsimp only
theorem keep_moveWork {s0 : State} {s : State} {c : Option Nat} {l : Nat} (hs : Keep s0 s) : Keep s0 (moveWork s c l) := by
  unfold moveWork
  repeat' first | with_reducible assumption | intro _ | (with_reducible refine keep_of ?_; first | with_reducible assumption) | split | dsimp only
theorem keep_clusterOut {s0 : State} {s : State} {c : Nat} (hs : Keep s0 s) : Keep s0 (clusterOut s c) := by
  unfold clusterOut
  repeat' first | with_reducible assumption | with_reducible apply keep_moveWork | with_reducible apply keep_capacity | with_reducible apply keep_foldl | with_reducible apply keep_foldl1 | with_reducible refine keep_foldl1_eq (by assumption) ?_ ?_ | intro _ | (with_reducible refine keep_of ?_; first | with_reducible assumption | with_reducible apply keep_moveWork | with_reducible apply keep_capacity | with_reducible apply keep_foldl | with_reducible apply keep_foldl1 | with_reducible refine keep_foldl1_eq (by assumption) ?_ ?_) | split | dsimp only
theorem keep_clusterBack {s0 : State} {s : State} {c : Nat} (hs : Keep s0 s) : Keep s0 (clusterBack s c) := by
  unfold clusterBack
  repeat' first | with_reducible assumption | with_reducible apply keep_qsPut | with_reducible apply keep_capacity | with_reducible apply keep_moveWork | with_reducible apply keep_foldl | with_reducible apply keep_foldl1 | with_reducible refine keep_foldl1_eq (by assumption) ?_ ?_ | with_reducible apply keep_ite | intro _ | (with_reducible refine keep_of ?_; first | with_reducible assumption | with_reducible apply keep_qsPut | with_reducible apply keep_capacity | with_reducible apply keep_moveWork | with_reducible apply keep_foldl | with_reducible apply keep_foldl1 | with_reducible refine keep_foldl1_eq (by assumption) ?_ ?_) | split | dsimp only
theorem keep_retireCluster {s0 : State} {s : State} {c : Nat} (hs : Keep s0 s) : Keep s0 (retireCluster s c) := by
  unfold retireCluster
  repeat' first | with_reducible assumption | with_reducible apply keep_clusterOut | with_reducible apply keep_rasPut | with_reducible apply keep_setBlk | with_reducible apply keep_replayTrick | intro _ | (with_reducible refine keep_of ?_; first | with_reducible assumption | with_reducible apply keep_clusterOut | with_reducible apply keep_rasPut | with_reducible apply keep_setBlk | with_reducible apply keep_replayTrick) | split | dsimp only
theorem keep_subCore {s0 : State} {q : Option Nat} {c : Nat} {x0 : Nat} {x1 : List Bool} {x2 : State} (hx2 : Keep s0 x2) : Keep s0 (subCore q c x0 x1 x2) := by
  fun_induction subCore <;>
  repeat' first | with_reducible assumption | with_reducible apply keep_jrnPut | with_reducible apply keep_retireCluster | with_reducible apply keep_stageCore | with_reducible apply keep_rasPut | with_reducible apply keep_wrBit | with_reducible apply keep_ite | intro _ | (with_reducible refine keep_of ?_; first | with_reducible assumption | with_reducible apply keep_jrnPut | with_reducible apply keep_retireCluster | with_reducible apply keep_stageCore | with_reducible apply keep_rasPut | with_reducible apply keep_wrBit) | apply_assumption | split | dsimp only
theorem keep_retireCore {s0 : State} {s : State} {c p : Nat} {tests : List Bool} (hs : Keep s0 s) : Keep s0 (retireCore s c p tests) := by
  unfold retireCore
  repeat' first | with_reducible assumption | with_reducible apply keep_replayTrick | with_reducible apply keep_wrBit | with_reducible apply keep_subCore | with_reducible apply keep_ite | intro _ | (with_reducible refine keep_of ?_; first | with_reducible assumption | with_reducible apply keep_replayTrick | with_reducible apply keep_wrBit | with_reducible apply keep_subCore) | split | dsimp only
theorem keep_subUnit {s0 : State} {u lch pair : Nat} {x0 : Nat} {x1 : List Bool} {x2 : State} (hx2 : Keep s0 x2) : Keep s0 (subUnit u lch pair x0 x1 x2) := by
  fun_induction subUnit <;>
  repeat' first | with_reducible assumption | with_reducible apply keep_movePair | with_reducible apply keep_wrFld | with_reducible apply keep_setBlk | with_reducible apply keep_rasPut | with_reducible apply keep_jrnPut | with_reducible apply keep_ite | intro _ | (with_reducible refine keep_of ?_; first | with_reducible assumption | with_reducible apply keep_movePair | with_reducible apply keep_wrFld | with_reducible apply keep_setBlk | with_reducible apply keep_rasPut | with_reducible apply keep_jrnPut) | apply_assumption | split | dsimp only
theorem keep_retireUnit {s0 : State} {s : State} {u : Nat} {tests : List Bool} (hs : Keep s0 s) : Keep s0 (retireUnit s u tests) := by
  unfold retireUnit
  repeat' first | with_reducible assumption | with_reducible apply keep_subUnit | with_reducible apply keep_setBlk | with_reducible apply keep_ite | intro _ | (with_reducible refine keep_of ?_; first | with_reducible assumption | with_reducible apply keep_subUnit | with_reducible apply keep_setBlk) | split | dsimp only
theorem keep_forceRetire {s0 : State} {s : State} {r : Report} {tests : List Bool} (hs : Keep s0 s) : Keep s0 (forceRetire s r tests) := by
  unfold forceRetire
  repeat' first | with_reducible assumption | with_reducible apply keep_rowFail | with_reducible apply keep_retireUnit | with_reducible apply keep_retireCluster | with_reducible apply keep_retireCore | with_reducible apply keep_recCode | with_reducible apply keep_rasPut | with_reducible refine keep_recCode_eq (by assumption) ?_ | with_reducible apply keep_ite | intro _ | (with_reducible refine keep_of ?_; first | with_reducible assumption | with_reducible apply keep_rowFail | with_reducible apply keep_retireUnit | with_reducible apply keep_retireCluster | with_reducible apply keep_retireCore | with_reducible apply keep_recCode | with_reducible apply keep_rasPut | with_reducible refine keep_recCode_eq (by assumption) ?_) | split | dsimp only
theorem keep_transient {s0 : State} {s : State} {r : Report} {tests : List Bool} (hs : Keep s0 s) : Keep s0 (transient s r tests) := by
  unfold transient
  repeat' first | with_reducible assumption | with_reducible apply keep_recCode | with_reducible apply keep_replayTrick | with_reducible apply keep_rasPut | with_reducible apply keep_forceRetire | with_reducible refine keep_recCode_eq (by assumption) ?_ | with_reducible apply keep_ite | intro _ | (with_reducible refine keep_of ?_; first | with_reducible assumption | with_reducible apply keep_recCode | with_reducible apply keep_replayTrick | with_reducible apply keep_rasPut | with_reducible apply keep_forceRetire | with_reducible refine keep_recCode_eq (by assumption) ?_) | split | dsimp only
theorem keep_pairLost {s0 : State} {s : State} {stk lch pair : Nat} (hs : Keep s0 s) : Keep s0 (pairLost s stk lch pair) := by
  unfold pairLost
  repeat' first | with_reducible assumption | with_reducible apply keep_setM | with_reducible apply keep_foldl | with_reducible apply keep_foldl1 | with_reducible refine keep_foldl1_eq (by assumption) ?_ ?_ | intro _ | (with_reducible refine keep_of ?_; first | with_reducible assumption | with_reducible apply keep_setM | with_reducible apply keep_foldl | with_reducible apply keep_foldl1 | with_reducible refine keep_foldl1_eq (by assumption) ?_ ?_) | split | dsimp only
theorem keep_ccodeLost {s0 : State} {s : State} {a : Nat} (hs : Keep s0 s) : Keep s0 (ccodeLost s a) := by
  unfold ccodeLost
  repeat' first | with_reducible assumption | with_reducible apply keep_failReq | with_reducible apply keep_foldl | with_reducible apply keep_foldl1 | with_reducible refine keep_foldl1_eq (by assumption) ?_ ?_ | with_reducible apply keep_ite | intro _ | (with_reducible refine keep_of ?_; first | with_reducible assumption | with_reducible apply keep_failReq | with_reducible apply keep_foldl | with_reducible apply keep_foldl1 | with_reducible refine keep_foldl1_eq (by assumption) ?_ ?_) | split | dsimp only
theorem keep_actOn {s0 : State} {s : State} {r : Report} {tests : List Bool} (hs : Keep s0 s) : Keep s0 (actOn s r tests) := by
  unfold actOn
  repeat' first | with_reducible assumption | with_reducible apply keep_stackGone | with_reducible apply keep_pairLost | with_reducible apply keep_replayTrick | with_reducible apply keep_retireCore | with_reducible apply keep_retireCluster | with_reducible apply keep_retireUnit | with_reducible apply keep_modelFaultFree | with_reducible apply keep_failReq | with_reducible apply keep_dropSeq | with_reducible apply keep_poisoned | with_reducible apply keep_transient | with_reducible apply keep_ccodeLost | with_reducible apply keep_modelFault | with_reducible apply keep_foldl | with_reducible apply keep_foldl1 | with_reducible refine keep_foldl1_eq (by assumption) ?_ ?_ | with_reducible apply keep_ite | intro _ | (with_reducible refine keep_of ?_; first | with_reducible assumption | with_reducible apply keep_stackGone | with_reducible apply keep_pairLost | with_reducible apply keep_replayTrick | with_reducible apply keep_retireCore | with_reducible apply keep_retireCluster | with_reducible apply keep_retireUnit | with_reducible apply keep_modelFaultFree | with_reducible apply keep_failReq | with_reducible apply keep_dropSeq | with_reducible apply keep_poisoned | with_reducible apply keep_transient | with_reducible apply keep_ccodeLost | with_reducible apply keep_modelFault | with_reducible apply keep_foldl | with_reducible apply keep_foldl1 | with_reducible refine keep_foldl1_eq (by assumption) ?_ ?_) | split | dsimp only
theorem keep_execFaultReport {s0 : State} {tests : List Bool} {s : State} (hs : Keep s0 s) : KeepR s0 (execFaultReport tests s) := by
  unfold execFaultReport
  repeat' first | with_reducible assumption | with_reducible apply keep_actOn | with_reducible apply keep_ite | with_reducible apply keepR_ite | exact keepR_refused | with_reducible apply keepR_next | intro _ | (with_reducible refine keep_of ?_; first | with_reducible assumption | with_reducible apply keep_actOn) | split | dsimp only

end Sys2Proof.Machine
end

