-- ==== Sys2Proof/Laws/KeepHost.lean ====
section
/-!
SUPPORT. Keep (the queue, the fuses, the byte memories, the free counter and the output) for every operation of Host, Power.
-/
set_option linter.unusedVariables false

namespace Sys2Proof.Machine

theorem keep_queAccess {s0 : State} {s : State} {mid q : Nat} {f : State → State} (hs : Keep s0 s) (hf : ∀ y0, Keep s0 y0 → Keep s0 (f y0)) : Keep s0 (queAccess s mid q f) := by
  unfold queAccess
  repeat' first | with_reducible assumption | with_reducible apply hf | with_reducible apply keep_hostRef | intro _ | (with_reducible refine keep_of ?_; first | with_reducible assumption | with_reducible apply hf | with_reducible apply keep_hostRef) | split | dsimp only
theorem keep_qError {s0 : State} {s : State} {q : Nat} (hs : Keep s0 s) : Keep s0 (qError s q) := by
  unfold qError
  repeat' first | with_reducible assumption | with_reducible apply keep_setQ | with_reducible apply keep_fnEvent | with_reducible apply keep_ite | intro _ | (with_reducible refine keep_of ?_; first | with_reducible assumption | with_reducible apply keep_setQ | with_reducible apply keep_fnEvent) | split | dsimp only
theorem keep_opSqTail {s0 : State} {s : State} {q : Nat} {v : W32} (hs : Keep s0 s) : Keep s0 (opSqTail s q v) := by
  unfold opSqTail
  repeat' first | with_reducible assumption | with_reducible apply keep_bump | with_reducible apply keep_qError | with_reducible apply keep_setQ | with_reducible apply keep_ite | intro _ | (with_reducible refine keep_of ?_; first | with_reducible assumption | with_reducible apply keep_bump | with_reducible apply keep_qError | with_reducible apply keep_setQ) | split | dsimp only
theorem keep_execSqTail {s0 : State} {mid q : Nat} {v : W32} {s : State} (hs : Keep s0 s) : KeepR s0 (execSqTail mid q v s) := by
  unfold execSqTail
  repeat' first | with_reducible assumption | with_reducible apply keep_queAccess | with_reducible apply keep_opSqTail | exact keepR_refused | with_reducible apply keepR_next | intro _ | (with_reducible refine keep_of ?_; first | with_reducible assumption | with_reducible apply keep_queAccess | with_reducible apply keep_opSqTail) | split | dsimp only
theorem keep_opCqHead {s0 : State} {s : State} {q : Nat} {v : W32} (hs : Keep s0 s) : Keep s0 (opCqHead s q v) := by
  unfold opCqHead
  repeat' first | with_reducible assumption | with_reducible apply keep_bump | with_reducible apply keep_qError | with_reducible apply keep_setQ | with_reducible apply keep_ite | intro _ | (with_reducible refine keep_of ?_; first | with_reducible assumption | with_reducible apply keep_bump | with_reducible apply keep_qError | with_reducible apply keep_setQ) | split | dsimp only
theorem keep_execCqHead {s0 : State} {mid q : Nat} {v : W32} {s : State} (hs : Keep s0 s) : KeepR s0 (execCqHead mid q v s) := by
  unfold execCqHead
  repeat' first | with_reducible assumption | with_reducible apply keep_queAccess | with_reducible apply keep_opCqHead | exact keepR_refused | with_reducible apply keepR_next | intro _ | (with_reducible refine keep_of ?_; first | with_reducible assumption | with_reducible apply keep_queAccess | with_reducible apply keep_opCqHead) | split | dsimp only
theorem keep_devDescs {s0 : State} {s : State} {q : Nat} {x0 x1 : Nat} (hs : Keep s0 s) : Keep s0 (devDescs s q x0 x1).1 := by
  induction x0 generalizing s x1 with
  | zero => exact hs
  | succ n ih =>
    unfold devDescs
    split
    · have h1 := keep_memRead_eq (by assumption) hs
      have h2 := @ih _ ((x1 + 1) % qSize s q) h1
      split
      · rename_i e
        rw [e] at h2
        exact h2
      · rename_i e
        rw [e] at h2
        exact h2
    · exact keep_memRead_eq (by assumption) hs
theorem keep_devDescs_eq {s0 : State} {s : State} {q : Nat} {x0 : Nat} {x1 : Nat} {tz : State} {rz : Option (List Desc)} (ez : devDescs s q x0 x1 = (tz, rz)) (hs : Keep s0 s) : Keep s0 tz := by
  rw [show tz = (devDescs s q x0 x1).1 from by rw [ez]]
  exact keep_devDescs hs
theorem keep_execDescriptorFetch {s0 : State} {q : Nat} {descs : List Desc} {ok : Bool} {s : State} (hs : Keep s0 s) : KeepR s0 (execDescriptorFetch q descs ok s) := by
  unfold execDescriptorFetch
  repeat' first | with_reducible assumption | with_reducible apply keep_qError | with_reducible apply keep_setQ | with_reducible apply keep_hostAsk | with_reducible apply keep_devDescs | with_reducible refine keep_devDescs_eq (by assumption) ?_ | with_reducible apply keep_ite | with_reducible apply keepR_ite | exact keepR_refused | with_reducible apply keepR_next | intro _ | (with_reducible refine keep_of ?_; first | with_reducible assumption | with_reducible apply keep_qError | with_reducible apply keep_setQ | with_reducible apply keep_hostAsk | with_reducible apply keep_devDescs | with_reducible refine keep_devDescs_eq (by assumption) ?_) | split | dsimp only
theorem keep_opQueueEn {s0 : State} {s : State} {q : Nat} {on : Bool} (hs : Keep s0 s) : Keep s0 (opQueueEn s q on) := by
  unfold opQueueEn
  repeat' first | with_reducible assumption | with_reducible apply keep_wrReg | with_reducible apply keep_setQ | with_reducible apply keep_ite | intro _ | (with_reducible refine keep_of ?_; first | with_reducible assumption | with_reducible apply keep_wrReg | with_reducible apply keep_setQ) | split | dsimp only
theorem keep_execQueueEnable {s0 : State} {mid q : Nat} {s : State} (hs : Keep s0 s) : KeepR s0 (execQueueEnable mid q s) := by
  unfold execQueueEnable
  repeat' first | with_reducible assumption | with_reducible apply keep_queAccess | with_reducible apply keep_opQueueEn | exact keepR_refused | with_reducible apply keepR_next | intro _ | (with_reducible refine keep_of ?_; first | with_reducible assumption | with_reducible apply keep_queAccess | with_reducible apply keep_opQueueEn) | split | dsimp only
theorem keep_execQueueDisable {s0 : State} {mid q : Nat} {s : State} (hs : Keep s0 s) : KeepR s0 (execQueueDisable mid q s) := by
  unfold execQueueDisable
  repeat' first | with_reducible assumption | with_reducible apply keep_queAccess | with_reducible apply keep_opQueueEn | exact keepR_refused | with_reducible apply keepR_next | intro _ | (with_reducible refine keep_of ?_; first | with_reducible assumption | with_reducible apply keep_queAccess | with_reducible apply keep_opQueueEn) | split | dsimp only
theorem keep_execQueueDrainComplete {s0 : State} {q : Nat} {s : State} (hs : Keep s0 s) : KeepR s0 (execQueueDrainComplete q s) := by
  unfold execQueueDrainComplete
  repeat' first | with_reducible assumption | with_reducible apply keep_setQ | with_reducible apply keep_ite | with_reducible apply keepR_ite | exact keepR_refused | with_reducible apply keepR_next | intro _ | (with_reducible refine keep_of ?_; first | with_reducible assumption | with_reducible apply keep_setQ) | split | dsimp only
theorem keep_qInterrupt {s0 : State} {s : State} {q : Nat} (hs : Keep s0 s) : Keep s0 (qInterrupt s q) := by
  unfold qInterrupt
  repeat' first | with_reducible assumption | with_reducible apply keep_msix | with_reducible apply keep_setQ | intro _ | (with_reducible refine keep_of ?_; first | with_reducible assumption | with_reducible apply keep_msix | with_reducible apply keep_setQ) | split | dsimp only
theorem keep_execMsiXInterrupt {s0 : State} {q : Nat} {s : State} (hs : Keep s0 s) : KeepR s0 (execMsiXInterrupt q s) := by
  unfold execMsiXInterrupt
  repeat' first | with_reducible assumption | with_reducible apply keep_qInterrupt | with_reducible apply keep_ite | with_reducible apply keepR_ite | exact keepR_refused | with_reducible apply keepR_next | intro _ | (with_reducible refine keep_of ?_; first | with_reducible assumption | with_reducible apply keep_qInterrupt) | split | dsimp only
theorem keep_execCoalesceTimeout {s0 : State} {q : Nat} {s : State} (hs : Keep s0 s) : KeepR s0 (execCoalesceTimeout q s) := by
  unfold execCoalesceTimeout
  repeat' first | with_reducible assumption | with_reducible apply keep_qInterrupt | with_reducible apply keep_ite | with_reducible apply keepR_ite | exact keepR_refused | with_reducible apply keepR_next | intro _ | (with_reducible refine keep_of ?_; first | with_reducible assumption | with_reducible apply keep_qInterrupt) | split | dsimp only
theorem keep_msixFlush {s0 : State} {s : State} {f : Nat} (hs : Keep s0 s) : Keep s0 (msixFlush s f) := by
  unfold msixFlush
  repeat' first | with_reducible assumption | with_reducible apply keep_emit | with_reducible apply keep_msix | with_reducible apply keep_setFn | with_reducible apply keep_foldl | with_reducible apply keep_foldl1 | with_reducible refine keep_foldl1_eq (by assumption) ?_ ?_ | with_reducible apply keep_ite | intro _ | (with_reducible refine keep_of ?_; first | with_reducible assumption | with_reducible apply keep_emit | with_reducible apply keep_msix | with_reducible apply keep_setFn | with_reducible apply keep_foldl | with_reducible apply keep_foldl1 | with_reducible refine keep_foldl1_eq (by assumption) ?_ ?_) | split | dsimp only
theorem keep_opMask {s0 : State} {s : State} {f v : Nat} {masked : Bool} (hs : Keep s0 s) : Keep s0 (opMask s f v masked) := by
  unfold opMask
  repeat' first | with_reducible assumption | with_reducible apply keep_setFn | with_reducible apply keep_msixFlush | with_reducible apply keep_ite | intro _ | (with_reducible refine keep_of ?_; first | with_reducible assumption | with_reducible apply keep_setFn | with_reducible apply keep_msixFlush) | split | dsimp only
theorem keep_execVectorUnmask {s0 : State} {f v : Nat} {s : State} (hs : Keep s0 s) : KeepR s0 (execVectorUnmask f v s) := by
  unfold execVectorUnmask
  repeat' first | with_reducible assumption | with_reducible apply keep_opMask | with_reducible apply keep_ite | with_reducible apply keepR_ite | exact keepR_refused | with_reducible apply keepR_next | intro _ | (with_reducible refine keep_of ?_; first | with_reducible assumption | with_reducible apply keep_opMask) | split | dsimp only
theorem keep_fnEndAll {s0 : State} {s : State} {f : Nat} (hs : Keep s0 s) : Keep s0 (fnEndAll s f) := by
  unfold fnEndAll
  repeat' first | with_reducible assumption | with_reducible apply keep_bump | with_reducible apply keep_dropSeq | with_reducible apply keep_setSlot | with_reducible apply keep_freeSlot | with_reducible apply keep_foldl | with_reducible apply keep_foldl1 | with_reducible refine keep_foldl1_eq (by assumption) ?_ ?_ | with_reducible apply keep_ite | intro _ | (with_reducible refine keep_of ?_; first | with_reducible assumption | with_reducible apply keep_bump | with_reducible apply keep_dropSeq | with_reducible apply keep_setSlot | with_reducible apply keep_freeSlot | with_reducible apply keep_foldl | with_reducible apply keep_foldl1 | with_reducible refine keep_foldl1_eq (by assumption) ?_ ?_) | split | dsimp only
theorem keep_fnWays {s0 : State} {s : State} {f : Nat} (hs : Keep s0 s) : Keep s0 (fnWays s f) := by
  unfold fnWays
  repeat' first | with_reducible assumption | with_reducible apply keep_clearWay | with_reducible apply keep_foldl | with_reducible apply keep_foldl1 | with_reducible refine keep_foldl1_eq (by assumption) ?_ ?_ | with_reducible apply keep_ite | intro _ | (with_reducible refine keep_of ?_; first | with_reducible assumption | with_reducible apply keep_clearWay | with_reducible apply keep_foldl | with_reducible apply keep_foldl1 | with_reducible refine keep_foldl1_eq (by assumption) ?_ ?_) | split | dsimp only
theorem keep_fnReset1 {s0 : State} {s : State} {f : Nat} (hs : Keep s0 s) : Keep s0 (fnReset1 s f) := by
  unfold fnReset1
  repeat' first | with_reducible assumption | with_reducible apply keep_setFn | with_reducible apply keep_fnEndAll | with_reducible apply keep_mbFnReset | with_reducible apply keep_fnWays | with_reducible apply keep_ite | intro _ | (with_reducible refine keep_of ?_; first | with_reducible assumption | with_reducible apply keep_setFn | with_reducible apply keep_fnEndAll | with_reducible apply keep_mbFnReset | with_reducible apply keep_fnWays) | split | dsimp only
theorem keep_vfDisable {s0 : State} {s : State} (hs : Keep s0 s) : Keep s0 (vfDisable s) := by
  unfold vfDisable
  repeat' first | with_reducible assumption | with_reducible apply keep_fnReset1 | with_reducible apply keep_foldl | with_reducible apply keep_foldl1 | with_reducible refine keep_foldl1_eq (by assumption) ?_ ?_ | with_reducible apply keep_ite | intro _ | (with_reducible refine keep_of ?_; first | with_reducible assumption | with_reducible apply keep_fnReset1 | with_reducible apply keep_foldl | with_reducible apply keep_foldl1 | with_reducible refine keep_foldl1_eq (by assumption) ?_ ?_) | split | dsimp only
theorem keep_opFnReset {s0 : State} {s : State} {f : Nat} (hs : Keep s0 s) : Keep s0 (opFnReset s f) := by
  unfold opFnReset
  repeat' first | with_reducible assumption | with_reducible apply keep_fnReset1 | with_reducible apply keep_vfDisable | with_reducible apply keep_ite | intro _ | (with_reducible refine keep_of ?_; first | with_reducible assumption | with_reducible apply keep_fnReset1 | with_reducible apply keep_vfDisable) | split | dsimp only
theorem keep_execFunctionReset {s0 : State} {f : Nat} {s : State} (hs : Keep s0 s) : KeepR s0 (execFunctionReset f s) := by
  unfold execFunctionReset
  repeat' first | with_reducible assumption | with_reducible apply keep_opFnReset | with_reducible apply keep_ite | with_reducible apply keepR_ite | exact keepR_refused | with_reducible apply keepR_next | intro _ | (with_reducible refine keep_of ?_; first | with_reducible assumption | with_reducible apply keep_opFnReset) | split | dsimp only
theorem keep_fnResetEnd {s0 : State} {s : State} {f : Nat} (hs : Keep s0 s) : Keep s0 (fnResetEnd s f) := by
  unfold fnResetEnd
  repeat' first | with_reducible assumption | with_reducible apply keep_msix | with_reducible apply keep_setFn | with_reducible apply keep_fnEvent | with_reducible apply keep_ite | intro _ | (with_reducible refine keep_of ?_; first | with_reducible assumption | with_reducible apply keep_msix | with_reducible apply keep_setFn | with_reducible apply keep_fnEvent) | split | dsimp only
theorem keep_execFunctionResetComplete {s0 : State} {f : Nat} {s : State} (hs : Keep s0 s) : KeepR s0 (execFunctionResetComplete f s) := by
  unfold execFunctionResetComplete
  repeat' first | with_reducible assumption | with_reducible apply keep_fnReset1 | with_reducible apply keep_fnResetEnd | with_reducible apply keep_ite | with_reducible apply keepR_ite | exact keepR_refused | with_reducible apply keepR_next | intro _ | (with_reducible refine keep_of ?_; first | with_reducible assumption | with_reducible apply keep_fnReset1 | with_reducible apply keep_fnResetEnd) | split | dsimp only
theorem keep_opFnQ {s0 : State} {s : State} {f : Nat} {v : W32} (hs : Keep s0 s) : Keep s0 (opFnQ s f v) := by
  unfold opFnQ
  repeat' first | with_reducible assumption | with_reducible apply keep_setFn | with_reducible apply keep_ite | intro _ | (with_reducible refine keep_of ?_; first | with_reducible assumption | with_reducible apply keep_setFn) | split | dsimp only
theorem keep_execFnQ {s0 : State} {mid : Nat} {v : W32} {s : State} (hs : Keep s0 s) : KeepR s0 (execFnQ mid v s) := by
  unfold execFnQ
  repeat' first | with_reducible assumption | with_reducible apply keep_pageAccess | with_reducible apply keep_hostRef | with_reducible apply keep_opFnQ | with_reducible apply keep_ite | with_reducible apply keepR_ite | exact keepR_refused | with_reducible apply keepR_next | intro _ | (with_reducible refine keep_of ?_; first | with_reducible assumption | with_reducible apply keep_pageAccess | with_reducible apply keep_hostRef | with_reducible apply keep_opFnQ) | split | dsimp only
theorem keep_execHostAtomicop {s0 : State} {f a size : Nat} {op : AtomOp} {x swap : Nat} {s : State} (hs : Keep s0 s) : KeepR s0 (execHostAtomicop f a size op x swap s) := by
  unfold execHostAtomicop
  repeat' first | with_reducible assumption | with_reducible apply keep_emit | with_reducible apply keep_hostRef | with_reducible apply keep_opAtomic | with_reducible apply keep_ite | with_reducible apply keepR_ite | exact keepR_refused | with_reducible apply keepR_next | intro _ | (with_reducible refine keep_of ?_; first | with_reducible assumption | with_reducible apply keep_emit | with_reducible apply keep_hostRef | with_reducible apply keep_opAtomic) | split | dsimp only
theorem keep_execBusMasterEnable {s0 : State} {f : Nat} {s : State} (hs : Keep s0 s) : KeepR s0 (execBusMasterEnable f s) := by
  unfold execBusMasterEnable
  repeat' first | with_reducible assumption | with_reducible apply keep_msixFlush | with_reducible apply keep_setFn | with_reducible apply keep_ite | with_reducible apply keepR_ite | exact keepR_refused | with_reducible apply keepR_next | intro _ | (with_reducible refine keep_of ?_; first | with_reducible assumption | with_reducible apply keep_msixFlush | with_reducible apply keep_setFn) | split | dsimp only
theorem keep_execLinkUp {s0 : State} {speed width : Nat} {flit : Bool} {s : State} (hs : Keep s0 s) : KeepR s0 (execLinkUp speed width flit s) := by
  unfold execLinkUp
  repeat' first | with_reducible assumption | with_reducible apply keep_msixFlush | with_reducible apply keep_foldl | with_reducible apply keep_foldl1 | with_reducible refine keep_foldl1_eq (by assumption) ?_ ?_ | with_reducible apply keep_ite | with_reducible apply keepR_ite | exact keepR_refused | with_reducible apply keepR_next | intro _ | (with_reducible refine keep_of ?_; first | with_reducible assumption | with_reducible apply keep_msixFlush | with_reducible apply keep_foldl | with_reducible apply keep_foldl1 | with_reducible refine keep_foldl1_eq (by assumption) ?_ ?_) | split | dsimp only
theorem keep_linkDown {s0 : State} {s : State} (hs : Keep s0 s) : Keep s0 (linkDown s) := by
  unfold linkDown
  repeat' first | with_reducible assumption | intro _ | (with_reducible refine keep_of ?_; first | with_reducible assumption) | split | dsimp only
theorem keep_execPcieLinkDown {s0 : State} {s : State} (hs : Keep s0 s) : KeepR s0 (execPcieLinkDown s) := by
  unfold execPcieLinkDown
  repeat' first | with_reducible assumption | with_reducible apply keep_linkDown | exact keepR_refused | with_reducible apply keepR_next | intro _ | (with_reducible refine keep_of ?_; first | with_reducible assumption | with_reducible apply keep_linkDown) | split | dsimp only
theorem keep_execAtsInvalidation {s0 : State} {f : Nat} {s : State} (hs : Keep s0 s) : KeepR s0 (execAtsInvalidation f s) := by
  unfold execAtsInvalidation
  repeat' first | with_reducible assumption | with_reducible apply keep_emit | with_reducible apply keep_ite | with_reducible apply keepR_ite | exact keepR_refused | with_reducible apply keepR_next | intro _ | (with_reducible refine keep_of ?_; first | with_reducible assumption | with_reducible apply keep_emit) | split | dsimp only
theorem keep_execLaneMarginCommand {s0 : State} {lane : Nat} {_timing : Bool} {_steps : Nat} {s : State} (hs : Keep s0 s) : KeepR s0 (execLaneMarginCommand lane _timing _steps s) := by
  unfold execLaneMarginCommand
  repeat' first | with_reducible assumption | with_reducible apply keep_emit | with_reducible apply keep_useFree | with_reducible apply keep_ite | with_reducible apply keepR_ite | exact keepR_refused | with_reducible apply keepR_next | intro _ | (with_reducible refine keep_of ?_; first | with_reducible assumption | with_reducible apply keep_emit | with_reducible apply keep_useFree) | split | dsimp only
theorem keep_execDoeDiscovery {s0 : State} {idx : Nat} {s : State} (hs : Keep s0 s) : KeepR s0 (execDoeDiscovery idx s) := by
  unfold execDoeDiscovery
  repeat' first | with_reducible assumption | with_reducible apply keep_emit | with_reducible apply keep_ite | with_reducible apply keepR_ite | exact keepR_refused | with_reducible apply keepR_next | intro _ | (with_reducible refine keep_of ?_; first | with_reducible assumption | with_reducible apply keep_emit) | split | dsimp only
theorem keep_execIdeKm {s0 : State} {rq : IdeReq} {s : State} (hs : Keep s0 s) : KeepR s0 (execIdeKm rq s) := by
  unfold execIdeKm
  repeat' first | with_reducible assumption | with_reducible apply keep_ite | with_reducible apply keepR_ite | exact keepR_refused | with_reducible apply keepR_next | intro _ | (with_reducible refine keep_of ?_; first | with_reducible assumption) | split | dsimp only
theorem keep_execTdisp {s0 : State} {f : Nat} {rq : TdispReq} {s : State} (hs : Keep s0 s) : KeepR s0 (execTdisp f rq s) := by
  unfold execTdisp
  repeat' first | with_reducible assumption | with_reducible apply keep_emit | with_reducible apply keep_setFn | with_reducible apply keep_ite | with_reducible apply keepR_ite | exact keepR_refused | with_reducible apply keepR_next | intro _ | (with_reducible refine keep_of ?_; first | with_reducible assumption | with_reducible apply keep_emit | with_reducible apply keep_setFn) | split | dsimp only
theorem keep_hdrAccess {s0 : State} {s : State} {mid : Nat} {b : Blk} {i : Nat} {f : State → State} (hs : Keep s0 s) (hf : ∀ y0, Keep s0 y0 → Keep s0 (f y0)) : Keep s0 (hdrAccess s mid b i f) := by
  unfold hdrAccess
  repeat' first | with_reducible assumption | with_reducible apply hf | with_reducible apply keep_hostRef | with_reducible apply keep_mbDeny | with_reducible apply keep_ite | intro _ | (with_reducible refine keep_of ?_; first | with_reducible assumption | with_reducible apply hf | with_reducible apply keep_hostRef | with_reducible apply keep_mbDeny) | split | dsimp only
theorem keep_pwrOff {s0 : State} {s : State} {d : Nat} (hs : Keep s0 s) : Keep s0 (pwrOff s d) := by
  unfold pwrOff
  repeat' first | with_reducible assumption | with_reducible apply keep_pwrOn | with_reducible apply keep_ite | intro _ | (with_reducible refine keep_of ?_; first | with_reducible assumption | with_reducible apply keep_pwrOn) | split | dsimp only
theorem keep_pwrUp {s0 : State} {s : State} {d : Nat} (hs : Keep s0 s) : Keep s0 (pwrUp s d) := by
  unfold pwrUp
  repeat' first | with_reducible assumption | with_reducible apply keep_pwrOn | intro _ | (with_reducible refine keep_of ?_; first | with_reducible assumption | with_reducible apply keep_pwrOn) | split | dsimp only
theorem keep_setEn {s0 : State} {s : State} {b : Blk} {i : Nat} {on : Bool} (hs : Keep s0 s) : Keep s0 (setEn s b i on) := by
  unfold setEn
  repeat' first | with_reducible assumption | with_reducible apply keep_wrBit | intro _ | (with_reducible refine keep_of ?_; first | with_reducible assumption | with_reducible apply keep_wrBit) | split | dsimp only
theorem keep_setGate {s0 : State} {s : State} {n : Nat} {on : Bool} (hs : Keep s0 s) : Keep s0 (setGate s n on) := by
  unfold setGate
  repeat' first | with_reducible assumption | with_reducible apply keep_wrBit | intro _ | (with_reducible refine keep_of ?_; first | with_reducible assumption | with_reducible apply keep_wrBit) | split | dsimp only
theorem keep_gateSts {s0 : State} {s : State} {n code : Nat} (hs : Keep s0 s) : Keep s0 (gateSts s n code) := by
  unfold gateSts
  repeat' first | with_reducible assumption | with_reducible apply keep_wrReg | intro _ | (with_reducible refine keep_of ?_; first | with_reducible assumption | with_reducible apply keep_wrReg) | split | dsimp only
theorem keep_opGate {s0 : State} {s : State} {n : Nat} {gate : Bool} (hs : Keep s0 s) : Keep s0 (opGate s n gate) := by
  unfold opGate
  repeat' first | with_reducible assumption | with_reducible apply keep_gateSts | with_reducible apply keep_setGate | with_reducible apply keep_ite | intro _ | (with_reducible refine keep_of ?_; first | with_reducible assumption | with_reducible apply keep_gateSts | with_reducible apply keep_setGate) | split | dsimp only
theorem keep_execClockGate {s0 : State} {mid node : Nat} {s : State} (hs : Keep s0 s) : KeepR s0 (execClockGate mid node s) := by
  unfold execClockGate
  repeat' first | with_reducible assumption | with_reducible apply keep_pageAccess | with_reducible apply keep_opGate | exact keepR_refused | with_reducible apply keepR_next | intro _ | (with_reducible refine keep_of ?_; first | with_reducible assumption | with_reducible apply keep_pageAccess | with_reducible apply keep_opGate) | split | dsimp only
theorem keep_execClockUngate {s0 : State} {mid node : Nat} {s : State} (hs : Keep s0 s) : KeepR s0 (execClockUngate mid node s) := by
  unfold execClockUngate
  repeat' first | with_reducible assumption | with_reducible apply keep_pageAccess | with_reducible apply keep_opGate | exact keepR_refused | with_reducible apply keepR_next | intro _ | (with_reducible refine keep_of ?_; first | with_reducible assumption | with_reducible apply keep_pageAccess | with_reducible apply keep_opGate) | split | dsimp only
theorem keep_startBlk {s0 : State} {s : State} {b : Blk} {i : Nat} (hs : Keep s0 s) : Keep s0 (startBlk s b i) := by
  unfold startBlk
  repeat' first | with_reducible assumption | with_reducible apply keep_setBlk | with_reducible apply keep_pwrUp | with_reducible apply keep_setGate | with_reducible apply keep_foldl | with_reducible apply keep_foldl1 | with_reducible refine keep_foldl1_eq (by assumption) ?_ ?_ | with_reducible apply keep_ite | intro _ | (with_reducible refine keep_of ?_; first | with_reducible assumption | with_reducible apply keep_setBlk | with_reducible apply keep_pwrUp | with_reducible apply keep_setGate | with_reducible apply keep_foldl | with_reducible apply keep_foldl1 | with_reducible refine keep_foldl1_eq (by assumption) ?_ ?_) | split | dsimp only
theorem keep_stopBlk {s0 : State} {s : State} {b : Blk} {i : Nat} (hs : Keep s0 s) : Keep s0 (stopBlk s b i) := by
  unfold stopBlk
  repeat' first | with_reducible assumption | with_reducible apply keep_setBlk | with_reducible apply keep_capacity | with_reducible apply keep_flushLines | with_reducible apply keep_ite | intro _ | (with_reducible refine keep_of ?_; first | with_reducible assumption | with_reducible apply keep_setBlk | with_reducible apply keep_capacity | with_reducible apply keep_flushLines) | split | dsimp only
theorem keep_resetRegs {s0 : State} {s : State} {b : Blk} {i : Nat} (hs : Keep s0 s) : Keep s0 (resetRegs s b i) := by
  unfold resetRegs
  repeat' first | with_reducible assumption | intro _ | (with_reducible refine keep_of ?_; first | with_reducible assumption) | split | dsimp only
theorem keep_softRegs {s0 : State} {s : State} {b : Blk} {i : Nat} (hs : Keep s0 s) : Keep s0 (softRegs s b i) := by
  unfold softRegs
  repeat' first | with_reducible assumption | intro _ | (with_reducible refine keep_of ?_; first | with_reducible assumption) | split | dsimp only
theorem keep_trainFresh {s0 : State} {s : State} {c temp : Nat} {low : Bool} (hs : Keep s0 s) : Keep s0 (trainFresh s c temp low) := by
  unfold trainFresh
  repeat' first | with_reducible assumption | with_reducible apply keep_wrReg | with_reducible apply keep_useFree | with_reducible apply keep_trainPut | intro _ | (with_reducible refine keep_of ?_; first | with_reducible assumption | with_reducible apply keep_wrReg | with_reducible apply keep_useFree | with_reducible apply keep_trainPut) | split | dsimp only
theorem keep_margSum {s0 : State} {s : State} {hi lo : Nat} (hs : Keep s0 s) : Keep s0 (margSum s hi lo) := by
  unfold margSum
  repeat' first | with_reducible assumption | with_reducible apply keep_wrFld | intro _ | (with_reducible refine keep_of ?_; first | with_reducible assumption | with_reducible apply keep_wrFld) | split | dsimp only
theorem keep_chBad {s0 : State} {s : State} {stk ch : Nat} {boot : Bool} (hs : Keep s0 s) : Keep s0 (chBad s stk ch boot) := by
  unfold chBad
  repeat' first | with_reducible assumption | with_reducible apply keep_wrBit | with_reducible apply keep_jrnRemap | with_reducible apply keep_retireStack | with_reducible apply keep_wrReg | with_reducible apply keep_margSum | with_reducible apply keep_ite | intro _ | (with_reducible refine keep_of ?_; first | with_reducible assumption | with_reducible apply keep_wrBit | with_reducible apply keep_jrnRemap | with_reducible apply keep_retireStack | with_reducible apply keep_wrReg | with_reducible apply keep_margSum) | split | dsimp only
theorem keep_stackInit {s0 : State} {s : State} {stk : Nat} {br : Bring} {boot : Bool} (hs : Keep s0 s) : Keep s0 (stackInit s stk br boot) := by
  unfold stackInit
  repeat' first | with_reducible assumption | with_reducible apply keep_trainFresh | with_reducible apply keep_chBad | with_reducible apply keep_wrFld | with_reducible apply keep_foldl | with_reducible apply keep_foldl1 | with_reducible refine keep_foldl1_eq (by assumption) ?_ ?_ | intro _ | (with_reducible refine keep_of ?_; first | with_reducible assumption | with_reducible apply keep_trainFresh | with_reducible apply keep_chBad | with_reducible apply keep_wrFld | with_reducible apply keep_foldl | with_reducible apply keep_foldl1 | with_reducible refine keep_foldl1_eq (by assumption) ?_ ?_) | (with_reducible refine keep_mem ?_; first | with_reducible assumption | with_reducible apply keep_trainFresh | with_reducible apply keep_chBad | with_reducible apply keep_wrFld | with_reducible apply keep_foldl | with_reducible apply keep_foldl1 | with_reducible refine keep_foldl1_eq (by assumption) ?_ ?_) | split | dsimp only
theorem keep_engInit {s0 : State} {s : State} {n : Nat} {br : Bring} {boot : Bool} (hs : Keep s0 s) : Keep s0 (engInit s n br boot) := by
  unfold engInit
  repeat' first | with_reducible assumption | with_reducible apply keep_margSum | with_reducible apply keep_laneMove | with_reducible apply keep_engRetire | with_reducible apply keep_engStart | with_reducible apply keep_foldl | with_reducible apply keep_foldl1 | with_reducible refine keep_foldl1_eq (by assumption) ?_ ?_ | with_reducible apply keep_ite | intro _ | (with_reducible refine keep_of ?_; first | with_reducible assumption | with_reducible apply keep_margSum | with_reducible apply keep_laneMove | with_reducible apply keep_engRetire | with_reducible apply keep_engStart | with_reducible apply keep_foldl | with_reducible apply keep_foldl1 | with_reducible refine keep_foldl1_eq (by assumption) ?_ ?_) | split | dsimp only
theorem keep_degradedNow {s0 : State} {s : State} (hs : Keep s0 s) : Keep s0 (degradedNow s) := by
  unfold degradedNow
  repeat' first | with_reducible assumption | intro _ | (with_reducible refine keep_of ?_; first | with_reducible assumption) | split | dsimp only
theorem keep_onNow {s0 : State} {s : State} {b : Blk} {i : Nat} (hs : Keep s0 s) : Keep s0 (onNow s b i) := by
  unfold onNow
  repeat' first | with_reducible assumption | with_reducible apply keep_setBlk | with_reducible apply keep_ite | intro _ | (with_reducible refine keep_of ?_; first | with_reducible assumption | with_reducible apply keep_setBlk) | split | dsimp only
theorem keep_startBody {s0 : State} {s : State} {b : Blk} {i : Nat} {br : Bring} {boot : Bool} (hs : Keep s0 s) : Keep s0 (startBody s b i br boot) := by
  unfold startBody
  repeat' first | with_reducible assumption | with_reducible apply keep_clusterBack | with_reducible apply keep_onNow | with_reducible apply keep_setC | with_reducible apply keep_capacity | with_reducible apply keep_zeroWay | with_reducible apply keep_degradedNow | with_reducible apply keep_stackInit | with_reducible apply keep_pwrOff | with_reducible apply keep_setBlk | with_reducible apply keep_margSum | with_reducible apply keep_engInit | with_reducible apply keep_foldl | with_reducible apply keep_foldl1 | with_reducible refine keep_foldl1_eq (by assumption) ?_ ?_ | with_reducible apply keep_ite | intro _ | (with_reducible refine keep_of ?_; first | with_reducible assumption | with_reducible apply keep_clusterBack | with_reducible apply keep_onNow | with_reducible apply keep_setC | with_reducible apply keep_capacity | with_reducible apply keep_zeroWay | with_reducible apply keep_degradedNow | with_reducible apply keep_stackInit | with_reducible apply keep_pwrOff | with_reducible apply keep_setBlk | with_reducible apply keep_margSum | with_reducible apply keep_engInit | with_reducible apply keep_foldl | with_reducible apply keep_foldl1 | with_reducible refine keep_foldl1_eq (by assumption) ?_ ?_) | split | dsimp only
theorem keep_finishStart {s0 : State} {s : State} {b : Blk} {i : Nat} {br : Bring} {boot : Bool} (hs : Keep s0 s) : Keep s0 (finishStart s b i br boot) := by
  unfold finishStart
  repeat' first | with_reducible assumption | with_reducible apply keep_resetRegs | with_reducible apply keep_startBody | with_reducible apply keep_stopBlk | with_reducible apply keep_ite | intro _ | (with_reducible refine keep_of ?_; first | with_reducible assumption | with_reducible apply keep_resetRegs | with_reducible apply keep_startBody | with_reducible apply keep_stopBlk) | split | dsimp only
theorem keep_failStart {s0 : State} {s : State} {b : Blk} {i : Nat} (hs : Keep s0 s) : Keep s0 (failStart s b i) := by
  unfold failStart
  repeat' first | with_reducible assumption | with_reducible apply keep_setBlk | intro _ | (with_reducible refine keep_of ?_; first | with_reducible assumption | with_reducible apply keep_setBlk) | split | dsimp only
theorem keep_openIfIdle {s0 : State} {s : State} {d : Nat} (hs : Keep s0 s) : Keep s0 (openIfIdle s d) := by
  unfold openIfIdle
  repeat' first | with_reducible assumption | with_reducible apply keep_pwrOff | with_reducible apply keep_ite | intro _ | (with_reducible refine keep_of ?_; first | with_reducible assumption | with_reducible apply keep_pwrOff) | split | dsimp only
theorem keep_domainStarted {s0 : State} {s : State} {d : Nat} {ok : Bool} {br : Bring} {boot : Bool} (hs : Keep s0 s) : Keep s0 (domainStarted s d ok br boot) := by
  unfold domainStarted
  repeat' first | with_reducible assumption | with_reducible apply keep_finishStart | with_reducible apply keep_openIfIdle | with_reducible apply keep_capacity | with_reducible apply keep_failStart | with_reducible apply keep_foldl | with_reducible apply keep_foldl1 | with_reducible refine keep_foldl1_eq (by assumption) ?_ ?_ | with_reducible apply keep_ite | intro _ | (with_reducible refine keep_of ?_; first | with_reducible assumption | with_reducible apply keep_finishStart | with_reducible apply keep_openIfIdle | with_reducible apply keep_capacity | with_reducible apply keep_failStart | with_reducible apply keep_foldl | with_reducible apply keep_foldl1 | with_reducible refine keep_foldl1_eq (by assumption) ?_ ?_) | split | dsimp only
theorem keep_execDomainStartDone {s0 : State} {d : Nat} {ok : Bool} {br : Bring} {s : State} (hs : Keep s0 s) : KeepR s0 (execDomainStartDone d ok br s) := by
  unfold execDomainStartDone
  repeat' first | with_reducible assumption | with_reducible apply keep_domainStarted | exact keepR_refused | with_reducible apply keepR_next | intro _ | (with_reducible refine keep_of ?_; first | with_reducible assumption | with_reducible apply keep_domainStarted) | split | dsimp only
theorem keep_drainBlk {s0 : State} {s : State} {b : Blk} {i : Nat} (hs : Keep s0 s) : Keep s0 (drainBlk s b i) := by
  unfold drainBlk
  repeat' first | with_reducible assumption | with_reducible apply keep_clusterOut | with_reducible apply keep_forgetStack | with_reducible apply keep_engStop | with_reducible apply keep_linkDown | with_reducible apply keep_jrnFlush | intro _ | (with_reducible refine keep_of ?_; first | with_reducible assumption | with_reducible apply keep_clusterOut | with_reducible apply keep_forgetStack | with_reducible apply keep_engStop | with_reducible apply keep_linkDown | with_reducible apply keep_jrnFlush) | split | dsimp only
theorem keep_execDomainStopDone {s0 : State} {d : Nat} {s : State} (hs : Keep s0 s) : KeepR s0 (execDomainStopDone d s) := by
  unfold execDomainStopDone
  repeat' first | with_reducible assumption | with_reducible apply keep_setGate | with_reducible apply keep_drainBlk | with_reducible apply keep_setBlk | with_reducible apply keep_startBlk | with_reducible apply keep_openIfIdle | with_reducible apply keep_foldl | with_reducible apply keep_foldl1 | with_reducible refine keep_foldl1_eq (by assumption) ?_ ?_ | with_reducible apply keep_ite | with_reducible apply keepR_ite | exact keepR_refused | with_reducible apply keepR_next | intro _ | (with_reducible refine keep_of ?_; first | with_reducible assumption | with_reducible apply keep_setGate | with_reducible apply keep_drainBlk | with_reducible apply keep_setBlk | with_reducible apply keep_startBlk | with_reducible apply keep_openIfIdle | with_reducible apply keep_foldl | with_reducible apply keep_foldl1 | with_reducible refine keep_foldl1_eq (by assumption) ?_ ?_) | split | dsimp only
theorem keep_pwrRefuse {s0 : State} {s : State} {d cause : Nat} {start : Bool} (hs : Keep s0 s) : Keep s0 (pwrRefuse s d cause start) := by
  unfold pwrRefuse
  repeat' first | with_reducible assumption | with_reducible apply keep_wrReg | intro _ | (with_reducible refine keep_of ?_; first | with_reducible assumption | with_reducible apply keep_wrReg) | split | dsimp only
theorem keep_opEnOn {s0 : State} {s : State} {mid : Nat} {b : Blk} {i : Nat} (hs : Keep s0 s) : Keep s0 (opEnOn s mid b i) := by
  unfold opEnOn
  repeat' first | with_reducible assumption | with_reducible apply keep_pwrRefuse | with_reducible apply keep_startBlk | with_reducible apply keep_setEn | with_reducible apply keep_setBlk | with_reducible apply keep_ite | intro _ | (with_reducible refine keep_of ?_; first | with_reducible assumption | with_reducible apply keep_pwrRefuse | with_reducible apply keep_startBlk | with_reducible apply keep_setEn | with_reducible apply keep_setBlk) | split | dsimp only
theorem keep_opEnOff {s0 : State} {s : State} {mid : Nat} {b : Blk} {i : Nat} (hs : Keep s0 s) : Keep s0 (opEnOff s mid b i) := by
  unfold opEnOff
  repeat' first | with_reducible assumption | with_reducible apply keep_pwrRefuse | with_reducible apply keep_setEn | with_reducible apply keep_stopBlk | with_reducible apply keep_setBlk | with_reducible apply keep_ite | intro _ | (with_reducible refine keep_of ?_; first | with_reducible assumption | with_reducible apply keep_pwrRefuse | with_reducible apply keep_setEn | with_reducible apply keep_stopBlk | with_reducible apply keep_setBlk) | split | dsimp only
theorem keep_opSrst {s0 : State} {s : State} {b : Blk} {i : Nat} (hs : Keep s0 s) : Keep s0 (opSrst s b i) := by
  unfold opSrst
  repeat' first | with_reducible assumption | with_reducible apply keep_wrBit | with_reducible apply keep_ite | intro _ | (with_reducible refine keep_of ?_; first | with_reducible assumption | with_reducible apply keep_wrBit) | split | dsimp only
theorem keep_enAccess {s0 : State} {s : State} {mid : Nat} {b : Blk} {i : Nat} {f : State → State} (hs : Keep s0 s) (hf : ∀ y0, Keep s0 y0 → Keep s0 (f y0)) : Keep s0 (enAccess s mid b i f) := by
  unfold enAccess
  repeat' first | with_reducible assumption | with_reducible apply hf | with_reducible apply keep_hdrAccess | with_reducible apply keep_ite | intro _ | (with_reducible refine keep_of ?_; first | with_reducible assumption | with_reducible apply hf | with_reducible apply keep_hdrAccess) | split | dsimp only
theorem keep_execBlkCtlEnOn {s0 : State} {mid : Nat} {b : Blk} {i : Nat} {s : State} (hs : Keep s0 s) : KeepR s0 (execBlkCtlEnOn mid b i s) := by
  unfold execBlkCtlEnOn
  repeat' first | with_reducible assumption | with_reducible apply keep_enAccess | with_reducible apply keep_opEnOn | exact keepR_refused | with_reducible apply keepR_next | intro _ | (with_reducible refine keep_of ?_; first | with_reducible assumption | with_reducible apply keep_enAccess | with_reducible apply keep_opEnOn) | split | dsimp only
theorem keep_execBlkCtlEnOff {s0 : State} {mid : Nat} {b : Blk} {i : Nat} {s : State} (hs : Keep s0 s) : KeepR s0 (execBlkCtlEnOff mid b i s) := by
  unfold execBlkCtlEnOff
  repeat' first | with_reducible assumption | with_reducible apply keep_enAccess | with_reducible apply keep_opEnOff | exact keepR_refused | with_reducible apply keepR_next | intro _ | (with_reducible refine keep_of ?_; first | with_reducible assumption | with_reducible apply keep_enAccess | with_reducible apply keep_opEnOff) | split | dsimp only
theorem keep_execSrst {s0 : State} {mid : Nat} {b : Blk} {i : Nat} {s : State} (hs : Keep s0 s) : KeepR s0 (execSrst mid b i s) := by
  unfold execSrst
  repeat' first | with_reducible assumption | with_reducible apply keep_hdrAccess | with_reducible apply keep_opSrst | exact keepR_refused | with_reducible apply keepR_next | intro _ | (with_reducible refine keep_of ?_; first | with_reducible assumption | with_reducible apply keep_hdrAccess | with_reducible apply keep_opSrst) | split | dsimp only
theorem keep_softBlock {s0 : State} {s : State} {b : Blk} {i : Nat} (hs : Keep s0 s) : Keep s0 (softBlock s b i) := by
  unfold softBlock
  repeat' first | with_reducible assumption | with_reducible apply keep_setU | with_reducible apply keep_mbSoftReset | intro _ | (with_reducible refine keep_of ?_; first | with_reducible assumption | with_reducible apply keep_setU | with_reducible apply keep_mbSoftReset) | split | dsimp only
theorem keep_execSoftResetDone {s0 : State} {b : Blk} {i : Nat} {s : State} (hs : Keep s0 s) : KeepR s0 (execSoftResetDone b i s) := by
  unfold execSoftResetDone
  repeat' first | with_reducible assumption | with_reducible apply keep_wrBit | with_reducible apply keep_softBlock | with_reducible apply keep_softRegs | with_reducible apply keep_stopBlk | with_reducible apply keep_ite | with_reducible apply keepR_ite | exact keepR_refused | with_reducible apply keepR_next | intro _ | (with_reducible refine keep_of ?_; first | with_reducible assumption | with_reducible apply keep_wrBit | with_reducible apply keep_softBlock | with_reducible apply keep_softRegs | with_reducible apply keep_stopBlk) | split | dsimp only
theorem keep_faultMember {s0 : State} {s : State} {b : Blk} {i : Nat} (hs : Keep s0 s) : Keep s0 (faultMember s b i) := by
  unfold faultMember
  repeat' first | with_reducible assumption | with_reducible apply keep_failStart | with_reducible apply keep_clusterOut | with_reducible apply keep_stackLost | with_reducible apply keep_zeroWay | with_reducible apply keep_rasPut | with_reducible apply keep_capacity | with_reducible apply keep_dropLines | with_reducible apply keep_engStop | with_reducible apply keep_linkDown | with_reducible apply keep_foldl | with_reducible apply keep_foldl1 | with_reducible refine keep_foldl1_eq (by assumption) ?_ ?_ | with_reducible apply keep_ite | intro _ | (with_reducible refine keep_of ?_; first | with_reducible assumption | with_reducible apply keep_failStart | with_reducible apply keep_clusterOut | with_reducible apply keep_stackLost | with_reducible apply keep_zeroWay | with_reducible apply keep_rasPut | with_reducible apply keep_capacity | with_reducible apply keep_dropLines | with_reducible apply keep_engStop | with_reducible apply keep_linkDown | with_reducible apply keep_foldl | with_reducible apply keep_foldl1 | with_reducible refine keep_foldl1_eq (by assumption) ?_ ?_) | split | dsimp only
theorem keep_execDomainFault {s0 : State} {d : Nat} {s : State} (hs : Keep s0 s) : KeepR s0 (execDomainFault d s) := by
  unfold execDomainFault
  repeat' first | with_reducible assumption | with_reducible apply keep_bump | with_reducible apply keep_orReg | with_reducible apply keep_replayTrick | with_reducible apply keep_faultMember | with_reducible apply keep_pwrOff | with_reducible apply keep_foldl | with_reducible apply keep_foldl1 | with_reducible refine keep_foldl1_eq (by assumption) ?_ ?_ | with_reducible apply keep_ite | with_reducible apply keepR_ite | exact keepR_refused | with_reducible apply keepR_next | intro _ | (with_reducible refine keep_of ?_; first | with_reducible assumption | with_reducible apply keep_bump | with_reducible apply keep_orReg | with_reducible apply keep_replayTrick | with_reducible apply keep_faultMember | with_reducible apply keep_pwrOff | with_reducible apply keep_foldl | with_reducible apply keep_foldl1 | with_reducible refine keep_foldl1_eq (by assumption) ?_ ?_) | split | dsimp only
theorem keep_noteLoss {s0 : State} {s : State} {c : ClkSrc} (hs : Keep s0 s) : Keep s0 (noteLoss s c) := by
  unfold noteLoss
  repeat' first | with_reducible assumption | with_reducible apply keep_mgmt | with_reducible apply keep_orReg | with_reducible apply keep_ite | intro _ | (with_reducible refine keep_of ?_; first | with_reducible assumption | with_reducible apply keep_mgmt | with_reducible apply keep_orReg) | split | dsimp only
theorem keep_dieOut {s0 : State} {s : State} {d : Nat} (hs : Keep s0 s) : Keep s0 (dieOut s d) := by
  unfold dieOut
  repeat' first | with_reducible assumption | with_reducible apply keep_clusterOut | with_reducible apply keep_replayTrick | with_reducible apply keep_foldl | with_reducible apply keep_foldl1 | with_reducible refine keep_foldl1_eq (by assumption) ?_ ?_ | intro _ | (with_reducible refine keep_of ?_; first | with_reducible assumption | with_reducible apply keep_clusterOut | with_reducible apply keep_replayTrick | with_reducible apply keep_foldl | with_reducible apply keep_foldl1 | with_reducible refine keep_foldl1_eq (by assumption) ?_ ?_) | split | dsimp only
theorem keep_dieBack {s0 : State} {s : State} {d : Nat} (hs : Keep s0 s) : Keep s0 (dieBack s d) := by
  unfold dieBack
  repeat' first | with_reducible assumption | with_reducible apply keep_clusterBack | with_reducible apply keep_setC | with_reducible apply keep_capacity | with_reducible apply keep_foldl | with_reducible apply keep_foldl1 | with_reducible refine keep_foldl1_eq (by assumption) ?_ ?_ | with_reducible apply keep_ite | intro _ | (with_reducible refine keep_of ?_; first | with_reducible assumption | with_reducible apply keep_clusterBack | with_reducible apply keep_setC | with_reducible apply keep_capacity | with_reducible apply keep_foldl | with_reducible apply keep_foldl1 | with_reducible refine keep_foldl1_eq (by assumption) ?_ ?_) | split | dsimp only
theorem keep_engClocks {s0 : State} {s : State} (hs : Keep s0 s) : Keep s0 (engClocks s) := by
  unfold engClocks
  repeat' first | with_reducible assumption | with_reducible apply keep_engLeave | with_reducible apply keep_foldl | with_reducible apply keep_foldl1 | with_reducible refine keep_foldl1_eq (by assumption) ?_ ?_ | with_reducible apply keep_ite | intro _ | (with_reducible refine keep_of ?_; first | with_reducible assumption | with_reducible apply keep_engLeave | with_reducible apply keep_foldl | with_reducible apply keep_foldl1 | with_reducible refine keep_foldl1_eq (by assumption) ?_ ?_) | split | dsimp only
theorem keep_clockOut {s0 : State} {s : State} {c : ClkSrc} (hs : Keep s0 s) : Keep s0 (clockOut s c) := by
  unfold clockOut
  split
  · exact keep_linkDown (keep_engClocks (keep_of hs))
  · exact keep_linkDown hs
  · exact keep_engClocks hs
  · exact keep_engClocks hs
  · exact keep_dieOut hs
  · exact keep_ite (fun _ => keep_fabChanged (keep_of hs) (keep_engClocks (keep_dieOut hs))) (fun _ => hs)
  · exact keep_ite (fun _ => keep_capacity (keep_stackLost hs)) (fun _ => hs)
  · exact keep_ite (fun _ => keep_capacity (keep_stackLost hs)) (fun _ => hs)
  · exact keep_bytes hs (fun w => w.dram) (fun _ => spWf_nil) (fun w => w.scratch)
  · exact hs
  · exact hs
theorem keep_execClockLoss {s0 : State} {src : ClkSrc} {s : State} (hs : Keep s0 s) : KeepR s0 (execClockLoss src s) := by
  unfold execClockLoss
  repeat' first | with_reducible assumption | with_reducible apply keep_clockOut | with_reducible apply keep_noteLoss | with_reducible apply keep_ite | with_reducible apply keepR_ite | exact keepR_refused | with_reducible apply keepR_next | intro _ | (with_reducible refine keep_of ?_; first | with_reducible assumption | with_reducible apply keep_clockOut | with_reducible apply keep_noteLoss) | split | dsimp only
theorem keep_clockBack {s0 : State} {s : State} {c : ClkSrc} {br : Bring} (hs : Keep s0 s) : Keep s0 (clockBack s c br) := by
  unfold clockBack
  repeat' first | with_reducible assumption | with_reducible apply keep_dieBack | with_reducible apply keep_engClocks | with_reducible apply keep_capacity | with_reducible apply keep_stackInit | with_reducible apply keep_ite | intro _ | (with_reducible refine keep_of ?_; first | with_reducible assumption | with_reducible apply keep_dieBack | with_reducible apply keep_engClocks | with_reducible apply keep_capacity | with_reducible apply keep_stackInit) | split | dsimp only
theorem keep_railsRemoved {s0 : State} {s : State} (hs : Keep s0 s) : Keep s0 (railsRemoved s) := by
  unfold railsRemoved
  repeat' first | with_reducible assumption | with_reducible apply keep_emit | with_reducible apply keep_foldl | with_reducible apply keep_foldl1 | with_reducible refine keep_foldl1_eq (by assumption) ?_ ?_ | intro _ | (with_reducible refine keep_of ?_; first | with_reducible assumption | with_reducible apply keep_emit | with_reducible apply keep_foldl | with_reducible apply keep_foldl1 | with_reducible refine keep_foldl1_eq (by assumption) ?_ ?_) | split | dsimp only
theorem keep_railsOff {s0 : State} {before : State} (hbefore : Keep s0 before) : Keep s0 (railsOff before) := by
  unfold railsOff
  repeat' first | with_reducible assumption | with_reducible apply keep_railsRemoved | with_reducible apply keep_setBlk | with_reducible apply keep_pwrOn | with_reducible apply keep_foldl | with_reducible apply keep_foldl1 | with_reducible refine keep_foldl1_eq (by assumption) ?_ ?_ | with_reducible apply keep_ite | intro _ | (with_reducible refine keep_of ?_; first | with_reducible assumption | with_reducible apply keep_railsRemoved | with_reducible apply keep_setBlk | with_reducible apply keep_pwrOn | with_reducible apply keep_foldl | with_reducible apply keep_foldl1 | with_reducible refine keep_foldl1_eq (by assumption) ?_ ?_) | (with_reducible refine keep_mem ?_; first | with_reducible assumption | with_reducible apply keep_railsRemoved | with_reducible apply keep_setBlk | with_reducible apply keep_pwrOn | with_reducible apply keep_foldl | with_reducible apply keep_foldl1 | with_reducible refine keep_foldl1_eq (by assumption) ?_ ?_) | ((with_reducible refine keep_bytes ?_ (fun w => ?_) (fun w => ?_) (fun w => ?_)) <;> first | with_reducible assumption | with_reducible apply keep_railsRemoved | with_reducible apply keep_setBlk | with_reducible apply keep_pwrOn | with_reducible apply keep_foldl | with_reducible apply keep_foldl1 | with_reducible refine keep_foldl1_eq (by assumption) ?_ ?_ | ((try dsimp only) <;> (repeat' first | exact spWf_nil | with_reducible exact w.dram | with_reducible exact w.lpd | with_reducible exact w.scratch | with_reducible exact w.flash | assumption | apply wrBytes_wf | apply zeroBytes_wf | apply copyBytes_wf | apply fProg_wf | apply fErase_wf | apply spPut_wf | apply foldl_wf | intro _ | split | rfl) <;> done)) | split | dsimp only
theorem keep_dealerStop {s0 : State} {s : State} (hs : Keep s0 s) : Keep s0 (dealerStop s) := by
  unfold dealerStop
  repeat' first | with_reducible assumption | intro _ | (with_reducible refine keep_of ?_; first | with_reducible assumption) | split | dsimp only
theorem keep_shutdown {s0 : State} {s : State} {ty inst temp : Nat} (hs : Keep s0 s) : Keep s0 (shutdown s ty inst temp) := by
  unfold shutdown
  repeat' first | with_reducible assumption | with_reducible apply keep_tripLog | with_reducible apply keep_railsOff | with_reducible apply keep_dealerStop | with_reducible apply keep_ite | intro _ | (with_reducible refine keep_of ?_; first | with_reducible assumption | with_reducible apply keep_tripLog | with_reducible apply keep_railsOff | with_reducible apply keep_dealerStop) | split | dsimp only
theorem keep_tripAll {s0 : State} {s : State} {ty thr : Nat} {l : List Nat} (hs : Keep s0 s) : Keep s0 (tripAll s ty thr l) := by
  unfold tripAll
  repeat' first | with_reducible assumption | with_reducible apply keep_tripCheck | with_reducible apply keep_foldl | with_reducible apply keep_foldl1 | with_reducible refine keep_foldl1_eq (by assumption) ?_ ?_ | intro _ | (with_reducible refine keep_of ?_; first | with_reducible assumption | with_reducible apply keep_tripCheck | with_reducible apply keep_foldl | with_reducible apply keep_foldl1 | with_reducible refine keep_foldl1_eq (by assumption) ?_ ?_) | split | dsimp only
theorem keep_thmReadings {s0 : State} {s : State} {rd : Sensors} (hs : Keep s0 s) : Keep s0 (thmReadings s rd) := by
  unfold thmReadings
  repeat' first | with_reducible assumption | with_reducible apply keep_wrReg | with_reducible apply keep_ite | intro _ | (with_reducible refine keep_of ?_; first | with_reducible assumption | with_reducible apply keep_wrReg) | split | dsimp only
theorem keep_thermCtl {s0 : State} {s : State} {compute : List Nat} (hs : Keep s0 s) : Keep s0 (thermCtl s compute) := by
  unfold thermCtl
  repeat' first | with_reducible assumption | with_reducible apply keep_ite | intro _ | (with_reducible refine keep_of ?_; first | with_reducible assumption) | split | dsimp only
theorem keep_pairTherm {s0 : State} {s : State} {j : Nat} (hs : Keep s0 s) : Keep s0 (pairTherm s j) := by
  unfold pairTherm
  repeat' first | with_reducible assumption | with_reducible apply keep_capacity | with_reducible apply keep_tripLog | with_reducible apply keep_setBlk | with_reducible apply keep_startBlk | with_reducible apply keep_foldl | with_reducible apply keep_foldl1 | with_reducible refine keep_foldl1_eq (by assumption) ?_ ?_ | with_reducible apply keep_ite | intro _ | (with_reducible refine keep_of ?_; first | with_reducible assumption | with_reducible apply keep_capacity | with_reducible apply keep_tripLog | with_reducible apply keep_setBlk | with_reducible apply keep_startBlk | with_reducible apply keep_foldl | with_reducible apply keep_foldl1 | with_reducible refine keep_foldl1_eq (by assumption) ?_ ?_) | split | dsimp only
theorem keep_execThermalRead {s0 : State} {rd : Sensors} {s : State} (hs : Keep s0 s) : KeepR s0 (execThermalRead rd s) := by
  unfold execThermalRead
  repeat' first | with_reducible assumption | with_reducible apply keep_thmReadings | with_reducible apply keep_shutdown | with_reducible apply keep_tripAll | with_reducible apply keep_thermCtl | with_reducible apply keep_thrSettle | with_reducible apply keep_pairTherm | with_reducible apply keep_foldl | with_reducible apply keep_foldl1 | with_reducible refine keep_foldl1_eq (by assumption) ?_ ?_ | with_reducible apply keep_ite | with_reducible apply keepR_ite | exact keepR_refused | with_reducible apply keepR_next | intro _ | (with_reducible refine keep_of ?_; first | with_reducible assumption | with_reducible apply keep_thmReadings | with_reducible apply keep_shutdown | with_reducible apply keep_tripAll | with_reducible apply keep_thermCtl | with_reducible apply keep_thrSettle | with_reducible apply keep_pairTherm | with_reducible apply keep_foldl | with_reducible apply keep_foldl1 | with_reducible refine keep_foldl1_eq (by assumption) ?_ ?_) | split | dsimp only

end Sys2Proof.Machine
end

