-- ==== Sys2Proof/Laws/KeepBoot.lean ====
section
/-!
SUPPORT. Keep (the queue, the fuses, the byte memories, the free counter and the output) for every operation of Trust, Boot.
-/
set_option linter.unusedVariables false

namespace Sys2Proof.Machine

theorem keep_ctlWrite {s0 : State} {s : State} {c : Ctl} (hs : Keep s0 s) : Keep s0 (ctlWrite s c) := by
  unfold ctlWrite
  repeat' first | with_reducible assumption | intro _ | (with_reducible refine keep_of ?_; first | with_reducible assumption) | ((with_reducible refine keep_flash ?_ (fun w => ?_)) <;> first | with_reducible assumption | ((try dsimp only) <;> (repeat' first | exact spWf_nil | with_reducible exact w.dram | with_reducible exact w.lpd | with_reducible exact w.scratch | with_reducible exact w.flash | assumption | apply wrBytes_wf | apply zeroBytes_wf | apply copyBytes_wf | apply fProg_wf | apply fErase_wf | apply spPut_wf | apply foldl_wf | intro _ | split | rfl) <;> done)) | split | dsimp only
theorem keep_secAccess {s0 : State} {s : State} {mid : Nat} {f : State → State} (hs : Keep s0 s) (hf : ∀ y0, Keep s0 y0 → Keep s0 (f y0)) : Keep s0 (secAccess s mid f) := by
  unfold secAccess
  repeat' first | with_reducible assumption | with_reducible apply hf | with_reducible apply keep_gatedWrite | intro _ | (with_reducible refine keep_of ?_; first | with_reducible assumption | with_reducible apply hf | with_reducible apply keep_gatedWrite) | split | dsimp only
theorem keep_opBootConfirm {s0 : State} {s : State} {v : W32} (hs : Keep s0 s) : Keep s0 (opBootConfirm s v) := by
  unfold opBootConfirm
  repeat' first | with_reducible assumption | with_reducible apply keep_ctlWrite | with_reducible apply keep_ite | intro _ | (with_reducible refine keep_of ?_; first | with_reducible assumption | with_reducible apply keep_ctlWrite) | split | dsimp only
theorem keep_execBootConfirm {s0 : State} {mid : Nat} {v : W32} {s : State} (hs : Keep s0 s) : KeepR s0 (execBootConfirm mid v s) := by
  unfold execBootConfirm
  repeat' first | with_reducible assumption | with_reducible apply keep_secAccess | with_reducible apply keep_opBootConfirm | exact keepR_refused | with_reducible apply keepR_next | intro _ | (with_reducible refine keep_of ?_; first | with_reducible assumption | with_reducible apply keep_secAccess | with_reducible apply keep_opBootConfirm) | split | dsimp only
theorem keep_opBootPref {s0 : State} {s : State} {v : W32} (hs : Keep s0 s) : Keep s0 (opBootPref s v) := by
  unfold opBootPref
  repeat' first | with_reducible assumption | with_reducible apply keep_ctlWrite | intro _ | (with_reducible refine keep_of ?_; first | with_reducible assumption | with_reducible apply keep_ctlWrite) | split | dsimp only
theorem keep_execBootPref {s0 : State} {mid : Nat} {v : W32} {s : State} (hs : Keep s0 s) : KeepR s0 (execBootPref mid v s) := by
  unfold execBootPref
  repeat' first | with_reducible assumption | with_reducible apply keep_secAccess | with_reducible apply keep_opBootPref | exact keepR_refused | with_reducible apply keepR_next | intro _ | (with_reducible refine keep_of ?_; first | with_reducible assumption | with_reducible apply keep_secAccess | with_reducible apply keep_opBootPref) | split | dsimp only
theorem keep_opFlash {s0 : State} {s : State} {code : Nat} (hs : Keep s0 s) : Keep s0 (opFlash s code) := by
  unfold opFlash
  repeat' first | with_reducible assumption | with_reducible apply keep_wrReg | with_reducible apply keep_ite | intro _ | (with_reducible refine keep_of ?_; first | with_reducible assumption | with_reducible apply keep_wrReg) | split | dsimp only
theorem keep_execFlashProgram {s0 : State} {mid : Nat} {s : State} (hs : Keep s0 s) : KeepR s0 (execFlashProgram mid s) := by
  unfold execFlashProgram
  repeat' first | with_reducible assumption | with_reducible apply keep_secAccess | with_reducible apply keep_opFlash | exact keepR_refused | with_reducible apply keepR_next | intro _ | (with_reducible refine keep_of ?_; first | with_reducible assumption | with_reducible apply keep_secAccess | with_reducible apply keep_opFlash) | split | dsimp only
theorem keep_execFlashErase {s0 : State} {mid : Nat} {s : State} (hs : Keep s0 s) : KeepR s0 (execFlashErase mid s) := by
  unfold execFlashErase
  repeat' first | with_reducible assumption | with_reducible apply keep_secAccess | with_reducible apply keep_opFlash | exact keepR_refused | with_reducible apply keepR_next | intro _ | (with_reducible refine keep_of ?_; first | with_reducible assumption | with_reducible apply keep_secAccess | with_reducible apply keep_opFlash) | split | dsimp only
theorem keep_execFlashRead {s0 : State} {mid : Nat} {s : State} (hs : Keep s0 s) : KeepR s0 (execFlashRead mid s) := by
  unfold execFlashRead
  repeat' first | with_reducible assumption | with_reducible apply keep_secAccess | with_reducible apply keep_opFlash | exact keepR_refused | with_reducible apply keepR_next | intro _ | (with_reducible refine keep_of ?_; first | with_reducible assumption | with_reducible apply keep_secAccess | with_reducible apply keep_opFlash) | split | dsimp only
theorem keep_flashOpen {s0 : State} {s : State} {a n : Nat} (hs : Keep s0 s) : Keep s0 (flashOpen s a n) :=
  hs.trans ⟨rfl, .refl _, fun w => ⟨w.dram, w.lpd, w.scratch, foldl_wf (fun _ _ h => spPut_wf h) w.flash⟩, Nat.le_add_right _ _, [], rfl⟩
theorem keep_flashCut {s0 : State} {s : State} (hs : Keep s0 s) : Keep s0 (flashCut s) := by
  unfold flashCut
  repeat' first | with_reducible assumption | with_reducible apply keep_flashOpen | with_reducible apply keep_ite | intro _ | (with_reducible refine keep_of ?_; first | with_reducible assumption | with_reducible apply keep_flashOpen) | split | dsimp only
theorem keep_execFlashCmdDone {s0 : State} {ok : Bool} {s : State} (hs : Keep s0 s) : KeepR s0 (execFlashCmdDone ok s) := by
  unfold execFlashCmdDone
  repeat' first | with_reducible assumption | with_reducible apply keep_wrReg | with_reducible apply keep_flashCut | with_reducible apply keep_takeFree | with_reducible apply keep_foldl | with_reducible apply keep_foldl1 | with_reducible refine keep_foldl1_eq (by assumption) ?_ ?_ | with_reducible apply keep_ite | with_reducible apply keepR_ite | exact keepR_refused | with_reducible apply keepR_next | intro _ | (with_reducible refine keep_of ?_; first | with_reducible assumption | with_reducible apply keep_wrReg | with_reducible apply keep_flashCut | with_reducible apply keep_takeFree | with_reducible apply keep_foldl | with_reducible apply keep_foldl1 | with_reducible refine keep_foldl1_eq (by assumption) ?_ ?_) | ((with_reducible refine keep_flash ?_ (fun w => ?_)) <;> first | with_reducible assumption | with_reducible apply keep_wrReg | with_reducible apply keep_flashCut | with_reducible apply keep_takeFree | with_reducible apply keep_foldl | with_reducible apply keep_foldl1 | with_reducible refine keep_foldl1_eq (by assumption) ?_ ?_ | ((try dsimp only) <;> (repeat' first | exact spWf_nil | with_reducible exact w.dram | with_reducible exact w.lpd | with_reducible exact w.scratch | with_reducible exact w.flash | assumption | apply wrBytes_wf | apply zeroBytes_wf | apply copyBytes_wf | apply fProg_wf | apply fErase_wf | apply spPut_wf | apply foldl_wf | intro _ | split | rfl) <;> done)) | split | dsimp only
theorem keep_secErr {s0 : State} {s : State} {i : Nat} (hs : Keep s0 s) : Keep s0 (secErr s i) := by
  unfold secErr
  repeat' first | with_reducible assumption | with_reducible apply keep_orReg | intro _ | (with_reducible refine keep_of ?_; first | with_reducible assumption | with_reducible apply keep_orReg) | split | dsimp only
theorem keep_opSvnCommit {s0 : State} {s : State} {v : W32} (hs : Keep s0 s) : Keep s0 (opSvnCommit s v) := by
  unfold opSvnCommit
  repeat' first | with_reducible assumption | with_reducible apply keep_jrnPut | with_reducible apply keep_secErr | with_reducible apply keep_ite | intro _ | (with_reducible refine keep_of ?_; first | with_reducible assumption | with_reducible apply keep_jrnPut | with_reducible apply keep_secErr) | split | dsimp only
theorem keep_execSvnCommit {s0 : State} {mid : Nat} {v : W32} {s : State} (hs : Keep s0 s) : KeepR s0 (execSvnCommit mid v s) := by
  unfold execSvnCommit
  repeat' first | with_reducible assumption | with_reducible apply keep_secAccess | with_reducible apply keep_opSvnCommit | exact keepR_refused | with_reducible apply keepR_next | intro _ | (with_reducible refine keep_of ?_; first | with_reducible assumption | with_reducible apply keep_secAccess | with_reducible apply keep_opSvnCommit) | split | dsimp only
theorem keep_burnEnd {s0 : State} {s : State} {t : Nat} (hs : Keep s0 s) : Keep s0 (burnEnd s t) := by
  unfold burnEnd
  refine keep_jrnPut (hs.trans ⟨rfl, ⟨Nat.le_max_left _ _, fun _ h => h, fun _ h => h, fun _ _ => rfl, id⟩,
    fun w => ⟨w.dram, w.lpd, w.scratch, w.flash⟩, Nat.le_refl _, [], rfl⟩)
theorem keep_execFuseBurnDone {s0 : State} {s : State} (hs : Keep s0 s) : KeepR s0 (execFuseBurnDone s) := by
  unfold execFuseBurnDone
  repeat' first | with_reducible assumption | with_reducible apply keep_burnEnd | exact keepR_refused | with_reducible apply keepR_next | intro _ | (with_reducible refine keep_of ?_; first | with_reducible assumption | with_reducible apply keep_burnEnd) | split | dsimp only
theorem keep_burnCut {s0 : State} {s : State} (hs : Keep s0 s) : Keep s0 (burnCut s) := by
  unfold burnCut
  split
  · exact hs.trans ⟨rfl, ⟨Nat.le_add_right _ _, fun _ h => h, fun _ h => h, fun _ _ => rfl, id⟩,
      fun w => ⟨w.dram, w.lpd, w.scratch, w.flash⟩, Nat.le_succ _, [], rfl⟩
  · exact hs
theorem keep_fwCmd {s0 : State} {s : State} {ch self sender : Nat} {up : Bool} {listed : List Nat} {cmd : Nat} {f : State → State × Nat × List Nat} (hs : Keep s0 s) (hf : ∀ y0, Keep s0 y0 → Keep s0 (f y0).1) : Keep s0 (fwCmd s ch self sender up listed cmd f) := by
  unfold fwCmd
  repeat' first | with_reducible assumption | with_reducible apply hf | with_reducible apply keep_mbReply | with_reducible apply keep_ite | intro _ | (with_reducible refine keep_of ?_; first | with_reducible assumption | with_reducible apply hf | with_reducible apply keep_mbReply) | split | dsimp only
theorem setAt_ne {α : Type} : ∀ (l : List α) {i j : Nat} {v : α}, j ≠ i → (setAt l i v)[j]? = l[j]?
  | [], _, _, _, _ => rfl
  | _ :: _, 0, 0, _, h => absurd rfl h
  | _ :: _, 0, _ + 1, _, _ => rfl
  | _ :: _, _ + 1, 0, _, _ => rfl
  | _ :: t, i + 1, j + 1, _, h => setAt_ne t (fun e => h (by rw [e]))
theorem keep_secPerform {s0 : State} {s : State} {o : SecObj} {tz : State} (ez : secPerform s o = some tz) (hs : Keep s0 s) :
    Keep s0 tz := by
  unfold secPerform at ez
  dsimp only at ez
  split at ez
  · cases ez
  · split at ez
    · split at ez
      · rename_i k h ha hk
        cases ez
        refine hs.trans ⟨rfl, ⟨Nat.le_refl _, fun _ h => ?_, fun _ h => h, fun j h => ?_, id⟩,
          fun w => ⟨w.dram, w.lpd, w.scratch, w.flash⟩, Nat.le_refl _, [], rfl⟩
        · simp [BitVec.getLsbD_or, h]
        · refine setAt_ne _ (fun e => ?_)
          subst e
          simp_all
      · cases ez
    · split at ez
      · cases ez
      · cases ez
        exact hs.trans ⟨rfl, ⟨Nat.le_refl _, fun _ h => h, fun _ h => by simp [BitVec.getLsbD_or, h], fun _ _ => rfl, id⟩,
          fun w => ⟨w.dram, w.lpd, w.scratch, w.flash⟩, Nat.le_refl _, [], rfl⟩
    · cases ez
      exact keep_of hs
theorem keep_opSecCmd {s0 : State} {obj : SecObj} {s : State} (hs : Keep s0 s) : Keep s0 (opSecCmd obj s).1 := by
  unfold opSecCmd
  repeat' first | with_reducible assumption | with_reducible apply keep_secErr | with_reducible apply keep_memRead | with_reducible refine keep_memRead_eq (by assumption) ?_ | with_reducible refine keep_secPerform (by assumption) ?_ | with_reducible apply keep_ite | intro _ | (with_reducible refine keep_of ?_; first | with_reducible assumption | with_reducible apply keep_secErr | with_reducible apply keep_memRead | with_reducible refine keep_memRead_eq (by assumption) ?_ | with_reducible refine keep_secPerform (by assumption) ?_) | split | dsimp only
theorem keep_opSecCmd_eq {s0 : State} {obj : SecObj} {s : State} {tz : State} {rz : Nat × List Nat} (ez : opSecCmd obj s = (tz, rz)) (hs : Keep s0 s) : Keep s0 tz := by
  rw [show tz = (opSecCmd obj s).1 from by rw [ez]]
  exact keep_opSecCmd hs
theorem keep_execSecCmd {s0 : State} {obj : SecObj} {s : State} (hs : Keep s0 s) : KeepR s0 (execSecCmd obj s) := by
  unfold execSecCmd
  repeat' first | with_reducible assumption | with_reducible apply keep_fwCmd | with_reducible apply keep_opSecCmd | with_reducible refine keep_opSecCmd_eq (by assumption) ?_ | exact keepR_refused | with_reducible apply keepR_next | intro _ | (with_reducible refine keep_of ?_; first | with_reducible assumption | with_reducible apply keep_fwCmd | with_reducible apply keep_opSecCmd | with_reducible refine keep_opSecCmd_eq (by assumption) ?_) | split | dsimp only
theorem keep_execGetBoot {s0 : State} {s : State} (hs : Keep s0 s) : KeepR s0 (execGetBoot s) := by
  unfold execGetBoot
  repeat' first | with_reducible assumption | with_reducible apply keep_fwCmd | exact keepR_refused | with_reducible apply keepR_next | intro _ | (with_reducible refine keep_of ?_; first | with_reducible assumption | with_reducible apply keep_fwCmd) | split | dsimp only
theorem keep_execGetSerial {s0 : State} {s : State} (hs : Keep s0 s) : KeepR s0 (execGetSerial s) := by
  unfold execGetSerial
  repeat' first | with_reducible assumption | with_reducible apply keep_fwCmd | exact keepR_refused | with_reducible apply keepR_next | intro _ | (with_reducible refine keep_of ?_; first | with_reducible assumption | with_reducible apply keep_fwCmd) | split | dsimp only
theorem keep_execGetHealth {s0 : State} {s : State} (hs : Keep s0 s) : KeepR s0 (execGetHealth s) := by
  unfold execGetHealth
  repeat' first | with_reducible assumption | with_reducible apply keep_fwCmd | exact keepR_refused | with_reducible apply keepR_next | intro _ | (with_reducible refine keep_of ?_; first | with_reducible assumption | with_reducible apply keep_fwCmd) | split | dsimp only
theorem keep_identity {s0 : State} {s : State} (hs : Keep s0 s) : Keep s0 (identity s) := by
  unfold identity
  repeat' first | with_reducible assumption | intro _ | (with_reducible refine keep_of ?_; first | with_reducible assumption) | split | dsimp only
theorem keep_execSpdmRequest {s0 : State} {rq : SpdmReq} {s : State} (hs : Keep s0 s) : KeepR s0 (execSpdmRequest rq s) := by
  unfold execSpdmRequest
  repeat' first | with_reducible assumption | with_reducible apply keep_emit | with_reducible apply keep_ite | with_reducible apply keepR_ite | exact keepR_refused | with_reducible apply keepR_next | intro _ | (with_reducible refine keep_of ?_; first | with_reducible assumption | with_reducible apply keep_emit) | split | dsimp only
theorem keep_tapLoad {s0 : State} {s : State} {t : Tap} (hs : Keep s0 s) : Keep s0 (tapLoad s t) := by
  unfold tapLoad
  repeat' first | with_reducible assumption | with_reducible apply keep_emit | with_reducible apply keep_ite | intro _ | (with_reducible refine keep_of ?_; first | with_reducible assumption | with_reducible apply keep_emit) | split | dsimp only
theorem keep_tapPins {s0 : State} {s : State} {t : Tap} (hs : Keep s0 s) : Keep s0 (tapPins s t) := by
  unfold tapPins
  repeat' first | with_reducible assumption | with_reducible apply keep_tapLoad | with_reducible apply keep_ite | intro _ | (with_reducible refine keep_of ?_; first | with_reducible assumption | with_reducible apply keep_tapLoad) | split | dsimp only
theorem keep_execBypass {s0 : State} {s : State} (hs : Keep s0 s) : KeepR s0 (execBypass s) := by
  unfold execBypass
  repeat' first | with_reducible assumption | with_reducible apply keep_tapLoad | with_reducible apply keep_ite | with_reducible apply keepR_ite | exact keepR_refused | with_reducible apply keepR_next | intro _ | (with_reducible refine keep_of ?_; first | with_reducible assumption | with_reducible apply keep_tapLoad) | split | dsimp only
theorem keep_execIdcode {s0 : State} {s : State} (hs : Keep s0 s) : KeepR s0 (execIdcode s) := by
  unfold execIdcode
  repeat' first | with_reducible assumption | with_reducible apply keep_emit | with_reducible apply keep_tapLoad | with_reducible apply keep_ite | with_reducible apply keepR_ite | exact keepR_refused | with_reducible apply keepR_next | intro _ | (with_reducible refine keep_of ?_; first | with_reducible assumption | with_reducible apply keep_emit | with_reducible apply keep_tapLoad) | split | dsimp only
theorem keep_execSamplePreload {s0 : State} {s : State} (hs : Keep s0 s) : KeepR s0 (execSamplePreload s) := by
  unfold execSamplePreload
  repeat' first | with_reducible assumption | with_reducible apply keep_tapLoad | with_reducible apply keep_ite | with_reducible apply keepR_ite | exact keepR_refused | with_reducible apply keepR_next | intro _ | (with_reducible refine keep_of ?_; first | with_reducible assumption | with_reducible apply keep_tapLoad) | split | dsimp only
theorem keep_execExtest {s0 : State} {s : State} (hs : Keep s0 s) : KeepR s0 (execExtest s) := by
  unfold execExtest
  repeat' first | with_reducible assumption | with_reducible apply keep_tapPins | exact keepR_refused | with_reducible apply keepR_next | intro _ | (with_reducible refine keep_of ?_; first | with_reducible assumption | with_reducible apply keep_tapPins) | split | dsimp only
theorem keep_execExtestPulse {s0 : State} {s : State} (hs : Keep s0 s) : KeepR s0 (execExtestPulse s) := by
  unfold execExtestPulse
  repeat' first | with_reducible assumption | with_reducible apply keep_tapPins | exact keepR_refused | with_reducible apply keepR_next | intro _ | (with_reducible refine keep_of ?_; first | with_reducible assumption | with_reducible apply keep_tapPins) | split | dsimp only
theorem keep_execExtestTrain {s0 : State} {s : State} (hs : Keep s0 s) : KeepR s0 (execExtestTrain s) := by
  unfold execExtestTrain
  repeat' first | with_reducible assumption | with_reducible apply keep_tapPins | exact keepR_refused | with_reducible apply keepR_next | intro _ | (with_reducible refine keep_of ?_; first | with_reducible assumption | with_reducible apply keep_tapPins) | split | dsimp only
theorem keep_execClamp {s0 : State} {s : State} (hs : Keep s0 s) : KeepR s0 (execClamp s) := by
  unfold execClamp
  repeat' first | with_reducible assumption | with_reducible apply keep_tapPins | exact keepR_refused | with_reducible apply keepR_next | intro _ | (with_reducible refine keep_of ?_; first | with_reducible assumption | with_reducible apply keep_tapPins) | split | dsimp only
theorem keep_execHighz {s0 : State} {s : State} (hs : Keep s0 s) : KeepR s0 (execHighz s) := by
  unfold execHighz
  repeat' first | with_reducible assumption | with_reducible apply keep_tapPins | exact keepR_refused | with_reducible apply keepR_next | intro _ | (with_reducible refine keep_of ?_; first | with_reducible assumption | with_reducible apply keep_tapPins) | split | dsimp only
theorem keep_execJtagTrstN {s0 : State} {s : State} (hs : Keep s0 s) : KeepR s0 (execJtagTrstN s) := by
  unfold execJtagTrstN
  repeat' first | with_reducible assumption | with_reducible apply keep_tapLoad | with_reducible apply keep_ite | with_reducible apply keepR_ite | exact keepR_refused | with_reducible apply keepR_next | intro _ | (with_reducible refine keep_of ?_; first | with_reducible assumption | with_reducible apply keep_tapLoad) | split | dsimp only
theorem keep_execDebugUnlock {s0 : State} {key : Nat} {sigOk : Bool} {s : State} (hs : Keep s0 s) : KeepR s0 (execDebugUnlock key sigOk s) := by
  unfold execDebugUnlock
  repeat' first | with_reducible assumption | with_reducible apply keep_ite | with_reducible apply keepR_ite | exact keepR_refused | with_reducible apply keepR_next | intro _ | (with_reducible refine keep_of ?_; first | with_reducible assumption) | split | dsimp only
theorem keep_execDebugInstruction {s0 : State} {code : Nat} {s : State} (hs : Keep s0 s) : KeepR s0 (execDebugInstruction code s) := by
  unfold execDebugInstruction
  repeat' first | with_reducible assumption | with_reducible apply keep_ite | with_reducible apply keepR_ite | exact keepR_refused | with_reducible apply keepR_next | intro _ | (with_reducible refine keep_of ?_; first | with_reducible assumption) | split | dsimp only
theorem keep_execModidChanged {s0 : State} {_straps : Nat} {s : State} (hs : Keep s0 s) : KeepR s0 (execModidChanged _straps s) := by
  unfold execModidChanged
  repeat' first | with_reducible assumption | with_reducible apply keep_mgmt | with_reducible apply keep_ite | with_reducible apply keepR_ite | exact keepR_refused | with_reducible apply keepR_next | intro _ | (with_reducible refine keep_of ?_; first | with_reducible assumption | with_reducible apply keep_mgmt) | split | dsimp only
theorem keep_execMctpRequest {s0 : State} {rq : MctpReq} {s : State} (hs : Keep s0 s) : KeepR s0 (execMctpRequest rq s) := by
  unfold execMctpRequest
  repeat' first | with_reducible assumption | with_reducible apply keep_emit | with_reducible apply keep_ite | with_reducible apply keepR_ite | exact keepR_refused | with_reducible apply keepR_next | intro _ | (with_reducible refine keep_of ?_; first | with_reducible assumption | with_reducible apply keep_emit) | split | dsimp only
theorem keep_execMctpEventRead {s0 : State} {s : State} (hs : Keep s0 s) : KeepR s0 (execMctpEventRead s) := by
  unfold execMctpEventRead
  repeat' first | with_reducible assumption | with_reducible apply keep_emit | with_reducible apply keep_ite | with_reducible apply keepR_ite | exact keepR_refused | with_reducible apply keepR_next | intro _ | (with_reducible refine keep_of ?_; first | with_reducible assumption | with_reducible apply keep_emit) | split | dsimp only
theorem keep_freshHub {s0 : State} {s : State} {post : Bool} (hs : Keep s0 s) : Keep s0 (freshHub s post) :=
  hs.trans ⟨rfl, .refl _, fun w => ⟨rfl, rfl, rfl, w.flash⟩, Nat.le_refl _, [], rfl⟩
theorem keep_noteLosses {s0 : State} {s : State} (hs : Keep s0 s) : Keep s0 (noteLosses s) := by
  unfold noteLosses
  repeat' first | with_reducible assumption | with_reducible apply keep_noteLoss | with_reducible apply keep_foldl | with_reducible apply keep_foldl1 | with_reducible refine keep_foldl1_eq (by assumption) ?_ ?_ | intro _ | (with_reducible refine keep_of ?_; first | with_reducible assumption | with_reducible apply keep_noteLoss | with_reducible apply keep_foldl | with_reducible apply keep_foldl1 | with_reducible refine keep_foldl1_eq (by assumption) ?_ ?_) | split | dsimp only
theorem keep_keepHubOn {s0 : State} {s : State} (hs : Keep s0 s) : Keep s0 (keepHubOn s) := by
  unfold keepHubOn
  repeat' first | with_reducible assumption | with_reducible apply keep_setEn | with_reducible apply keep_pwrOn | with_reducible apply keep_foldl | with_reducible apply keep_foldl1 | with_reducible refine keep_foldl1_eq (by assumption) ?_ ?_ | intro _ | (with_reducible refine keep_of ?_; first | with_reducible assumption | with_reducible apply keep_setEn | with_reducible apply keep_pwrOn | with_reducible apply keep_foldl | with_reducible apply keep_foldl1 | with_reducible refine keep_foldl1_eq (by assumption) ?_ ?_) | split | dsimp only
theorem keep_flushAll {s0 : State} {s : State} (hs : Keep s0 s) : Keep s0 (flushAll s) := by
  unfold flushAll
  repeat' first | with_reducible assumption | with_reducible apply keep_jrnFlush | with_reducible apply keep_ite | intro _ | (with_reducible refine keep_of ?_; first | with_reducible assumption | with_reducible apply keep_jrnFlush) | split | dsimp only
theorem keep_resetHub {s0 : State} {s : State} (hs : Keep s0 s) : Keep s0 (resetHub s) := by
  unfold resetHub
  repeat' first | with_reducible assumption | with_reducible apply keep_flushAll | with_reducible apply keep_burnEnd | with_reducible apply keep_keepHubOn | with_reducible apply keep_noteLosses | with_reducible apply keep_freshHub | with_reducible apply keep_flashCut | intro _ | (with_reducible refine keep_of ?_; first | with_reducible assumption | with_reducible apply keep_flushAll | with_reducible apply keep_burnEnd | with_reducible apply keep_keepHubOn | with_reducible apply keep_noteLosses | with_reducible apply keep_freshHub | with_reducible apply keep_flashCut) | split | dsimp only
theorem keep_bootRom {s0 : State} {s : State} (hs : Keep s0 s) : Keep s0 (bootRom s) := by
  unfold bootRom
  repeat' first | with_reducible assumption | with_reducible apply keep_pwrOn | with_reducible apply keep_setBlk | with_reducible apply keep_setEn | with_reducible apply keep_foldl | with_reducible apply keep_foldl1 | with_reducible refine keep_foldl1_eq (by assumption) ?_ ?_ | intro _ | (with_reducible refine keep_of ?_; first | with_reducible assumption | with_reducible apply keep_pwrOn | with_reducible apply keep_setBlk | with_reducible apply keep_setEn | with_reducible apply keep_foldl | with_reducible apply keep_foldl1 | with_reducible refine keep_foldl1_eq (by assumption) ?_ ?_) | split | dsimp only
theorem keep_cfgReadyNow {s0 : State} {s : State} (hs : Keep s0 s) : Keep s0 (cfgReadyNow s) := by
  unfold cfgReadyNow
  repeat' first | with_reducible assumption | intro _ | (with_reducible refine keep_of ?_; first | with_reducible assumption) | split | dsimp only
theorem keep_tried {s0 : State} {s : State} {slot code : Nat} (hs : Keep s0 s) : Keep s0 (tried s slot code) := by
  unfold tried
  repeat' first | with_reducible assumption | with_reducible apply keep_ite | intro _ | (with_reducible refine keep_of ?_; first | with_reducible assumption) | split | dsimp only
theorem keep_slotRuns {s0 : State} {s : State} {slot : Nat} {fallback : Bool} (hs : Keep s0 s) : Keep s0 (slotRuns s slot fallback) := by
  unfold slotRuns
  repeat' first | with_reducible assumption | intro _ | (with_reducible refine keep_of ?_; first | with_reducible assumption) | split | dsimp only
theorem keep_bootRecovery {s0 : State} {s : State} (hs : Keep s0 s) : Keep s0 (bootRecovery s) := by
  unfold bootRecovery
  repeat' first | with_reducible assumption | with_reducible apply keep_cfgReadyNow | intro _ | (with_reducible refine keep_of ?_; first | with_reducible assumption | with_reducible apply keep_cfgReadyNow) | split | dsimp only
theorem keep_bootVerify {s0 : State} {s : State} {br : Bring} (hs : Keep s0 s) : Keep s0 (bootVerify s br) := by
  unfold bootVerify
  repeat' first | with_reducible assumption | with_reducible apply keep_ctlWrite | with_reducible apply keep_tried | with_reducible apply keep_slotRuns | with_reducible apply keep_bootRecovery | with_reducible apply keep_ite | intro _ | (with_reducible refine keep_of ?_; first | with_reducible assumption | with_reducible apply keep_ctlWrite | with_reducible apply keep_tried | with_reducible apply keep_slotRuns | with_reducible apply keep_bootRecovery) | split | dsimp only
theorem keep_bootDealer {s0 : State} {s : State} (hs : Keep s0 s) : Keep s0 (bootDealer s) := by
  unfold bootDealer
  repeat' first | with_reducible assumption | with_reducible apply keep_jrnMount | with_reducible apply keep_burnEnd | with_reducible apply keep_cfgReadyNow | with_reducible apply keep_ite | intro _ | (with_reducible refine keep_of ?_; first | with_reducible assumption | with_reducible apply keep_jrnMount | with_reducible apply keep_burnEnd | with_reducible apply keep_cfgReadyNow) | split | dsimp only
theorem keep_restoreClu {s0 : State} {s : State} {c : Nat} (hs : Keep s0 s) : Keep s0 (restoreClu s c) := by
  unfold restoreClu
  repeat' first | with_reducible assumption | with_reducible apply keep_ite | intro _ | (with_reducible refine keep_of ?_; first | with_reducible assumption) | split | dsimp only
theorem keep_restoreCh {s0 : State} {s : State} {k : Nat} (hs : Keep s0 s) : Keep s0 (restoreCh s k) := by
  unfold restoreCh
  repeat' first | with_reducible assumption | intro _ | (with_reducible refine keep_of ?_; first | with_reducible assumption) | split | dsimp only
theorem keep_bootDomain {s0 : State} {br : Bring} {s : State} {d : Nat} (hs : Keep s0 s) : Keep s0 (bootDomain br s d) := by
  unfold bootDomain
  repeat' first | with_reducible assumption | with_reducible apply keep_startBlk | with_reducible apply keep_setEn | with_reducible apply keep_domainStarted | with_reducible apply keep_foldl | with_reducible apply keep_foldl1 | with_reducible refine keep_foldl1_eq (by assumption) ?_ ?_ | intro _ | (with_reducible refine keep_of ?_; first | with_reducible assumption | with_reducible apply keep_startBlk | with_reducible apply keep_setEn | with_reducible apply keep_domainStarted | with_reducible apply keep_foldl | with_reducible apply keep_foldl1 | with_reducible refine keep_foldl1_eq (by assumption) ?_ ?_) | split | dsimp only
theorem keep_eyes {s0 : State} {s : State} (hs : Keep s0 s) : Keep s0 (eyes s) := by
  unfold eyes
  repeat' first | with_reducible assumption | with_reducible apply keep_wrReg | with_reducible apply keep_useFree | with_reducible apply keep_foldl | with_reducible apply keep_foldl1 | with_reducible refine keep_foldl1_eq (by assumption) ?_ ?_ | intro _ | (with_reducible refine keep_of ?_; first | with_reducible assumption | with_reducible apply keep_wrReg | with_reducible apply keep_useFree | with_reducible apply keep_foldl | with_reducible apply keep_foldl1 | with_reducible refine keep_foldl1_eq (by assumption) ?_ ?_) | split | dsimp only
theorem keep_bootDomains {s0 : State} {s : State} {br : Bring} (hs : Keep s0 s) : Keep s0 (bootDomains s br) := by
  unfold bootDomains
  repeat' first | with_reducible assumption | with_reducible apply keep_restoreClu | with_reducible apply keep_jrnRestore | with_reducible apply keep_restoreCh | with_reducible apply keep_eyes | with_reducible apply keep_bootDomain | with_reducible apply keep_foldl | with_reducible apply keep_foldl1 | with_reducible refine keep_foldl1_eq (by assumption) ?_ ?_ | intro _ | (with_reducible refine keep_of ?_; first | with_reducible assumption | with_reducible apply keep_restoreClu | with_reducible apply keep_jrnRestore | with_reducible apply keep_restoreCh | with_reducible apply keep_eyes | with_reducible apply keep_bootDomain | with_reducible apply keep_foldl | with_reducible apply keep_foldl1 | with_reducible refine keep_foldl1_eq (by assumption) ?_ ?_) | split | dsimp only
theorem keep_bootHalf {s0 : State} {s : State} {h : Nat} (hs : Keep s0 s) : Keep s0 (bootHalf s h) := by
  unfold bootHalf
  repeat' first | with_reducible assumption | with_reducible apply keep_setRgn | with_reducible apply keep_foldl | with_reducible apply keep_foldl1 | with_reducible refine keep_foldl1_eq (by assumption) ?_ ?_ | with_reducible apply keep_ite | intro _ | (with_reducible refine keep_of ?_; first | with_reducible assumption | with_reducible apply keep_setRgn | with_reducible apply keep_foldl | with_reducible apply keep_foldl1 | with_reducible refine keep_foldl1_eq (by assumption) ?_ ?_) | (with_reducible refine keep_mem ?_; first | with_reducible assumption | with_reducible apply keep_setRgn | with_reducible apply keep_foldl | with_reducible apply keep_foldl1 | with_reducible refine keep_foldl1_eq (by assumption) ?_ ?_) | split | dsimp only
theorem keep_bootRegions {s0 : State} {s : State} (hs : Keep s0 s) : Keep s0 (bootRegions s) := by
  unfold bootRegions
  repeat' first | with_reducible assumption | with_reducible apply keep_bootHalf | with_reducible apply keep_foldl | with_reducible apply keep_foldl1 | with_reducible refine keep_foldl1_eq (by assumption) ?_ ?_ | intro _ | (with_reducible refine keep_of ?_; first | with_reducible assumption | with_reducible apply keep_bootHalf | with_reducible apply keep_foldl | with_reducible apply keep_foldl1 | with_reducible refine keep_foldl1_eq (by assumption) ?_ ?_) | split | dsimp only
theorem keep_latchedQueue {s0 : State} {s : State} {q : Nat} (hs : Keep s0 s) : Keep s0 (latchedQueue s q) := by
  unfold latchedQueue
  repeat' first | with_reducible assumption | with_reducible apply keep_setQ | with_reducible apply keep_ite | intro _ | (with_reducible refine keep_of ?_; first | with_reducible assumption | with_reducible apply keep_setQ) | split | dsimp only
theorem keep_bootLock {s0 : State} {s : State} (hs : Keep s0 s) : Keep s0 (bootLock s) := by
  unfold bootLock
  repeat' first | with_reducible assumption | with_reducible apply keep_latchedQueue | with_reducible apply keep_raiseIsr | with_reducible apply keep_fnEvent | with_reducible apply keep_foldl | with_reducible apply keep_foldl1 | with_reducible refine keep_foldl1_eq (by assumption) ?_ ?_ | intro _ | (with_reducible refine keep_of ?_; first | with_reducible assumption | with_reducible apply keep_latchedQueue | with_reducible apply keep_raiseIsr | with_reducible apply keep_fnEvent | with_reducible apply keep_foldl | with_reducible apply keep_foldl1 | with_reducible refine keep_foldl1_eq (by assumption) ?_ ?_) | split | dsimp only
theorem keep_bootStage {s0 : State} {s : State} {br : Bring} (hs : Keep s0 s) : Keep s0 (bootStage s br) := by
  unfold bootStage
  repeat' first | with_reducible assumption | with_reducible apply keep_bootRom | with_reducible apply keep_bootVerify | with_reducible apply keep_identity | with_reducible apply keep_bootDealer | with_reducible apply keep_bootDomains | with_reducible apply keep_bootRegions | with_reducible apply keep_bootLock | with_reducible apply keep_ite | intro _ | (with_reducible refine keep_of ?_; first | with_reducible assumption | with_reducible apply keep_bootRom | with_reducible apply keep_bootVerify | with_reducible apply keep_identity | with_reducible apply keep_bootDealer | with_reducible apply keep_bootDomains | with_reducible apply keep_bootRegions | with_reducible apply keep_bootLock) | split | dsimp only
theorem keep_bootRun {s0 : State} {br : Bring} {x0 : Nat} {x1 : State} (hx1 : Keep s0 x1) : Keep s0 (bootRun br x0 x1) := by
  fun_induction bootRun <;>
  repeat' first | with_reducible assumption | with_reducible apply keep_bootStage | intro _ | (with_reducible refine keep_of ?_; first | with_reducible assumption | with_reducible apply keep_bootStage) | apply_assumption | split | dsimp only
theorem keep_idle {s0 : State} {s : State} (hs : Keep s0 s) : Keep s0 (idle s) := by
  unfold idle
  repeat' first | with_reducible assumption | with_reducible apply keep_bootStage | with_reducible apply keep_ite | intro _ | (with_reducible refine keep_of ?_; first | with_reducible assumption | with_reducible apply keep_bootStage) | split | dsimp only
theorem keep_execPowerUp {s0 : State} {s : State} (hs : Keep s0 s) : KeepR s0 (execPowerUp s) := by
  unfold execPowerUp
  repeat' first | with_reducible assumption | with_reducible apply keep_ite | with_reducible apply keepR_ite | exact keepR_refused | with_reducible apply keepR_next | intro _ | (with_reducible refine keep_of ?_; first | with_reducible assumption) | split | dsimp only
theorem keep_execHubPowerGood {s0 : State} {straps stages : Nat} {br : Bring} {s : State} (hs : Keep s0 s) : KeepR s0 (execHubPowerGood straps stages br s) := by
  unfold execHubPowerGood
  repeat' first | with_reducible assumption | with_reducible apply keep_emit | with_reducible apply keep_bootRun | with_reducible apply keep_noteLosses | with_reducible apply keep_freshHub | with_reducible apply keep_foldl | with_reducible apply keep_foldl1 | with_reducible refine keep_foldl1_eq (by assumption) ?_ ?_ | with_reducible apply keep_ite | with_reducible apply keepR_ite | exact keepR_refused | with_reducible apply keepR_next | intro _ | (with_reducible refine keep_of ?_; first | with_reducible assumption | with_reducible apply keep_emit | with_reducible apply keep_bootRun | with_reducible apply keep_noteLosses | with_reducible apply keep_freshHub | with_reducible apply keep_foldl | with_reducible apply keep_foldl1 | with_reducible refine keep_foldl1_eq (by assumption) ?_ ?_) | split | dsimp only
theorem keep_powerDownSteps {s0 : State} {s : State} (hs : Keep s0 s) : Keep s0 (powerDownSteps s) := by
  unfold powerDownSteps
  repeat' first | with_reducible assumption | with_reducible apply keep_railsRemoved | with_reducible apply keep_emit | with_reducible apply keep_foldl | with_reducible apply keep_foldl1 | with_reducible refine keep_foldl1_eq (by assumption) ?_ ?_ | with_reducible apply keep_ite | intro _ | (with_reducible refine keep_of ?_; first | with_reducible assumption | with_reducible apply keep_railsRemoved | with_reducible apply keep_emit | with_reducible apply keep_foldl | with_reducible apply keep_foldl1 | with_reducible refine keep_foldl1_eq (by assumption) ?_ ?_) | split | dsimp only
theorem keep_execPowerDown {s0 : State} {s : State} (hs : Keep s0 s) : KeepR s0 (execPowerDown s) := by
  unfold execPowerDown
  repeat' first | with_reducible assumption | with_reducible apply keep_powerDownSteps | with_reducible apply keep_flashCut | with_reducible apply keep_burnCut | with_reducible apply keep_freshHub | with_reducible apply keep_ite | with_reducible apply keepR_ite | exact keepR_refused | with_reducible apply keepR_next | intro _ | (with_reducible refine keep_of ?_; first | with_reducible assumption | with_reducible apply keep_powerDownSteps | with_reducible apply keep_flashCut | with_reducible apply keep_burnCut | with_reducible apply keep_freshHub) | split | dsimp only
theorem keep_execResetEntry {s0 : State} {stages : Nat} {br : Bring} {s : State} (hs : Keep s0 s) : KeepR s0 (execResetEntry stages br s) := by
  unfold execResetEntry
  repeat' first | with_reducible assumption | with_reducible apply keep_bootRun | with_reducible apply keep_resetHub | with_reducible apply keep_ite | with_reducible apply keepR_ite | exact keepR_refused | with_reducible apply keepR_next | intro _ | (with_reducible refine keep_of ?_; first | with_reducible assumption | with_reducible apply keep_bootRun | with_reducible apply keep_resetHub) | split | dsimp only
theorem keep_execPerstRelease {s0 : State} {stages : Nat} {br : Bring} {s : State} (hs : Keep s0 s) : KeepR s0 (execPerstRelease stages br s) := by
  unfold execPerstRelease
  repeat' first | with_reducible assumption | with_reducible apply keep_tapLoad | with_reducible apply keep_bootRun | with_reducible apply keep_ite | with_reducible apply keepR_ite | exact keepR_refused | with_reducible apply keepR_next | intro _ | (with_reducible refine keep_of ?_; first | with_reducible assumption | with_reducible apply keep_tapLoad | with_reducible apply keep_bootRun) | split | dsimp only
theorem keep_execClockReturn {s0 : State} {src : ClkSrc} {stages : Nat} {br : Bring} {s : State} (hs : Keep s0 s) : KeepR s0 (execClockReturn src stages br s) := by
  unfold execClockReturn
  repeat' first | with_reducible assumption | with_reducible apply keep_clockBack | with_reducible apply keep_bootRun | with_reducible apply keep_keepHubOn | with_reducible apply keep_noteLosses | with_reducible apply keep_freshHub | with_reducible apply keep_flashCut | with_reducible apply keep_burnCut | with_reducible apply keep_ite | with_reducible apply keepR_ite | exact keepR_refused | with_reducible apply keepR_next | intro _ | (with_reducible refine keep_of ?_; first | with_reducible assumption | with_reducible apply keep_clockBack | with_reducible apply keep_bootRun | with_reducible apply keep_keepHubOn | with_reducible apply keep_noteLosses | with_reducible apply keep_freshHub | with_reducible apply keep_flashCut | with_reducible apply keep_burnCut) | split | dsimp only
theorem keep_opPfBar {s0 : State} {s : State} {n : Nat} (hs : Keep s0 s) : Keep s0 (opPfBar s n) := by
  unfold opPfBar
  repeat' first | with_reducible assumption | with_reducible apply keep_setFn | with_reducible apply keep_ite | intro _ | (with_reducible refine keep_of ?_; first | with_reducible assumption | with_reducible apply keep_setFn) | split | dsimp only
theorem keep_cfgDo {s0 : State} {s : State} {f : Nat} {rq : CfgReq} (hs : Keep s0 s) : Keep s0 (cfgDo s f rq).1 := by
  unfold cfgDo
  repeat' first | with_reducible assumption | with_reducible apply keep_msixFlush | with_reducible apply keep_setFn | with_reducible apply keep_fnReset1 | with_reducible apply keep_vfDisable | with_reducible apply keep_opPfBar | with_reducible apply keep_ite | intro _ | (with_reducible refine keep_of ?_; first | with_reducible assumption | with_reducible apply keep_msixFlush | with_reducible apply keep_setFn | with_reducible apply keep_fnReset1 | with_reducible apply keep_vfDisable | with_reducible apply keep_opPfBar) | split | dsimp only
theorem keep_cfgDo_eq {s0 : State} {s : State} {f : Nat} {rq : CfgReq} {tz : State} {rz : List Nat} (ez : cfgDo s f rq = (tz, rz)) (hs : Keep s0 s) : Keep s0 tz := by
  rw [show tz = (cfgDo s f rq).1 from by rw [ez]]
  exact keep_cfgDo hs
theorem keep_execConfigRequest {s0 : State} {f : Nat} {rq : CfgReq} {stages : Nat} {br : Bring} {s : State} (hs : Keep s0 s) : KeepR s0 (execConfigRequest f rq stages br s) := by
  unfold execConfigRequest
  repeat' first | with_reducible assumption | with_reducible apply keep_bootRun | with_reducible apply keep_emit | with_reducible apply keep_cfgDo | with_reducible refine keep_cfgDo_eq (by assumption) ?_ | with_reducible apply keep_ite | with_reducible apply keepR_ite | exact keepR_refused | with_reducible apply keepR_next | intro _ | (with_reducible refine keep_of ?_; first | with_reducible assumption | with_reducible apply keep_bootRun | with_reducible apply keep_emit | with_reducible apply keep_cfgDo | with_reducible refine keep_cfgDo_eq (by assumption) ?_) | split | dsimp only

end Sys2Proof.Machine
end

