-- ==== Sys2Proof/Laws/KeepRegs.lean ====
section
/-!
SUPPORT. Keep (the queue, the fuses, the byte memories, the free counter and the output) for every operation of Views, Registers, Ring.
-/
set_option linter.unusedVariables false

namespace Sys2Proof.Machine

theorem keep_ownWrite {s0 : State} {s : State} {mid : Nat} {b : Blk} {i : Nat} {f : State → State} (hs : Keep s0 s) (hf : ∀ y0, Keep s0 y0 → Keep s0 (f y0)) : Keep s0 (ownWrite s mid b i f) := by
  unfold ownWrite
  repeat' first | with_reducible assumption | with_reducible apply hf | with_reducible apply keep_hostRef | with_reducible apply keep_mbDeny | with_reducible apply keep_ite | intro _ | (with_reducible refine keep_of ?_; first | with_reducible assumption | with_reducible apply hf | with_reducible apply keep_hostRef | with_reducible apply keep_mbDeny) | split | dsimp only
theorem keep_pageSignal {s0 : State} {s : State} {b : Blk} {i : Nat} (hs : Keep s0 s) : Keep s0 (pageSignal s b i) := by
  unfold pageSignal
  repeat' first | with_reducible assumption | with_reducible apply keep_msix | with_reducible apply keep_ite | intro _ | (with_reducible refine keep_of ?_; first | with_reducible assumption | with_reducible apply keep_msix) | split | dsimp only
theorem keep_irqAfter {s0 : State} {before s : State} {b : Blk} {i : Nat} (hbefore : Keep s0 before) (hs : Keep s0 s) : Keep s0 (irqAfter before s b i) := by
  unfold irqAfter
  repeat' first | with_reducible assumption | with_reducible apply keep_pageSignal | with_reducible apply keep_ite | intro _ | (with_reducible refine keep_of ?_; first | with_reducible assumption | with_reducible apply keep_pageSignal) | split | dsimp only
theorem keep_opIset {s0 : State} {s : State} {b : Blk} {i : Nat} {v : W32} (hs : Keep s0 s) : Keep s0 (opIset s b i v) := by
  unfold opIset
  repeat' first | with_reducible assumption | with_reducible apply keep_irqAfter | with_reducible apply keep_orReg | intro _ | (with_reducible refine keep_of ?_; first | with_reducible assumption | with_reducible apply keep_irqAfter | with_reducible apply keep_orReg) | split | dsimp only
theorem keep_execBlkIset {s0 : State} {mid : Nat} {b : Blk} {i : Nat} {v : W32} {s : State} (hs : Keep s0 s) : KeepR s0 (execBlkIset mid b i v s) := by
  unfold execBlkIset
  repeat' first | with_reducible assumption | with_reducible apply keep_hdrAccess | with_reducible apply keep_opIset | exact keepR_refused | with_reducible apply keepR_next | intro _ | (with_reducible refine keep_of ?_; first | with_reducible assumption | with_reducible apply keep_hdrAccess | with_reducible apply keep_opIset) | split | dsimp only
theorem keep_opLock {s0 : State} {s : State} {b : Blk} {i : Nat} {v : W32} (hs : Keep s0 s) : Keep s0 (opLock s b i v) := by
  unfold opLock
  repeat' first | with_reducible assumption | with_reducible apply keep_wrBit | with_reducible apply keep_ite | intro _ | (with_reducible refine keep_of ?_; first | with_reducible assumption | with_reducible apply keep_wrBit) | split | dsimp only
theorem keep_execBlkLock {s0 : State} {mid : Nat} {b : Blk} {i : Nat} {v : W32} {s : State} (hs : Keep s0 s) : KeepR s0 (execBlkLock mid b i v s) := by
  unfold execBlkLock
  repeat' first | with_reducible assumption | with_reducible apply keep_hdrAccess | with_reducible apply keep_opLock | exact keepR_refused | with_reducible apply keepR_next | intro _ | (with_reducible refine keep_of ?_; first | with_reducible assumption | with_reducible apply keep_hdrAccess | with_reducible apply keep_opLock) | split | dsimp only
theorem keep_opBlkCtl {s0 : State} {s : State} {mid : Nat} {b : Blk} {i : Nat} {v : W32} (hs : Keep s0 s) : Keep s0 (opBlkCtl s mid b i v) := by
  unfold opBlkCtl
  repeat' first | with_reducible assumption | with_reducible apply keep_opEnOn | with_reducible apply keep_opEnOff | with_reducible apply keep_opSrst | with_reducible apply keep_ite | intro _ | (with_reducible refine keep_of ?_; first | with_reducible assumption | with_reducible apply keep_opEnOn | with_reducible apply keep_opEnOff | with_reducible apply keep_opSrst) | split | dsimp only
theorem keep_storeWrite {s0 : State} {s : State} {mid : Nat} {b : Blk} {i off : Nat} {v : W32} (hs : Keep s0 s) : Keep s0 (storeWrite s mid b i off v) := by
  unfold storeWrite
  repeat' first | with_reducible assumption | with_reducible apply keep_wrReg | with_reducible apply keep_orReg | with_reducible apply keep_wrSel | with_reducible apply keep_ite | intro _ | (with_reducible refine keep_of ?_; first | with_reducible assumption | with_reducible apply keep_wrReg | with_reducible apply keep_orReg | with_reducible apply keep_wrSel) | split | dsimp only
theorem keep_hdrWrite {s0 : State} {s : State} {mid : Nat} {b : Blk} {i off : Nat} {v : W32} (hs : Keep s0 s) : Keep s0 (hdrWrite s mid b i off v) := by
  unfold hdrWrite
  repeat' first | with_reducible assumption | with_reducible apply keep_enAccess | with_reducible apply keep_opBlkCtl | with_reducible apply keep_hdrAccess | with_reducible apply keep_opIset | with_reducible apply keep_storeWrite | with_reducible apply keep_opLock | with_reducible apply keep_irqAfter | with_reducible apply keep_ite | intro _ | (with_reducible refine keep_of ?_; first | with_reducible assumption | with_reducible apply keep_enAccess | with_reducible apply keep_opBlkCtl | with_reducible apply keep_hdrAccess | with_reducible apply keep_opIset | with_reducible apply keep_storeWrite | with_reducible apply keep_opLock | with_reducible apply keep_irqAfter) | split | dsimp only
theorem keep_opWin {s0 : State} {s : State} {mid off : Nat} {v : W32} (hs : Keep s0 s) : Keep s0 (opWin s mid off v) := by
  unfold opWin
  repeat' first | with_reducible assumption | with_reducible apply keep_setFn | with_reducible apply keep_ite | intro _ | (with_reducible refine keep_of ?_; first | with_reducible assumption | with_reducible apply keep_setFn) | split | dsimp only
theorem keep_opRtCmd {s0 : State} {s : State} {k : Nat} {v : W32} (hs : Keep s0 s) : Keep s0 (opRtCmd s k v) := by
  unfold opRtCmd
  repeat' first | with_reducible assumption | with_reducible apply keep_opRetag | intro _ | (with_reducible refine keep_of ?_; first | with_reducible assumption | with_reducible apply keep_opRetag) | split | dsimp only
theorem keep_opTag {s0 : State} {s : State} {mid k : Nat} {one : Bool} {v : W32} (hs : Keep s0 s) : Keep s0 (opTag s mid k one v) := by
  unfold opTag
  repeat' first | with_reducible assumption | with_reducible apply keep_ite | intro _ | (with_reducible refine keep_of ?_; first | with_reducible assumption) | (with_reducible refine keep_mem ?_; first | with_reducible assumption) | split | dsimp only
theorem keep_opFlashCmd {s0 : State} {s : State} {v : W32} (hs : Keep s0 s) : Keep s0 (opFlashCmd s v) := by
  unfold opFlashCmd
  repeat' first | with_reducible assumption | with_reducible apply keep_opFlash | intro _ | (with_reducible refine keep_of ?_; first | with_reducible assumption | with_reducible apply keep_opFlash) | split | dsimp only
theorem keep_cluWrite {s0 : State} {s : State} {mid c off : Nat} {v : W32} (hs : Keep s0 s) : Keep s0 (cluWrite s mid c off v) := by
  unfold cluWrite
  repeat' first | with_reducible assumption | with_reducible apply keep_opCluCfg | with_reducible apply keep_opCoreMap | with_reducible apply keep_opCoreRet | with_reducible apply keep_opDcacheInv | with_reducible apply keep_storeWrite | with_reducible apply keep_ite | intro _ | (with_reducible refine keep_of ?_; first | with_reducible assumption | with_reducible apply keep_opCluCfg | with_reducible apply keep_opCoreMap | with_reducible apply keep_opCoreRet | with_reducible apply keep_opDcacheInv | with_reducible apply keep_storeWrite) | split | dsimp only
theorem keep_stkWrite {s0 : State} {s : State} {mid k off : Nat} {v : W32} (hs : Keep s0 s) : Keep s0 (stkWrite s mid k off v) := by
  unfold stkWrite
  repeat' first | with_reducible assumption | with_reducible apply keep_opRgnEnt | with_reducible apply keep_opRtCmd | with_reducible apply keep_opRemap | with_reducible apply keep_opTag | with_reducible apply keep_storeWrite | with_reducible apply keep_ite | intro _ | (with_reducible refine keep_of ?_; first | with_reducible assumption | with_reducible apply keep_opRgnEnt | with_reducible apply keep_opRtCmd | with_reducible apply keep_opRemap | with_reducible apply keep_opTag | with_reducible apply keep_storeWrite) | split | dsimp only
theorem keep_nbuWrite {s0 : State} {s : State} {mid u off : Nat} {v : W32} (hs : Keep s0 s) : Keep s0 (nbuWrite s mid u off v) := by
  unfold nbuWrite
  repeat' first | with_reducible assumption | with_reducible apply keep_opNbuCfg | with_reducible apply keep_opUnitCmd | with_reducible apply keep_opCrWrite | with_reducible apply keep_opMpWindow | with_reducible apply keep_storeWrite | with_reducible apply keep_ite | intro _ | (with_reducible refine keep_of ?_; first | with_reducible assumption | with_reducible apply keep_opNbuCfg | with_reducible apply keep_opUnitCmd | with_reducible apply keep_opCrWrite | with_reducible apply keep_opMpWindow | with_reducible apply keep_storeWrite) | split | dsimp only
theorem keep_secWrite {s0 : State} {s : State} {mid off : Nat} {v : W32} (hs : Keep s0 s) : Keep s0 (secWrite s mid off v) := by
  unfold secWrite
  repeat' first | with_reducible assumption | with_reducible apply keep_opSvnCommit | with_reducible apply keep_opBootPref | with_reducible apply keep_opBootConfirm | with_reducible apply keep_opFlashCmd | with_reducible apply keep_storeWrite | with_reducible apply keep_ite | intro _ | (with_reducible refine keep_of ?_; first | with_reducible assumption | with_reducible apply keep_opSvnCommit | with_reducible apply keep_opBootPref | with_reducible apply keep_opBootConfirm | with_reducible apply keep_opFlashCmd | with_reducible apply keep_storeWrite) | split | dsimp only
theorem keep_fabWrite {s0 : State} {s : State} {mid off : Nat} {v : W32} (hs : Keep s0 s) : Keep s0 (fabWrite s mid off v) := by
  unfold fabWrite
  repeat' first | with_reducible assumption | with_reducible apply keep_fabChanged | with_reducible apply keep_storeWrite | with_reducible apply keep_wrReg | with_reducible apply keep_ite | intro _ | (with_reducible refine keep_of ?_; first | with_reducible assumption | with_reducible apply keep_fabChanged | with_reducible apply keep_storeWrite | with_reducible apply keep_wrReg) | split | dsimp only
theorem keep_queWrite {s0 : State} {s : State} {mid q off : Nat} {v : W32} (hs : Keep s0 s) : Keep s0 (queWrite s mid q off v) := by
  unfold queWrite
  repeat' first | with_reducible assumption | with_reducible apply keep_storeWrite | with_reducible apply keep_setQ | with_reducible apply keep_opQueueEn | with_reducible apply keep_opSqTail | with_reducible apply keep_opCqHead | with_reducible apply keep_ite | intro _ | (with_reducible refine keep_of ?_; first | with_reducible assumption | with_reducible apply keep_storeWrite | with_reducible apply keep_setQ | with_reducible apply keep_opQueueEn | with_reducible apply keep_opSqTail | with_reducible apply keep_opCqHead) | split | dsimp only
theorem keep_mbxWrite {s0 : State} {s : State} {mid ch off : Nat} {v : W32} (hs : Keep s0 s) : Keep s0 (mbxWrite s mid ch off v) := by
  unfold mbxWrite
  repeat' first | with_reducible assumption | with_reducible apply keep_storeWrite | with_reducible apply keep_opMbCtl | with_reducible apply keep_opMbData | with_reducible apply keep_ite | intro _ | (with_reducible refine keep_of ?_; first | with_reducible assumption | with_reducible apply keep_storeWrite | with_reducible apply keep_opMbCtl | with_reducible apply keep_opMbData) | split | dsimp only
theorem keep_regWrite {s0 : State} {s : State} {mid : Nat} {b : Blk} {i off : Nat} {v : W32} (hs : Keep s0 s) : Keep s0 (regWrite s mid b i off v) := by
  unfold regWrite
  repeat' first | with_reducible assumption | with_reducible apply keep_cluWrite | with_reducible apply keep_stkWrite | with_reducible apply keep_nbuWrite | with_reducible apply keep_secWrite | with_reducible apply keep_fabWrite | with_reducible apply keep_queWrite | with_reducible apply keep_mbxWrite | with_reducible apply keep_opWayCfg | with_reducible apply keep_opInvCmd | with_reducible apply keep_storeWrite | with_reducible apply keep_opGate | with_reducible apply keep_opThrCap | with_reducible apply keep_thrSettle | with_reducible apply keep_opRasPop | with_reducible apply keep_opMigCmd | with_reducible apply keep_opJrnCompact | with_reducible apply keep_opFnQ | with_reducible apply keep_opWin | with_reducible apply keep_opKvInval | with_reducible apply keep_ite | intro _ | (with_reducible refine keep_of ?_; first | with_reducible assumption | with_reducible apply keep_cluWrite | with_reducible apply keep_stkWrite | with_reducible apply keep_nbuWrite | with_reducible apply keep_secWrite | with_reducible apply keep_fabWrite | with_reducible apply keep_queWrite | with_reducible apply keep_mbxWrite | with_reducible apply keep_opWayCfg | with_reducible apply keep_opInvCmd | with_reducible apply keep_storeWrite | with_reducible apply keep_opGate | with_reducible apply keep_opThrCap | with_reducible apply keep_thrSettle | with_reducible apply keep_opRasPop | with_reducible apply keep_opMigCmd | with_reducible apply keep_opJrnCompact | with_reducible apply keep_opFnQ | with_reducible apply keep_opWin | with_reducible apply keep_opKvInval) | split | dsimp only
theorem keep_opHiWrite {s0 : State} {s : State} {mid : Nat} {b : Blk} {i lo : Nat} {v : W32} (hs : Keep s0 s) : Keep s0 (opHiWrite s mid b i lo v) := by
  unfold opHiWrite
  repeat' first | with_reducible assumption | with_reducible apply keep_setQ | with_reducible apply keep_ite | intro _ | (with_reducible refine keep_of ?_; first | with_reducible assumption | with_reducible apply keep_setQ) | split | dsimp only
theorem keep_opLoWrite {s0 : State} {s : State} {mid : Nat} {b : Blk} {i lo : Nat} {v : W32} (hs : Keep s0 s) : Keep s0 (opLoWrite s mid b i lo v) := by
  unfold opLoWrite
  repeat' first | with_reducible assumption | with_reducible apply keep_setQ | with_reducible apply keep_wrReg | with_reducible apply keep_ite | intro _ | (with_reducible refine keep_of ?_; first | with_reducible assumption | with_reducible apply keep_setQ | with_reducible apply keep_wrReg) | split | dsimp only
theorem keep_anyWrite {s0 : State} {s : State} {mid : Nat} {b : Blk} {i off : Nat} {v : W32} (hs : Keep s0 s) : Keep s0 (anyWrite s mid b i off v) := by
  unfold anyWrite
  repeat' first | with_reducible assumption | with_reducible apply keep_opLoWrite | with_reducible apply keep_opHiWrite | with_reducible apply keep_regWrite | with_reducible apply keep_ite | intro _ | (with_reducible refine keep_of ?_; first | with_reducible assumption | with_reducible apply keep_opLoWrite | with_reducible apply keep_opHiWrite | with_reducible apply keep_regWrite) | split | dsimp only
theorem keep_execNameHiWrite {s0 : State} {mid a : Nat} {v : W32} {s : State} (hs : Keep s0 s) : KeepR s0 (execNameHiWrite mid a v s) := by
  unfold execNameHiWrite
  repeat' first | with_reducible assumption | with_reducible apply keep_ownWrite | with_reducible apply keep_opHiWrite | exact keepR_refused | with_reducible apply keepR_next | intro _ | (with_reducible refine keep_of ?_; first | with_reducible assumption | with_reducible apply keep_ownWrite | with_reducible apply keep_opHiWrite) | split | dsimp only
theorem keep_execNameLoWrite {s0 : State} {mid a : Nat} {v : W32} {s : State} (hs : Keep s0 s) : KeepR s0 (execNameLoWrite mid a v s) := by
  unfold execNameLoWrite
  repeat' first | with_reducible assumption | with_reducible apply keep_ownWrite | with_reducible apply keep_opLoWrite | exact keepR_refused | with_reducible apply keepR_next | intro _ | (with_reducible refine keep_of ?_; first | with_reducible assumption | with_reducible apply keep_ownWrite | with_reducible apply keep_opLoWrite) | split | dsimp only
theorem keep_answerRead {s0 : State} {s : State} {mid : Nat} {b : Blk} {i a : Nat} {f : State → State × W32} (hs : Keep s0 s) (hf : ∀ y0, Keep s0 y0 → Keep s0 (f y0).1) : Keep s0 (answerRead s mid b i a f) := by
  unfold answerRead
  repeat' first | with_reducible assumption | with_reducible apply hf | with_reducible apply keep_emit | with_reducible apply keep_hostAbort | with_reducible apply keep_mbDeny | with_reducible apply keep_ite | intro _ | (with_reducible refine keep_of ?_; first | with_reducible assumption | with_reducible apply hf | with_reducible apply keep_emit | with_reducible apply keep_hostAbort | with_reducible apply keep_mbDeny) | split | dsimp only
theorem keep_execNameLoRead {s0 : State} {mid a : Nat} {s : State} (hs : Keep s0 s) : KeepR s0 (execNameLoRead mid a s) := by
  unfold execNameLoRead
  repeat' first | with_reducible assumption | with_reducible apply keep_answerRead | exact keepR_refused | with_reducible apply keepR_next | intro _ | (with_reducible refine keep_of ?_; first | with_reducible assumption | with_reducible apply keep_answerRead) | split | dsimp only
theorem keep_execNameHiRead {s0 : State} {mid a : Nat} {s : State} (hs : Keep s0 s) : KeepR s0 (execNameHiRead mid a s) := by
  unfold execNameHiRead
  repeat' first | with_reducible assumption | with_reducible apply keep_answerRead | exact keepR_refused | with_reducible apply keepR_next | intro _ | (with_reducible refine keep_of ?_; first | with_reducible assumption | with_reducible apply keep_answerRead) | split | dsimp only
theorem keep_execReadToClear {s0 : State} {mid a : Nat} {event : W32} {s : State} (hs : Keep s0 s) : KeepR s0 (execReadToClear mid a event s) := by
  unfold execReadToClear
  repeat' first | with_reducible assumption | with_reducible apply keep_wrReg | with_reducible apply keep_emit | with_reducible apply keep_hostAbort | with_reducible apply keep_mbDeny | with_reducible apply keep_answerRead | with_reducible apply keep_ite | with_reducible apply keepR_ite | exact keepR_refused | with_reducible apply keepR_next | intro _ | (with_reducible refine keep_of ?_; first | with_reducible assumption | with_reducible apply keep_wrReg | with_reducible apply keep_emit | with_reducible apply keep_hostAbort | with_reducible apply keep_mbDeny | with_reducible apply keep_answerRead) | split | dsimp only
theorem keep_fnWrite {s0 : State} {s : State} {f off : Nat} {v : W32} (hs : Keep s0 s) : Keep s0 (fnWrite s f off v) := by
  unfold fnWrite
  repeat' first | with_reducible assumption | with_reducible apply keep_setFn | with_reducible apply keep_msix | with_reducible apply keep_ite | intro _ | (with_reducible refine keep_of ?_; first | with_reducible assumption | with_reducible apply keep_setFn | with_reducible apply keep_msix) | split | dsimp only
theorem keep_msixWrite {s0 : State} {s : State} {f v word : Nat} {x : W32} (hs : Keep s0 s) : Keep s0 (msixWrite s f v word x) := by
  unfold msixWrite
  repeat' first | with_reducible assumption | with_reducible apply keep_opMask | with_reducible apply keep_wrReg | with_reducible apply keep_ite | intro _ | (with_reducible refine keep_of ?_; first | with_reducible assumption | with_reducible apply keep_opMask | with_reducible apply keep_wrReg) | split | dsimp only
theorem keep_regWrite4 {s0 : State} {s : State} {mid a : Nat} {v : W32} (hs : Keep s0 s) : Keep s0 (regWrite4 s mid a v) := by
  unfold regWrite4
  repeat' first | with_reducible assumption | with_reducible apply keep_hostRef | with_reducible apply keep_hdrWrite | with_reducible apply keep_ownWrite | with_reducible apply keep_anyWrite | with_reducible apply keep_fnWrite | with_reducible apply keep_msix | with_reducible apply keep_msixWrite | with_reducible apply keep_ite | intro _ | (with_reducible refine keep_of ?_; first | with_reducible assumption | with_reducible apply keep_hostRef | with_reducible apply keep_hdrWrite | with_reducible apply keep_ownWrite | with_reducible apply keep_anyWrite | with_reducible apply keep_fnWrite | with_reducible apply keep_msix | with_reducible apply keep_msixWrite) | split | dsimp only
theorem keep_opRegisterWrite {s0 : State} {s : State} {mid a : Nat} {bs : List Byte} (hs : Keep s0 s) : Keep s0 (opRegisterWrite s mid a bs) := by
  unfold opRegisterWrite
  repeat' first | with_reducible assumption | with_reducible apply keep_hostRef | with_reducible apply keep_regWrite4 | with_reducible apply keep_foldl | with_reducible apply keep_foldl1 | with_reducible refine keep_foldl1_eq (by assumption) ?_ ?_ | with_reducible apply keep_ite | intro _ | (with_reducible refine keep_of ?_; first | with_reducible assumption | with_reducible apply keep_hostRef | with_reducible apply keep_regWrite4 | with_reducible apply keep_foldl | with_reducible apply keep_foldl1 | with_reducible refine keep_foldl1_eq (by assumption) ?_ ?_) | split | dsimp only
theorem keep_execRegisterWrite {s0 : State} {mid a : Nat} {bs : List Byte} {s : State} (hs : Keep s0 s) : KeepR s0 (execRegisterWrite mid a bs s) := by
  unfold execRegisterWrite
  repeat' first | with_reducible assumption | with_reducible apply keep_opRegisterWrite | exact keepR_refused | with_reducible apply keepR_next | intro _ | (with_reducible refine keep_of ?_; first | with_reducible assumption | with_reducible apply keep_opRegisterWrite) | split | dsimp only
theorem keep_setR {s0 : State} {s : State} {rid : Nat} {r : Red} (hs : Keep s0 s) : Keep s0 (setR s rid r) := by
  unfold setR
  repeat' first | with_reducible assumption | intro _ | (with_reducible refine keep_of ?_; first | with_reducible assumption) | split | dsimp only
theorem keep_redSend {s0 : State} {s : State} {rid : Nat} {r : Red} {dst : Nat} (hs : Keep s0 s) : Keep s0 (redSend s rid r dst) := by
  unfold redSend
  repeat' first | with_reducible assumption | with_reducible apply keep_enqueue | with_reducible apply keep_foldl | with_reducible apply keep_foldl1 | with_reducible refine keep_foldl1_eq (by assumption) ?_ ?_ | intro _ | (with_reducible refine keep_of ?_; first | with_reducible assumption | with_reducible apply keep_enqueue | with_reducible apply keep_foldl | with_reducible apply keep_foldl1 | with_reducible refine keep_foldl1_eq (by assumption) ?_ ?_) | split | dsimp only
theorem keep_redResult {s0 : State} {s : State} {rid : Nat} {r : Red} (hs : Keep s0 s) : Keep s0 (redResult s rid r) := by
  unfold redResult
  repeat' first | with_reducible assumption | with_reducible apply keep_bump | with_reducible apply keep_setR | with_reducible apply keep_report | with_reducible apply keep_useFree | with_reducible apply keep_ite | intro _ | (with_reducible refine keep_of ?_; first | with_reducible assumption | with_reducible apply keep_bump | with_reducible apply keep_setR | with_reducible apply keep_report | with_reducible apply keep_useFree) | split | dsimp only
theorem keep_redFinish {s0 : State} {s : State} {rid : Nat} {r : Red} (hs : Keep s0 s) : Keep s0 (redFinish s rid r) := by
  unfold redFinish
  repeat' first | with_reducible assumption | with_reducible apply keep_redResult | with_reducible apply keep_bump | with_reducible apply keep_setR | with_reducible apply keep_redSend | with_reducible apply keep_ite | intro _ | (with_reducible refine keep_of ?_; first | with_reducible assumption | with_reducible apply keep_redResult | with_reducible apply keep_bump | with_reducible apply keep_setR | with_reducible apply keep_redSend) | split | dsimp only
theorem keep_redGo {s0 : State} {rid : Nat} {x0 : Nat} {x1 : State} {x2 : Red} (hx1 : Keep s0 x1) : Keep s0 (redGo rid x0 x1 x2) := by
  fun_induction redGo <;>
  repeat' first | with_reducible assumption | with_reducible apply keep_setR | with_reducible apply keep_redFinish | with_reducible apply keep_redSend | with_reducible apply keep_bump | with_reducible apply keep_ite | intro _ | (with_reducible refine keep_of ?_; first | with_reducible assumption | with_reducible apply keep_setR | with_reducible apply keep_redFinish | with_reducible apply keep_redSend | with_reducible apply keep_bump) | apply_assumption | split | dsimp only
theorem keep_ownPart {s0 : State} {s : State} {p : Packet} (hs : Keep s0 s) : Keep s0 (ownPart s p) := by
  unfold ownPart
  repeat' first | with_reducible assumption | with_reducible apply keep_redGo | with_reducible apply keep_useFree | with_reducible apply keep_ite | intro _ | (with_reducible refine keep_of ?_; first | with_reducible assumption | with_reducible apply keep_redGo | with_reducible apply keep_useFree) | split | dsimp only
theorem keep_execFrameTransmit {s0 : State} {n : Nat} {pkt : Packet} {s : State} (hs : Keep s0 s) : KeepR s0 (execFrameTransmit n pkt s) := by
  unfold execFrameTransmit
  repeat' first | with_reducible assumption | with_reducible apply keep_opTransmit | with_reducible apply keep_ownPart | with_reducible apply keep_ite | with_reducible apply keepR_ite | exact keepR_refused | with_reducible apply keepR_next | intro _ | (with_reducible refine keep_of ?_; first | with_reducible assumption | with_reducible apply keep_opTransmit | with_reducible apply keep_ownPart) | split | dsimp only
theorem keep_pagesPoisoned {s0 : State} {s : State} {fn : Nat} {c : List Byte} {g layer : Nat} (hs : Keep s0 s) : Keep s0 (pagesPoisoned s fn c g layer).1 := by
  unfold pagesPoisoned
  repeat' first | with_reducible assumption | with_reducible apply keep_pagesOf | with_reducible apply keep_memRead | with_reducible apply keep_reportPoison | with_reducible refine keep_pagesOf_eq (by assumption) ?_ | with_reducible refine keep_memRead_eq (by assumption) ?_ | with_reducible apply keep_foldl | with_reducible apply keep_foldl1 | with_reducible refine keep_foldl1_eq (by assumption) ?_ ?_ | intro _ | (with_reducible refine keep_of ?_; first | with_reducible assumption | with_reducible apply keep_pagesOf | with_reducible apply keep_memRead | with_reducible apply keep_reportPoison | with_reducible refine keep_pagesOf_eq (by assumption) ?_ | with_reducible refine keep_memRead_eq (by assumption) ?_ | with_reducible apply keep_foldl | with_reducible apply keep_foldl1 | with_reducible refine keep_foldl1_eq (by assumption) ?_ ?_) | split | dsimp only
theorem keep_pagesPoisoned_eq {s0 : State} {s : State} {fn : Nat} {c : List Byte} {g layer : Nat} {tz : State} {rz : Bool × Bool} (ez : pagesPoisoned s fn c g layer = (tz, rz)) (hs : Keep s0 s) : Keep s0 tz := by
  rw [show tz = (pagesPoisoned s fn c g layer).1 from by rw [ez]]
  exact keep_pagesPoisoned hs
theorem keep_execDmsg {s0 : State} {n : Nat} {s : State} (hs : Keep s0 s) : KeepR s0 (execDmsg n s) := by
  unfold execDmsg
  repeat' first | with_reducible assumption | with_reducible apply keep_fabRefused | with_reducible apply keep_takePkt | with_reducible apply keep_memRead | with_reducible apply keep_pagesPoisoned | with_reducible apply keep_redGo | with_reducible apply keep_useFree | with_reducible refine keep_memRead_eq (by assumption) ?_ | with_reducible refine keep_pagesPoisoned_eq (by assumption) ?_ | with_reducible apply keep_ite | with_reducible apply keepR_ite | exact keepR_refused | with_reducible apply keepR_next | intro _ | (with_reducible refine keep_of ?_; first | with_reducible assumption | with_reducible apply keep_fabRefused | with_reducible apply keep_takePkt | with_reducible apply keep_memRead | with_reducible apply keep_pagesPoisoned | with_reducible apply keep_redGo | with_reducible apply keep_useFree | with_reducible refine keep_memRead_eq (by assumption) ?_ | with_reducible refine keep_pagesPoisoned_eq (by assumption) ?_) | split | dsimp only
theorem keep_execRed {s0 : State} {n : Nat} {s : State} (hs : Keep s0 s) : KeepR s0 (execRed n s) := by
  unfold execRed
  repeat' first | with_reducible assumption | with_reducible apply keep_takePkt | with_reducible apply keep_redFinish | with_reducible apply keep_setR | with_reducible apply keep_redResult | with_reducible apply keep_redGo | with_reducible apply keep_useFree | with_reducible apply keep_ite | with_reducible apply keepR_ite | exact keepR_refused | with_reducible apply keepR_next | intro _ | (with_reducible refine keep_of ?_; first | with_reducible assumption | with_reducible apply keep_takePkt | with_reducible apply keep_redFinish | with_reducible apply keep_setR | with_reducible apply keep_redResult | with_reducible apply keep_redGo | with_reducible apply keep_useFree) | split | dsimp only
theorem keep_execRingPrefillStep {s0 : State} {k src len dst die sem : Nat} {s : State} (hs : Keep s0 s) : KeepR s0 (execRingPrefillStep k src len dst die sem s) := by
  unfold execRingPrefillStep
  repeat' first | with_reducible assumption | with_reducible apply keep_memRead | with_reducible apply keep_reportPoison | with_reducible apply keep_enqueue | with_reducible apply keep_noteSent | with_reducible refine keep_memRead_eq (by assumption) ?_ | with_reducible apply keep_foldl | with_reducible apply keep_foldl1 | with_reducible refine keep_foldl1_eq (by assumption) ?_ ?_ | with_reducible apply keep_ite | with_reducible apply keepR_ite | exact keepR_refused | with_reducible apply keepR_next | intro _ | (with_reducible refine keep_of ?_; first | with_reducible assumption | with_reducible apply keep_memRead | with_reducible apply keep_reportPoison | with_reducible apply keep_enqueue | with_reducible apply keep_noteSent | with_reducible refine keep_memRead_eq (by assumption) ?_ | with_reducible apply keep_foldl | with_reducible apply keep_foldl1 | with_reducible refine keep_foldl1_eq (by assumption) ?_ ?_) | split | dsimp only

end Sys2Proof.Machine
end

