-- ==== Sys2Proof/Laws/Mem.lean ====
section
/-!
SUPPORT. An access to memory that meets no error touches memory, counters and free values only.
-/
set_option linter.unusedVariables false
namespace Sys2Proof.Machine
variable (s : State)

/-- What an access without an error may change. -/
structure MemOnly (s t : State) : Prop where
  eq : ∃ m r f, t = { s with mem := m, regs := r, free := f }
theorem MemOnly.refl : MemOnly s s := ⟨_, _, _, rfl⟩
theorem MemOnly.trans {a b c : State} (h : MemOnly a b) (g : MemOnly b c) : MemOnly a c := by
  obtain ⟨m, r, f, rfl⟩ := h; obtain ⟨m', r', f', rfl⟩ := g; exact ⟨_, _, _, rfl⟩
theorem MemOnly.mem (m : Mem) : MemOnly s { s with mem := m } := ⟨_, _, _, rfl⟩
theorem MemOnly.bump (a : Nat) : MemOnly s (bump s a) := ⟨_, _, _, bump_eq ..⟩
theorem MemOnly.foldl {α : Type} (f : State → α → State) (h : ∀ x a, MemOnly x (f x a)) : ∀ (l : List α) (s : State), MemOnly s (l.foldl f s)
  | [], s => .refl s
  | a :: t, s => (h s a).trans (foldl f h t (f s a))
theorem MemOnly.ite {p : Prop} [Decidable p] {s a b : State} (h : MemOnly s a) (g : MemOnly s b) : MemOnly s (if p then a else b) := by
  split <;> assumption

theorem memOnly_winRef (k : Nat) : MemOnly s (winRef s k) := by
  unfold winRef
  exact .ite (.bump ..) (.foldl _ (fun x a => .ite (.bump ..) (.refl _)) _ _)
theorem memOnly_atomRef (k : Nat) : MemOnly s (atomRef s k) := by
  unfold atomRef
  exact .ite (.bump ..) (.foldl _ (fun x a => .ite (.bump ..) (.refl _)) _ _)
theorem memOnly_dramPut (p : Nat) (mir : Option Nat) (bs : List Byte) : MemOnly s (dramPut s p mir bs) := .mem ..
theorem memOnly_writeBack (l : Line) : MemOnly s (writeBack s l) := by
  unfold writeBack
  repeat' (first | exact .refl _ | split | exact .mem .. | exact memOnly_dramPut .. | (dsimp only))
theorem memOnly_install (k : Nat) (ws : List Nat) (base : Nat) (d : List Byte) (dirty : Bool) : MemOnly s (install s k ws base d dirty) := by
  unfold install; dsimp only
  split
  · exact .mem ..
  · split
    · exact .refl _
    · exact ((memOnly_writeBack ..).trans (.mem ..)).trans (.mem ..)
theorem memOnly_cellsRead (a n : Nat) : MemOnly s (cellsRead s a n .none).1 := by
  unfold cellsRead; dsimp only
  repeat' (first | exact .refl _ | exact .bump .. | split)
  all_goals first | contradiction | exact .refl _ | exact .bump ..
theorem memOnly_cellsWrite (a : Nat) (bs : List Byte) : MemOnly s (cellsWrite s a bs).1 := by
  unfold cellsWrite; dsimp only
  repeat' (first | exact .refl _ | exact .bump .. | exact memOnly_dramPut .. | exact .mem .. | split)
theorem memOnly_scratchRead (fn a n : Nat) : MemOnly s (scratchRead s fn a n .none).1 := by
  unfold scratchRead; dsimp only
  repeat' (first | exact .refl _ | exact memOnly_winRef .. | split)
theorem memOnly_scratchWrite (fn a : Nat) (bs : List Byte) : MemOnly s (scratchWrite s fn a bs).1 := by
  unfold scratchWrite; dsimp only
  repeat' (first | exact .mem .. | exact memOnly_winRef .. | split)
theorem memOnly_lineRead (l : Line) (a n : Nat) : MemOnly s (lineRead s l a n .none).1 := by
  unfold lineRead; dsimp only
  repeat' (first | exact .refl _ | split)
theorem memOnly_touch (b : Nat) : MemOnly s (touch s b) := .mem ..
theorem memOnly_lineWrite (l : Line) (a : Nat) (bs : List Byte) (d : Bool) : MemOnly s (lineWrite s l a bs d) := .mem ..
theorem memOnly_memRead1 (fn : Nat) (alloc : Bool) (a n : Nat) : MemOnly s (memRead1 s fn alloc a n .none).1 := by
  unfold memRead1; dsimp only
  split
  · exact .refl _
  · exact memOnly_scratchRead ..
  · split
    · exact memOnly_cellsRead ..
    · split
      · exact ((MemOnly.bump ..).trans (memOnly_touch ..)).trans (memOnly_lineRead ..)
      · generalize (if alloc = true then cacheWays s (homeSlice a) fn else []) = ws
        split
        · exact (MemOnly.bump ..).trans (memOnly_cellsRead ..)
        · have h := memOnly_cellsRead (bump s (pageOf .llc (homeSlice a) + 0x68)) (a / 256 * 256) 256
          split
          · next e => rw [e] at h; exact (((MemOnly.bump ..).trans h).trans (memOnly_install ..)).trans (memOnly_touch ..)
          · exact (MemOnly.bump ..).trans h
theorem memOnly_memWrite1 (fn a : Nat) (bs : List Byte) : MemOnly s (memWrite1 s fn a bs).1 := by
  unfold memWrite1; dsimp only
  split
  · exact .refl _
  · exact memOnly_scratchWrite ..
  · split
    · exact memOnly_cellsWrite ..
    · split
      · split
        · exact (((MemOnly.bump ..).trans (memOnly_touch ..)).trans (memOnly_lineWrite ..)).trans (memOnly_cellsWrite ..)
        · exact ((MemOnly.bump ..).trans (memOnly_touch ..)).trans (memOnly_lineWrite ..)
      · generalize (if (decide (a < 0x008000000000) && rgnClass s (a / 2 ^ 21) == 0) = true then [] else cacheWays s (homeSlice a) fn) = ws
        split
        · exact (MemOnly.bump ..).trans (memOnly_cellsWrite ..)
        · split
          · exact ((MemOnly.bump ..).trans (memOnly_install ..)).trans (memOnly_touch ..)
          · have h := memOnly_cellsRead (bump s (pageOf .llc (homeSlice a) + 0x68)) (a / 256 * 256) 256
            split
            · next e =>
              rw [e] at h
              split
              · exact ((((MemOnly.bump ..).trans h).trans (memOnly_install ..)).trans (memOnly_touch ..)).trans (memOnly_lineWrite ..)
              · exact (((MemOnly.bump ..).trans h).trans (memOnly_install ..)).trans (memOnly_cellsWrite ..)
            · next e => rw [e] at h; exact ((MemOnly.bump ..).trans h).trans (memOnly_cellsWrite ..)
/-- A read that meets no error changes memory's bookkeeping, counters and free values only. -/
theorem memOnly_memRead (fn : Nat) (alloc : Bool) (a n : Nat) : MemOnly s (memRead s fn alloc a n .none).1 := by
  have key : ∀ (l : List (Nat × Nat)) (acc : State × MemRes × MemErr), (acc.2.2 = .none) → MemOnly s acc.1 →
      MemOnly s (l.foldl (fun (acc : State × MemRes × MemErr) p =>
        match acc with
        | (s1, .ok bs, e) =>
          match memRead1 s1 fn alloc p.1 p.2 e with
          | (s2, .ok b) => (s2, .ok (bs ++ b), .none)
          | (s2, x) => (s2, x, .none)
        | x => x) acc).1 := by
    intro l
    induction l with
    | nil => intro acc _ h; exact h
    | cons p t ih =>
      intro acc he h
      obtain ⟨x, r, e⟩ := acc
      dsimp only at he; subst he
      rw [List.foldl_cons]
      apply ih
      · cases r <;> first | rfl | (dsimp only; split <;> rfl)
      · cases r <;> first
          | exact h
          | (have g := memOnly_memRead1 x fn alloc p.1 p.2
             dsimp only
             split <;> (next e => rw [e] at g; exact h.trans g))
  exact key _ _ rfl (.refl _)
/-- A write changes memory, counters and free values only. -/
theorem memOnly_memWrite (fn a : Nat) (bs : List Byte) : MemOnly s (memWrite s fn a bs).1 := by
  have key : ∀ (l : List (Nat × Nat)) (acc : State × MemRes × List Byte), MemOnly s acc.1 →
      MemOnly s (l.foldl (fun (acc : State × MemRes × List Byte) p =>
        match acc with
        | (s1, .ok _, rest) =>
          match memWrite1 s1 fn p.1 (rest.take p.2) with
          | (s2, r) => (s2, r, rest.drop p.2)
        | x => x) acc).1 := by
    intro l
    induction l with
    | nil => intro acc h; exact h
    | cons p t ih =>
      intro acc h
      obtain ⟨x, r, e⟩ := acc
      rw [List.foldl_cons]
      apply ih
      cases r <;> first
        | exact h
        | exact MemOnly.trans h (memOnly_memWrite1 ..)
  exact key _ _ (.refl _)

end Sys2Proof.Machine
end

