-- ==== Sys2Proof/Tests/Slice0.lean ====
section
/-!
SUPPORT. Tests: what WellFormed refuses, results of single commands on small states, and for the statements of
Certificates/Slice0/Obligations.lean concrete states and operands that meet their hypotheses, clause by clause.
-/
namespace Sys2Proof.Tests
open Sys2Proof Sys2Proof.Machine

/-- The state a command answers. -/
def after (r : Res) : State := match r with | .next t => t | _ => State.reset

/-- A device that has booted, with the blocks `bs` ON and the crystal running. -/
def upWith (bs : List (Blk × Nat)) : State :=
  bs.foldl (fun x m => setBlk x m.1 m.2 .on)
    { State.reset with
      boot := { running := false, stage := 7, cfgReady := true, devReady := true }
      edge := { perst := false, post := false, modid := 0 }
      time := 12345
      deal := { running := true }
      host := { linkUp := true, speed := 6, width := 16, flit := true } }
/-- The same with no switched block. -/
def up : State := upWith []
/-- A read that was answered with data. -/
def isOkRes : MemRes → Bool
  | .ok _ => true
  | _ => false

set_option maxRecDepth 10000
set_option Elab.async false

/-! ### What WellFormed refuses: an ill-formed command for each check, beside the last index it lets through -/

theorem test_wf_clu : (Instr.ping 68 0).wf = false ∧ (Instr.ping 67 0).wf = true := by decide
theorem test_wf_seqr : (Instr.waitEvent 0 65).wf = false ∧ (Instr.waitEvent 0 64).wf = true := by decide
theorem test_wf_unit : (Instr.refreshDue 2176).wf = false ∧ (Instr.refreshDue 2175).wf = true := by decide
theorem test_wf_target : (Instr.unitAbort (.group 8 0) 0).wf = false ∧ (Instr.unitAbort (.group 7 16) 0).wf = false ∧ (Instr.unitAbort (.one 2176) 0).wf = false ∧ (Instr.unitAbort (.group 7 15) 0).wf = true := by decide
theorem test_wf_stack : (Instr.migrationStart 8).wf = false ∧ (Instr.migrationStart 7).wf = true := by decide
theorem test_wf_region : (Instr.retagC 1 0 32768).wf = false ∧ (Instr.retagC 1 0 32767).wf = true := by decide
theorem test_wf_slice : (Instr.invCmd 1 4 0).wf = false ∧ (Instr.invCmd 1 3 0).wf = true := by decide
theorem test_wf_way : (Instr.wayCfgDone 0 48).wf = false ∧ (Instr.wayCfgDone 0 47).wf = true := by decide
theorem test_wf_engine : (Instr.trainingTimeout 16).wf = false ∧ (Instr.trainingTimeout 15).wf = true := by decide
theorem test_wf_lane : (Instr.laneSwap 0 true 9).wf = false ∧ (Instr.laneSwap 0 true 8).wf = true := by decide
theorem test_wf_queue : (Instr.cancel 4096).wf = false ∧ (Instr.cancel 4095).wf = true := by decide
theorem test_wf_func : (Instr.functionReset 256).wf = false ∧ (Instr.functionReset 255).wf = true := by decide
theorem test_wf_mbox : (Instr.go 1 319).wf = false ∧ (Instr.go 1 318).wf = true := by decide
theorem test_wf_slot : (Instr.spill 64).wf = false ∧ (Instr.spill 63).wf = true := by decide
theorem test_wf_page : (Instr.srst 1 .clu 68).wf = false ∧ (Instr.srst 1 .clu 67).wf = true := by decide
theorem test_wf_reg : (Instr.registerWrite 1 2 [0, 0, 0, 0]).wf = false ∧ (Instr.registerWrite 1 4 [0, 0, 0, 0]).wf = true := by decide
theorem test_wf_domain : (Instr.domainFault 96).wf = false ∧ (Instr.domainFault 95).wf = true := by decide
theorem test_wf_sem : (Instr.acquireGrant 2 0).wf = false ∧ (Instr.acquireGrant 0 1024).wf = false ∧ (Instr.acquireGrant 1 1023).wf = true := by decide
theorem test_wf_below : (Instr.throttleHeld 2).wf = false ∧ (Instr.throttleHeld 1).wf = true := by decide
/-- The opcode table gives no row bits: no word spells a command. -/
theorem test_no_words : decodeTableWord 8 0 = none ∧ State.reset.withFetchWord 8 0 = State.reset := ⟨rfl, rfl⟩

/-! ### Witnesses: power, reset, clocks, heat, throttle -/

def wDown : State := { State.reset with edge := { power := .off } }
def wRamp : State := { State.reset with edge := { power := .ramping }, regs := { file := [(4, 5)] } }
def wBurn : State := { up with sec := { burn := some (5, true) } }
/-- PowerAndReset. -/
theorem test_wit_PowerAndReset :
    wDown.edge.power = .off ∧ wRamp.edge.power = .ramping ∧ wBurn.edge.power ≠ .off ∧ wBurn.sec.flashOp = none ∧
    (up.edge.perst = false ∧ up.edge.power = .up ∧ up.clk.lost.contains .crystal = false) ∧
    (let s := { up with edge := { up.edge with power := .tripped } }; s.edge.perst = false ∧ s.edge.power ≠ .up) ∧
    State.reset.edge.perst = true := by decide
theorem test_hubPowerGood : let t := after (exec (.hubPowerGood 13 0 {}) wRamp); t.edge.modid = 5 ∧ faultN t = true ∧ t.regs = {} ∧ t.mem = {} ∧ t.boot.running = true := by decide +kernel
theorem test_powerDown : let t := after (exec .powerDown wBurn); t.edge.power = .off ∧ t.regs = {} ∧ t.deal = {} ∧ t.flash = wBurn.flash ∧ t.tap = .idcode ∧ t.wear = {} := by decide +kernel
theorem test_resetEntry : let t := after (exec (.resetEntry 0 {}) { wBurn with sec := { unlockPending := true } }); t.sec.unlocked = true ∧ t.host = {} ∧ t.boot.stage = 0 ∧ t.jrn = {} ∧ t.edge.events = [] := by decide +kernel
theorem test_perstRelease : let t := after (exec (.perstRelease 0 {}) State.reset); t.edge.perst = false ∧ t.boot.reference = 0 := by decide +kernel
def wLost (c : ClkSrc) : State := { up with clk := { lost := [c] } }
/-- ClocksAndHeat. -/
theorem test_wit_ClocksAndHeat :
    (lossBit .crystal = some (false, 0) ∨ (lossBit .crystal).isSome = true) ∧ up.clk.lost.contains .crystal = false ∧ hubPowered up = true ∧ hubUp up = true ∧ (srcOk .fref = true ∧ wDown.clk.lost.contains .fref = false ∧ hubPowered wDown = false) ∧
    up.clk.lost.contains (.oclk 15) = false ∧ (wLost .hclk).clk.lost.contains .hclk = true ∧
    ((wLost .crystal).clk.lost.contains .crystal = true ∧ (wLost .crystal).edge.power = .up) ∧
    (95 * fld (rdN up 0x207C) 27 16 < 100 * 4000 ∧ up.thr.powerOn = false) ∧
    (¬ 95 * fld (rdN up 0x207C) 27 16 < 100 * 0 ∧ ¬ 98 * fld (rdN up 0x207C) 11 0 < 100 * 0) ∧
    overAt [20, 115] 115 = some (1, 115) ∧
    (overAt [20, 114] 115 = none ∧ overAt [119] 120 = none ∧ overAt [109] 110 = none) := by decide
theorem test_clockReturn : let t := after (exec (.clockReturn .crystal 0 {}) (wLost .crystal)); t.boot.running = true ∧ t.clk.lost = [] ∧ t.host = {} ∧ t.deal = {} ∧ t.mem = {} := by decide +kernel
theorem test_powerMeasure : let t := after (exec (.powerMeasure 1 4000 7) up); t.thr.level = 1 ∧ rdN t 0x2078 = 7 := by decide +kernel
theorem test_thermalRead : let t := after (exec (.thermalRead { compute := [20, 115] }) { up with mem := { dram := [(1,1)], lpd := [(2,2)], scratch := [(3,3)] }, clu := [(0,{})], nbu := [(0,{})] }); t.edge.power = .tripped ∧ faultN t = true ∧ t.deal.running = false ∧ t.deal.cur = none ∧ t.deal.cq = [] ∧ t.mem.dram = [] ∧ t.mem.lpd = [] ∧ t.mem.scratch = [] ∧ t.clu = [] ∧ t.nbu = [] := by decide +kernel
def wHeld : State := { up with thr := { brk := { asserted := true }, ext := { asserted := true, edges := [7, 0] }, level := 3 }, time := 1000000000 }
/-- Throttling. -/
theorem test_wit_Throttling :
    hubUp up = true ∧ hubUp wHeld = true ∧ (midOf 0x101 = 0x101 ∧ up.boot.recovery = false) ∧ up.edge.inputLow = false ∧
    (let s := { up with thr := { level := 1, since := 5 }, time := 10000005 }; hubUp s = true ∧ 0 < s.thr.level ∧ demandMax s < s.thr.level ∧ s.thr.since + 10000000 ≤ s.time) ∧
    (let s := { up with thr := { level := 1 }, time := 9999999 }; s.time < s.thr.since + 10000000 ∧ s.thr.level ≤ demandMax (wHeld) ∧ demandMax s < s.thr.level) ∧ demandMax up ≤ up.thr.level ∧
    wHeld.thr.level < demandMax wHeld ∧ up.thr.brk.asserted ≠ true ∧ up.thr.ext.asserted ≠ true ∧
    (wHeld.thr.brk.asserted = true ∧ wHeld.thr.brk.held = false ∧ wHeld.thr.ext.asserted = true ∧ wHeld.thr.ext.held = false ∧ wHeld.thr.brk.edges.getLast? = none ∧ wHeld.thr.ext.edges.getLast? = some 0 ∧ 0 + 1000000000 ≤ wHeld.time) ∧
    ({ wHeld with time := 999999999 } : State).time < 0 + 1000000000 := by decide
theorem test_throttleHeld : let t := after (exec (.throttleHeld 1) wHeld); t.thr.ext.held = true ∧ t.edge.events = [.throttleHeld 1] := by decide +kernel
theorem test_stormEnd : let t := after (exec (.stormEnd 1) { wHeld with time := 999999999 }); t.time = 999999999 ∧ t.thr = wHeld.thr := by decide +kernel
theorem test_thrCap : let t := after (exec (.thrCap 0x101 7) up); rdN t (thm 0x48) = 4 ∧ t.thr.level = 4 := by decide +kernel
theorem test_levelFall : let t := after (exec (.levelFall) { up with thr := { level := 1, since := 5 }, time := 10000005 }); t.thr.level = 0 ∧ t.thr.since = 10000005 ∧ t.deal.capChange = true := by decide +kernel
def wClu : State := upWith [(.clu, 3), (.llc, 1)]
def wSrst : State := { upWith [(.nbu, 5), (.stk, 0), (.llc, 1)] with blk := { (upWith [(.stk, 0), (.llc, 1)]).blk with srst := [pageOf .nbu 5, pageOf .llc 1] } }
/-- BlockControl. -/
theorem test_wit_BlockControl :
    (domOf .clu 67 = some 67 ∧ hdrReach up 1 .clu 67 = .yes ∧ (67 < 94 ∨ midOf 1 = 0x102) ∧ up.edge.power = .up ∧
      (blkState up .clu 67 = .off ∨ blkState up .clu 67 = .failed) ∧ tooHot up .clu 67 = false ∧
      (∀ m ∈ domMembers 67, blkState up m.1 m.2 ≠ .stopping)) ∧
    (domOf .opt 15 = some 87 ∧ blkState up .opt 15 = .off ∧ pairHot up (15 / 2) 75 = false) ∧
    (domOf .clu 3 = some 3 ∧ hdrReach wClu 1 .clu 3 = .yes ∧ blkState wClu .clu 3 = .on ∧ stopRefused wClu 1 .clu 3 = none) ∧
    (domOf .jrn 0 = some 95 ∧ hdrReach up 1 .jrn 0 = .yes ∧ blkState up .jrn 0 ≠ .retired ∧ stopRefused up 1 .jrn 0 = some 4) ∧
    (hdrReach wClu 1 .clu 3 = .yes ∧ blkSrst .clu = true ∧ isOn wClu .clu 3 = true ∧ wClu.blk.srst.contains (pageOf .clu 3) = false) ∧
    (wSrst.blk.srst.contains (pageOf .nbu 5) = true ∧ blkBusy wSrst .nbu 5 = false ∧ isOn wSrst .nbu 5 = true) ∧
    (wSrst.blk.srst.contains (pageOf .llc 1) = true ∧ blkBusy wSrst .llc 1 = false ∧ isOn wSrst .llc 1 = true ∧ blkPwr .llc = true) := by decide
theorem test_blkCtlEnOn : let t := after (exec (.blkCtlEnOn 1 .clu 67) up); blkState t .clu 67 = .starting ∧ isPwr t 67 = true := by decide +kernel
theorem test_blkCtlEnOff : let t := after (exec (.blkCtlEnOff 1 .llc 1) wClu); blkState t .llc 1 = .stopping ∧ t.deal.capChange = true := by decide +kernel
theorem test_softResetDone : let t := after (exec (.softResetDone .llc 1) wSrst); blkState t .llc 1 = .stopping ∧ t.blk.cycle = [pageOf .llc 1] := by decide +kernel
def wStart : State := setBlk (setBlk up .clu 3 .starting) .llc 3 .starting
def wStop : State := setBlk up .clu 67 .stopping
def wPwr : State := pwrUp (upWith [(.clu, 3), (.stk, 7)]) 79
/-- DomainsAndClockGates. -/
theorem test_wit_DomainsAndClockGates :
    (((domMembers 3).filter (fun m => blkState wStart m.1 m.2 == .starting)).isEmpty = false ∧ ({} : Bring).badDom.contains 3 = false) ∧
    (∀ m ∈ domMembers 71, blkState wStart m.1 m.2 = .starting) ∧
    (blkState wStop .clu 67 = .stopping ∧ blkBusy wStop .clu 67 = false ∧ wStop.blk.cycle.contains (pageOf .clu 67) = false) ∧
    isPwr wPwr 79 = true ∧
    hubUp up = true ∧ (nodeOk 0xA0 = false ∧ nodeOk 0x9F = true ∧ nodeUsed (setGate up 0x9F true) 0x9F = false ∧ nodeOk 0x13 = true ∧ nodeUsed wClu 0x13 = true) := by decide
theorem test_domainStartDone : let t := after (exec (.domainStartDone 71 false {}) wStart); blkState t .llc 3 = .failed ∧ isPwr t 71 = false ∧ t.deal = { wStart.deal with capChange := true } := by decide +kernel
theorem test_domainFault : let t := after (exec (.domainFault 79) wPwr); isPwr t 79 = false ∧ bit (rdReg t 0x2068) 15 = true := by decide +kernel

/-! ### Witnesses: the TAP, flash, firmware, trust -/

def wSec : State := upWith [(.sec, 0)]
def wUnl : State := { up with sec := { unlocked := true } }
/-- TapAndDebug. -/
theorem test_wit_TapAndDebug :
    (up.edge.power = .up ∨ up.edge.power = .tripped) ∧ State.reset.edge.perst = true ∧ up.edge.perst = false ∧
    (tapOn wSec = true ∧ secFw wSec = true ∧ wSec.fuses.dbgOff = false ∧ wSec.fuses.programmed.getLsbD 1 = true ∧ wSec.fuses.keyrev.getLsbD 1 = false) ∧
    (let s := { wSec with fuses := { wSec.fuses with dbgOff := true } }; s.fuses.dbgOff = true) ∧
    wSec.sec.unlocked = false ∧ (tapOn wUnl = true ∧ wUnl.sec.unlocked = true) := by decide
theorem test_extest : let t := after (exec .extest State.reset); t.tap = .extest ∧ t.out = [.pins true] := by decide +kernel
def wFl (a : Nat) : State := wrReg wSec 0x6064 (w32 a)
def wFop (c a : Nat) (d : List Byte) : State := { wSec with sec := { flashOp := some (c, a, d) }, flash := [(0x4000000, 0x0F), (0x4000040, 0x11), (0x4010000, 1)] }
def wSvn : State := { wSec with boot := { wSec.boot with svn := 127 } }
/-- FlashAndBootControl. -/
theorem test_wit_FlashAndBootControl :
    (pgReach wSec 1 .sec = .yes ∧ isOn wSec .sec 0 = true ∧ wSec.sec.flashOp = none) ∧
    (fld (rdN (wFl 0x7FFFFC0) 0x6064) 27 0 % 64 = 0 ∧ flashMay (wFl 0x7FFFFC0) (fld (rdN (wFl 0x7FFFFC0) 0x6064) 27 0) ≠ none) ∧
    flashMay (wFl 0) (fld (rdN (wFl 0) 0x6064) 27 0) = none ∧
    (fld (rdN (wFl 0x7FFF000) 0x6064) 27 0 % 4096 = 0 ∧ flashMay (wFl 0x7FFF000) (fld (rdN (wFl 0x7FFF000) 0x6064) 27 0) ≠ none) ∧
    ((spWf 0xFF (wFop 1 0x4000000 [0xF1]).flash = true ∧ (wFop 1 0x4000000 [0xF1]).sec.flashOp = some (1, 0x4000000, [0xF1])) ∧
      (wFop 2 0x4000000 []).sec.flashOp = some (2, 0x4000000, []) ∧
      ((wFop 3 0xFFFFFC0 []).sec.flashOp = some (3, 0xFFFFFC0, []) ∧ 0xFFFFFC0 + 63 < 0x10000000)) ∧
    (bit (0x8000007F : W32) 31 = true ∧ wSvn.fuses.svn < (0x8000007F : W32).toNat % 128 ∧ (0x8000007F : W32).toNat % 128 ≤ wSvn.boot.svn ∧
      wSvn.sec.burn = none ∧ wSvn.boot.recovery = false) ∧
    (bit (0x80000000 : W32) 31 = true ∧ (0x80000000 : W32).toNat % 128 ≤ wSvn.fuses.svn) ∧
    wBurn.sec.burn = some (5, true) ∧ (bit (1 : W32) 0 = true ∧ wSec.boot.devReady = true) := by decide
theorem test_flashCmdDone : let t := after (exec (.flashCmdDone true) (wFop 1 0x4000000 [0xF1])); t.flash = [(0x4000000, 1), (0x4000040, 0x11), (0x4010000, 1)] ∧ t.sec.flashOp = none := by decide +kernel
theorem test_svnCommit : let t := after (exec (.svnCommit 1 0x8000007F) wSvn); t.sec.burn = some (127, false) ∧ t.jrn.queue.length = 1 := by decide +kernel
theorem test_bootPref : let t := after (exec (.bootPref 1 3) wSec); (ctlRead t).pref = 1 ∧ (ctlRead t).try_ = true := by decide +kernel
def wMsg (ch _self snd : Nat) (d : List W32) : State := setMb wSec ch { full := true, sender := snd, data := d }
def wObj : State := { wMsg 1 0x102 1 [0, 0x10, 0, 0, 64] with mem := { rgn := [(0, 1)] } }
/-- FirmwareAndManagement. -/
theorem test_wit_FirmwareAndManagement :
    (let s := wMsg 2 0x102 0x103 [0, 0x20]; mbWaits s 2 0x102 = true ∧ secFw s = true ∧ (getMb s 2).sender = 0x103 ∧ mbCmd s 2 = 0x20) ∧
    (let s := wMsg 2 0x102 0x103 [0, 0x21]; mbWaits s 2 0x102 = true ∧ secFw s = true ∧ (getMb s 2).sender = 0x103 ∧ mbCmd s 2 = 0x21) ∧
    (let s := wMsg 3 0x101 0x103 [0, 0x30]; mbWaits s 3 0x101 = true ∧ dealFw s = true ∧ (getMb s 3).sender = 0x103 ∧ mbCmd s 3 = 0x30) ∧
    (mbWaits wObj 1 0x102 = true ∧ secFw wObj = true ∧ (getMb wObj 1).sender = 1 ∧ mbCmd wObj 1 = 0x10 ∧ 64 ≤ mbData wObj 1 4 ∧
      mbData wObj 1 4 ≤ 16384 ∧ mbData wObj 1 2 + 2 ^ 32 * fld (mbData wObj 1 3) 15 0 = 0 ∧ rangeOf 0 = .stack ∧ rangeOf (0 + 64 - 1) = .stack ∧
      rgnClass wObj 0 = 1 ∧ (memRead wObj 256 true 0 64 .none).2 = .ok (List.replicate 64 0) ∧
      (memRead wObj 256 true 0 64 .none).1.fuses.svn = wObj.fuses.svn ∧ (memRead wObj 256 true 0 64 .none).1.boot = wObj.boot ∧
      wObj.fuses.programmed.getLsbD 1 = true ∧ wObj.fuses.keyrev.getLsbD 1 = false ∧ 3 ≠ wObj.boot.keyIdx) ∧
    (up.edge.power = .up ∧ smbusOn up = true) ∧
    (let s := { up with edge := { up.edge with events := [.inputLow] } }; smbusOn s = true ∧ s.edge.events = [.inputLow]) := by decide
theorem test_secCmd : let t := after (exec (.secCmd { act := .revoke 3, keySlot := 1, sigOk := true }) wObj); t.fuses.keyrev = 8 ∧ (getMb t 1).full = true ∧ (getMb t 1).sender = 0x102 := by decide +kernel
theorem test_modidChanged : let t := after (exec (.modidChanged 3) up); t.edge.modidChanged = true ∧ t.edge.modid = 0 := by decide +kernel
theorem test_mctpEventRead : let t := after (exec .mctpEventRead { up with edge := { up.edge with events := [.inputLow] } }); t.out = [.mctpEvent .inputLow] ∧ alertN t = false := by decide +kernel
def wSes : State := { wSec with sec := { session := true, ideKeys := [8] }, host := { wSec.host with vfEnable := true, fns := [(255, { tdi := .locked })] } }
/-- AttestationAndSessions. -/
theorem test_wit_AttestationAndSessions :
    up.host.linkUp = true ∧ (let s := { up with boot := {} }; s.host.linkUp = true ∧ s.boot.cfgReady = false) ∧ up.boot.cfgReady = true ∧
    (wSes.host.linkUp = true ∧ wSes.sec.session = true ∧ wSes.sec.ideKeys.contains 0 = false ∧ wSes.sec.ideKeys.contains 8 = true ∧
      wSes.sec.ideActive.contains 8 = false ∧ fnThere wSes 255 = true ∧ (getFn wSes 255).tdi = .locked) := by decide

/-! ### Witnesses: registers, mailboxes, queues, host -/

def wPk : Nat := pairKey up 1 .que 0 0x00
def wStaged : State := { up with regs := { stage := [(wPk, 7)], capt := [(wPk, 9)] } }
def wHdr : State := wrReg up (pageOf .ras 0 + 0x30) 1
/-- RegisterAccess. -/
theorem test_wit_RegisterAccess :
    hdrReach up 1 .ras 0 = .yes ∧ bit (0 : W32) 0 = false ∧ bit (1 : W32) 0 = true ∧
    ((pageOf .ras 0 + 0x18) % 4 = 0 ∧ locate (pageOf .ras 0 + 0x18) = .blk .ras 0 0x18 ∧ blkHeader .ras = true) ∧
    ((pageOf .ras 0 + 0x2C) % 4 = 0 ∧ locate (pageOf .ras 0 + 0x2C) = .blk .ras 0 0x2C ∧ hdrReach wHdr 1 .ras 0 = .yes ∧ locked wHdr (pageOf .ras 0) = true) ∧
    (0x4001 % 4 ≠ 0 ∧ hostMid 1 = true ∧ hubUp up = true ∧ qPg 0 % 8 = 0 ∧ [(1 : Byte), 2].length % 4 ≠ 0 ∧ [(1 : Byte), 2, 3, 4, 5, 6, 7, 8].length = 8 ∧ pairOf (qPg 0 + 0x10) false = none) ∧
    (pairOf (qPg 0 + 4) true = some (.que, 0, 0) ∧ pairOf (qPg 0) false = some (.que, 0, 0) ∧ ownReach up 1 .que 0 = .yes ∧ pairOpen up .que 0 4 = true ∧
      pairOpen up .que 0 0 = true ∧ spFind up.regs.stage wPk = none ∧ spFind up.regs.capt wPk = none) ∧
    (ownReach wStaged 1 .que 0 = .yes ∧ pairOpen wStaged .que 0 0 = true ∧ spFind wStaged.regs.stage wPk = some 7 ∧ spFind wStaged.regs.capt wPk = some 9) := by decide
theorem test_registerWrite : let t := after (exec (.registerWrite 1 (qPg 0) [0x40, 0x10, 0, 0, 7, 0, 0, 0]) up); rdReg t (qPg 0) = 0x1040 ∧ rdReg t (qPg 0 + 4) = 7 ∧ t.regs.stage = [] := by decide +kernel
theorem test_nameLoWrite : let t := after (exec (.nameLoWrite 1 (qPg 0) 0x1040) wStaged); rdReg t (qPg 0) = 0x1040 ∧ rdReg t (qPg 0 + 4) = 7 := by decide +kernel
theorem test_nameLoRead : let t := after (exec (.nameLoRead 1 (qPg 0)) (wrReg up (qPg 0 + 4) 3)); t.out = [.reg 1 (qPg 0) 0] ∧ spFind t.regs.capt wPk = some 3 := by decide +kernel
theorem test_nameHiRead : let t := after (exec (.nameHiRead 1 (qPg 0 + 4)) wStaged); t.out = [.reg 1 (qPg 0 + 4) 9] ∧ t.regs.capt = [] := by decide +kernel
def wRc : State := wrReg (upWith [(.pcie, 0)]) 0x7068 5
/-- ReadToClear. -/
theorem test_wit_ReadToClear :
    locate 0x7068 = .blk .pcie 0 0x68 ∧ (regRow .pcie 0x68).map (fun r => r.acc) = some .rc ∧ 0 < Blk.count .pcie ∧ 0x7068 % 4 = 0 ∧
    ownReach wRc 1 .pcie 0 = .yes := by decide
theorem test_readToClear : let t := after (exec (.readToClear 1 0x7068 3) wRc); t.out = [.reg 1 0x7068 5] ∧ rdReg t 0x7068 = 3 := by decide +kernel
/-- MailboxProcedure: an owner to be, an owner that is not, the owner, the recipient, a stranger. -/
def wMbx (o : Nat) (fl : Bool) : State := setMb up 0 { owner := o, full := fl, sender := 1 }
theorem test_wit_MailboxProcedure :
    (hubUp up = true ∧ hubUp (wMbx 0x101 false) = true ∧ hubUp (wMbx 1 false) = true ∧ hubUp (wMbx 0 true) = true) ∧
    (mbRefused up 1 0 = false ∧ mbBound up 0 (midOf 1) = true ∧ (getMb up 0).full = false ∧ (getMb up 0).owner = 0) ∧
    (mbRefused (wMbx 0x101 false) 1 0 = false ∧ mbBound (wMbx 0x101 false) 0 1 = true ∧ (getMb (wMbx 0x101 false) 0).full = false ∧ (getMb (wMbx 0x101 false) 0).owner ≠ 0 ∧
      (getMb (wMbx 0x101 false) 0).owner ≠ midOf 1) ∧
    (mbRefused (wMbx 1 false) 1 0 = false ∧ mbBound (wMbx 1 false) 0 1 = true ∧ (getMb (wMbx 1 false) 0).owner = midOf 1) ∧
    (mbRefused (wMbx 0 true) 0x101 0 = false ∧ mbBound (wMbx 0 true) 0 0x101 = true ∧ (getMb (wMbx 0 true) 0).full = true ∧
      midOf 0x101 = mbOther (wMbx 0 true) 0 (getMb (wMbx 0 true) 0).sender) := by decide
theorem test_mbLock : let t := after (exec (.mbLock 1 0) up); (getMb t 0).owner = 1 ∧ t.out = [.reg 1 (mbPg 0 + 0x44) 0] := by decide +kernel
def wQ (x : Queue) : State := setFn (setQ up 0 x) 0 { qcnt := 16, bme := true }
def wQb : State := wrReg (wQ {}) (qPg 0 + 0x10) (w32 (2 ^ 21))
def wRst : State := setFn (setQ up 0 { st := .enabled }) 0 { qcnt := 16, bme := true, resetRun := true }
/-- Queues. -/
theorem test_wit_Queues :
    (queReach up 1 0 = .yes ∧ (getQ up 0).st = .disabled ∧ up.boot.devReady = true ∧ qCfgOk up 0 = true) ∧
    (queReach wQb 1 0 = .yes ∧ (getQ wQb 0).st = .disabled ∧ wQb.boot.devReady = true ∧ qCfgOk wQb 0 = false) ∧
    (queReach (wQ { st := .paused }) 1 0 = .yes ∧ (getQ (wQ { st := .paused }) 0).st = .paused) ∧
    (qDrained (wQ { st := .draining }) 0 = true ∧ (getQ (wQ { st := .draining }) 0).st = .draining) ∧
    (queReach (wQ { st := .enabled }) 1 0 = .yes ∧ qResetting (wQ { st := .enabled }) 0 = false ∧ (getQ (wQ { st := .enabled }) 0).st = .enabled ∧
      qSize (wQ { st := .enabled }) 0 = 16 ∧ cqSize (wQ { st := .enabled }) 0 = 16 ∧ (15 : W32).toNat % 65536 < 16 ∧ 16 ≤ (16 : W32).toNat % 65536) ∧
    (let s := wQ { st := .enabled, cqTail := 3, cqHead := 15 }; (3 : W32).toNat % 65536 < cqSize s 0 ∧
      ((3 : W32).toNat % 65536 + cqSize s 0 - (getQ s 0).cqHead) % cqSize s 0 ≤ ((getQ s 0).cqTail + cqSize s 0 - (getQ s 0).cqHead) % cqSize s 0) ∧
    (let s := wQ { st := .enabled, sqTail := 2, sqHead := 15 }; fetchable s 0 = 3 ∧ hostReach s 0 = true ∧ qResetting s 0 = false ∧ bit (rdReg s (qPg 0 + 0x10)) 20 = false ∧ queOwner s 0 = some 0) := by decide
theorem test_descriptorFetch : let t := after (exec (.descriptorFetch 0 [1, 2, 3, 4] true) (wQ { st := .enabled, sqTail := 2, sqHead := 15 })); (getQ t 0).sqHead = 2 ∧ (getQ t 0).ready.length = 3 ∧ t.out = [.hostReq 0 none false false] := by decide +kernel
def wFn (q : Queue) (x : Func) : State := setFn (setQ up 0 q) 0 x
def wTo : State := wrReg (wFn { unsig := 1 } { qcnt := 16 }) (qPg 0 + 0x18) 0x100
def wScrA : State := setFn { (upWith [(.llc, 0)]) with mem := { ways := [(0, { mode := 2, owner := 0 })] } } 0 { wins := [(0, { dev := 0x80000, len := 16, valid := true, rd := true, wr := true })] }
/-- InterruptsAndHostRequests. -/
theorem test_wit_InterruptsAndHostRequests :
    (let s := wFn { unsig := 1 } { qcnt := 16, bme := true, msixUnmasked := [0] }; queOwner s 0 = some 0 ∧
      max 1 (fld (rdN s (qPg 0 + 0x18)) 7 0) ≤ (getQ s 0).unsig ∧ fnCanSend s 0 = true ∧ (getFn s 0).msixUnmasked.contains (fld (rdN s (qPg 0 + 0x10)) 19 8) = true) ∧
    (queOwner wTo 0 = some 0 ∧ fld (rdN wTo (qPg 0 + 0x18)) 23 8 ≠ 0 ∧ (getQ wTo 0).unsig ≠ 0 ∧ (getQ wTo 0).unsigAt + 1000 * fld (rdN wTo (qPg 0 + 0x18)) 23 8 ≤ wTo.time ∧ fnCanSend wTo 0 = false ∧
      (getFn wTo 0).msixPend.contains (fld (rdN wTo (qPg 0 + 0x10)) 19 8) = false) ∧
    (let s := wFn {} { bme := true, msixPend := [4095] }; fnThere s 0 = true ∧ 4095 < (if (0 : Nat) = 0 then 4096 else 16) ∧ fnCanSend s 0 = true ∧ s.host.linkUp = true ∧
      (getFn s 0).msixPend = [4095] ∧ (getFn s 0).msixUnmasked.contains 4095 = false ∧ (getFn s 0).d3hot = false) ∧
    (wScrA.host.linkUp = true ∧ fnThere wScrA 0 = true ∧ hostAddr wScrA 0 0 true true = some 0x10000000000 ∧ scrWaits wScrA 0 0x10000000000 4 = false) := by decide
theorem test_msiXInterrupt : let t := after (exec (.msiXInterrupt 0) (wFn { unsig := 1 } { qcnt := 16, bme := true, msixUnmasked := [0] })); t.out = [.msix 0 0] ∧ (getQ t 0).unsig = 0 := by decide +kernel
theorem test_vectorUnmask : let t := after (exec (.vectorUnmask 0 4095) (wFn {} { bme := true, msixPend := [4095] })); t.out = [.msix 0 4095] ∧ (getFn t 0).msixPend = [] := by decide +kernel
theorem test_busMasterEnable : let t := after (exec (.busMasterEnable 0) (wFn {} { msixPend := [3, 9], msixUnmasked := [9] })); (getFn t 0).msixPend = [3] ∧ t.out = [.msix 0 9] := by decide +kernel
theorem test_hostAtomicop : let t := after (exec (.hostAtomicop 0 0 4 .add 5 0) wScrA); t.out = [.atomic 0 0] ∧ t.mem.scratch = [(0, 5)] := by decide +kernel
def wVf (x : Func) : State := setFn { up with host := { up.host with vfEnable := true } } 255 { x with qbase := 4080, qcnt := 16 }
def wPcie : State := { (upWith [(.pcie, 0)]) with host := {} }
/-- FunctionsAndLink. -/
theorem test_wit_FunctionsAndLink :
    (fnThere (wVf { resetRun := true }) 255 = true ∧ (getFn (wVf { resetRun := true }) 255).resetRun = true ∧ (getFn (wVf { resetRun := true }) 255).resetPend = false) ∧
    (fnThere (wVf { tdi := .run }) 255 = true ∧ (getFn (wVf { tdi := .run }) 255).resetRun = false) ∧
    (pgReach (upWith [(.pcie, 0)]) 1 .pcie = .yes ∧ isOn (upWith [(.pcie, 0)]) .pcie 0 = true ∧ rdSel (upWith [(.pcie, 0)]) 0x7044 1 % 256 = 0 ∧
      tdiLocked (upWith [(.pcie, 0)]) 0 = false ∧ (0x10000 : W32).toNat % 4096 + min 256 (fld (0x10000 : W32).toNat 20 12) = 16 ∧
      (∀ g, g < 256 → g ≠ 0 → (getFn (upWith [(.pcie, 0)]) g).qcnt = 0 ∨ 16 ≤ (getFn (upWith [(.pcie, 0)]) g).qbase ∨ (getFn (upWith [(.pcie, 0)]) g).qbase + (getFn (upWith [(.pcie, 0)]) g).qcnt ≤ 0) ∧
      (∀ i, i < 16 → (getQ (upWith [(.pcie, 0)]) i).st = .disabled)) ∧
    (4096 < (0x100F01 : W32).toNat % 4096 + min 256 (fld (0x100F01 : W32).toNat 20 12)) ∧
    (let s := { up with boot := {} }; s.host.linkUp = true ∧ s.boot.cfgReady = false) ∧ (up.host.linkUp = true ∧ up.boot.cfgReady = true ∧ fnThere up 0 = true) ∧
    (wPcie.host.linkUp = false ∧ wPcie.edge.perst = false ∧ hubUp wPcie = true ∧ wPcie.clk.lost.contains .refclk = false ∧ isOn wPcie .pcie 0 = true ∧ 16 ∈ [1, 2, 4, 8, 16]) := by decide
theorem test_functionReset : let t := after (exec (.functionReset 255) (wVf { tdi := .run, bme := true })); (getFn t 255).resetRun = true ∧ (getFn t 255).tdi = .error ∧ (getFn t 255).bme = false ∧ (getFn t 255).qbase = 4080 := by decide +kernel
theorem test_functionResetComplete : let t := after (exec (.functionResetComplete 255) (setQ (wVf { resetRun := true, msixUnmasked := [3] }) 4095 { st := .error })); (getFn t 255).resetRun = false ∧ (getFn t 255).msixUnmasked = [] ∧ bitN (getFn t 255).evt 3 = true ∧ t.host.queues = [] := by decide +kernel
theorem test_fnQ : let t := after (exec (.fnQ 1 0x10000) (upWith [(.pcie, 0)])); (getFn t 0).qbase = 0 ∧ (getFn t 0).qcnt = 16 := by decide +kernel
theorem test_linkUp : let t := after (exec (.linkUp 6 16 true) wPcie); t.host.linkUp = true ∧ t.host.flit = true := by decide +kernel

/-! ### Witnesses: memory -/

def wScr : State := { (upWith [(.llc, 0), (.llc, 3)]) with mem := { ways := [(0, { mode := 2, owner := 5 }), (3 * 64 + 47, { mode := 2, owner := 256, phys := 47 })], scratch := [(0, 0xFE), (1, 0xFF), (2, 0xFF), (3, 0xFF)] } }
/-- ScratchpadAccess. -/
theorem test_wit_ScratchpadAccess :
    (Memory.wf wScr ∧ rangeOf 0x10000000000 = .scratch ∧ scrOk wScr 5 0x10000000000 = true ∧ 0x10000000000 % 256 + 256 ≤ 256 ∧
      wScr.mem.scrPoison.contains ((0x10000000000 - 0x010000000000) / 256) = false ∧ 0x10000000000 % 32 = 0 ∧ 0x10000000000 % 16 = 0) ∧
    (rangeOf 0x10017FFFFF0 = .scratch ∧ scrOk wScr 256 0x10017FFFFF0 = true ∧ 0x10017FFFFF0 % 16 = 0 ∧ 0x10017FFFFF0 % 256 + 16 ≤ 256) ∧
    (scrOk wScr 6 0x10000000000 = false ∧ scrWaits wScr 6 0x10000000000 1 = false ∧ isOn wScr .llc (scrAt 0x10000000000).1 = true) := by decide
theorem test_atomicAdd : let t := after (exec (.atomicAdd (.core 5) 0x10000000000 4 3) wScr); t.out = [.atomic 5 0xFFFFFFFE] ∧ t.mem.scratch = [(0, 1)] := by decide +kernel
def wCell : State := { up with mem := { rgn := [(0, 0), (262143, 0)], dram := [(0, 9)] } }
def wWay : State := { (upWith [(.llc, 3)]) with mem := { ways := [(3 * 64 + 47, { mode := 2, owner := 1, phys := 47, pend := some (1, 256) })], scratch := [(191 * 2 ^ 21, 7)], lines := [{ addr := 0x100, data := [], way := 0 }, { addr := 0x200, data := [], way := 0 }], inv := [(0, 0x150, 0x10)]  } }
/-- CellsAndWays. -/
theorem test_wit_CellsAndWays :
    (Memory.wf wCell ∧ rangeOf 0 = .stack ∧ rgnClass wCell 0 = 0 ∧ bitN (rgnEnt wCell 0) 4 = false ∧ 0 % 256 + 256 ≤ 256 ∧ stkPlace wCell 0 = (0, none)) ∧
    (rangeOf 0x7FFFFFFFFF = .stack ∧ rgnClass wCell (0x7FFFFFFFFF / 2 ^ 21) = 0 ∧ bitN (rgnEnt wCell (0x7FFFFFFFFF / 2 ^ 21)) 4 = false ∧ 0x7FFFFFFFFF % 256 + 1 ≤ 256 ∧
      (stkPlace wCell 0x7FFFFFFFFF).2 = none) ∧
    (rangeOf 0x8000000000 = .lpd ∧ lpdUp up = false) ∧
    (pgReach wScr 1 .llc = .yes ∧ isOn wScr .llc 3 = true ∧ rdSel wScr (pageOf .llc 3 + 0x40) 1 = 0 ∧ (0x402 : W32).toNat % 4 ≠ 3 ∧ fld (0x402 : W32).toNat 10 2 = 256 ∧
      (getWay wScr 3 0).phys ≠ 0x3F ∧ tdiLocked wScr (getWay wScr 3 0).owner = false ∧ (getWay wScr 3 0).mode ≠ (0x402 : W32).toNat % 4) ∧
    ((getWay wWay 3 47).pend = some (1, 256) ∧ (getWay wWay 3 47).mode = 2 ∧ isOn wWay .llc 3 = true ∧ wWay.mem.waits = []) ∧
    bit (1 : W32) 0 = true ∧ wWay.mem.inv = (0, 0x150, 0x10) :: [] := by decide
theorem test_wayCfgDone : let t := after (exec (.wayCfgDone 3 47) wWay); getWay t 3 47 = { mode := 1, owner := 256, phys := 47 } ∧ t.mem.scratch = [] := by decide +kernel
def wRt : State := { (upWith [(.stk, 0), (.stk, 1)]) with mem := { rgn := [(0, 0), (1, 3), (2 ^ 15, 0)], retags := [(0, { target := 0, mode := 0, rgn := 2, scope := [2] })], dram := [(2 * 2 ^ 21, 3), (0, 5)] } }
def wRt2 : State := { wRt with mem := {} }
/-- RetaggingAndStackTables. -/
theorem test_wit_RetaggingAndStackTables :
    (pgReach wRt 1 .stk = .yes ∧ isOn wRt .stk 1 = true ∧ retagDecide wRt 3 0 (1 * 2 ^ 15 + 0) = .go [2 ^ 15] ∧
      retagDecide wRt 0 0 (0 * 2 ^ 15 + 0) = .refused 1 ∧ retagDecide wRt 1 3 (1 * 2 ^ 15 + 0) = .refused 5 ∧
      retagDecide wRt2 1 2 (1 * 2 ^ 15 + 5) = .go (setOf 2 (2 ^ 15 + 5)) ∧ retagDecide wRt 0 0 (1 * 2 ^ 15 + 5) = .go [2 ^ 15 + 5]) ∧
    (spFind wRt.mem.retags 0 = some { target := 0, mode := 0, rgn := 2, scope := [2] } ∧ (rgnPlace wRt true 2).2 = none) ∧
    bit (0x3F30 : W32) 4 = true ∧ isOn wRt .stk 7 = false ∧ hostMid 1 = true := by decide
theorem test_retagOffline : let t := after (exec (.retagOffline 1 1 0) wRt); rgnClass t (2 ^ 15) = 2 ∧ stkView t 1 1 0x50 = 1 := by decide +kernel
theorem test_retagDone : let t := after (exec (.retagDone 0) wRt); stkView t 1 0 0x50 = 0 ∧ t.mem.retags = [] ∧ rgnClass t 2 = 0 ∧ t.mem.dram.length = 1 := by decide +kernel
theorem test_remap : let t := after (exec (.remap 1 1 33 0xFFFF) wRt); remap t 1 33 = 33 + 64 + 128 * 33 + 0x6000 ∧ remap t 1 32 = 32 := by decide +kernel
theorem test_rgnEnt : let t := after (exec (.rgnEnt 1 1 0x3F30) wRt); rgnClass t (2 ^ 15) = 0 ∧ bitN (rgnEnt t (2 ^ 15)) 4 = true ∧ rgnGold t (2 ^ 15) = true ∧ fld (rgnEnt t (2 ^ 15)) 25 8 = 0x3F := by decide +kernel
/-- ReloadAndTemperatures, but for its golden copy. -/
theorem test_wit_Temperatures :
    hubUp up = true ∧ hubUp wRt = true ∧ isOn up .stk 7 = false ∧ (isOn wRt .stk 1 = true ∧ 105 ≤ maxN [20, 105]) ∧ isOn (upWith [(.lpd, 3)]) .lpd (15 / 4) = true := by decide
theorem test_stackTempRead : let t := after (exec (.stackTempRead 7 [20, 130]) up); spFind t.mem.temps 7 = some [20, 130] ∧ rdN t (pageOf .stk 7 + 0x40) % 256 = 130 := by decide +kernel

/-! ### Witnesses: clusters and decks -/

def wBlk : List Byte := leBytes 9 8 ++ List.replicate 248 0 ++ leBytes 5 128 ++ List.replicate 640 0
def wClu0 (a : Bool) : State := setC { (upWith [(.clu, 67)]) with mem := { rgn := [(0, 0)], dram := [(0, 9), (0x100, 5)] } } 67 { active := a, trick := 9, qsSave := [(1, 1)], cseq := { ev := [3] }, decks := [{ addr := 0, units := [] }] }
/-- ClusterCommands. -/
theorem test_wit_ClusterCommands :
    isOn (wClu0 true) .clu 67 = true ∧ (getC (wClu0 true) 67).active = true ∧ (getC (wClu0 true) 67).trick = 9 ∧ cluLive (wClu0 true) 67 = true ∧
    (cluLive (wClu0 false) 67 = true ∧ (getC (wClu0 false) 67).active = false ∧ (memRead (wClu0 false) 256 true 0 1024 .none).2 = .ok wBlk) ∧
    (getC (wClu0 true) 67).xr = none ∧ scrWaits (wClu0 true) 256 77 1024 = false ∧ scrWaits (wClu0 false) 256 0 1024 = false ∧
    (getC (wClu0 false) 67).decks.any (fun d => d.addr == leAt wBlk 0x10 8) = true ∧ leAt wBlk 0x18 8 = 0 ∧ cluLive up 67 = false := by decide +kernel
theorem test_abort : let t := after (exec (.abort 67 9) (wClu0 true)); (getC t 67).aborted = true ∧ (getC t 67).active = false ∧ (getC t 67).qsSave = [(1, 1)] := by decide +kernel
theorem test_run : let t := after (exec (.run 67 0) (wClu0 false)); (getC t 67).active = true ∧ (getC t 67).tpb = wBlk ∧ (getC t 67).trick = 9 ∧ (getC t 67).dropMask = 5 ∧ (getS (getC t 67) 63).st = .issue ∧ (getS (getC t 67) 64).st = .ended := by decide +kernel
/-- ClusterRegisters. -/
theorem test_wit_ClusterRegisters :
    pgReach (wClu0 true) 1 .clu = .yes ∧ isOn (wClu0 true) .clu 67 = true ∧ (getC (wClu0 true) 67).active = true ∧
    pgReach (wClu0 false) 1 .clu = .yes ∧ isOn (wClu0 false) .clu 67 = true ∧ (getC (wClu0 false) 67).active = false ∧ bit (1 : W32) 0 = true := by decide

/-- A word of fields (low bit, value). -/
def wd : List (Nat × Nat) → Nat
  | [] => 0
  | (l, v) :: t => v * 2 ^ l + wd t
/-- A deck of the steps `ws`. -/
def wDk (ws : List Nat) : Deck := { addr := 0, units := BitVec.ofNat 128 (ws.length * 2 ^ 32) :: ws.map (BitVec.ofNat 128) }
/-- The clauses of `Issues`, as a test decides them. -/
def atB (s : State) (c q w : Nat) : Bool :=
  (getC s c).active && (getS (getC s c) q).st == .issue && (deckOf (getC s c) q).isSome && stepAt (getC s c) q == some w && opAllowed q (fld w 3 0) && stepRsvOk w
abbrev At (s : State) (c q w : Nat) : Prop := atB s c q w = true
theorem At.issues {s : State} {c q w : Nat} (h : At s c q w) : Issues s c q w := by
  simp only [At, atB, Bool.and_eq_true, beq_iff_eq] at h
  exact ⟨h.1.1.1.1.1, h.1.1.1.1.2, h.1.1.1.2, h.1.1.2, h.1.2, h.2⟩
/-- Cluster 67 runs; its sequencer `q` is `x`, in a deck of the steps `ws`. -/
def wRun (q : Nat) (ws : List Nat) (x : Sequencer := { st := .issue, pc := 1 }) (k : Cluster := {}) : State :=
  setC (upWith [(.clu, 67)]) 67 (setS { k with active := true, decks := [wDk ws] } q x)
def wEv (n : Nat) : Sequencer := { st := .issue, pc := 1, ev := [0, 0, 0, n] }
def wWait : Nat := wd [(0, 6), (12, 1), (8, 2), (16, 3), (32, 65535)]
def wSig (d : Nat) : Nat := wd [(0, 7), (16, 15), (24, d), (32, 65535)]
def wNote : Nat := wd [(0, 7), (4, 2), (32, 0x1234)]
/-- EventSteps: counter 1 has reached 65,535, counter 32,767 has not, sequencers 0, 63, 64, itself, none. -/
theorem test_wit_EventSteps :
    (At (wRun 5 [wWait] (wEv 1)) 67 5 wWait ∧ fld wWait 3 0 = 6 ∧ kindOf wWait = 0 ∧ (1 + 65536 - fld wWait 47 32) % 65536 < 32768) ∧
    (At (wRun 64 [wWait] (wEv 32767)) 67 64 wWait ∧ ¬ (32767 + 65536 - fld wWait 47 32) % 65536 < 32768) ∧
    (let s := wRun 5 [wWait] { wEv 1 with st := .waitEvent 3 65535 }; (getS (getC s 67) 5).st = .waitEvent 3 65535 ∧ stepAt (getC s 67) 5 = some wWait) ∧
    (At (wRun 5 [wSig 64]) 67 5 (wSig 64) ∧ fld (wSig 64) 3 0 = 7 ∧ kindOf (wSig 64) = 0 ∧ fld (wSig 64) 30 24 = 64) ∧
    (At (wRun 5 [wSig 127]) 67 5 (wSig 127) ∧ fld (wSig 127) 30 24 = 127) ∧
    (At (wRun 5 [wSig 65]) 67 5 (wSig 65) ∧ fld (wSig 65) 30 24 ≠ 127 ∧ 64 < fld (wSig 65) 30 24) ∧
    (At (wRun 63 [wNote]) 67 63 wNote ∧ fld wNote 3 0 = 7 ∧ kindOf wNote = 2) := by decide
theorem test_waitEvent : let t := after (exec (.waitEvent 67 5) (wRun 5 [wWait] (wEv 1))); (getS (getC t 67) 5).pc = 2 ∧ (getS (getC t 67) 5).ev.getD 2 0 = 1 := by decide +kernel
theorem test_waitRelease : let t := after (exec (.waitRelease 67 5) (wRun 5 [wWait] { wEv 1 with st := .waitEvent 3 65535 })); (getS (getC t 67) 5).pc = 2 ∧ (getS (getC t 67) 5).st = .issue := by decide +kernel
theorem test_signalEvent : let t := after (exec (.signalEvent 67 5) (wRun 5 [wSig 64])); (getC t 67).cseq.ev.getD 15 0 = 65535 ∧ (getS (getC t 67) 5).pc = 2 := by decide +kernel
def wSemK : Cluster := { tpb := List.replicate 0x2A 0 ++ [0, 4] }
def wPost : Nat := wd [(0, 7), (4, 1), (16, 1023), (26, 1), (32, 5)]
def wAcq : Nat := wd [(0, 6), (4, 1), (16, 1023), (32, 5)]
def wSemS (w v : Nat) (l : List SemWait) : State := { wRun 5 [w] { st := .issue, pc := 1 } wSemK with sync := { sem := [(1023, v), (2047, v)], waits := l } }
def wSemG (l : List SemWait) : State := { wRun 5 [wAcq] { st := .waitSem 1023 5, pc := 1 } wSemK with sync := { sem := [(1023, 5), (2047, 5)], waits := l } }
def wHold : SemWait := { die := 1, sem := 1023, n := 5, clu := 67, seq := 5, gidx := 0 }
def wBar : Nat := wd [(0, 6), (4, 2), (16, 2)]
def wBarS : State := { setC up 67 { active := true, decks := [wDk [wd [(0, 6), (4, 2)]]], cores := (List.range 64).map (fun q => (q, { seq := { st := .waitBar 0, pc := 1 } })) } with
  sync := { arrived := (List.range 64).map (fun q => (0, 67, q, 0)) } }
/-- SemaphoresAndBarriers. -/
theorem test_wit_SemaphoresAndBarriers :
    (At (wSemS wPost 65530 []) 67 5 wPost ∧ fld wPost 3 0 = 7 ∧ kindOf wPost = 1 ∧ fld wPost 47 32 = 5 ∧ semOf (getC (wSemS wPost 65530 []) 67) (fld wPost 25 16) = some 1023 ∧
      semVal (wSemS wPost 65530 []) 0 1023 + 5 = 65535 ∧ bitN wPost 26 = true ∧ dieOf 67 = 1) ∧
    (At (wSemS wPost 65531 []) 67 5 wPost ∧ 65535 < semVal (wSemS wPost 65531 []) 0 1023 + 5) ∧
    (At (wSemS wAcq 5 []) 67 5 wAcq ∧ fld wAcq 3 0 = 6 ∧ kindOf wAcq = 1 ∧ fld wAcq 47 32 = 5 ∧ semOf (getC (wSemS wAcq 5 []) 67) (fld wAcq 25 16) = some 1023 ∧
      5 ≤ semVal (wSemS wAcq 5 []) (dieOf 67) 1023 ∧ (wSemS wAcq 5 []).sync.waits.any (fun x => x.die == dieOf 67 && x.sem == 1023) = false) ∧
    (At (wSemS wAcq 4 []) 67 5 wAcq ∧ semVal (wSemS wAcq 4 []) (dieOf 67) 1023 < 5) ∧
    (At (wSemS wAcq 5 [wHold]) 67 5 wAcq ∧ (wSemS wAcq 5 [wHold]).sync.waits.any (fun x => x.die == dieOf 67 && x.sem == 1023) = true) ∧
    ((wSemG [wHold]).sync.waits.find? (fun y => y.die == 1 && y.sem == 1023) = some wHold ∧ wHold.n ≤ semVal (wSemG [wHold]) 1 1023 ∧
      (getS (getC (wSemG [wHold]) wHold.clu) wHold.seq).st = .waitSem 1023 wHold.n ∧ stepAt (getC (wSemG [wHold]) wHold.clu) wHold.seq = some wAcq) ∧
    (At (wRun 64 [wBar]) 67 64 wBar ∧ fld wBar 3 0 = 6 ∧ kindOf wBar = 2 ∧ fld wBar 17 16 ≠ 3) ∧
    (barMembers wBarS 0 67 0 ≠ [] ∧ ∀ m ∈ barMembers wBarS 0 67 0, ∃ a ∈ wBarS.sync.arrived, a.1 = 0 ∧ a.2.1 = m.1 ∧ a.2.2.1 = m.2 ∧ a.2.2.2 = 0) := by decide
theorem test_wit_SemaphoresAndBarriers_2 : ((getS (getC wBarS 67) 63).st = .waitBar 0 ∧ (stepAt (getC wBarS 67) 63).isSome = true) := by decide
theorem test_post : let t := after (exec (.post 67 5) (wSemS wPost 65530 [])); semVal t 0 1023 = 65535 ∧ (getS (getC t 67) 5).pc = 2 := by decide +kernel
theorem test_acquire : let t := after (exec (.acquire 67 5) (wSemS wAcq 5 [])); semVal t 1 1023 = 0 ∧ (getS (getC t 67) 5).pc = 2 := by decide +kernel
theorem test_acquireGrant : let t := after (exec (.acquireGrant 1 1023) (wSemG [wHold])); t.sync.waits = [] ∧ semVal t 1 1023 = 0 ∧ (getS (getC t 67) 5).pc = 2 := by decide +kernel
theorem test_waitBarrier : let t := after (exec (.waitBarrier 67 64) (wRun 64 [wBar])); t.sync.arrived = [(2, 67, 64, 0)] ∧ (getC t 67).cseq.st = .waitBar 2 := by decide +kernel
theorem test_barrierRelease : let t := after (exec (.barrierRelease 0 67 0) wBarS); t.sync.arrived = [] ∧ ((List.range 64).all (fun q => (getS (getC t 67) q).st == .issue)) := by decide +kernel
def wLp (c b : Nat) : Nat := wd [(0, 9), (5, 1), (12, 1), (16, b), (30, 3), (32, c)]
def wLpS (w : Nat) (x : Sequencer) : State := wRun 63 [0, 0, w] { x with st := .issue, pc := 3 }
def wEnd : Nat := wd [(0, 10), (12, 1)]
/-- Every core sequencer has ended, the cluster sequencer is at its END. -/
def wLastEnd : State := setC (upWith [(.clu, 67)]) 67 { active := true, decks := [wDk [wEnd]], cseq := { st := .issue, pc := 1 }, cores := (List.range 64).map (fun q => (q, { seq := { st := .ended } })) }
def wStA : Async := { pc := 1, cen := true, cev := 15, stream := true }
/-- Core 63 streams two groups; `wr` of them are in its ring. -/
def wStr (wr : Nat) : State := setC up 67 { active := true, cores := [(63, { seq := { st := .issue, pc := 2, outst := [wStA] }, ring := some { base := 0, len := 44, ncol := 2, ngrp := 2, written := wr, freed := 0 } })] }
/-- LoopsAndEnds. -/
theorem test_wit_LoopsAndEnds :
    (At (wLpS (wLp 2 2) {}) 67 63 (wLp 2 2) ∧ fld (wLp 2 2) 3 0 = 9 ∧ bitN (wLp 2 2) 4 = false ∧ fld (wLp 2 2) 63 32 = 2 ∧
      (getS (getC (wLpS (wLp 2 2) {}) 67) 63).loops.all (fun l => !l.active) = true ∧ fld (wLp 2 2) 26 16 = 2 ∧ (getS (getC (wLpS (wLp 2 2) {}) 67) 63).pc = 3) ∧
    (let s := wLpS (wLp 2 2) { loops := [{}, {}, {}, { active := true, left := 0, owner := 3, start := 1 }] }; At s 67 63 (wLp 2 2) ∧
      (getS (getC s 67) 63).loops.getD (fld (wLp 2 2) 31 30) {} = { active := true, left := 0, owner := 3, start := 1 } ∧ (getS (getC s 67) 63).pc = 3) ∧
    (At (wLpS (wLp 2 0) {}) 67 63 (wLp 2 0) ∧ fld (wLp 2 0) 26 16 = 0) ∧
    (let s := wLpS (wLp 2 2) { loops := [{}, {}, {}, { active := true, left := 1, owner := 2, start := 1 }] }; At s 67 63 (wLp 2 2) ∧
      ((getS (getC s 67) 63).loops.getD (fld (wLp 2 2) 31 30) {}).active = true ∧ ((getS (getC s 67) 63).loops.getD (fld (wLp 2 2) 31 30) {}).owner ≠ (getS (getC s 67) 63).pc) ∧
    (let s := wLpS (wLp 2 2) { loops := [{ active := true, left := 1, owner := 4, start := 2 }, {}, {}, { active := true, left := 1, owner := 3, start := 1 }] }; At s 67 63 (wLp 2 2) ∧
      (getS (getC s 67) 63).loops.getD (fld (wLp 2 2) 31 30) {} = { active := true, left := 1, owner := 3, start := 1 } ∧ 0 ≠ fld (wLp 2 2) 31 30 ∧
      (getS (getC s 67) 63).loops[0]? = some { active := true, left := 1, owner := 4, start := 2 } ∧ (getS (getC s 67) 63).pc - fld (wLp 2 2) 26 16 < 2) ∧
    (At (wRun 63 [wEnd]) 67 63 wEnd ∧ fld wEnd 3 0 = 10 ∧ (getS (getC (wRun 63 [wEnd]) 67) 63).loops.any (fun l => l.active) = false ∧
      (getS (getC (wRun 63 [wEnd]) 67) 63).outst = [] ∧ (getS (getC (wRun 63 [wEnd]) 67) 63).arr = [] ∧ (getS (getC (wRun 63 [wEnd]) 67) 0).st ≠ .ended) ∧
    (At wLastEnd 67 64 wEnd ∧ (getS (getC wLastEnd 67) 64).loops.any (fun l => l.active) = false ∧ (getS (getC wLastEnd 67) 64).outst = [] ∧ (getS (getC wLastEnd 67) 64).arr = [] ∧
      (List.range 64).all (fun r => (getS (getC wLastEnd 67) r).st == .ended) = true ∧ (getC wLastEnd 67).held = []) ∧
    (let s := wRun 63 [wEnd] { st := .issue, pc := 1, arr := [{ pc := 1, w := 5, drop := 0, ar := [] }] }; At s 67 63 wEnd ∧ (getS (getC s 67) 63).loops.any (fun l => l.active) = false ∧ (getS (getC s 67) 63).arr ≠ []) ∧
    ((getS (getC (wStr 2) 67) 63).outst[0]? = some wStA ∧ wStA.stream = true ∧ (getCore (getC (wStr 2) 67) 63).ring = some { base := 0, len := 44, ncol := 2, ngrp := 2, written := 2, freed := 0 } ∧
      (getCore (getC (wStr 1) 67) 63).ring = some { base := 0, len := 44, ncol := 2, ngrp := 2, written := 1, freed := 0 }) ∧
    (let s := wRun 63 [wEnd] { st := .issue, pc := 1, outst := [{ pc := 1, cen := true, cev := 15 }] }; At s 67 63 wEnd ∧ (getS (getC s 67) 63).loops.any (fun l => l.active) = false ∧
      (getS (getC s 67) 63).outst ≠ [] ∧ (getS (getC s 67) 63).outst[0]? = some { pc := 1, cen := true, cev := 15 } ∧ (getC s 67).active = true) ∧
    (fld (wLp 2 2) 26 16 ≤ 2046 ∧ 2 < (getS (getC (wLpS (wLp 2 2) {}) 67) 63).pc ∧ bitN (wLp 2 2) 5 = true) := by decide
theorem test_loop : let t := after (exec (.loop 67 63) (wLpS (wLp 2 2) {})); (getS (getC t 67) 63).pc = 1 ∧ (getS (getC t 67) 63).loops.getD 3 {} = { active := true, left := 0, owner := 3, start := 1 } ∧ (getS (getC t 67) 63).layer = 1 ∧ (getS (getC t 67) 63).ev.getD 0 0 = 1 := by decide +kernel
theorem test_endStep : let t := after (exec (.endStep 67 63) (wRun 63 [wEnd])); (getS (getC t 67) 63).st = .ended ∧ (getC t 67).active = true := by decide +kernel
theorem test_stepComplete : let t := after (exec (.stepComplete 67 63 0) (wRun 63 [wEnd] { st := .issue, pc := 1, outst := [{ pc := 1, cen := true, cev := 15 }] })); (getS (getC t 67) 63).outst = [] ∧ (getS (getC t 67) 63).ev.getD 15 0 = 1 := by decide +kernel

/-! ### Witnesses: data steps -/

/-- A parameter block whose tensor 0 has code plane at `a`, `g` groups per row, `r` rows, format `f`. -/
def wTpb (a g r f : Nat) : List Byte := List.replicate 0x200 0 ++ leBytes a 6 ++ List.replicate 18 0 ++ leBytes g 4 ++ leBytes r 3 ++ leBytes f 1
/-- `wRun` over readable cells, with that parameter block. -/
def wMem (q w a g r f : Nat) (k : Cluster := {}) (x : Sequencer := { st := .issue, pc := 1 }) : State :=
  { wRun q [w] x { k with tpb := wTpb a g r f } with mem := { rgn := [(0, 0)], dram := [(0, 0x21), (4, 1), (0xC, 1), (0xE, 1), (0x480 + 4, 3), (0x480 + 20, 2)] } }
def wLd (n o g : Nat) : Nat := wd [(0, 1), (12, 1), (20, 0), (22, 1), (24, n), (32, o), (48, g), (64, 1), (72, 0xFFFF)]
def wLdRaw : Nat := wd [(0, 1), (4, 1), (20, 1), (32, 16383), (48, 1), (64, 1)]
/-- LoadSteps: the last group of operand memory, 32 rows; a row too many; one raw unit. -/
theorem test_wit_LoadSteps :
    (let w := wLd 32 (16384 - 256) 1; let s := wMem 63 w 0 1 32 5; At s 67 63 w ∧ fld w 3 0 = 1 ∧ bitN w 4 = false ∧ (getS (getC s 67) 63).outst.length < 4 ∧
      fld w 29 24 = 32 ∧ fld w 63 48 = 1 ∧ (tdOf (getC s 67) (fld w 19 16)).rsvd = 0 ∧ fmtCode (tdOf (getC s 67) (fld w 19 16)).fmt = true ∧
      fmtBits (tdOf (getC s 67) (fld w 19 16)).fmt = 4 ∧ arOf (getS (getC s 67) 63) (fld w 21 20) + 32 ≤ (tdOf (getC s 67) (fld w 19 16)).rows ∧
      arOf (getS (getC s 67) 63) (fld w 23 22) + 1 ≤ (tdOf (getC s 67) (fld w 19 16)).gpr ∧ fld w 45 32 + 256 * 1 * 1 ≤ 16384 ∧
      scrWaits s (runFn s (getC s 67)) 0 (32 * 128) = false ∧ (tensorRows s (runFn s (getC s 67)) (tdOf (getC s 67) 0) 0 32 0 1 .none).2.1 = .ok []) ∧
    (let w := wLd 32 0 1; let s := wMem 63 w 0 1 31 5; At s 67 63 w ∧ (tdOf (getC s 67) (fld w 19 16)).rows < arOf (getS (getC s 67) 63) (fld w 21 20) + fld w 29 24) ∧
    (let w := wLdRaw; let s := wMem 63 w 0 1 1 0; At s 67 63 w ∧ bitN w 4 = true ∧ (getS (getC s 67) 63).outst.length < 4 ∧ fld w 63 48 = 1 ∧ fld w 45 32 + 1 ≤ 16384 ∧
      scrWaits s (runFn s (getC s 67)) 0 16 = false ∧ (memRead s (runFn s (getC s 67)) true 0 16 .none).2 = .ok (leBytes 0x100000021 12 ++ [1, 0, 1, 0])) := by decide +kernel
theorem test_wit_LoadSteps_2 :
    (let w := wLd 32 2048 1; let s := wMem 64 w 0 1 32 5; At s 67 64 w ∧ bitN w 4 = false ∧ (getS (getC s 67) 64).outst.length < 4 ∧ fld w 29 24 = 32 ∧ fld w 63 48 = 1 ∧ (tdOf (getC s 67) (fld w 19 16)).rsvd = 0 ∧
      fmtCode (tdOf (getC s 67) (fld w 19 16)).fmt = true ∧ fld w 45 32 = 16 * 128 ∧ 16 * 128 + 64 * 32 * 1 = 0x1000 ∧ loadWaits (getC s 67) (rowsOfUnits 2048 2048) = false ∧
      scrWaits s (runFn s (getC s 67)) 0 (32 * 128) = false ∧ (tensorRows s (runFn s (getC s 67)) (tdOf (getC s 67) 0) 0 32 0 1 .none).2.1 = .ok []) ∧
    (let w := wLdRaw - 16383 * 2 ^ 32 + 0x140F * 2 ^ 32; let s := wMem 64 w 0 1 1 0; At s 67 64 w ∧ bitN w 4 = true ∧ (getS (getC s 67) 64).outst.length < 4 ∧ fld w 63 48 = 1 ∧ fld w 45 32 + 1 = 0x1410 ∧
      loadWaits (getC s 67) (rowsOfUnits 0x140F 1) = false ∧ scrWaits s (runFn s (getC s 67)) 0 16 = false ∧ (memRead s (runFn s (getC s 67)) true 0 16 .none).2 = .ok (leBytes 0x100000021 12 ++ [1, 0, 1, 0])) := by decide +kernel
theorem test_loadRaw : let t := after (exec (.loadRaw 67 63 .none) (wMem 63 wLdRaw 0 1 1 0)); omRd (getC t 67) 63 16383 = 0x0001000100000000000000010000_0021 ∧ (getS (getC t 67) 63).ar = [0, 1, 0, 0] := by decide +kernel
def wMv (k d n so o : Nat) : Nat := wd [(0, 8), (4, k), (20, 0), (22, 1), (24, d), (32, so), (48, n), (64, if k = 0 then 0 else 1), (88, o)]
/-- MoveSteps. -/
theorem test_wit_MoveSteps :
    (let w := wMv 0 63 1 16383 16383; let s := wRun 64 [w]; At (wRun 5 [w]) 67 5 w ∧ fld w 3 0 = 8 ∧ kindOf w = 0 ∧ (getS (getC (wRun 5 [w]) 67) 5).outst.length < 4 ∧ fld w 30 24 ≤ 63 ∧ fld w 63 48 ≠ 0 ∧
      moveSrcOk 5 (fld w 45 32) (fld w 63 48) = true ∧ fld w 101 88 + fld w 63 48 ≤ 16384 ∧ At s 67 64 w) ∧
    (let w := wMv 1 32 1 16128 0; let s := wMem 63 w 0 1 32 5; At s 67 63 w ∧ kindOf w = 1 ∧ (getS (getC s 67) 63).outst.length < 4 ∧ fld w 30 24 = 32 ∧ fld w 63 48 = 1 ∧
      (tdOf (getC s 67) (fld w 19 16)).rsvd = 0 ∧ fmtCode (tdOf (getC s 67) (fld w 19 16)).fmt = true ∧ fmtBits (tdOf (getC s 67) (fld w 19 16)).fmt = 4 ∧ moveSrcOk 63 (fld w 45 32) 256 = true ∧
      arOf (getS (getC s 67) 63) (fld w 21 20) + 32 ≤ (tdOf (getC s 67) 0).rows ∧ arOf (getS (getC s 67) 63) (fld w 23 22) + 1 ≤ (tdOf (getC s 67) 0).gpr ∧
      (tdOf (getC s 67) 0).code + 32 * 1 * 128 ≤ 0x010018000000 ∧ scrWaits s (runFn s (getC s 67)) 0 (32 * 128) = false) ∧
    (let w := wMv 2 0 1 16383 0; let s := wMem 63 w 0 1 1 0; At s 67 63 w ∧ kindOf w = 2 ∧ (getS (getC s 67) 63).outst.length < 4 ∧ fld w 63 48 = 1 ∧ moveSrcOk 63 (fld w 45 32) 1 = true ∧
      (tdOf (getC s 67) 0).code + 16 * 0 + 16 ≤ 0x010018000000 ∧ scrWaits s (runFn s (getC s 67)) 0 16 = false) := by decide +kernel
theorem test_moveCore : let t := after (exec (.moveCore 67 5 .none) (wRun 5 [wMv 0 63 1 16383 16383] { st := .issue, pc := 1 } { cores := [(5, { om := [(16383, 77)] })] })); omRd (getC t 67) 63 16383 = omRd (getC (wRun 5 [wMv 0 63 1 16383 16383] { st := .issue, pc := 1 } { cores := [(5, { om := [(16383, 77)] })] }) 67) 5 16383 ∧ (getS (getC t 67) 5).pc = 2 := by decide +kernel
theorem test_moveRaw : let t := after (exec (.moveRaw 67 63 .none) (wMem 63 (wMv 2 0 1 16383 0) 0 1 1 0 { cores := [(63, { om := [(16383, 0xFF01)] })] })); rdBytes t.mem.dram 0 4 = [1, 0xFF, 0, 0] ∧ (getS (getC t 67) 63).ar = [1, 0, 0, 0] := by decide +kernel
def wSt (n b l g pg : Nat) : Nat := wd [(0, 2), (4, pg), (22, 1), (24, n), (32, b), (48, g), (88, l)]
def wRng (wr fr : Nat) : Ring := { base := 0, len := 44, ncol := 2, ngrp := 3, written := wr, freed := fr }
def wRs (r : Ring) : State := wMem 63 0 0 3 2 1 { cores := [(63, { ring := some r })] }
def wRg (wr fr : Nat) : State := setC (wMem 63 0 0x1000 3 2 1) 67 (setCore (getC (wMem 63 0 0x1000 3 2 1) 67) 63 { ring := some (wRng wr fr) })
/-- A paged stream whose second block waits for a ring that has room for one group. -/
def wPs0 : PStream := { seq := 0, layer := 0, kvh := 0, qh := 0, g := 1, t := 1, upos := 5, qsc := List.replicate 32 1, blocks := [[{}], [{}]] }
def wRngP : Ring := { pg := some wPs0, base := 16384 - 1408, len := 1408, ncol := 64, ngrp := 2, written := 1, freed := 0 }
def wRgP : State := setC (wMem 63 0 0x1000 3 2 1) 67 (setCore (getC (wMem 63 0 0x1000 3 2 1) 67) 63 { ring := some wRngP })
theorem noWaits (s : State) (h : s.mem.ways = []) (f a n : Nat) : scrWaits s f a n = false := by
  simp [scrWaits, getWay, spGet, h]
/-- StreamSteps: a ring that ends at the last unit; a page list of one APPEND record; the ring's last group, a full ring. -/
theorem test_wit_StreamSteps :
    (let w := wSt 64 (16384 - 1408) 1408 1 0; let s := wMem 63 w 0 1 64 1; At s 67 63 w ∧ fld w 3 0 = 2 ∧ bitN w 4 = false ∧ (getS (getC s 67) 63).outst.length < 4 ∧ (getCore (getC s 67) 63).ring = none ∧
      fld w 30 24 = 64 ∧ 0 < fld w 63 48 ∧ fld w 45 32 + fld w 101 88 = 16384 ∧ 22 * 64 ≤ fld w 101 88 ∧ (tdOf (getC s 67) 0).rsvd = 0 ∧ fmtWeight (tdOf (getC s 67) 0).fmt = true ∧
      arOf (getS (getC s 67) 63) (fld w 21 20) + 64 ≤ (tdOf (getC s 67) 0).rows ∧ arOf (getS (getC s 67) 63) (fld w 23 22) + 1 ≤ (tdOf (getC s 67) 0).gpr) ∧
    (let w := wSt 64 0 1408 0 1; let s := wMem 63 w 0 1 64 1; At s 67 63 w ∧ bitN w 4 = true ∧ (getCore (getC s 67) 63).ring = none ∧ fld w 30 24 = 64 ∧ 128 * 11 ≤ fld w 101 88 ∧
      scrWaits s (runFn s (getC s 67)) 0 0x480 = false ∧ ((readCpl s (runFn s (getC s 67)) 0).2.map (fun b => (leAt b 4 1, leAt b 0xE 2, leAt b 2 2))) = some (1, 1, 0) ∧
      copyWaits s (getC s 67).trick (runModel (getC s 67)) 0 = false ∧ scOk (cxSms (getM s (runModel (getC s 67))).ctx) = true ∧
      ((readCpl s (runFn s (getC s 67)) 0).2.map (fun b => (List.range 32).all (fun r => decide (leAt b 5 1 * leAt b 6 1 ≤ r) || scOk (leAt b (0x80 + 4 * r) 4)))) = some true ∧ invalWaits s (getC s 67).trick (runModel (getC s 67)) = false) ∧
    (let s := wRg 2 1; (getC s 67).active = true ∧ (getCore (getC s 67) 63).ring = some (wRng 2 1) ∧ (wRng 2 1).written < (wRng 2 1).ngrp ∧ 2 - 1 < ringCap (wRng 2 1) ∧ s.mem.ways = [] ∧
      (match (groupsRead s (runFn s (getC s 67)) (tdOf (getC s 67) 0) 0 (0 + 2) 2).2 with | .ok gs => gs.all (fun g => groupOk 1 (groupCodes 1 g.codes) g.hdr g.cb) | .error _ => false) = true) ∧
    (let s := wRgP; (getC s 67).active = true ∧ (getCore (getC s 67) 63).ring = some wRngP ∧ wRngP.pg = some wPs0 ∧ wRngP.written < wRngP.ngrp ∧ wRngP.written - wRngP.freed < ringCap wRngP ∧ s.mem.ways = [] ∧
      pgGroup (cxDh (getM s (runModel (getC s 67))).ctx) wPs0.blocks 1 = some ([{}], 0) ∧ ((pgColumns s (getSlot s 0).fn (getM s (runModel (getC s 67))).ctx wPs0 [{}] 0 .none).2.map (fun l => l.length)) = some 64) ∧
    ringCap (wRng 2 0) ≤ 2 - 0 := by decide +kernel
theorem test_stream : let t := after (exec (.stream 67 63) (wMem 63 (wSt 64 (16384 - 1408) 1408 1 0) 0 1 64 1)); (((getCore (getC t 67) 63).ring.map (fun r => (r.base, r.len, r.ncol, r.ngrp))) = some (14976, 1408, 64, 1)) ∧ (((getS (getC t 67) 63).outst.map (fun a => a.stream)) = [true]) := by decide +kernel
theorem test_ringGroupWrite : let t := after (exec (.ringGroupWrite 67 63 .none) (wRg 2 1)); (((getCore (getC t 67) 63).ring.map (fun r => r.written)) = some 3) ∧ (getCore (getC t 67) 63).om.length = 22 := by decide +kernel

def wMac (n op : Nat) : Nat := wd [(0, 3), (4, op), (16, 14), (20, 1), (24, 32), (32, 0), (48, 8192), (64, n), (80, 1), (84, 5)]
def wMacS (wr fr op : Nat) (sl : Sparse Slot) : State :=
  let s := wRun 63 [wMac 1 op]; setC s 67 (setCore (getC s 67) 63 { getCore (getC s 67) 63 with slots := sl, ring := some (wRng wr fr) })
/-- A MAC of two groups that has taken one, at the head of the queue while its sequencer waits. -/
def wMacG : State :=
  let s := wRun 63 [wMac 2 0] { st := .waitEvent 3 65535, pc := 2, macDone := 1, arr := [{ pc := 1, w := wMac 2 0, drop := 0, ar := [] }] }
  setC s 67 (setCore (getC s 67) 63 { getCore (getC s 67) 63 with slots := [(14, {}), (15, {})], ring := some (wRng 2 1) })
theorem omChk_free (k : Cluster) (q : Nat) (h : (getCore k q).omRes = []) (u n : Nat) : omChk k q u n = true := by
  simp only [omChk, h, spFind, List.all_eq_true]
  intro i _
  split <;> simp_all
def wDr (dst n o : Nat) : Nat := wd [(0, 4), (16, 15 - n), (20, n), (24, dst), (26, 3), (32, o)]
def wDrS (w : Nat) (sl : Sparse Slot) (full : List Nat := []) : State :=
  let s := wRun 63 [w]; setC s 67 (setCore { getC s 67 with full := full } 63 { getCore (getC s 67) 63 with slots := sl })
/-- MacAndDrain: slots 14 and 15, a ring that is empty and one that holds a group; slots to the last 1,024 units, to tile 3,
full rows, a wrong residue. -/
theorem test_wit_MacAndDrain_1 : let s := wMacS 1 1 1 []; let w := wMac 1 1; At s 67 63 w ∧ fld w 3 0 = 3 ∧ macCount (getC s 67) w = 1 ∧ fld w 19 16 + fld w 23 20 ≤ 15 ∧ fld w 29 24 = 32 ∧
      fld w 45 32 + fld w 23 20 * fld w 63 48 + 1 * 256 * (if fmtBits (fld w 87 84) = 8 then 2 else 1) ≤ 16384 ∧ pairOk (fld w 83 80) (fld w 87 84) = true ∧
      (getCore (getC s 67) 63).seq.macDone = 0 ∧ (getCore (getC s 67) 63).seq.arr = [] ∧ (wRng 1 1).pg = none ∧ (getCore (getC s 67) 63).omRes = [] ∧ (∀ i, i < 2 → (spFind (getCore (getC s 67) 63).slots (14 + i)).isSome = !bitN w 4) ∧ (getCore (getC s 67) 63).ring = some (wRng 1 1) := by decide +kernel
theorem test_wit_MacAndDrain_2 : let s := wMacS 2 1 0 [(14, {}), (15, {})]; let w := wMac 1 0; At s 67 63 w ∧ (∀ i, i < 2 → (spFind (getCore (getC s 67) 63).slots (14 + i)).isSome = !bitN w 4) ∧
      (getCore (getC s 67) 63).ring = some (wRng 2 1) ∧ (wRng 2 1).freed + 1 ≤ (wRng 2 1).written := by decide +kernel
theorem test_wit_MacAndDrain_9 : let s := wMacG; (getC s 67).active = true ∧ (getCore (getC s 67) 63).seq.st = .waitEvent 3 65535 ∧ (getCore (getC s 67) 63).seq.arr = [{ pc := 1, w := wMac 2 0, drop := 0, ar := [] }] ∧ fld (wMac 2 0) 3 0 = 3 ∧
      macCount (getC s 67) (wMac 2 0) = 2 ∧ (getCore (getC s 67) 63).seq.macDone = 1 ∧ (getCore (getC s 67) 63).ring = some (wRng 2 1) ∧ (wRng 2 1).freed + 1 ≤ (wRng 2 1).written ∧ (getCore (getC s 67) 63).omRes = [] := by decide +kernel
theorem test_wit_MacAndDrain_8 : let w := 6 * 2 ^ 80 + wMac 1 1; let s := wRun 63 [w]; At s 67 63 w ∧ fld w 3 0 = 3 ∧ macCount (getC s 67) w = 1 ∧ fld w 19 16 + fld w 23 20 = 15 ∧ fld w 29 24 = 32 ∧
      fld w 45 32 + fld w 23 20 * fld w 63 48 + 1 * 256 * (if fmtBits (fld w 87 84) = 8 then 2 else 1) ≤ 16384 ∧ pairOk (fld w 83 80) (fld w 87 84) = false := by decide +kernel
theorem test_wit_MacAndDrain_3 : At (wRun 63 [3]) 67 63 3 ∧ fld 3 29 24 = 0 := by decide +kernel
theorem test_wit_MacAndDrain_4 : let w := wDr 2 1 15360; let s := wDrS w [(14, {}), (15, {})]; At s 67 63 w ∧ (getCore (getC s 67) 63).seq.arr = [] ∧ fld w 3 0 = 4 ∧ fld w 19 16 + 1 = 15 ∧ fld w 25 24 = 2 ∧ fld w 45 32 + 512 * 2 = 16384 ∧
      (∀ i, i < 2 → (spFind (getCore (getC s 67) 63).slots (14 + i)).isSome = true ∧ slotResOk (spGet {} (getCore (getC s 67) 63).slots (14 + i)) = true) := by decide +kernel
theorem test_wit_MacAndDrain_5 : let w := wDr 0 1 0; let s := wDrS w [(14, {}), (15, {})]; At s 67 63 w ∧ fld w 25 24 = 0 ∧ (∀ r, r < 64 → (getC s 67).full.contains (64 * fld w 27 26 + r) = false) := by decide +kernel
theorem test_wit_MacAndDrain_6 : let w := wDr 0 1 0; let s := wDrS w [(14, {}), (15, {})] [255]; At s 67 63 w ∧ 63 < 32 * 2 ∧ (getC s 67).full.contains (64 * fld w 27 26 + 63) = true := by decide +kernel
theorem test_wit_MacAndDrain_7 : let w := wDr 2 1 15360; let s := wDrS w [(14, {}), (15, { res := [1] })]; At s 67 63 w ∧ slotResOk (spGet {} (getCore (getC s 67) 63).slots (14 + 1)) = false := by decide +kernel
theorem test_mac : let t := after (exec (.mac 67 63 .none) (wMacS 1 1 1 [])); (getS (getC t 67) 63).pc = 2 ∧ (getS (getC t 67) 63).arr.length = 1 := by decide +kernel
def wFin : Nat := wd [(0, 4), (24, 1), (26, 3), (28, 3), (30, 2)]
def wVal : Nat := wd [(0, 4), (16, 12), (20, 3), (24, 1), (28, 0), (30, 1)]
def wSco : Nat := wd [(0, 4), (16, 15), (20, 0), (24, 1), (30, 0)]
def wPs : PStream := { seq := 0, layer := 0, kvh := 0, qh := 0, g := 1, t := 1, upos := 5, qsc := List.replicate 32 1, blocks := [[{ app := true, pte := 0, slot := 0, pos := 5, n := 1, ksc := 1, vsc := 1 }]] }
def wScoS (blk : Nat) : State :=
  let s := wRun 63 [wSco]; setC s 67 (setCore (getC s 67) 63 { getCore (getC s 67) 63 with slots := [(15, { acc := [3], res := [resd 3] })], rs := { blk := blk }, ring := some { wRng 0 0 with pg := some { wPs with blocks := List.replicate 2 (wPs.blocks.headD []) } } })
/-- RowStatistics. -/
theorem test_wit_RowStatistics :
    (let s := wRun 63 [wFin]; At s 67 63 wFin ∧ fld wFin 3 0 = 4 ∧ fld wFin 25 24 = 1 ∧ fld wFin 31 30 = 2 ∧ fld wFin 19 16 = 0 ∧ fld wFin 23 20 = 0 ∧
      (∀ r, r < 32 → (getC s 67).full.contains (64 * fld wFin 27 26 + 32 * (fld wFin 29 28 % 2) + r) = false)) ∧
    (let s := wDrS wVal [(12, {}), (13, {}), (14, {}), (15, {})]; At s 67 63 wVal ∧ fld wVal 31 30 = 1 ∧ fld wVal 19 16 + 3 = 15 ∧ fld wVal 29 28 + 3 = 3 ∧
      (∀ i, i < 4 → (spFind (getCore (getC s 67) 63).slots (12 + i)).isSome = true ∧ slotResOk (spGet {} (getCore (getC s 67) 63).slots (12 + i)) = true)) ∧
    (let s := wScoS 1; At s 67 63 wSco ∧ fld wSco 31 30 = 0 ∧ ((getCore (getC s 67) 63).ring.bind (fun r => r.pg.bind (fun p => p.blocks[1]?))) ≠ none ∧ fld wSco 19 16 + 0 ≤ 15 ∧
      cxPos (getM s (runModel (getC s 67))).ctx ≠ 1 ∧ (spFind (getCore (getC s 67) 63).slots 15).isSome = true ∧ slotResOk (spGet {} (getCore (getC s 67) 63).slots 15) = true) := by decide +kernel
theorem test_drainFinal : let t := after (exec (.drainFinal 67 63 .none) (wRun 63 [wFin])); tileRd (getC t 67) 224 = mkRow (List.replicate 64 0) 0 ∧ (getC t 67).full.length = 32 ∧ (getS (getC t 67) 63).pc = 2 := by decide +kernel
def wVec (n : Nat) : Nat := wd [(0, 5), (4, 1), (16, 2), (32, n)]
/-- A vector operation of one stage, ADD of the immediate 0: tile 0 rows 0 up to tile 1, length 64, reduction `rop`, scope `xr`. -/
def wVop (rop xr : Nat) : Nat := wd [(0, 1), (12, 1), (20, 64), (29, rop), (39, 1), (48, 2), (58, xr)]
def wVecS (n rop xr : Nat) (full : List Nat) (xs : Option Xr := none) : State :=
  setC (upWith [(.clu, 67)]) 67 { active := true, tpb := List.replicate 0x18 0 ++ [1], decks := [{ addr := 1, units := [BitVec.ofNat 128 (2 ^ 32), BitVec.ofNat 128 (wVec n), BitVec.ofNat 128 (wVop rop xr), 1] }], full := full, cseq := { st := .issue, pc := 1 }, xr := xs, tiles := (List.range n).map (fun j => (j, mkRow (List.replicate 64 (j : Int)) 0)) }
/-- A QUANT stage whose target format is 15. -/
def wVecQ : State := setC (upWith [(.clu, 67)]) 67 { active := true, tpb := List.replicate 0x18 0 ++ [1], decks := [{ addr := 1, units := [BitVec.ofNat 128 (2 ^ 32), BitVec.ofNat 128 (wVec 1), BitVec.ofNat 128 (wVop 0 0), BitVec.ofNat 128 (wd [(0, 11), (41, 15)])] }], full := [0], cseq := { st := .issue, pc := 1 } }
def wVecX (xs : Option Xr) : State :=
  let s := wVecS 1 1 1 [0] xs; setC s 67 { getC s 67 with cseq := { st := .issue, pc := 2, arr := [{ pc := 1, w := wVec 1, drop := 0, ar := [] }] } }
def wXr : Xr := { scope := 1, rop := 1, rgrl := 0, ktop := 0, rtb := 2, rrow := 0, rows := [mkRow (List.replicate 64 3) 0], pos := [] }
/-- VectorSteps: 64 rows, a reduction, a combine over the die, a word of no row, rows not full. -/
theorem test_wit_VectorSteps_1 : ([((0, 0), 1), ((0, 0), 64), ((1, 0), 1), ((1, 1), 1)].all fun y => let x : Nat × Nat := y.1; let n : Nat := y.2;
    let s := wVecS n x.1 x.2 (List.range 64)
    decide (At s 67 64 (wVec n) ∧ fld (wVec n) 3 0 = 5 ∧ fld (wVec n) 38 32 = n ∧ (getC s 67).cseq.arr = [] ∧ (getC s 67).xr = none) &&
      ((vecOf (getC s 67) (wVec n)).map (fun o => vopOk o n && o.stages.all stageFmtOk && (vopReads o n).all (fun r => (getC s 67).full.contains r) && vecChk (getC s 67) o n &&
        !(vecPass s 67 (getC s 67) o n).fl.format && voRop o == x.1 && voXr o == x.2)) == some true) = true := by decide +kernel
theorem test_wit_VectorSteps_2 : let s := wVecS 2 0 0 [0]; At s 67 64 (wVec 2) ∧ (vecOf (getC s 67) (wVec 2)).map (fun o => (vopOk o 2, o.stages.all stageFmtOk, (vopReads o 2).any (fun r => !(getC s 67).full.contains r))) = some (true, true, true) := by decide +kernel
theorem test_wit_VectorSteps_3 : (let s := wVecS 0 0 0 [0]; At s 67 64 (wVec 0) ∧ (vecOf (getC s 67) (wVec 0)).map (fun o => vopOk o 0) = some false) ∧
    (At wVecQ 67 64 (wVec 1) ∧ (vecOf (getC wVecQ 67) (wVec 1)).map (fun o => (vopOk o 1, o.stages.all stageFmtOk)) = some (true, false)) := by decide +kernel
theorem test_wit_VectorSteps_4 : let s := wVecX (some wXr); (getC s 67).xr = some wXr ∧ xrMembers s 67 wXr = [67] ∧ (getC s 67).cseq.arr = [{ pc := 1, w := wVec 1, drop := 0, ar := [] }] ∧ (vecOf (getC s 67) (wVec 1)).isSome = true := by decide +kernel
theorem test_vec : let t := after (exec (.vec 67 .none) (wVecS 2 0 0 (List.range 64))); (tileRd (getC t 67) 65).m.length = 64 ∧ (tileRd (getC t 67) 65).m.headD 0 > 0 ∧ (getC t 67).cseq.pc = 2 ∧ (getC t 67).full.contains 65 = true ∧ (getC t 67).full.contains 0 = false := by decide +kernel
theorem test_xrCombine : let t := after (exec (.xrCombine 67) (wVecX (some wXr))); (getC t 67).xr = none ∧ (getC t 67).cseq.arr = [] ∧ (getC t 67).cseq.pc = 2 ∧ (getC t 67).full.contains 128 = true := by decide +kernel
theorem test_xrTimeout : let t := after (exec (.xrTimeout 67) (wVecX (some wXr))); (getC t 67).cseq.st = .stopped 18 ∧ (getC t 67).xr = none := by decide +kernel

/-! ### Witnesses: near-bank units -/

/-- The last unit, of a stack that is ON whose logical channel 31 lies in physical channel 33, with NBU_CFG 0, over readable cells. -/
def wU (x : Nbu) : State := setU { wrReg (wrReg (upWith [(.stk, 7)]) (nbuPg 2175 + 0x40) 0) (pageOf .stk 7 + 0xFC) 33 with mem := { rgn := [(262016, 0), (262143, 0)], dram := [(uPlace 2175 0, 0x21), (uPlace 2175 0xFFFFFE0, 0x43)] } } 2175 x
theorem test_wit_UnitCommands :
    targets (wU {}) (.one 2175) = [2175] ∧ (getU (wU {}) 2175).st = .idle ∧ (getU (wU { st := .running }) 2175).st = .running ∧ targets (wU { st := .faulted }) (.one 2175) = [2175] ∧
    2175 ∈ targets (wU {}) (.group 7 0) ∧ 0 ∉ targets (wU {}) (.one 2175) := by decide +kernel
theorem test_unitRun : let t := after (exec (.unitRun (.one 2175) 1023 65535) (wU { staged := some 5, g := [(1, 1)], bev := 3 })); getU t 2175 = { st := .running, pc := 1023, cmdTag := 65535 } ∧ rdN t (nbuPg 2175 + 0x40) = 5 := by decide +kernel
theorem test_unitAbort : let t := after (exec (.unitAbort (.one 2175) 7) (wU { st := .faulted })); (getU t 2175).st = .idle ∧ (getU t 2175).done = true ∧ (getU t 2175).tag = 7 := by decide +kernel
theorem test_wit_UnitCompletions :
    (getU (wU { st := .fencing }) 2175).st = .fencing ∧ (getU (wU { st := .clearing }) 2175).st = .clearing ∧ (getU (wU { st := .aborting }) 2175).st = .aborting ∧ (getU (wU { st := .aborting }) 2175).refRun = false ∧ (getU (wU { st := .aborting, refRun := true }) 2175).refRun = true ∧
    (getU (wU { st := .testing }) 2175).st = .testing ∧ (getU (wU { st := .running }) 2175).st = .running ∧ (getU (wU {}) 2175).st = .idle ∧ pgReach (wU {}) 1 .nbu = .yes ∧
    isOn (wU {}) .nbu 2175 = true ∧ stkClkLost (wU {}) (2175 / 272) = false ∧ (getU (wU { staged := some 7 }) 2175).st = .idle ∧ (getU (wU { staged := some 7 }) 2175).staged = some 7 := by decide
theorem test_unitCommandComplete : let t := after (exec (.unitCommandComplete 2175 true) (wU { st := .aborting, cmdTag := 9, store := [(0, 7)] })); (getU t 2175).st = .idle ∧ (getU t 2175).tag = 9 ∧ (getU t 2175).store = [(0, 7)] := by decide +kernel
theorem test_wit_UnitWritesOnlyWhenIdle :
    pgReach (wU {}) 1 .nbu = .yes ∧ isOn (wU {}) .nbu 2175 = true ∧ (getU (wU {}) 2175).st = .idle ∧ pgReach (wU { st := .faulted }) 1 .nbu = .yes ∧
    isOn (wU { st := .faulted }) .nbu 2175 = true ∧ (getU (wU { st := .faulted }) 2175).st ≠ .idle := by decide
theorem test_mpWindow : let t := after (exec (.mpWindow 1 2175 511 3) (wU { st := .running })); (getU t 2175).store = [] ∧ bit (rdReg t (nbuPg 2175 + 0x44)) 13 = true := by decide +kernel
/-- The clauses of `URuns`, as a test decides them. -/
abbrev UAt (s : State) (u w : Nat) : Prop :=
  isOn s .nbu u = true ∧ (getU s u).st = .running ∧ (getU s u).pc ≤ 1023 ∧ (spGet 0 (getU s u).store (getU s u).pc).toNat = w ∧ mpOk w = true
theorem UAt.runs {s : State} {u w : Nat} (h : UAt s u w) : URuns s u w := ⟨h.1, h.2.1, h.2.2.1, h.2.2.2.1, h.2.2.2.2⟩
/-- The last unit runs, with `w` at its pc. -/
def wX (w : Nat) (x : Nbu := {}) : State := wU { x with st := .running, pc := 1023, store := [(1023, w32 w)] }
def wi (op : Nat) (l : List (Nat × Nat)) : Nat := wd ((26, op) :: l)
theorem test_wit_ControlInstructions :
    ([wi 0 [], wi 4 [(22, 15), (0, 65535)], wi 5 [(22, 15), (0, 65535)], wi 6 [(22, 15), (18, 15), (0, 0x3FFF)], wi 7 [(22, 15), (0, 63)], wi 8 [(22, 15), (0, 1023)],
      wi 9 [(22, 15)], wi 3 [], wi 2 [], wi 1 []].all fun w => decide (UAt (wX w) 2175 w)) = true ∧
    ((getU (wX (wi 8 [(22, 15), (0, 1023)]) { g := [(15, 2)] }) 2175).pc = 1023 ∧ 1 < getG (getU (wX (wi 8 [(22, 15), (0, 1023)]) { g := [(15, 2)] }) 2175) 15) ∧
    getG (getU (wX (wi 8 [(22, 15)]) { g := [(15, 1)] }) 2175) 15 = 1 ∧
    (let s := wU { st := .running, pc := 0, store := [(0, w32 (wi 8 [(22, 15), (0, 1)]))] }; UAt s 2175 (wi 8 [(22, 15), (0, 1)]) ∧ (getU s 2175).pc < 1) ∧
    ((getU (wX (wi 9 [(22, 15)])) 2175).bev + 65536 - getG (getU (wX (wi 9 [(22, 15)])) 2175) 15 % 65536) % 65536 < 32768 ∧
    32768 ≤ (0 + 65536 - getG (getU (wX (wi 9 [(22, 15)]) { g := [(15, 1)] }) 2175) 15 % 65536) % 65536 ∧
    (getU (wX (wi 3 []) { outst := [⟨0, 0x11, []⟩] }) 2175).outst.any (fun o => o.op == 0x11) = true ∧ (getU (wX (wi 2 []) { refDue := true }) 2175).refDue = true ∧ (getU (wX (wi 2 [])) 2175).refDue = false ∧ (getU (wX (wi 1 [])) 2175).outst = [] ∧ fld (wi 8 [(0, 1)]) 25 22 = 0 := by decide +kernel
theorem test_bnz : let t := after (exec (.bnz 2175 .none) (wX (wi 8 [(22, 15), (0, 1023)]) { g := [(15, 2)] })); (getU t 2175).pc = 0 ∧ getG (getU t 2175) 15 = 1 := by decide +kernel
theorem test_yieldPoint : let t := after (exec (.yieldPoint 2175 .none) (wX (wi 2 []) { refDue := true })); (getU t 2175).refRun = true ∧ (getU t 2175).pc = 1024 := by decide +kernel
theorem test_mpEnd : let t := after (exec (.mpEnd 2175 .none) (wX (wi 1 []) { cmdTag := 4 })); t.out = [.unitDone 2175 4] ∧ (getU t 2175).st = .idle := by decide +kernel
theorem test_eopAmax : let t := after (exec (.eopAmax 2175 .parity) (wX (wi 0 []))); (getU t 2175).st = .faulted ∧ fld (rdN t (nbuPg 2175 + 0x108)) 3 0 = 5 := by decide +kernel
def wMove (op : Nat) : Nat := wi op [(22, 1), (18, 2)]
/-- G1 and G2 of a move. -/
def wG (a b : Nat) (x : Nbu := {}) : Nbu := { x with g := [(1, w32 a), (2, w32 b)] }
def wTb (f a : Nat) : Nat := wi 0x12 [(22, 1), (18, a), (14, f)]
theorem test_wit_TransferInstructions :
    ([0x10, 0x11].all fun op => let s := wX (wMove op) (wG (2 ^ 28 - 32) (511 + 512)); decide (UAt s 2175 (wMove op) ∧ getG (getU s 2175) (fld (wMove op) 25 22) = 2 ^ 28 - 32 ∧ getG (getU s 2175) (fld (wMove op) 21 18) = 511 + 512) &&
      decide (uReady (getU s 2175) [⟨0, 511, 1, op == 0x10⟩] = true ∧ tagFault s 2175 (2 ^ 28 - 32) 32 = [] ∧ (getU s 2175).refRun = false ∧ spWf 0 s.mem.dram = true)) = true ∧
    ([0x10, 0x11].all fun op => let s := wX (wMove op) (wG 0 511); decide (UAt s 2175 (wMove op) ∧ fld 511 18 9 = 0)) = true ∧
    ([0x10, 0x11].all fun op => let s := wX (wMove op) (wG 0 (511 + 1024)); decide (UAt s 2175 (wMove op) ∧ 512 < fld (511 + 1024) 8 0 + fld (511 + 1024) 18 9)) = true ∧
    ([(1, 5, 4, 1), (8, 6, 8, 1), (9, 6, 8, 2)].all fun c => let s := wX (wTb c.1 c.2.1) (wG (512 - 2 * c.2.2.1 + c.2.2.1 * 512 + 2 ^ 21 + (8 - 2 * c.2.2.2) * 2 ^ 24) 0); let a := getG (getU s 2175) 1
      decide (UAt s 2175 (wTb c.1 c.2.1) ∧ a < 2 ^ 27 ∧ pairOk c.1 c.2.1 = true ∧ gWords c.2.1 = c.2.2.1 ∧ slotsPer c.1 = c.2.2.2) &&
      decide (fld a 20 18 = 0 ∧ fld a 23 21 = 1 ∧ fld a 8 0 + fld a 17 9 + c.2.2.1 = 512 ∧ fld a 26 24 + 2 * c.2.2.2 = 8 ∧ (getU s 2175).outst = [])) = true ∧
    (let s := wX (wi 0x14 [(22, 1)]) (wG (255 + 256) 0); UAt s 2175 (wi 0x14 [(22, 1)]) ∧ getG (getU s 2175) 1 < 2 ^ 17 ∧ fld 511 16 8 = 1 ∧ fld 511 7 0 + 1 = 256 ∧ (getU s 2175).outst = []) ∧
    (let x : Nbu := { outst := [⟨1, 0x10, []⟩, ⟨2, 0x15, []⟩] }; (x.outst[1]?).map (fun o => o.op) = some 0x15 ∧ (x.outst.take 1).all (fun p => engineOf p.op != engineOf 0x15) = true) := by decide +kernel
theorem test_rdl : let t := after (exec (.rdl 2175 .none) (wX (wMove 0x10) (wG (2 ^ 28 - 32) (511 + 512)))); lbRd (getU t 2175) 511 = 0x43 ∧ (getU t 2175).pc = 1024 := by decide +kernel
theorem test_wrl : let t := after (exec (.wrl 2175 .none) (wX (wMove 0x11) (wG (2 ^ 28 - 32) (511 + 512) { lb := [(511, 0xAB01)] }))); rdBytes t.mem.dram (uPlace 2175 (2 ^ 28 - 32)) 3 = [1, 0xAB, 0] ∧ rdBytes t.mem.dram (uPlace 2175 0) 1 = [0x21] := by decide +kernel
theorem test_tbld : let t := after (exec (.tbld 2175 .none) (wX (wTb 9 6) (wG (496 + 8 * 512 + 2 ^ 21 + 4 * 2 ^ 24) 0))); (tabRd (getU t 2175) 7).half = 2 ∧ (tabRd (getU t 2175) 7).wfmt = 9 ∧ (tabRd (getU t 2175) 3) = {} := by decide +kernel
theorem test_accz : let t := after (exec (.accz 2175 .none) (wX (wi 0x14 [(22, 1)]) (wG (255 + 256) 0 { acc := [(254, 3), (255, 4)] }))); accRd (getU t 2175) 255 = 0 ∧ accRd (getU t 2175) 254 = 3 := by decide +kernel

def wLm (f src bw : Nat) : Nat := wi 0x13 [(22, 1), (18, 2), (14, f), (13, src), (9, 3), (5, 4), (4, bw)]
def wLmS (f src : Nat) (a p q : Nat) (tabs : Sparse TSlot := []) : State := wX (wLm f src 1) { g := [(1, w32 a), (2, w32 p), (3, w32 q), (4, 65535)], tabs := tabs }
def wPl (a nr : Nat) : Plan := { pc := 3, wfmt := 1, src := 0, a := a, nr := nr, ng := 1, ns := 1, accb := 0, slot0 := 0, qw := 0, qs := 0, af := 5, bw := none }
def wPlS (p : Plan) (ff : List (List Byte)) : State := wX 0 { plans := [p], fifo := ff, outst := [⟨3, 0x13, []⟩] }
def wPl1 : Plan := { wPl 0 1 with src := 1 }
theorem test_wit_MultiplyEngine_1 :
    let w := wLm 1 0 1; let s := wLmS 1 0 (2 ^ 28 - 1) (255 + 2 ^ 17 + 7 * 2 ^ 25) 0 [(7, { wfmt := 1 })]; let p := getG (getU s 2175) 2
    UAt s 2175 w ∧ fld w 31 26 = 0x13 ∧ p < 2 ^ 28 ∧ 0 < fld p 7 0 ∧ fld p 24 17 + fld p 7 0 * (fld p 16 14 + 1) = 256 ∧ fmtWeight (fld w 17 14) = true ∧ fld w 13 13 = 0 ∧
      getG (getU s 2175) 1 < 2 ^ 28 ∧ fld p 27 25 + 1 = 8 ∧ (tabRd (getU s 2175) 7).wfmt = 1 ∧ (getU s 2175).outst = [] := by decide +kernel
theorem test_wit_MultiplyEngine_2 :
    let w := wLm 4 1 1; let s := wLmS 4 1 0 1 504; let p := getG (getU s 2175) 2
    UAt s 2175 w ∧ p < 2 ^ 28 ∧ fld p 7 0 = 1 ∧ fld p 24 17 + 1 ≤ 256 ∧ fmtWeight (fld w 17 14) = true ∧ fld w 13 13 = 1 ∧ getG (getU s 2175) 1 < 512 ∧ getG (getU s 2175) 4 < 65536 ∧
      fld p 27 25 = 0 ∧ getG (getU s 2175) 3 < 2 ^ 18 ∧ fld (getG (getU s 2175) 3) 8 0 + 8 = 512 ∧
      0 + (fld p 7 0 * 1 * (recLen 4 0).getD 0 + 31) / 32 ≤ 512 ∧ (getU s 2175).outst = [] ∧ fetchPlan (getU (wPlS wPl1 []) 2175) = none ∧ (lbRecs 1 1 (lbBytes (getU (wPlS wPl1 []) 2175) 0 512)).2 = none ∧
      (lbRecs 1 1 (lbBytes (getU (wPlS wPl1 []) 2175) 0 512)).1.all (recOk 1) = true ∧ (getU (wPlS wPl1 []) 2175).plans = [wPl1] := by decide +kernel
theorem test_wit_MultiplyEngine_3 :
    let s := wPlS (wPl (2 ^ 28 - 132) 2) []; (getU s 2175).st = .running ∧ isOn s .nbu 2175 = true ∧ fetchPlan (getU s 2175) = some (0, wPl (2 ^ 28 - 132) 2) ∧ tagFault s 2175 (2 ^ 28 - 132) 4 = [] ∧
      recLen 1 (leNat (rdBytes s.mem.dram (uPlace 2175 (2 ^ 28 - 132)) 4)) = some 132 ∧ tagFault s 2175 (2 ^ 28 - 132) 132 = [] ∧ 8192 < sumN ([List.replicate 8061 (0 : Byte)].map (fun b => b.length)) + 132 := by decide +kernel
theorem test_wit_MultiplyEngine_4 :
    (let s := wPlS { wPl 0 33 with fetched := 33 } (List.replicate 33 (List.replicate 132 0)); (getU s 2175).plans = { wPl 0 33 with fetched := 33 } :: [] ∧
      ((getU s 2175).fifo.take 32).all (recOk 1) = true ∧ min 32 (33 * 1 * 1 - 0) = 32) ∧
    recOk 1 (16 :: List.replicate 131 0) = false := by decide +kernel
theorem test_recordFetch : let t := after (exec (.recordFetch 2175 .none) (wPlS (wPl (2 ^ 28 - 132) 2) [])); ((getU t 2175).plans.map (fun p => (p.fetched, p.a)) = [(1, 2 ^ 28)]) ∧ ((getU t 2175).fifo.map (fun b => b.getD 100 0) = [0x43]) := by decide +kernel
theorem test_lmacWave : let t := after (exec (.lmacWave 2175 .none) (wPlS { wPl 0 33 with fetched := 33 } (List.replicate 33 (List.replicate 132 0)))); ((getU t 2175).plans.map (fun p => p.next) = [32]) ∧ (getU t 2175).fifo.length = 1 := by decide +kernel
def wEop (n : Nat) : Nat := wi 0x15 [(12, n), (22, 1), (18, 2), (0, 32), (8, if n = 9 then 5 else 0)]
def wEo (n : Nat) : Eop := { efn := n, len := 32, src := 0, dst := 507, nrow := 1, opw := 10, omode := 1, xf := fld (wEop n) 11 0 }
def wEopS (n : Nat) : State := wX (wEop n) (wG (507 * 2 ^ 9 + 2 ^ 18) (10 + 512) { lb := [(0, 5), (1, 6)], acc := [(0, -7), (31, 9)] })
theorem test_wit_ElementAndBusInstructions_1 :
    ([1, 2, 3, 4, 5, 6, 7, 8, 9].all fun n => let s := wEopS n; let w := wEop n
      decide (UAt s 2175 w ∧ fld w 31 26 = 0x15 ∧ fld w 17 12 = n ∧ getG (getU s 2175) (fld w 25 22) < 2 ^ 24 ∧ getG (getU s 2175) (fld w 21 18) < 2 ^ 11) &&
      decide ((wEo n).len = fld w 5 0 ∧ 507 = fld (getG (getU s 2175) 1) 17 9 ∧ 1 = fld (getG (getU s 2175) 1) 23 18 ∧ fld (getG (getU s 2175) 2) 8 0 = 10 ∧ fld (getG (getU s 2175) 2) 10 9 = 1) &&
      (n != 9 || (fmtCode (fld (wEo n).xf 11 8) && scOk ((lbRd (getU s 2175) 10).toNat % 2 ^ 32))) && (eopSpans (wEo n)).all (fun a => decide (a.lo + a.n ≤ if a.space = 1 then 256 else 512)) &&
      (enumFrom 0 (eopSpans (wEo n))).all (fun a => (enumFrom 0 (eopSpans (wEo n))).all (fun b => !(decide (a.1 < b.1) && halfOverlap a.2 b.2))) && uReady (getU s 2175) (eopSpans (wEo n))) = true := by decide +kernel
def wBs (n : Nat) : Nat := wi 0x16 [(22, 1), (18, 2), (15, n)]
theorem test_wit_ElementAndBusInstructions_2 :
    ([0, 1, 2].all fun n => let s := wX (wBs n) (wG (511 + 512) 255); decide (UAt s 2175 (wBs n) ∧ fld (wBs n) 17 15 = n ∧ getG (getU s 2175) 1 < 2 ^ 17 ∧ fld (511 + 512) 16 9 = 1 ∧ fld (511 + 512) 8 0 + 1 = 512 ∧ (getU s 2175).outst = [])) = true := by decide +kernel
theorem test_eopCvt : let t := after (exec (.eopCvt 2175 .none) (wEopS 1)); (getU t 2175).pc = 1024 ∧ (getU t 2175).lb ≠ [(0, 5), (1, 6)] := by decide +kernel
theorem test_eopQnt : let t := after (exec (.eopQnt 2175 .none) (wEopS 9)); (getU t 2175).pc = 1024 ∧ rdN t (nbuPg 2175 + 0x70) = 32 := by decide +kernel
/-- Two units of group 9, one of which runs; a tag of stack 7 with the destination `e0` and both contributions. -/
def wBus (e0 : Nat) (bop2 : Nat := 0) : State :=
  let s := wrReg (wrReg (wU { st := .running }) (nbuPg 2175 + 0x40) 0x9000) (nbuPg 2174 + 0x40) 0x9001
  { s with mem := { s.mem with tag0 := [(256 * 7 + 255, w32 (9 + e0))], ways := [(0, { mode := 2, owner := 3 })] }, bus := [⟨7, 255, 1, 2174, bop2, [4]⟩, ⟨7, 255, 0, 2175, 0, [3]⟩] }
theorem test_wit_BusAndRefresh_1 :
    (2175 ∈ targets (wBus 0) (.group 7 9) ∧ 2174 ∈ targets (wBus 0) (.group 7 9) ∧ (getU (wBus 0) 2175).st = .running ∧ (getU (wBus 0) 2174).st ≠ .running ∧ 0 ∉ targets (wBus 0) (.group 7 9)) ∧
    tagEnt (wBus 4096) 7 255 = (4105, 0) ∧ (List.range 8).filter (fun k => bitN 4105 (4 + k) || k == 7) = [7] ∧ tagMembers (wBus 4096) 7 9 = [2174, 2175] ∧
    ((wBus 4096).bus.map (fun c => (c.bop, c.words.length)) = [(0, 1), (0, 1)]) ∧ (bitN 4105 12 = true ∧ bitN 9 12 = false) ∧ ((wBus 0 1).bus.map (fun c => c.bop) = [1, 0]) := by decide +kernel
theorem test_wit_BusAndRefresh_2 :
    (isOn (wX 0) .stk 7 = true ∧ (getU (wX 0) 2175).refRun = false ∧ (getU (wX 0) 2175).refDue = false ∧ pairBusy (getU (wX 0) 2175) = false) ∧
    (let x := getU (wX 0 { outst := [⟨0, 0x10, []⟩] }) 2175; pairBusy x = true ∧ atYield x = false) ∧ (let x := getU (wX (wi 1 []) { outst := [⟨0, 0x10, []⟩] }) 2175; pairBusy x = true ∧ atYield x = true) ∧
    (getU (wU { refDue := true }) 2175).refDue = true ∧ (getU (wU { refRun := true }) 2175).refRun = true := by decide +kernel
theorem test_busBroadcast : let t := after (exec (.busBroadcast 7 9 511 [8, 9]) (wBus 0)); lbRd (getU t 2175) 511 = 8 ∧ (getU t 2175).bev = 1 ∧ bit (rdReg t (nbuPg 2174 + 0x44)) 14 = true ∧ getU t 2174 = {} := by decide +kernel
theorem test_busCombine : let t := after (exec (.busCombine 7 255) (wBus (4096 + 510 * 8192))); t.bus = [] ∧ (lbRd (getU t 2175) 510 = 4 ∨ lbRd (getU t 2175) 510 = 3) ∧ lbRd (getU t 2175) 510 = 3 ∧ lbRd (getU t 2175) 511 = 4 := by decide +kernel
theorem test_refreshDue : let t := after (exec (.refreshDue 2175) (wX (wi 1 []) { outst := [⟨0, 0x10, []⟩] })); (getU t 2175).refRun = true ∧ rdN t (nbuPg 2175 + 0x54) = 1 := by decide +kernel
theorem test_preemption : let t := after (exec (.preemption 2175) (wU { refDue := true })); (getU t 2175).preempt = true ∧ rdN t (nbuPg 2175 + 0x50) = 1 := by decide +kernel

/-! ### Witnesses: attention, rings -/

/-- The context of a model: spill, one layer, one head of 64 lanes, K4 and V4, pools at 0x1000, SPILL_LOW 1. -/
def wCtx : List Byte := [0x21, 0, 1, 0, 1, 1, 1, 0xA8] ++ List.replicate 24 0 ++ leBytes 0x1000 8 ++ List.replicate 8 0 ++ leBytes 1 4 ++ leBytes 1 4 ++ List.replicate 8 0
def wPut (l : List (Nat × List Byte)) : Sparse Byte := l.foldl (fun m e => wrBytes m e.1 e.2) []
def wPte : Nat := mkPte 1 4 8 10 1 16 0 0x6000
/-- One model whose sequence 0 has one full stack page, a frame free in the tier and a ring 18 with room. -/
def wKv (cx : List Byte) (d : Deal) (kv : Kv := {}) : State :=
  { wrPair up (att 0x48) 0x3000 with kv := kv, deal := { d with running := true, models := [(0, { st := 1, ctx := cx })] }, mem := { rgn := [(0, 0)], dram := wPut [(0x1000 + 16 * 9, leBytes (0x2000 + 4 * 2 ^ 48 + 2 ^ 96) 16), (0x1000 + 16 * 18, leBytes (0x2800 + 4 * 2 ^ 48) 16),
    (0x2000, leBytes 0x80000000 8), (0x3000, leBytes 0x4000 16), (0x4000, leBytes (0x5000 + 2 ^ 48) 16), (0x5000, leBytes wPte 16), (0x6000, [7])] } }
def wTr (n : Nat) (es : List TEntry) : Trick := { num := n, built := 0, entries := es }
def wTe (sample : Bool := true) : TEntry := { gid := 0, model := 0, prefill := false, last := false, sample := sample, cls := 0, len := 0, new := 1, draft := 0, approw := 0, toks := [5], acct := 4095, cost := 3 }
def wTrS (n : Nat) (es : List TEntry) : Trick := { wTr n es with snap := [(0, [wPte])] }
theorem test_wit_KvInvalidation :
    (let s := wKv wCtx { cur := some (wTr 9 []), ended := 8 }; pgReach s 1 .att = .yes ∧ s.deal.cur = some (wTr 9 []) ∧ s.deal.ended < (wTr 9 []).num ∧ s.kv.inval = []) ∧
    (let s := wKv wCtx { ending := [wTr 8 [], wTr 9 []], ended := 7 } { inval := [(3, 8)] }; s.deal.cur = none ∧ s.deal.ending.getLast? = some (wTr 9 []) ∧ (∀ i ∈ s.kv.inval, s.deal.ended < i.2)) ∧
    (let s := wKv wCtx { ended := 2 ^ 64 - 1 } { tlb := [(0, 5), (1, 5 + 2 ^ 128 * 63)] }; pgReach s 1 .att = .yes ∧ s.deal.cur = none ∧ s.deal.ending = [] ∧ s.kv.inval = [] ∧ s.deal.ended < 2 ^ 64) ∧
    (let s := wKv wCtx { ending := [wTr (2 ^ 64 - 1) []] } { inval := [(3, 8)] }; s.deal.running = true ∧ s.deal.cur = none ∧ s.deal.ending = wTr (2 ^ 64 - 1) [] :: [] ∧
      copiesDone s (wTr (2 ^ 64 - 1) []) = true ∧ buildWaits s = false ∧ entriesDone s (wTr (2 ^ 64 - 1) []) = true ∧ (∃ i ∈ s.kv.inval, i.2 ≤ 2 ^ 64 - 1)) := by decide
theorem test_kvInval : let t := after (exec (.kvInval 1 0x40) (wKv wCtx { cur := some (wTr 9 []), ended := 8 })); t.kv.inval = [(64, 9)] ∧ rdReg t (att 0x54) = 1 := by decide +kernel
theorem test_trickEnd : let t := after (exec .trickEnd (wKv wCtx { ending := [wTr (2 ^ 64 - 1) []] } { inval := [(3, 8)], tlb := [(0, 5), (1, 5 + 2 ^ 128 * 3)] })); t.kv.inval = [] ∧ t.kv.tlb = [(0, 5)] ∧ rdPair t (att 0x58) = 2 ^ 64 - 1 ∧ rdReg t (att 0x54) = 0 := by decide +kernel
def wRq : Req := mkReq up 0 0 0 {}
def wSlotA (r : Option Req) (st : SlotSt := .active) : Sparse SeqSlot := [(0, { st := st, req := r })]
def wSp : State := wKv wCtx { slots := wSlotA none }
theorem test_wit_CopiesSpillsAndFrees_1 :
    (let s := wKv wCtx { slots := wSlotA none, ending := [wTrS 9 [wTe]] }; copyTrick s 0 = some (wTrS 9 [wTe]) ∧ copyModels s (wTrS 9 [wTe]) 0 = [0] ∧
      (∀ r ∈ entryRows wTe, (pageFor (wTrS 9 [wTe]) 0 0 r.2).map (entryBusy s) = some false)) ∧
    copyTrick wSp 0 = none ∧ (getM wSp 1).st ≠ 1 := by decide +kernel
theorem test_wit_CopiesSpillsAndFrees_2 :
    (let c := (getM wSp 0).ctx; (getM wSp 0).st = 1 ∧ cxSpill c = true ∧ stackFrames wSp c < cxLow c ∧ freedRoom wSp c = true ∧ spillPages wSp 0 = [(0, 0, (0x5000, wPte))] ∧
      (popFrame wSp c 1 (pSze wPte)).2 = some 0x8000000000 ∧ isOkRes (memRead (popFrame wSp c 1 (pSze wPte)).1 256 true (pBase wPte) (pgBytes c wPte) .none).2 = true) := by decide +kernel
def wDue : Due := { trick := 1, model := 0, gid := 0, layer := 0, kind := 2, fpos := 0, base := 0x6000 }
theorem test_wit_CopiesSpillsAndFrees_3 :
    (let s := wKv wCtx {} { deferred := [wDue] }; s.kv.deferred = [wDue] ∧ wDue.kind = 2 ∧ freedRoom s (getM s 0).ctx = true) ∧
    (let s := wKv [] {} { deferred := [wDue] }; freedRoom s (getM s 0).ctx = false ∧ (∀ d ∈ s.kv.deferred, pageInUse s d = false)) ∧
    (let r := { wRq with host := true, st := .paused, ttl := 5, ttlFrom := some 0 }; let s := { wKv wCtx { slots := wSlotA (some r) } with time := 5000000 }; (getSlot s 0).req = some r ∧ r.ttlFrom = some 0 ∧ 0 + r.ttl * 1000000 ≤ s.time ∧ (getSlot s 0).st = .active) ∧
    (wKv wCtx {}).time < 0 + 5 * 1000000 ∧
    (getSlot wSp 0).req = none := by decide +kernel
theorem test_spill : let t := after (exec (.spill 0) wSp); rdN t (att 0x6C) = 1 ∧ pTier ((rdTab t 0x5000 16).2.getD 0) = 3 ∧ pBase ((rdTab t 0x5000 16).2.getD 0) = 0x8000000000 := by decide +kernel
theorem test_deferredFree : let t := after (exec (.deferredFree 0) (wKv wCtx {} { deferred := [wDue] })); t.kv.deferred = [] ∧ (rdTab t 0x2800 16).2 = some 0x6000 := by decide +kernel
theorem test_ttlExpiry : let t := after (exec (.ttlExpiry 0) { wKv wCtx { slots := wSlotA (some { wRq with host := true, st := .paused, ttl := 5, ttlFrom := some 0 }) } with time := 5000000 }); (getSlot t 0).st = .freeing ∧ (getSlot t 0).req = none ∧ (getSlot t 0).freeAt = 1 := by decide +kernel
/-- A ring of two devices, this one at position 0, engines 0 and 8 UP; a scratchpad owned by the fabric's own requester. -/
def wFab (f : Fab) (pos : Nat := 0) : State :=
  { wrReg (upWith [(.opt, 0), (.opt, 8), (.llc, 0)]) 0xB040 (w32 (8 + 256 * pos)) with fab := { f with eng := [(0, { st := .up, rxq := (f.eng.find? (fun e => e.1 == 0)).elim [] (fun e => e.2.rxq) }), (8, { st := .up })] }, mem := { rgn := [(0, 0)], dram := [(0, 9), (256, 8)], ways := [(0, { mode := 2, owner := 256 })] } }
def wRx (p : Packet) (f : Fab := {}) : State := wFab { f with eng := [(0, { rxq := [p] })] } (if f.red.isEmpty then 0 else 1)
def wRed : Red := { op := 3, pmask := 3, npkt := 2, dh := 1, dest := 1, own := [⟨0, 0, 0, []⟩, ⟨0, 1, 0, []⟩] }
/-- A RED packet from member 0 to member 1: OP, PMASK, NPKT, RID 65,535, level 0. -/
def wRedP (op st : Nat) : Packet := { hdr := BitVec.ofNat 128 (6 + 2 ^ 12 + st * 2 ^ 20 + 65535 * 2 ^ 48 + op * 2 ^ 80 + 3 * 2 ^ 96 + 2 * 2 ^ 112), payload := List.replicate 256 0 }
def wDm (k : Nat) : Packet := { hdr := BitVec.ofNat 128 (7 + 2 ^ 8), payload := leBytes k 2 ++ [0, 0, 0, 0, 1] ++ List.replicate 249 0 }
theorem test_wit_RingWork_1 :
    (fabUp (wFab {}) = true ∧ fabN (wFab {}) = 2 ∧ 512 % 32 = 0 ∧ rangeOf 0x10000000000 = .scratch ∧ rangeOf (0x10000000000 + 512 - 1) = .scratch ∧ scrWaits (wFab {}) 256 0 512 = false ∧
      isOkRes (memRead (wFab {}) 256 true 0 512 .none).2 = true) ∧ fabUp up = false := by decide +kernel
theorem test_wit_RingWork_2 :
    (let s := wRx (wRedP 3 0) { red := [(65535, { wRed with done := true })] }; (getE s 0).rxq.find? (redNow s) = some (wRedP 3 0) ∧ getR s (rdRid (wRedP 3 0)) = some { wRed with done := true }) ∧
    ([(wRedP 4 0, ([] : List RedPkt)), (wRedP 3 1, []), (wRedP 3 0, []), (wRedP 3 0, [⟨0, 0, 0, []⟩])].all fun c => let s := wRx c.1 { red := [(65535, { wRed with got := c.2 })] };
      (getE s 0).rxq.find? (redNow s) == some c.1 && getR s (rdRid c.1) == some { wRed with got := c.2 }) = true ∧
    redDiffers wRed (wRedP 4 0) = true ∧ pStat (wRedP 3 1) = 1 ∧ redDiffers wRed (wRedP 3 0) = false ∧ pStat (wRedP 3 0) ≠ 1 ∧ wRed.got.length + 1 < wRed.npkt ∧ wRed.npkt ≤ 1 + 1 ∧ wRed.level ≠ 5 := by decide +kernel
/-- The last packet of the result, from the last member to the destination, member 0. -/
def wRedP5 : Packet := { hdr := BitVec.ofNat 128 (6 + 2 ^ 8 + 65535 * 2 ^ 48 + 3 * 2 ^ 80 + 3 * 2 ^ 96 + 2 * 2 ^ 112), payload := List.replicate 256 0 }
def wRed5 : Red := { wRed with dest := 0, level := 5, got := [⟨0, 0, 0, []⟩] }
def wRx5 : State := wFab { eng := [(0, { rxq := [wRedP5] })], red := [(65535, wRed5)] }
theorem test_wit_RingWork_4 : (getE wRx5 0).rxq.find? (redNow wRx5) = some wRedP5 ∧ getR wRx5 (rdRid wRedP5) = some wRed5 ∧ wRed5.done = false ∧ redDiffers wRed5 wRedP5 = false ∧ pStat wRedP5 ≠ 1 ∧
    wRed5.npkt ≤ wRed5.got.length + 1 ∧ wRed5.level = 5 := by decide +kernel
theorem test_wit_RingWork_3 :
    headOf (wRx (wDm 2)) 0 7 = some (wDm 2) ∧ dmOk (wDm 2) = false ∧ headOf (wRx (wDm 1)) 0 7 = some (wDm 1) ∧ dmOk (wDm 1) = true ∧ dmF (wDm 1) 6 1 = 1 ∧ (wRx (wDm 1)).fab.red = [] ∧
    scrWaits (wRx (wDm 1)) 0 0 4 = false ∧ isOkRes (memRead (takePkt (wRx (wDm 1)) 0 (wDm 1)) 0 false 0 4 .none).2 = true := by decide +kernel
theorem test_ringPrefillStep : let t := after (exec (.ringPrefillStep 1 0 512 0x10000000000 1 1023) (wFab {})); ((t.fab.outq.map (fun p => p.payload.headD 1)) = [9, 8, 1]) ∧ ((t.fab.outq.map (fun p => p.hdr.toNat % 16)) = [1, 1, 5]) ∧ ((t.fab.outq.map (fun p => p.hdr.toNat / 2 ^ 96)) = [0, 0, 512]) := by decide +kernel
theorem test_red : let t := after (exec (.red 0) wRx5); (((getR t 65535).map (fun r => (r.done, r.stat))) = some (true, 0)) ∧ rdN t 0xB07C = 1 := by decide +kernel

/-! ### Witnesses: the dealer -/

/-- A descriptor of fields (offset, value). -/
def wDesc (l : List (Nat × Nat)) : Desc := BitVec.ofNat 512 (wd (l.map (fun e => (8 * e.1, e.2))))
/-- The dealer runs with a loaded model, an account of function 0, the slots given and the descriptors ready in queue 0. -/
def wDl (ds : List Desc) (g : SeqSlot := {}) (dl : Deal := {}) : State :=
  { setQ up 0 { st := .enabled, ready := ds } with deal := { dl with running := true, slots := [(255, g)], models := [(63, { st := 1, ctx := wCtx, b := { vocab := 100 } })], accts := [(4095, { owner := 0, enable := true })] } }
def wGen (opc plen : Nat) : Desc := wDesc [(0, opc), (2, 255), (4, 77), (8, 63), (0xA, 4095), (0xC, 256), (0x14, plen), (0x18, 1)]
theorem test_wit_RequestsAccepted :
    ([(1, ({} : SeqSlot)), (2, { st := .retained, model := 63, len := 5 })].all fun c => let s := wDl [wGen c.1 3] c.2
      headDesc s 0 c.1 == some (0, wGen c.1 3) && dOpc (wGen c.1 3) == c.1 && dF (wGen c.1 3) 0x28 8 == 0 && gidOf s 0 (wGen c.1 3) == 255 && genRefusal (popDesc s 0) 0 255 (wGen c.1 3) .absent == none) = true ∧
    (genRefusal (popDesc (wDl [wGen 1 0]) 0) 0 255 (wGen 1 0) .absent = some (1, 0x83) ∧ genRefusal (popDesc (wDl [wGen 2 3]) 0) 0 255 (wGen 2 3) .absent = some (3, 0x86) ∨
      genRefusal (popDesc (wDl [wGen 2 3]) 0) 0 255 (wGen 2 3) .absent = some (9, 0x85)) := by decide +kernel
theorem test_generate : let t := after (exec (.generate 0 .notNeeded) (wDl [wGen 1 3])); (getSlot t 255).st = .active ∧ (getSlot t 255).model = 63 ∧ (((getSlot t 255).req.map (fun r => (r.htag, r.topk, r.plen))) = some (77, 256, 3)) ∧ (getQ t 0).ready = [] := by decide +kernel
theorem test_append : let t := after (exec (.append 0 .notNeeded) (wDl [wGen 2 3] { st := .retained, model := 63, len := 5 })); (getSlot t 255).len = 5 ∧ (getSlot t 255).st = .active := by decide +kernel
def wCtl (opc : Nat) : Desc := wDesc [(0, opc), (2, 255), (4, 77)]
def wDec : Req := { wRq with topk := 1, seq := 255, st := .decode, model := 63, acct := 4095 }
def wAct (opc : Nat) (r : Req) (dl : Deal := {}) : State := wDl [wCtl opc] { st := .active, model := 63, req := some r } dl
def wDraft : Desc := wDesc [(0, 7), (2, 255), (8, 8), (0x0C, 99), (0x28, 5)]
theorem test_wit_RequestControl :
    ([3, 4, 5, 6].all fun o => headDesc (wDl [wCtl o]) 0 o == some (0, wCtl o) && dRsvOk (wCtl o) && gidOf (wDl [wCtl o]) 0 (wCtl o) == 255 && (getSlot (wDl [wCtl o]) 255).st == .free &&
      (getSlot (wDl [wCtl o] { st := .retained }) 255).st == .retained && headDesc (wAct o wDec) 0 o == some (0, wCtl o) && (getSlot (wAct o wDec) 255).st == .active && (getSlot (wAct o wDec) 255).req == some wDec) = true ∧
    (wDec.host = false ∧ inTrick (wAct 4 wDec) 255 = false ∧ inTrick (wAct 4 wDec { cur := some (wTr 3 [{ wTe with gid := 255 }]) }) 255 = true ∧
      (getSlot (wAct 5 { wDec with host := true, st := .paused, prev := .decode }) 255).req = some { wDec with host := true, st := .paused, prev := .decode }) ∧
    (let s := wDl [wDraft] { st := .active, model := 63, req := some wDec }; headDesc s 0 7 = some (0, wDraft) ∧ dRsvOk wDraft = true ∧ gidOf s 0 wDraft = 255 ∧ wDec.st = .decode ∧ dF wDraft 8 1 = 8 ∧
      (∀ j, j < 8 → dTok wDraft j < (getM s wDec.model).b.vocab)) := by decide +kernel
theorem test_cancel : let t := after (exec (.cancel 0) (wDl [wCtl 3] { st := .retained })); (getSlot t 255).st = .retained ∧ t.deal.cq.length = 1 := by decide +kernel
theorem test_resume : let t := after (exec (.resume 0) (wDl [wCtl 5])); (getSlot t 255).st = .free ∧ t.deal.cq.length = 1 := by decide +kernel
theorem test_draft : let t := after (exec (.draft 0) (wDl [wDraft] { st := .active, model := 63, req := some wDec })); (((getSlot t 255).req.map (fun y => y.drafts)) = some [99, 0, 0, 0, 0, 0, 0, 5]) ∧ t.deal.cq = [] := by decide +kernel
def wCur (tr : Trick) (r : Req := wDec) : State := wDl [] { st := .active, model := 63, req := some r } { cur := some tr, next := 10 }
def wTe1 (sample : Bool) : TEntry := { wTe sample with gid := 255, model := 63 }
theorem test_wit_TrickCourse :
    ((wDl []).deal.running = true ∧ (wDl []).deal.cur = none ∧ buildWaits (wDl []) = false) ∧ (wCur (wTr 9 [])).deal.cur ≠ none ∧
    ([false, true].all fun b => let tr := wTr (2 ^ 64 - 1) [wTe1 b]; (wCur tr).deal.cur == some tr && (wCur tr).deal.running && runsEnded tr && rowsOk (wCur tr) tr.entries (if b then [[⟨42, 5, 0⟩]] else [])) = true ∧ rowsOk (wCur (wTr 9 [wTe1 true])) [wTe1 true] [] = false ∧
    (reqOf (wCur (wTr 9 [wTe1 true])) 255 = some wDec ∧ (wTe1 true).toks.length ≤ 1) ∧
    (let tr := { wTr 9 [] with runs := [⟨63, false, [0], 0⟩] }; (wCur tr).deal.cur = some tr ∧ runsEnded tr = false) ∧
    (let s := wDl [] {} { ending := [wTr (2 ^ 64 - 1) []] }; copiesDone s (wTr (2 ^ 64 - 1) []) = true ∧ entriesDone s (wTr (2 ^ 64 - 1) []) = true) ∧
    copiesDone (wDl [] {} { ending := [wTr 9 [wTe1 true]] }) (wTr 9 [wTe1 true]) = false := by decide +kernel
theorem test_trickBuild : let t := after (exec (.trickBuild []) (wDl [])); ((t.deal.cur.map (fun x => (x.num, x.built))) = some (1, 12345)) ∧ t.deal.next = 2 := by decide +kernel
theorem test_commit : let t := after (exec (.commit [[⟨42, 5, 0⟩]]) (wCur (wTr 9 [wTe1 true]))); t.deal.commit = 9 ∧ t.deal.cur = none ∧ (getA t 4095).bal = -4 ∧ (getA t 4095).charged = 4 ∧ (getSlot t 255).pend = 42 ∧ (getSlot t 255).len = 1 := by decide +kernel
def wOut : CqOut := { q := 0, gid := 255, commit := 9, ack := false, e := 5 }
def wCqS (q : Queue) : State := setFn { setQ up 0 q with deal := { running := true, cq := [wOut] } } 0 { qcnt := 16, bme := true }
def wRep (r : Report) (dl : Deal := {}) : State := wDl [] { st := .active, model := 63, req := some wDec } { dl with reports := [r] }
def wCqL : State := wrReg (wCqS { st := .enabled, cqTail := 15, cqHead := 1 }) (pageOf .que 0 + 0x10) (w32 (2 ^ 20))
theorem test_wit_CompletionsAndFaults_2 : wCqL.deal.cq.find? (fun x => x.q == 0) = some wOut ∧ cqFull wCqL 0 = false ∧ hostReach wCqL 0 = true ∧ ackWaits wCqL.deal.cq wOut = false ∧ bit (rdReg wCqL (pageOf .que 0 + 0x10)) 20 = true ∧
    (wDl []).deal.reports = [] := by decide +kernel
theorem test_wit_CompletionsAndFaults :
    (let s := wCqS { st := .enabled, cqTail := 15, cqHead := 1 }; s.deal.cq.find? (fun x => x.q == 0) = some wOut ∧ cqFull s 0 = false ∧ hostReach s 0 = true ∧ ackWaits s.deal.cq wOut = false ∧
      bit (rdReg s (pageOf .que 0 + 0x10)) 20 = false ∧ queOwner s 0 = some 0) ∧
    (let s := wCqS { st := .enabled, cqTail := 15, cqHead := 0 }; ((getQ s 0).cqTail + 1) % cqSize s 0 = (getQ s 0).cqHead) ∧
    ([2, 0x29, 0x2A, 18].all fun c => (wRep { code := c, blk := .clu, inst := 0, model := 63, addr := 255, trick := 8 }).deal.reports == [{ code := c, blk := .clu, inst := 0, model := 63, addr := 255, trick := 8 }]) = true ∧
    (getM (wRep { code := 2, blk := .clu, inst := 0, model := 63 }) 63).st = 1 ∧ (wRep { code := 18, blk := .clu, inst := 0, trick := 8 } { cur := some (wTr 9 []) }).deal.cur = some (wTr 9 []) ∧ (wTr 9 []).num ≠ 8 := by decide +kernel
theorem test_completionWrite : let t := after (exec (.completionWrite 0 true) (wCqS { st := .enabled, cqTail := 15, cqHead := 1 })); t.out = [.cqe 0 15 (5 ||| BitVec.twoPow 256 63), .hostReq 0 none false true] ∧ (getQ t 0).cqTail = 0 ∧ (getQ t 0).phase = false ∧ t.deal.cq = [] := by decide +kernel
theorem test_faultReport : let t := after (exec (.faultReport []) (wRep { code := 2, blk := .clu, inst := 0, model := 63, trick := 2 ^ 32 + 7 })); (getM t 63).st = 2 ∧ (getM t 63).fault = 2 ∧ (getM t 63).ftrick = 7 := by decide +kernel
def wSv (snd : Nat) (d : List W32) (dl : Deal := {}) : State := { setMb up 0 { full := true, sender := snd, data := d } with deal := { dl with running := true } }
/-- ADM_GET for a loaded model, with one cluster in service; a message before the dealer runs. -/
def wSvA : State := { setMb (upWith [(.clu, 0)]) 0 { full := true, sender := 1, data := [0, w32 0x3F0005] } with deal := { running := true, models := [(63, { st := 1, ctx := wCtx, b := { vocab := 100 } })] } }
def wSvB : State := { setMb up 0 { full := true, sender := 1, data := [0, 1] } with deal := {}, boot := { up.boot with devReady := false } }
theorem test_wit_ServiceCommands_1 :
    ([1, 2, 3, 4, 5, 6].all fun c => let s := wSv 1 [0, w32 c]; mbWaits s 0 0x101 && s.deal.running && (getMb s 0).sender == 1 && mbCmd s 0 == c) = true ∧ mbWaits up 0 0x101 = false ∧ (mbWaits (wSv 0x102 []) 0 0x101 = true ∧ (wSv 0x102 []).deal.running = true ∧ (getMb (wSv 0x102 []) 0).sender ≠ 1) := by decide +kernel
theorem test_wit_ServiceCommands_2 :
    (let s := wSv 1 [0, 0xFF0001, 65280, 256]; mbIdx s 0 = 255 ∧ svcFld s 2 15 0 = 65280 ∧ svcFld s 3 16 0 = 256 ∧ tdiLocked s 255 = false ∧ s.deal.slots = []) ∧ 256 ≤ mbIdx (wSv 1 [0, 0x1000001]) 0 ∧
    mbIdx (wSv 1 [0, 0xFFF0003]) 0 = 4095 ∧
    (let s := wSv 1 [0, 6, 10, 1, 1000]; mbIdx s 0 = 0 ∧ svcFld s 2 15 0 = 10 ∧ svcFld s 3 7 0 = 1 ∧ svcFld s 4 15 0 = 1000) := by decide +kernel
theorem test_wit_ServiceCommands_3 :
    (let s := wSv 1 [0, 0xFFF0002, 0, 0, 7, 0x01010100, 256]; mbIdx s 0 = 4095 ∧ svcFld s 2 23 0 ≤ svcFld s 3 23 0 ∧ svcFld s 5 23 16 = 1 ∧ svcFld s 6 8 0 = 256 ∧ tdiLocked s (getA s 4095).owner = false ∧ tdiLocked s (svcFld s 5 7 0) = false ∧ allReqs s = [] ∧
      noWorse (excess s (admSoon s) none (anteSum s 4095 (getA s 4095))) (excess s (admSoon s) none (anteSum s 4095 { getA s 4095 with ceil := 0, burst := 7, owner := 0, enable := true, waits := some { ante := 0, weight := 1, cmax := 1, pfr := 256 } })) = true) ∧
    svcFld (wSv 1 [0, 2, 1]) 3 23 0 < svcFld (wSv 1 [0, 2, 1]) 2 23 0 ∧
    (let s := wSv 1 [0, 0x3F0004, 5, 1, 0x80400]; mbIdx s 0 = 63 ∧ svcFld s 3 10 0 = 1 ∧ svcFld s 4 10 0 = 1024 ∧ svcFld s 4 19 16 = 8 ∧ s.deal.models = [] ∧ (getM s 63).st = 0 ∧
      noWorse (excess s (admSoon s) none (anteSum s 0 (getA s 0))) (excess s (fun k => if k = 63 then { tper := 5, rmax := 1, imax := 1024, draft := 8 } else admSoon s k) none (anteSum s 0 (getA s 0))) = true) ∧
    (mbIdx wSvA 0 = 63 ∧ (getM wSvA 63).st = 1 ∧ kappa wSvA = 68) ∧ (mbIdx (wSv 1 [0, 0xFFF0003]) 0 = 4095) ∧
    (mbWaits wSvB 0 0x101 = true ∧ wSvB.deal.running = false ∧ wSvB.boot.cfgReady = true ∧ wSvB.boot.devReady = false) := by decide +kernel
theorem test_svcSet : let t := after (exec .svcSet (wSv 1 [0, 6, 10, 1, 1000])); t.deal.repPeriod = 10 ∧ t.deal.svcNew = some (1, 1000) ∧ t.deal.perDue = 10000000 := by decide +kernel
theorem test_acctSet : let t := after (exec .acctSet (wSv 1 [0, 0xFFF0002, 0, 0, 7, 0x01010100, 256])); (getA t 4095).burst = 7 ∧ (getA t 4095).enable = true ∧ (getA t 4095).waits = some { ante := 0, weight := 1, cmax := 1, pfr := 256 } := by decide +kernel
theorem test_admGet : let t := after (exec .admGet (wSv 0x102 [0, 5])); fld (mbData t 0 1) 15 8 = 1 ∧ fld (mbData t 0 1) 7 0 = 5 := by decide +kernel
theorem test_wit_ServiceCommands_4 : ∀ g, g < 256 → g ≠ 255 → (seqRange (wSv 1 [0, 0xFF0001, 65280, 256]) g).2 = 0 ∨ 65280 + 256 ≤ (seqRange (wSv 1 [0, 0xFF0001, 65280, 256]) g).1 ∨
    (seqRange (wSv 1 [0, 0xFF0001, 65280, 256]) g).1 + (seqRange (wSv 1 [0, 0xFF0001, 65280, 256]) g).2 ≤ 65280 := by decide +kernel
def wMl (st : Nat) (c : List Byte) : State := { wrPair up (att 0x40) 0 with deal := { running := true, models := [(63, { st := st })] }, mem := { rgn := [(0, 0)], dram := wPut [(64 * 63, c)] } }
/-- A context that cannot be read. -/
def wMlP (st : Nat) : State := { wMl st wCtx with mem := {} }
/-- A queue full since time 0, seen at time `n`. -/
def wCqF (n : Nat) : State := { wCqS { st := .enabled, cqTail := 15, cqHead := 0, fullAt := some 0 } with time := n }
theorem test_wit_TenantsAndModels :
    (spFind (wDl []).deal.accts 4095 = some { owner := 0, enable := true } ∧ (wDl []).deal.running = true ∧ (wDl []).deal.perDue ≤ (wDl []).time ∧ ({ wDl [] with deal := { running := true, perDue := 12346 } } : State).time < 12346) ∧
    (let s := wCqF 10000001; (getQ s 0).st = .enabled ∧ cqFull s 0 = true ∧ (getQ s 0).fullAt = some 0 ∧ 0 + s.deal.cqStall * 1000000 < s.time ∧ (wCqF 10000000).time ≤ 0 + s.deal.cqStall * 1000000) ∧ cqFull up 0 = false ∧
    ((getM (wMl 2 wCtx) 63).st = 2 ∧ (wMl 2 wCtx).deal.running = true ∧ (readCtx (wMl 2 wCtx) 63).2 = some wCtx ∧ cxOk wCtx = true ∧ (readCtx (wMl 0 []) 63).2 = some (List.replicate 64 0) ∧ cxOk (List.replicate 64 0) = false) ∧
    (getM (wMl 3 wCtx) 63).st = 3 ∧ ((getM (wMlP 0) 63).st = 0 ∧ (wMlP 0).deal.running = true ∧ (readCtx (wMlP 0) 63).2 = none) ∧ spFind (wMl 3 wCtx).deal.admNew 63 = none ∧ (getM up 63).st ≠ 3 := by decide +kernel
theorem test_replenish : let t := after (exec .replenish { wDl [] with deal := { (wDl []).deal with accts := [(1, { enable := true, bal := 100, burst := 7, ceil := 5, charged := 9 }), (2, { bal := 100, charged := 3 })] } }); (getA t 1).bal = 12 ∧ (getA t 1).charged = 0 ∧ (getA t 2).bal = 100 ∧ (getA t 2).charged = 3 := by decide +kernel
theorem test_modelLoad : let t := after (Sys2Proof.Machine.execModelLoad 63 { vocab := 9 } (wMl 2 wCtx)); (getM t 63).st = 3 ∧ (getM t 63).ctx = wCtx ∧ (getM t 63).b.vocab = 9 := by decide +kernel

/-! ### Witnesses: the fabric, repair, the journal, every step -/

/-- Two devices in a ring, engines 0 and 8 UP with what is given. -/
def wLk (x : Engine) (f : Fab := {}) (pos : Nat := 0) (regs : List (Nat × Nat) := []) : State :=
  { regs.foldl (fun s e => wrReg s e.1 (w32 e.2)) (wrReg (upWith [(.opt, 0), (.opt, 8), (.llc, 0)]) 0xB040 (w32 (8 + 256 * pos))) with
    fab := { f with eng := [(0, { x with st := .up }), (8, { st := .up })] }
    mem := { rgn := [(0, 0)], dram := [(0, 9)], ways := [(0, { mode := 2, owner := 256 })] } }
def wWr (src dst : Nat) : Packet := { hdr := mkHdr 1 0 src dst 1 0 77 0x10000000000 0, payload := List.replicate 32 3 }
/-- The CRC of a frame of a packet with SEQ, ACKSEQ and CRCNT. -/
def wCrc (seq ack cnt : Nat) (p : Packet) : Nat := frameCrc seq ack 0 0 cnt p
def wCtlP : Packet := { hdr := 15, payload := [] }
theorem test_wit_LinkFrames_1 :
    ([0, 1].all fun p => let s := wLk { seq := 4095, rxSeq := 0 } {} p
      toSend s (wWr p (1 - p)) == some (wWr p (1 - p), false) && carrier (flowEngs s (route s (1 - p) 0)) (wWr p (1 - p)) == some 0 && engUp s 0 && creditHeld (getE s 0) (leaveDl s (route s (1 - p) 0) (wWr p (1 - p))) &&
      fabUp s && decide ((getE s 0).replay.length < 512) && pType (wWr p (1 - p)) == 1) = true ∧
    (let s := wLk {} { resend := [wWr 0 1] }; toSend s (wWr 0 1) = some (wWr 0 1, true) ∧ carrier (portUp s (route s 1 0)) (wWr 0 1) = some 0 ∧ fabUp s = true) ∧
    toSend (wLk {}) (wWr 0 0) = none ∧ engUp (wLk {}) 0 = true ∧ 0 ≠ (getE (wLk { rxSeq := 4095 }) 0).rxSeq ∧
    (getE (wLk { rxSeq := 4095 }) 0).rxSeq = 4095 ∧ pktOk (wWr 1 0) = true ∧ pType (wWr 1 0) ≠ 15 ∧ pDst (wWr 1 0) = fabPos (wLk {}) ∧ pDst (wWr 0 1) ≠ fabPos (wLk {}) ∧
    pktOk wCtlP = true ∧ pType wCtlP = 15 ∧ pktOk { wWr 1 0 with payload := [] } = false := by decide +kernel
theorem test_wit_LinkFrames_2 :
    (let s := wLk { replay := [(2, wWr 0 1), (3, wWr 0 1), (4, wWr 0 1)] }; engUp s 0 = true ∧ (acked 2 (getE s 0).replay).head?.map (fun r => r.1) = some 3 ∧ (getE s 0).nakked = none) ∧
    (let s := wLk { replay := [(2, wWr 0 1), (3, wWr 0 1)], nakked := some 3 }; engUp s 0 = true ∧ (acked 2 (getE s 0).replay).head?.map (fun r => r.1) = (getE s 0).nakked ∧ (getE s 0).nakked.isSome = true) ∧
    ([8, 0, 9].foldl (fun y l => symCount y 0 l) (wLk {})).fab = (wLk {}).fab := by decide +kernel
theorem test_frameTransmit : let t := after (exec (.frameTransmit 0 (wWr 0 1)) (wLk { seq := 4095, rxSeq := 0 })); (getE t 0).seq = 0 ∧ (getE t 0).replay = [(4095, wWr 0 1)] ∧ spGet 0 (getE t 0).used 0 = 1 ∧ t.out = [mkFrame 0 4095 4095 0 0 0 (wWr 0 1)] ∧ t.fab.reqs.length = 1 := by decide +kernel
theorem test_frameReceive : let t := after (exec (.frameReceive 0 4095 3 0 false 1 ⟨(wCrc 4095 3 1 (wWr 1 0)), [8], 2⟩ (wWr 1 0)) (wLk { rxSeq := 4095, used := [(0, 2)], replay := [(2, wWr 0 1), (3, wWr 0 1), (4, wWr 0 1)] })); rdN t (optPg 0 + 0x74) = 2 ∧ (getE t 0).rxSeq = 0 ∧ (getE t 0).replay = [(4, wWr 0 1)] ∧ (getE t 0).rxq = [wWr 1 0] ∧ spGet 0 (getE t 0).used 0 = 1 ∧ rdN t (optPg 0 + 0x70) = 1 := by decide +kernel
theorem test_nak : let t := after (exec (.nak 0 2 []) (wLk { replay := [(2, wWr 0 1), (3, wWr 0 1), (4, wWr 0 1)] })); (getE t 0).replay.length = 2 ∧ t.out = [mkFrame 0 4 4095 0 0 0 (wWr 0 1), mkFrame 0 3 4095 0 0 0 (wWr 0 1)] ∧ (getE t 0).nakked = some 3 := by decide +kernel
/-- Window 15 lets member 1 write and read slice 0's first line as function 256; the packet waits at engine 0. -/
def wWin (p : Packet) (f : Fab := {}) : State :=
  let b := 0xB000 + 2 ^ 36
  wLk { rxq := [p] } f 0 [(b + 0x54, 0), (b + 0x58, 256), (b + 0x5C, 31), (b + 0x60, 256), (b + 0x64, 2 ^ 27 + 2 ^ 26 + 2 ^ 25 + 2 ^ 24 + 2)]
def wRdp (a : Nat) : Packet := { hdr := mkHdr 2 0 1 0 0 0 77 a 32, payload := [] }
def wWr2 (vc a : Nat) : Packet := { hdr := mkHdr 1 vc 1 0 1 0 77 a 0, payload := List.replicate 32 3 }
theorem test_wit_RemoteAccess_1 :
    ([0, 2].all fun v => let p := wWr2 v 0x10000000000; let s := wWin p
      headOf s 0 1 == some p && pLen p == 1 && rwinFor s (pSrc p) (pAddr p) 32 true == some 15 && !scrWaits s (rwinFn s 15) (pAddr p) 32 && pF p 7 7 == 0 &&
      isOkRes (memWrite (takePkt s 0 p) (rwinFn s 15) (pAddr p) p.payload).2) = true ∧
    (let p := wWr2 0 0x10000000020; headOf (wWin p) 0 1 = some p ∧ pAddr p % 32 = 0 ∧ rwinFor (wWin p) (pSrc p) (pAddr p) 32 true = none) ∧
    (let p := wRdp 0x10000000000; let s := wWin p; headOf s 0 2 = some p ∧ pXw p = 32 ∧ rwinFor s (pSrc p) (pAddr p) (pXw p) false = some 15 ∧ scrWaits s (rwinFn s 15) (pAddr p) (pXw p) = false ∧
      isOkRes (memRead (takePkt s 0 p) (rwinFn s 15) true (pAddr p) (pXw p) .none).2 = true) ∧
    (let p := wRdp 0x10000000020; headOf (wWin p) 0 2 = some p ∧ rwinFor (wWin p) (pSrc p) (pAddr p) (pXw p) false = none) := by decide
theorem test_wr : let t := after (exec (.wr 0) (wWin (wWr2 0 0x10000000000))); ((t.fab.outq.map (fun p => (pType p, pDst p, pStat p, pTag p))) = [(4, 1, 0, 77)]) ∧ spGet 0 t.fab.bytes 4 = 32 ∧ spGet 0 t.mem.scratch 31 = 3 ∧ (getE t 0).rxq = [] := by decide +kernel
theorem test_rd : let t := after (exec (.rd 0) (wWin (wRdp 0x10000000020))); ((t.fab.outq.map (fun p => (pType p, pStat p, pLen p))) = [(3, 1, 0)]) ∧ rdN t 0xB070 = 1 := by decide +kernel
/-- FAB_TMO of 4,096 for a request sent at time 0, at a time. -/
def wTmo (tm : Nat) : State := { wLk {} { reqs := [(65535, 9)] } 0 [(0xB04C, 4096)] with time := tm }
def wRsp (ty st : Nat) : Packet := { hdr := mkHdr ty 1 1 0 1 st 65535 0 0, payload := List.replicate 32 7 }
def wNt : Packet := { hdr := mkHdr 5 2 1 0 0 0 0 (1023 + 2 ^ 10 + 65535 * 2 ^ 16) 64, payload := [] }
def wNf : Notify := { src := 15, vc := 2, bytes := 64, sem := 1023, die := 1, n := 65535 }
theorem test_wit_RemoteAccess_2 :
    ([3, 4].all fun ty => [0, 3].all fun st => let p := wRsp ty st; let s := wLk { rxq := [p] } { reqs := [(65535, 9)] }; headOf s 0 ty == some p && spFind s.fab.reqs (pTag p) == some 9 && pStat p != 1 &&
      spFind (wLk { rxq := [p] }).fab.reqs (pTag p) == none) = true ∧
    headOf (wLk { rxq := [wNt] }) 0 5 = some wNt ∧
    (let s := wLk {} { held := [wNf], bytes := [(62, 63)] }; s.fab.held.find? (fun x => x.src == 15 && x.vc == 2) = some wNf ∧ spGet 0 s.fab.bytes (4 * 15 + 2) < wNf.bytes) ∧
    (let s := wLk {} { held := [wNf], bytes := [(62, 64)] }; wNf.bytes ≤ spGet 0 s.fab.bytes (4 * 15 + 2) ∧ semVal s wNf.die wNf.sem + wNf.n = 65535 ∧ 65535 < semVal (setSem s 1 1023 1) wNf.die wNf.sem + wNf.n) := by decide
theorem test_rdrsp : let t := after (exec (.rdrsp 0) (wLk { rxq := [wRsp 3 0] } { reqs := [(65535, 9)] })); t.fab.reqs = [] ∧ t.out = [.fabDone 65535 0 (List.replicate 32 7)] := by decide +kernel
theorem test_wrrsp : let t := after (exec (.wrrsp 0) (wLk { rxq := [wRsp 4 3] } { reqs := [(65535, 9)] })); t.fab.reqs = [] ∧ t.out = [.fabDone 65535 3 []] := by decide +kernel
theorem test_fabTimeout : let t := after (exec (.fabTimeout 65535) (wTmo 4096)); t.fab.reqs = [] ∧ t.out = [.fabDone 65535 3 []] ∧ rdN t 0xB074 = 1 := by decide +kernel
theorem test_notifyPost : let t := after (exec (.notifyPost 15 2) (wLk {} { held := [wNf], bytes := [(62, 65)] })); semVal t 1 1023 = 65535 ∧ spGet 0 t.fab.bytes 62 = 1 ∧ t.fab.held = [] := by decide +kernel
theorem test_wit_RemoteAccess_3 :
    (let p : Packet := { wWr2 2 0x10000000000 with hdr := mkHdr 1 10 1 0 1 0 77 0x10000000000 0 }; headOf (wWin p) 0 1 = some p ∧ pF p 7 7 = 1 ∧ pVc p = 2 ∧ rwinFor (wWin p) (pSrc p) (pAddr p) 32 true = some 15) ∧
    (let p : Packet := { wWr2 0 0x10000000001 with payload := [] }; headOf (wWin p) 0 1 = some p ∧ pAddr p % 32 = 1) ∧
    (let p : Packet := { hdr := mkHdr 1 0 1 0 0 0 77 0x10000000000 0, payload := [] }; headOf (wWin p) 0 1 = some p ∧ pLen p = 0) ∧
    (let p : Packet := { hdr := mkHdr 2 0 1 0 0 0 77 0x10000000000 257, payload := [] }; headOf (wWin p) 0 2 = some p ∧ 256 < pXw p) ∧
    (let p : Packet := { hdr := mkHdr 2 0 1 0 0 0 77 0x10000000000 31, payload := [] }; headOf (wWin p) 0 2 = some p ∧ pXw p < 32) ∧
    (let p := wRsp 4 1; headOf (wLk { rxq := [p] }) 0 4 = some p ∧ pStat p = 1) ∧
    [4095, 4096].map (fun tm => (spFind (wTmo tm).fab.reqs 65535, decide ((wTmo tm).time < spGet 0 (wTmo tm).fab.reqAt 65535 + rdN (wTmo tm) 0xB04C))) = [(some 9, true), (some 9, false)] ∧
    (let p := wWr2 0 0x10000000000; let s := { wWin p with mem := { (wWin p).mem with ways := [(0, { mode := 2, owner := 255 })] } }; headOf s 0 1 = some p ∧ rwinFor s (pSrc p) (pAddr p) 32 true = some 15 ∧ scrWaits s (rwinFn s 15) (pAddr p) 32 = false ∧ pF p 7 7 = 0 ∧
      isOkRes (memWrite (takePkt s 0 p) (rwinFn s 15) (pAddr p) p.payload).2 = false) ∧
    (let p := wRdp 0x10000000000; let s := { wWin p with mem := { (wWin p).mem with ways := [(0, { mode := 2, owner := 255 })] } }; headOf s 0 2 = some p ∧ rwinFor s (pSrc p) (pAddr p) (pXw p) false = some 15 ∧
      scrWaits s (rwinFn s 15) (pAddr p) (pXw p) = false ∧ isOkRes (memRead (takePkt s 0 p) (rwinFn s 15) true (pAddr p) (pXw p) .none).2 = false) := by decide +kernel
/-- Engine 15 of a ring of two, in a state. -/
def wOp (x : Engine) : State := { wrReg (upWith [(.opt, 15)]) 0xB040 8 with fab := { eng := [(15, x)] } }
theorem test_wit_OpticalEngines :
    engUp (wOp { st := .up, replay := [(1, wWr 0 1)] }) 15 = true ∧ engUp up 15 = false ∧ isOn (wOp {}) .opt 15 = true ∧
    (getE (wOp { st := .dark, noLight := true }) 15).st = .dark ∧ engClkLost (wOp { st := .dark, noLight := true }) 15 = false ∧ engClkLost (wOp {}) 15 = false ∧
    (getE (wOp {}) 15).st = .training ∧ 2 ≤ fabN (wOp {}) ∧ fabTopo (wOp {}) = 0 ∧ fabRing (wOp {}) = 0 ∧ neighbour (wOp {}) (portOf (wOp {}) 15) = 1 ∧
    ([true, false].all fun tx => !laneRetired (wOp {}) 15 tx 8 && jokerFree (wOp {}) 15 tx && !jokerFree (wrReg (wOp {}) (optPg 15 + 0x44) 0xFF) 15 tx && !laneRetired (wrReg (wOp {}) (optPg 15 + 0x44) 0xFF) 15 tx 8) = true := by decide
theorem test_dataFibreDisconnect : let t := after (exec (.dataFibreDisconnect 15) (wOp { st := .up, replay := [(1, wWr 0 1)] })); (getE t 15).st = .training ∧ (getE t 15).replay = [] ∧ t.fab.resend = [wWr 0 1] ∧ t.fab.outq = [] := by decide +kernel
theorem test_laserInputLost : let t := after (exec (.laserInputLost 3) (wOp { st := .up })); (getE t 15).st = .dark ∧ (getE t 15).noLight = true ∧ (getE t 12).noLight = true ∧ (getE t 11).noLight = false := by decide +kernel
theorem test_laserInputRestored : let t := after (exec (.laserInputRestored 15) (wOp { st := .dark, noLight := true })); (getE t 15).st = .training ∧ (getE t 15).noLight = false := by decide +kernel
theorem test_trainingUp : let t := after (exec (.trainingUp 15 0x100 0 0 1) (wOp {})); (getE t 15).st = .up ∧ t.fab.verErr = false ∧ t.fab.topoErr = false := by decide +kernel
theorem test_laneSwap : let t := after (exec (.laneSwap 15 true 8) (wOp {})); rdN t (optPg 15 + 0x44) % 16 = 15 ∧ fld (rdN t (optPg 15 + 0x44)) 11 8 = 8 ∧ bitN (rdN t (optPg 15 + 0x44)) 16 = true := by decide +kernel
theorem test_laneRetire : let t := after (exec (.laneRetire 15 false 8) (wOp {})); fld (rdN t (optPg 15 + 0x44)) 7 4 = 15 ∧ fld (rdN t (optPg 15 + 0x44)) 15 12 = 8 ∧ bitN (rdN t (optPg 15 + 0x44)) 17 = true ∧ t.out.contains (.laneSwap 15 false 8) = true := by decide +kernel
/-- Stack 7 ON, with what the wear tables hold. -/
def wCh (w : Wear) : State := { upWith [(.stk, 7)] with wear := w, mem := { rgn := [(0, 0)], dram := [(place 7 31 0 (2 ^ 31 - 1), 5)] } }
def wMig (st : Nat) : Mig := { ch := 31, joker := 33, old := 31, step := st }
def wNoJok : State := [32, 33].foldl (fun x n => wrReg x (pageOf .stk 7 + 0x80 + 4 * n) (w32 (n + 2 ^ 13))) (wCh {})
theorem test_wit_ChannelMigration :
    (bit (0x1FF : W32) 8 = true ∧ fld (0x1FF : W32).toNat 7 3 = 31 ∧ pgReach (wCh {}) 1 .ras = .yes ∧ isOn (wCh {}) .stk 7 = true ∧ usableJokers (wCh {}) 7 = [32, 33] ∧ spFind (wCh {}).wear.mig 7 = none) ∧
    (usableJokers (wCh { mig := [(7, wMig 1)] }) 7 = [32] ∧ spFind (wCh { mig := [(7, wMig 1)] }).wear.mig 7 = some (wMig 1) ∧ spFind (wCh { mig := [(7, wMig 1)] }).wear.migQueue 7 = none) ∧
    (usableJokers (wCh { mig := [(7, wMig 1)], migQueue := [(7, 3)] }) 7 = [32] ∧ spFind (wCh { mig := [(7, wMig 1)], migQueue := [(7, 3)] }).wear.migQueue 7 = some 3) ∧
    ((wCh { retrain := [270, 271] }).wear.retrain.find? (fun c => c / 34 == 7) = some 270 ∧ spFind (wCh { retrain := [270] }).wear.mig 7 = none) ∧
    usableJokers wNoJok 7 = [] ∧ bit (0xFF : W32) 8 = false ∧ isOn (wCh {}) .stk 6 = false ∧
    ({ wCh {} with nbu := [(2175 - 16, { st := .running })] } : State).wear = {} ∧ chanRunning { wCh {} with nbu := [(2159, { st := .running })] } 7 31 = true ∧ chanRunning (wCh {}) 7 31 = false ∧
    (wMig 3).ch < 32 ∧ (wMig 3).joker < 34 ∧ Memory.wf (wCh { mig := [(7, wMig 3)] }) ∧
    (255 % 256 < rdN (wCh {}) 0x407C % 256 ∨ 0 < fld (rdN (wCh {}) 0x407C) 23 16) ∧ rdN (wCh {}) 0x407C % 256 ≤ 255 ∧ fld (rdN (wCh {}) 0x407C) 23 16 ≤ 255 ∧ (wCh {}).wear.retrain = [] := by decide
theorem test_migrationStart : let t := after (exec (.migrationStart 7) (wCh { mig := [(7, wMig 1)] })); rdN t (pageOf .stk 7 + 0x80 + 124) = 31 + 64 + 128 * 33 ∧ spFind t.wear.mig 7 = some (wMig 3) := by decide +kernel
theorem test_migrationCopyDone : let t := after (exec (.migrationCopyDone 7) (wCh { mig := [(7, wMig 3)] })); t.mem.dram = [(place 7 31 0 (2 ^ 31 - 1), 5), (place 7 33 0 (2 ^ 31 - 1), 5)] ∧ remap t 7 31 = 33 ∧ spFind t.wear.mig 7 = some (wMig 6) := by decide +kernel
theorem test_retrainDone : let t := after (exec (.retrainDone 7 255 255) (wCh { mig := [(7, wMig 6)] })); t.wear.mig = [] ∧ t.wear.chRetired = [] ∧ t.wear.train.length = 1 := by decide +kernel
theorem test_wit_MarginsAndRecords :
    (let s := wCh { trainUse := [(271, 7)], train := [(271 * 8 + 7, { valid := true })] }; isOn s .stk 7 = true ∧ 34 * 7 + 33 ∉ s.wear.retrain ∧ 34 * 7 + 33 ∉ s.wear.chRetired ∧ rdN s (pageOf .ch 271 + 0x110) < 0xFFFFFFFF ∧
      spFind s.wear.trainUse (34 * 7 + 33) = some 7 ∧ trainAt s 271 7 = some { valid := true } ∧ 0 % 256 < rdN s 0x407C % 256) ∧ pgReach up 1 .ras = .yes := by decide
theorem test_marginProbe : let t := after (exec (.marginProbe 7 33 0 255 []) (wCh { trainUse := [(271, 7)], train := [(271 * 8 + 7, { valid := true })] })); rdN t (pageOf .ch 271 + 0x108) = 255 * 65536 ∧ rdN t (pageOf .ch 271 + 0x10C) = 65536 * fld (rdN up (pageOf .ch 271 + 0x10C)) 23 16 ∧ rdN t (pageOf .ch 271 + 0x110) = 1 ∧ ((trainAt t 271 7).map (fun y => y.valid) = some false) := by decide +kernel
def wRec (n : Nat) : RasRec := { seqno := n, kind := 0, sev := 0, btype := 0, inst := 0, elem := 0, trick := 0, addr := 0, time := 0 }
theorem test_wit_RasFifo :
    ({ up with ras := { up.ras with fifo := List.replicate 1024 (wRec 0) } } : State).ras.fifo.length = 1024 ∧ up.ras.fifo.length < 1024 ∧ up.jrn.notDurable = false ∧ up.jrn.queue.length < 256 ∧
    ({ up with jrn := { up.jrn with notDurable := true } } : State).jrn.notDurable = true ∧ hubPowered up = true ∧ rdN up 0x4070 < 0xFFFFFFFF := by decide
/-- JRN ON, the journal in a state. -/
def wJ (j : Jrn) : State := { upWith [(.jrn, 0)] with jrn := j }
def wJr : JRec := ⟨6, 7, []⟩
theorem test_wit_JournalCourse :
    (let s := wJ { queue := [wJr], fill := 0xBFFFE0, rseq := 2 ^ 32 - 1 }; isOn s .jrn 0 = true ∧ s.boot.cfgReady = true ∧ s.boot.recovery = false ∧ s.jrn.notDurable = false ∧ s.jrn.queue = [wJr] ∧ s.jrn.resume = false ∧ wJr.type ≠ 0x0B ∧
      s.jrn.fill + (jrnEnc ((s.jrn.rseq + 1) % 2 ^ 32) wJr).length < 0xC00000 ∧ s.jrn.due = false ∧ s.jrn.resync = false) ∧
    fld (rdN (wrReg (wJ { queue := [wJr] }) 0x502C 0) 0x502C) 23 0 = 0 ∧ spWf 0xFF [(5, (0xF0 : Byte))] = true ∧ (wJ {}).jrn.queue = [] ∧
    (pgReach (wJ {}) 1 .jrn = .yes ∧ bit (1 : W32) 0 = true ∧ (wJ {}).jrn.compaction = none ∧ (wJ {}).jrn.erasing = false ∧ (wJ {}).jrn.eraseFailed = false ∧ pgReach (wJ { erasing := true }) 1 .jrn = .yes) ∧
    (wJ { compaction := some { seg := 1, at_ := 64, oldFrom := 64 } }).jrn.compaction = some { seg := 1, at_ := 64, oldFrom := 64 } ∧
    (let s := wJ { erasing := true, fill := 0xBFFFFF }; s.jrn.erasing = true ∧ s.jrn.fill < 0xC00000 ∧ s.jrn.due = false ∧ s.jrn.resync = false ∧ Memory.wf s) := by decide
theorem test_journalProgram : let t := after (exec (.journalProgram true) (wJ { queue := [wJr], fill := 0xBFFFE0, rseq := 2 ^ 32 - 1 })); t.jrn = { fill := 0xBFFFF0, rseq := 0 } ∧ fRd t (segBase 0 + 0xBFFFE0) 16 = jrnEnc 0 wJr := by decide +kernel
theorem test_compactionCommit : let t := after (exec .compactionCommit (wJ { compaction := some { seg := 1, at_ := 64, oldFrom := 64 }, queue := [wJr] })); t.jrn = { seg := 1, segseq := 2, erasing := true, queue := [wJr] } ∧ rdN t 0x505C = 1 := by decide +kernel
theorem test_segmentEraseDone : let t := after (exec (.segmentEraseDone true) { wJ { erasing := true, fill := 0xBFFFFF } with flash := [(segBase 0, 1), (segBase 1, 2), (segBase 1 + segBytes - 1, 3), (segBase 1 + segBytes, 4)] }); t.flash = [(segBase 0, 1), (segBase 1 + segBytes, 4)] ∧ t.jrn.erasing = false := by decide +kernel
theorem test_wit_IdleStep :
    ([.off, .ramping].all fun p => ({ up with edge := { up.edge with power := p } } : State).pending == []) = true ∧
    ({ up with clk := { up.clk with lost := [.crystal] } } : State).clk.lost.contains .crystal = true ∧
    up.pending = [] ∧ up.edge.power = .up ∧ up.clk.lost.contains .crystal = false ∧ ({ up with boot := { up.boot with running := false } } : State).boot.running = false := by decide
theorem test_wit_EveryStep :
    (∀ code, Instr.powerUp = .debugInstruction code → ¬ (tapOn up = true ∧ up.sec.unlocked = true)) ∧ Memory.wf State.reset ∧
    step { State.reset with pending := [.powerUp] } = exec .powerUp State.reset := by
  refine ⟨?_, ?_, rfl⟩
  · intro c h; cases h
  · decide

/-! ### Witness: the golden copy of ReloadAndTemperatures. The slices are off, so that its 2 MiB come from the cells, all 0
but for the four bytes of its CRC. -/

def wGoldLpd (c : Nat) : Sparse Byte := [(2 ^ 21, BitVec.ofNat 8 c), (2 ^ 21 + 1, BitVec.ofNat 8 (c / 256)), (2 ^ 21 + 2, BitVec.ofNat 8 (c / 65536)), (2 ^ 21 + 3, BitVec.ofNat 8 (c / 16777216))]
def wGold (c : Nat) : State := { wrPair (upWith [(.stk, 7), (.lpd, 0), (.lpd, 1), (.lpd, 2), (.lpd, 3)]) (pageOf .stk 7 + 0x54) 0x8000200000 with
  mem := { rgn := [(0, 0), (7 * 2 ^ 15 + 5, 0x22)], reloads := [7 * 2 ^ 15 + 5], lpd := wGoldLpd c } }
def wGoldGo (c : Nat) : State := { wGold c with mem := { (wGold c).mem with reloads := (wGold c).mem.reloads.filter (fun x => x != 7 * 2 ^ 15 + 5 % 2 ^ 15) } }
theorem gold_read1 (c a n : Nat) (ha : rangeOf a = .lpd) : memRead1 (wGoldGo c) 256 false a n .none = (wGoldGo c, .ok (rdBytes (wGoldLpd c) (a - 0x8000000000) n)) := by
  have h1 : ¬ a < 0x8000000000 := by
    intro h; simp [rangeOf, h] at ha
  have h2 : ∀ k, k < 4 → isOn (wGoldGo c) .llc k = false := by
    intro k hk
    match k, hk with
    | 0, _ => rfl
    | 1, _ => rfl
    | 2, _ => rfl
    | 3, _ => rfl
  have h3 : homeSlice a < 4 := by
    unfold homeSlice
    rw [if_neg h1]
    exact Nat.xor_lt_two_pow (n := 2) (Nat.mod_lt _ (by decide)) (Nat.mod_lt _ (by decide))
  have h4 : lpdUp (wGoldGo c) = true := rfl
  have h5 : (wGoldGo c).mem.lpd = wGoldLpd c := rfl
  unfold memRead1
  simp only [ha, h2 _ h3, Bool.not_false, Bool.or_true, Bool.true_or, if_true]
  unfold cellsRead
  simp [h1, h4, h5, lpdLink]
theorem gold_fold (c : Nat) : ∀ (ps : List (Nat × Nat)), (∀ p ∈ ps, rangeOf p.1 = .lpd) → ∀ bs : List Byte,
    ps.foldl (fun (acc : State × MemRes × MemErr) p =>
      match acc with
      | (s1, .ok bs, e) =>
        match memRead1 s1 256 false p.1 p.2 e with
        | (s2, .ok b) => (s2, .ok (bs ++ b), .none)
        | (s2, x) => (s2, x, .none)
      | x => x) (wGoldGo c, .ok bs, .none) = (wGoldGo c, .ok (bs ++ ps.flatMap (fun p => rdBytes (wGoldLpd c) (p.1 - 0x8000000000) p.2)), .none)
  | [], _, bs => by simp
  | p :: ps, h, bs => by
    simp only [List.foldl_cons, gold_read1 c p.1 p.2 (h p List.mem_cons_self)]
    rw [gold_fold c ps (fun q hq => h q (List.mem_cons_of_mem _ hq))]
    simp
theorem pieces_mem : ∀ (f a n : Nat), ∀ p ∈ pieces f a n, a ≤ p.1 ∧ p.1 + p.2 ≤ a + n ∧ 0 < p.2
  | 0, _, _, p, h => by simp [pieces] at h
  | f + 1, a, n, p, h => by
    unfold pieces at h
    split at h
    · simp at h
    · simp only [List.mem_cons] at h
      rcases h with rfl | h
      · simp only; omega
      · have := pieces_mem f _ _ p h
        omega
theorem gold_zero (c : Nat) : ∀ (n o : Nat), o + n ≤ 2 ^ 21 → rdBytes (wGoldLpd c) o n = List.replicate n 0
  | 0, _, _ => rfl
  | n + 1, o, h => by
    have : spGet 0 (wGoldLpd c) o = 0 := by
      unfold wGoldLpd
      simp only [spGet]
      rw [if_neg (by omega), if_neg (by omega), if_neg (by omega), if_neg (by omega)]
    rw [rdBytes, this, gold_zero c n (o + 1) (by omega), List.replicate_succ]
theorem rangeOf_lpd {a : Nat} (h : 0x8000000000 ≤ a) (h' : a < 0x10000000000) : rangeOf a = .lpd := by
  unfold rangeOf
  rw [if_neg (by omega), if_pos (by omega)]
theorem gold_read (c a n : Nat) (h : 0x8000000000 ≤ a) (h' : a + n ≤ 0x10000000000) :
    memRead (wGoldGo c) 256 false a n .none = (wGoldGo c, .ok ((pieces (n / 256 + 2) a n).flatMap (fun p => rdBytes (wGoldLpd c) (p.1 - 0x8000000000) p.2))) := by
  refine (congrArg (fun r : State × MemRes × MemErr => (r.1, r.2.1)) (gold_fold c _ ?_ [])).trans ?_
  · intro p hp
    have := pieces_mem _ _ _ p hp
    exact rangeOf_lpd (by omega) (by omega)
  · simp
theorem leNat_gold (c : Nat) (h : c < 2 ^ 32) : leNat ((pieces (4 / 256 + 2) 0x8000200000 4).flatMap (fun p => rdBytes (wGoldLpd c) (p.1 - 0x8000000000) p.2)) = c := by
  have : (pieces (4 / 256 + 2) 0x8000200000 4).flatMap (fun p => rdBytes (wGoldLpd c) (p.1 - 0x8000000000) p.2) =
    [BitVec.ofNat 8 c, BitVec.ofNat 8 (c / 256), BitVec.ofNat 8 (c / 65536), BitVec.ofNat 8 (c / 16777216)] := rfl
  rw [this]
  simp only [leNat, BitVec.toNat_ofNat]
  omega
theorem xor_lt_32 {a b : Nat} (h : a < 2 ^ 32) (h' : b < 2 ^ 32) : Nat.xor a b < 2 ^ 32 := Nat.xor_lt_two_pow h h'
theorem crcBit_lt {c : Nat} (h : c < 2 ^ 32) : crcBit c < 2 ^ 32 := by
  unfold crcBit
  split
  · exact xor_lt_32 (by omega) (by decide)
  · omega
theorem crcByte_lt {c : Nat} {b : Byte} (h : c < 2 ^ 32) : crcByte c b < 2 ^ 32 := by
  unfold crcByte
  iterate 8 apply crcBit_lt
  exact xor_lt_32 h (Nat.lt_trans b.isLt (by decide))
theorem crcFold_lt : ∀ (bs : List Byte) (c : Nat), c < 2 ^ 32 → bs.foldl crcByte c < 2 ^ 32
  | [], _, h => h
  | _ :: bs, _, h => crcFold_lt bs _ (crcByte_lt h)
theorem crc32c_lt (bs : List Byte) : crc32c bs < 2 ^ 32 := xor_lt_32 (crcFold_lt bs _ (by decide)) (by decide)
theorem gold_bytes (c n : Nat) (h : n ≤ 2 ^ 21) : (pieces (n / 256 + 2) 0x8000000000 n).flatMap (fun p => rdBytes (wGoldLpd c) (p.1 - 0x8000000000) p.2) =
    (pieces (n / 256 + 2) 0x8000000000 n).flatMap (fun p => List.replicate p.2 0) := by
  rw [List.flatMap_def, List.flatMap_def]
  congr 1
  apply List.map_congr_left
  intro p hp
  have := pieces_mem _ _ _ p hp
  exact gold_zero _ _ _ (by omega)
theorem gold_all (c : Nat) (bs : List Byte) (hb : bs = (pieces (2 ^ 21 / 256 + 2) 0x8000000000 (2 ^ 21)).flatMap (fun p => List.replicate p.2 0)) :
    memRead (wGoldGo c) 256 false (goldAddr (wGold c) (7 * 2 ^ 15 + 5 % 2 ^ 15)) (2 ^ 21) .none = (wGoldGo c, .ok bs) := by
  have ha : goldAddr (wGold c) (7 * 2 ^ 15 + 5 % 2 ^ 15) = 0x8000000000 := (show _ = goldAddr (wGold 0) (7 * 2 ^ 15 + 5 % 2 ^ 15) from rfl).trans (by decide)
  rw [ha, gold_read c 0x8000000000 (2 ^ 21) (by decide) (by decide), gold_bytes c (2 ^ 21) (Nat.le_refl _), hb]
theorem gold_crc (c : Nat) (h : c < 2 ^ 32) : ∃ e, memRead (wGoldGo c) 256 false (rdPair (wGold c) (pageOf .stk 7 + 0x54) + 4 * fld (rgnEnt (wGold c) (7 * 2 ^ 15 + 5 % 2 ^ 15)) 25 8) 4 .none = (wGoldGo c, .ok e) ∧
    c = leNat e := by
  have ha : rdPair (wGold c) (pageOf .stk 7 + 0x54) + 4 * fld (rgnEnt (wGold c) (7 * 2 ^ 15 + 5 % 2 ^ 15)) 25 8 = 0x8000200000 :=
    (show _ = rdPair (wGold 0) (pageOf .stk 7 + 0x54) + 4 * fld (rgnEnt (wGold 0) (7 * 2 ^ 15 + 5 % 2 ^ 15)) 25 8 from rfl).trans (by decide)
  rw [ha]
  exact ⟨_, gold_read c 0x8000200000 4 (by decide) (by decide), (leNat_gold c h).symm⟩
theorem test_wit_ReloadAndTemperatures : ∃ (bs c : List Byte) (s u v : State), s.mem.reloads.contains (7 * 2 ^ 15 + 5 % 2 ^ 15) = true ∧
    memRead { s with mem := { s.mem with reloads := s.mem.reloads.filter (fun x => x != 7 * 2 ^ 15 + 5 % 2 ^ 15) } } 256 false (goldAddr s (7 * 2 ^ 15 + 5 % 2 ^ 15)) (2 ^ 21) .none = (u, .ok bs) ∧
    memRead u 256 false (rdPair s (pageOf .stk 7 + 0x54) + 4 * fld (rgnEnt s (7 * 2 ^ 15 + 5 % 2 ^ 15)) 25 8) 4 .none = (v, .ok c) ∧ crc32c bs = leNat c := by
  obtain ⟨bs, hb⟩ : ∃ bs : List Byte, bs = (pieces (2 ^ 21 / 256 + 2) 0x8000000000 (2 ^ 21)).flatMap (fun p => List.replicate p.2 0) := ⟨_, rfl⟩
  obtain ⟨k, hk⟩ : ∃ k, k = crc32c bs := ⟨_, rfl⟩
  obtain ⟨e, h1, h2⟩ := gold_crc k (hk ▸ crc32c_lt bs)
  exact ⟨bs, e, wGold k, wGoldGo k, wGoldGo k, rfl, gold_all k bs hb, h1, hk.symm.trans h2⟩

end Sys2Proof.Tests
end

section
/-!
PROOF. Read to clear (R5, R6): a read that reaches its RC register is one write of what the cycle leaves behind and
one answer, taken before that write.
-/
namespace Sys2Proof.Machine

/-- A read of a block's own register that the block lets through answers what `f` reads (R321). -/
theorem answerRead_of_ownReach {s : State} {mid i a : Nat} {b : Blk} (f : State → State × W32)
    (h : ownReach s mid b i = .yes) :
    answerRead s mid b i a f = emit (f s).1 (.reg (midOf mid) a (f s).2) := by
  simp only [answerRead, h]

/-- Only the lowest margins, read in a cycle without an event, hold something other than the event (Table 15-13). -/
theorem rcAfter_eq_event {b : Blk} {off : Nat} {event : W32} (h : b = .ch ∧ off = 0x10C → event ≠ 0) :
    rcAfter b off event = event :=
  if_neg fun ⟨hb, hoff, hev⟩ => h ⟨hb, hoff⟩ hev

theorem exec_readToClear (mid a : Nat) (event : W32) (s : State) :
    exec (.readToClear mid a event) s = execReadToClear mid a event s := rfl

/-- A read to clear that reaches an RC register, over the header's gate or the block's own (R5, R6). -/
theorem execReadToClear_of_reach {mid a i off : Nat} {event : W32} {b : Blk} {r : RegRow} {s : State}
    (hloc : locate a = .blk b i off) (hrow : regRow b off = some r) (hacc : r.acc = .rc)
    (hi : i < Blk.count b) (hal : a % 4 = 0)
    (hreach : (if blkHeader b ∧ off < 0x40 then hdrReach s mid b i else ownReach s mid b i) = .yes) :
    execReadToClear mid a event s =
      .next (emit (wrReg s a (rcAfter b off event)) (.reg (midOf mid) a (rdReg s a))) := by
  have hgo : ¬ (r.acc ≠ .rc ∨ Blk.count b ≤ i ∨ a % 4 ≠ 0) := by simp [hacc, hi, hal]
  by_cases hhdr : blkHeader b ∧ off < 0x40
  · rw [if_pos hhdr] at hreach
    simp only [execReadToClear, hloc, hrow, if_neg hgo, if_pos hhdr, hreach]
  · rw [if_neg hhdr] at hreach
    simp only [execReadToClear, hloc, hrow, if_neg hgo, if_neg hhdr, answerRead_of_ownReach _ hreach]

/-- Settles O17: the answer is the value before the write, and the write is the event. -/
theorem readToClear : Obligations.ReadToClear := by
  intro mid a event b i off r s hloc hrow hacc hi hal hreach hev
  have hexec : exec (.readToClear mid a event) s =
      .next (emit (wrReg s a event) (.reg (midOf mid) a (rdReg s a))) := by
    rw [exec_readToClear, execReadToClear_of_reach hloc hrow hacc hi hal hreach, rcAfter_eq_event hev]
  refine ⟨_, hexec, rfl, ?holdsEvent, fun x hx => ?otherKept, rfl⟩
  case holdsEvent => rw [rdReg_congr (emit_regs ..), rdReg_wrReg_self]
  case otherKept => rw [rdReg_congr (emit_regs ..), rdReg_wrReg_ne s event hx]

end Sys2Proof.Machine
end

section
/-!
PROOF. Throttling (R17, R367, R371): every command of the throttle ends in `thrFell` of `raiseLevel` of a state that
differs from the old one by the demand alone, and each demand is a lower bound of the highest.
-/
namespace Sys2Proof.Machine

/-! ### Demands -/

/-- Each demand is at most the highest. -/
theorem le_demandMax {s : State} {src lvl : Nat} (h : (src, lvl) ∈ demands s) : lvl ≤ demandMax s :=
  mem_maxN (List.mem_map_of_mem (f := fun d => d.2) h)

theorem four_le_demandMax_of_inputLow {s : State} (h : s.edge.inputLow = true) : 4 ≤ demandMax s :=
  le_demandMax (src := 5) (by simp [demands, h])

theorem four_le_demandMax_of_brk {s : State} (h : s.thr.brk.asserted = true) : 4 ≤ demandMax s :=
  le_demandMax (src := 3) (by simp [demands, inOn, h])

theorem thrExt_le_demandMax_of_ext {s : State} (h : s.thr.ext.asserted = true) :
    fld (rdN s (thm 0x4C)) 2 0 ≤ demandMax s :=
  le_demandMax (src := 4) (by simp [demands, inOn, h])

/-! ### The level in force (R367) -/

theorem levelMhz_le (l : Nat) : levelMhz l ≤ 1750 := by
  unfold levelMhz
  split <;> decide

/-- CCLK's register holds the level's frequency for both dies. -/
theorem toNat_levelMhz_both (l : Nat) : (w32 (levelMhz l + 65536 * levelMhz l)).toNat = levelMhz l * 65537 := by
  have h := levelMhz_le l
  simp only [w32, BitVec.toNat_ofNat]
  omega

/-- A change of level: the level and its time, a change of capacity and CCLK, and then the stacks' classes. -/
theorem setLevel_eq (s : State) (l : Nat) : ∃ t, setLevel s l = trainSelectAll t ∧
    t.thr = { s.thr with level := l, since := s.time } ∧ t.deal = { s.deal with capChange := true } ∧
    rdN t 0x1080 = levelMhz l * 65537 := by
  refine ⟨_, rfl, ?thr, ?deal, ?cclk⟩
  case thr => simp
  case deal => simp [capacity]
  case cclk =>
    rw [rdN_congr (capacity_regs _), rdN_raiseIsr_ne _ _ (by decide), rdN_wrReg_self, toNat_levelMhz_both]

theorem raiseLevel_of_le {s : State} (h : demandMax s ≤ s.thr.level) : raiseLevel s = s :=
  if_neg (Nat.not_lt.2 h)

theorem raiseLevel_of_lt {s : State} (h : s.thr.level < demandMax s) :
    raiseLevel s = setLevel (bump s (thm 0x5C)) (demandMax s) :=
  if_pos h

theorem thrFell_of_fell {b s : State} (hb : s.thr.level ≤ demandMax b) (hs : demandMax s < s.thr.level) :
    thrFell b s = { s with thr := { s.thr with since := s.time } } :=
  if_pos ⟨hb, hs⟩

theorem thrFell_of_not_fell {b s : State} (h : demandMax b < s.thr.level ∨ s.thr.level ≤ demandMax s) :
    thrFell b s = s :=
  if_neg (by omega)

theorem execLevelFall_of_early {s : State} (h : s.time < s.thr.since + 10000000) : execLevelFall s = .next s :=
  if_neg fun ⟨_, _, _, hdue⟩ => by omega

theorem execLevelFall_of_due {s : State} (hu : hubUp s = true) (hl : 0 < s.thr.level)
    (hd : demandMax s < s.thr.level) (ht : s.thr.since + 10000000 ≤ s.time) :
    execLevelFall s = .next (setLevel s (s.thr.level - 1)) :=
  if_pos ⟨hu, hl, hd, ht⟩

/-! ### The inputs' bits in THM_IN (Table 14-12) -/

/-- The state whose demands `thrAfter` settles: the THM_IN bits that rose are in BLK_ISR. -/
def thrNoted (before s : State) : State :=
  let rose := (List.range 7).filter (fun i => bitN (thmIn s) i && !bitN (thmIn before) i)
  if rose.isEmpty then s else raiseIsr s 0x3000 (w32 (sumN (rose.map (fun i => 2 ^ i))))

theorem thrAfter_eq (before s : State) :
    thrAfter before s = thrFell before (raiseLevel (thrNoted before s)) := rfl

@[simp] theorem thrNoted_thr (before s : State) : (thrNoted before s).thr = s.thr := by
  unfold thrNoted; dsimp only; split <;> simp
@[simp] theorem thrNoted_edge (before s : State) : (thrNoted before s).edge = s.edge := by
  unfold thrNoted; dsimp only; split <;> simp
@[simp] theorem thrNoted_mem (before s : State) : (thrNoted before s).mem = s.mem := by
  unfold thrNoted; dsimp only; split <;> simp
@[simp] theorem thrNoted_deal (before s : State) : (thrNoted before s).deal = s.deal := by
  unfold thrNoted; dsimp only; split <;> simp
theorem rdN_thrNoted_ne {a : Nat} (before s : State) (h : a ≠ 0x3014) : rdN (thrNoted before s) a = rdN s a := by
  unfold thrNoted; dsimp only; split
  · rfl
  · exact rdN_raiseIsr_ne s _ h

@[simp] theorem mgmt_edge (s : State) (e : MEvent) :
    (mgmt s e).edge = { s.edge with events := s.edge.events ++ [e] } := rfl
@[simp] theorem mgmtOpt_thr (s : State) (e : Option MEvent) : (mgmtOpt s e).thr = s.thr := by cases e <;> rfl
@[simp] theorem mgmtOpt_mem (s : State) (e : Option MEvent) : (mgmtOpt s e).mem = s.mem := by cases e <;> rfl
@[simp] theorem mgmtOpt_deal (s : State) (e : Option MEvent) : (mgmtOpt s e).deal = s.deal := by cases e <;> rfl
@[simp] theorem mgmtOpt_regs (s : State) (e : Option MEvent) : (mgmtOpt s e).regs = s.regs := by cases e <;> rfl

/-! ### The throttle inputs (R371) -/

@[simp] theorem inEdge_asserted (s : State) (x : ThrIn) (a : Bool) (i : Nat) : (inEdge s x a i).1.asserted = a := rfl
@[simp] theorem inEdge_getLast? (s : State) (x : ThrIn) (a : Bool) (i : Nat) :
    (inEdge s x a i).1.edges.getLast? = some s.time := by
  simp [inEdge]

theorem inQuiet_iff {s : State} {x : ThrIn} :
    inQuiet s x = true ↔ ∀ e, x.edges.getLast? = some e → e + 1000000000 ≤ s.time := by
  unfold inQuiet
  cases x.edges.getLast? <;> simp

theorem inQuiet_eq_false_of_recent {s : State} {x : ThrIn} {e : Nat} (he : x.edges.getLast? = some e)
    (ht : s.time < e + 1000000000) : inQuiet s x = false := by
  simp [inQuiet, he, ht]

/-- PWRBRK# after a new accepted level, before its demand is settled. -/
def brkTaken (a : Bool) (s : State) : State :=
  mgmtOpt { s with thr := { s.thr with brk := (inEdge s s.thr.brk a 0).1 } } (inEdge s s.thr.brk a 0).2
/-- THROTTLE_N after a new accepted level, before its demand is settled. -/
def extTaken (a : Bool) (s : State) : State :=
  mgmtOpt { s with thr := { s.thr with ext := (inEdge s s.thr.ext a 1).1 } } (inEdge s s.thr.ext a 1).2

theorem execPwrbrk_of_change {a : Bool} {s : State} (hu : hubUp s = true) (ha : s.thr.brk.asserted ≠ a) :
    execPwrbrk a s = .next (thrFell s (raiseLevel (thrNoted s (brkTaken a s)))) :=
  if_neg (by simp [ha, hu])
theorem execThrottleN_of_change {a : Bool} {s : State} (hu : hubUp s = true) (ha : s.thr.ext.asserted ≠ a) :
    execThrottleN a s = .next (thrFell s (raiseLevel (thrNoted s (extTaken a s)))) :=
  if_neg (by simp [ha, hu])

@[simp] theorem brkTaken_thr (a : Bool) (s : State) :
    (brkTaken a s).thr = { s.thr with brk := (inEdge s s.thr.brk a 0).1 } := mgmtOpt_thr ..
@[simp] theorem brkTaken_mem (a : Bool) (s : State) : (brkTaken a s).mem = s.mem := mgmtOpt_mem ..
@[simp] theorem brkTaken_deal (a : Bool) (s : State) : (brkTaken a s).deal = s.deal := mgmtOpt_deal ..
@[simp] theorem extTaken_thr (a : Bool) (s : State) :
    (extTaken a s).thr = { s.thr with ext := (inEdge s s.thr.ext a 1).1 } := mgmtOpt_thr ..
@[simp] theorem extTaken_mem (a : Bool) (s : State) : (extTaken a s).mem = s.mem := mgmtOpt_mem ..
@[simp] theorem extTaken_deal (a : Bool) (s : State) : (extTaken a s).deal = s.deal := mgmtOpt_deal ..
@[simp] theorem extTaken_regs (a : Bool) (s : State) : (extTaken a s).regs = s.regs := mgmtOpt_regs ..

/-- PWRBRK# after it has been held, before its demand is settled. -/
def brkHeld (s : State) : State :=
  mgmt { s with thr := { s.thr with brk := { s.thr.brk with held := true } } } (.throttleHeld 0)
/-- THROTTLE_N after it has been held, before its demand is settled. -/
def extHeld (s : State) : State :=
  mgmt { s with thr := { s.thr with ext := { s.thr.ext with held := true } } } (.throttleHeld 1)

theorem execThrottleHeld_brk {s : State} (hu : hubUp s = true) (ha : s.thr.brk.asserted = true)
    (hh : s.thr.brk.held = false) (hq : inQuiet s s.thr.brk = true) :
    execThrottleHeld 0 s = .next (thrFell s (raiseLevel (thrNoted s (brkHeld s)))) := by
  simp [execThrottleHeld, brkHeld, thrAfter_eq, hu, ha, hh, hq]
theorem execThrottleHeld_ext {s : State} (hu : hubUp s = true) (ha : s.thr.ext.asserted = true)
    (hh : s.thr.ext.held = false) (hq : inQuiet s s.thr.ext = true) :
    execThrottleHeld 1 s = .next (thrFell s (raiseLevel (thrNoted s (extHeld s)))) := by
  simp [execThrottleHeld, extHeld, thrAfter_eq, hu, ha, hh, hq]
theorem execThrottleHeld_brk_of_recent {s : State} (hq : inQuiet s s.thr.brk = false) :
    execThrottleHeld 0 s = .next s := by
  simp [execThrottleHeld, hq]
theorem execThrottleHeld_ext_of_recent {s : State} (hq : inQuiet s s.thr.ext = false) :
    execThrottleHeld 1 s = .next s := by
  simp [execThrottleHeld, hq]

theorem execStormEnd_brk {s : State} (hu : hubUp s = true) (hq : inQuiet s s.thr.brk = true) :
    execStormEnd 0 s =
      .next (thrFell s { s with thr := { s.thr with brk := { s.thr.brk with storm := false } } }) := by
  simp [execStormEnd, hu, hq]
theorem execStormEnd_ext {s : State} (hu : hubUp s = true) (hq : inQuiet s s.thr.ext = true) :
    execStormEnd 1 s =
      .next (thrFell s { s with thr := { s.thr with ext := { s.thr.ext with storm := false } } }) := by
  simp [execStormEnd, hu, hq]
theorem execStormEnd_brk_of_recent {s : State} (hq : inQuiet s s.thr.brk = false) :
    execStormEnd 0 s = .next s := by
  simp [execStormEnd, hq]
theorem execStormEnd_ext_of_recent {s : State} (hq : inQuiet s s.thr.ext = false) :
    execStormEnd 1 s = .next s := by
  simp [execStormEnd, hq]

/-! ### THR_CAP and INPUT_LOW (R17, R367) -/

/-- THR_CAP by the PF or the dealer. -/
theorem execThrCap_of_reach {mid : Nat} {v : W32} {s : State} (hm : midOf mid = 1 ∨ midOf mid = 0x101)
    (hu : hubUp s = true) (hr : s.boot.recovery = false) :
    execThrCap mid v s = .next (thrFell s (raiseLevel (wrReg s (thm 0x48) (w32 (min (v.toNat % 8) 4))))) := by
  have hreach : pgReach s mid .thm = .yes := pgReach_pfOrDealer s hm hu hr (by decide)
  simp [execThrCap, pageAccess, hreach, opThrCap, thrSettle, fld]

theorem toNat_thrCap (n : Nat) : (w32 (min n 4)).toNat = min n 4 := by
  simp only [w32, BitVec.toNat_ofNat]
  omega

theorem execInputLow_of_high {s : State} (hu : hubUp s = true) (hi : s.edge.inputLow = false) :
    execInputLow s = .next (thrFell s (raiseLevel (thrNoted s
      (mgmt { s with edge := { s.edge with inputLow := true } } .inputLow)))) :=
  if_neg (by simp [hi, hu])

theorem execInputLowClear_of_up {s : State} (hu : hubUp s = true) :
    execInputLowClear s = .next (thrFell s { s with edge := { s.edge with inputLow := false } }) := by
  simp [execInputLowClear, hu]

/-! ### Settling O9 -/

/-- Settles O9: each command's next state is named by the lemma about it, and what is said of that state is read off
the update that made it. -/
theorem throttling : Obligations.Throttling := by
  refine ⟨⟨?thrCap, ?inputLow, ?inputLowClear, ?fell, ?early, ?levelFall, ?noRaise, ?raise⟩,
    ?pwrbrk, ?throttleN, ?brkHeld, ?extHeld, ?brkStorm, ?extStorm, ?recent⟩
  case thrCap =>
    intro mid v s hm hu hr
    exact ⟨_, execThrCap_of_reach hm hu hr, rfl, by rw [rdN_wrReg_self, toNat_thrCap]⟩
  case inputLow =>
    intro s hu hi
    exact ⟨_, execInputLow_of_high hu hi, by simp, by simp, four_le_demandMax_of_inputLow (by simp), by simp,
      by simp, by simp⟩
  case inputLowClear => exact fun s hu => execInputLowClear_of_up hu
  case fell => exact fun b s => ⟨thrFell_of_fell, thrFell_of_not_fell⟩
  case early => exact fun s h => execLevelFall_of_early h
  case levelFall =>
    intro s hu hl hd ht
    obtain ⟨t, hset, hthr, hdeal, hclk⟩ := setLevel_eq s (s.thr.level - 1)
    exact ⟨t, hset ▸ execLevelFall_of_due hu hl hd ht, hthr, hdeal, hclk⟩
  case noRaise => exact fun s h => raiseLevel_of_le h
  case raise =>
    intro s h
    obtain ⟨t, hset, hthr, hdeal, hclk⟩ := setLevel_eq (bump s (thm 0x5C)) (demandMax s)
    exact ⟨t, (raiseLevel_of_lt h).trans hset, by simpa using hthr, by simpa using hdeal, hclk⟩
  case pwrbrk =>
    intro a s hu ha
    exact ⟨_, execPwrbrk_of_change hu ha, by simp, by simp, by simp, by simp,
      fun h => four_le_demandMax_of_brk (by simp [h]), by simp, by simp⟩
  case throttleN =>
    intro a s hu ha
    refine ⟨_, execThrottleN_of_change hu ha, by simp, by simp, by simp, by simp,
      fun h => ?extFloor, by simp, by simp⟩
    case extFloor =>
      have hfloor : rdN (thrNoted s (extTaken a s)) (thm 0x4C) = rdN s (thm 0x4C) :=
        (rdN_thrNoted_ne _ _ (by decide)).trans (rdN_congr (by simp) _)
      exact hfloor ▸ thrExt_le_demandMax_of_ext (by simp [h])
  case brkHeld =>
    intro s hu ha hh hq
    exact ⟨_, execThrottleHeld_brk hu ha hh (inQuiet_iff.2 hq), by simp [brkHeld], by simp [brkHeld]⟩
  case extHeld =>
    intro s hu ha hh hq
    exact ⟨_, execThrottleHeld_ext hu ha hh (inQuiet_iff.2 hq), by simp [extHeld], by simp [extHeld]⟩
  case brkStorm => exact fun s hu hq => execStormEnd_brk hu (inQuiet_iff.2 hq)
  case extStorm => exact fun s hu hq => execStormEnd_ext hu (inQuiet_iff.2 hq)
  case recent =>
    intro e s
    refine ⟨fun he ht => ?brk, fun he ht => ?ext⟩
    case brk =>
      have hq := inQuiet_eq_false_of_recent he ht
      exact ⟨execThrottleHeld_brk_of_recent hq, execStormEnd_brk_of_recent hq⟩
    case ext =>
      have hq := inQuiet_eq_false_of_recent he ht
      exact ⟨execThrottleHeld_ext_of_recent hq, execStormEnd_ext_of_recent hq⟩

end Sys2Proof.Machine
end

section
/-!
PROOF. The optical engines (R25, R294, R295, R296): what leaving UP changes, and the lane map.
-/
namespace Sys2Proof.Machine

/-! ### An engine leaves UP (R295, R296) -/

/-- An engine depends on the fabric's record alone. -/
theorem getE_congr {s t : State} (h : t.fab = s.fab) (n : Nat) : getE t n = getE s n := by simp only [getE, h]

/-- A change of the fabric is the dealer's to hear of, and nothing else changes. -/
theorem fabChanged_eq (before s : State) : fabChanged before s = { s with deal := (fabChanged before s).deal } := by
  unfold fabChanged
  split
  · rfl
  · split <;> rfl
@[simp] theorem fabChanged_fab (before s : State) : (fabChanged before s).fab = s.fab := by rw [fabChanged_eq]
@[simp] theorem getE_fabChanged (before s : State) (n : Nat) : getE (fabChanged before s) n = getE s n :=
  getE_congr (fabChanged_fab ..) n

/-- An engine as it leaves UP for `st`: its link state starts afresh. -/
def Engine.left (x : Engine) (st : EngSt) : Engine :=
  { x with st := st, seq := 0, rxSeq := 0, replay := [], nakked := none, used := [], owed := [] }

/-- The fabric once engine `n` has left for `st`: its unacknowledged frames wait to be resent. -/
def Fab.left (f : Fab) (n : Nat) (x : Engine) (st : EngSt) : Fab :=
  { f with eng := spSet f.eng n (x.left st), resend := f.resend ++ x.replay.map (fun r => r.2) }

theorem engLeave_of_eq {s : State} {n : Nat} {st : EngSt} (h : (getE s n).st = st) : engLeave s n st = s :=
  if_pos h
theorem engLeave_of_ne {s : State} {n : Nat} {st : EngSt} (h : (getE s n).st ≠ st) :
    engLeave s n st = fabChanged s { s with fab := s.fab.left n (getE s n) st } :=
  if_neg h

/-- All that `engLeave` can change. -/
theorem engLeave_eq (s : State) (n : Nat) (st : EngSt) :
    engLeave s n st = { s with fab := (engLeave s n st).fab, deal := (engLeave s n st).deal } := by
  by_cases h : (getE s n).st = st
  · rw [engLeave_of_eq h]
  · rw [engLeave_of_ne h, fabChanged_eq]

theorem engLeave_fab_of_ne {s : State} {n : Nat} {st : EngSt} (h : (getE s n).st ≠ st) :
    (engLeave s n st).fab = s.fab.left n (getE s n) st := by
  rw [engLeave_of_ne h, fabChanged_fab]

theorem getE_engLeave_self_of_ne {s : State} {n : Nat} {st : EngSt} (h : (getE s n).st ≠ st) :
    getE (engLeave s n st) n = (getE s n).left st := by
  rw [getE, engLeave_fab_of_ne h]
  exact spGet_spSet_self ..

theorem getE_engLeave_ne (s : State) {n m : Nat} (st : EngSt) (h : m ≠ n) : getE (engLeave s n st) m = getE s m := by
  by_cases hst : (getE s n).st = st
  · rw [engLeave_of_eq hst]
  · rw [getE, engLeave_fab_of_ne hst]
    exact spGet_spSet_ne _ h

@[simp] theorem getE_engLeave_st (s : State) (n : Nat) (st : EngSt) : (getE (engLeave s n st) n).st = st := by
  by_cases h : (getE s n).st = st
  · rw [engLeave_of_eq h, h]
  · rw [getE_engLeave_self_of_ne h]; rfl
@[simp] theorem getE_engLeave_noLight (s : State) (n : Nat) (st : EngSt) :
    (getE (engLeave s n st) n).noLight = (getE s n).noLight := by
  by_cases h : (getE s n).st = st
  · rw [engLeave_of_eq h]
  · rw [getE_engLeave_self_of_ne h]; rfl
@[simp] theorem engLeave_blk (s : State) (n : Nat) (st : EngSt) : (engLeave s n st).blk = s.blk := by rw [engLeave_eq]

/-- A fibre that is gone or a dark far end: an engine that is UP leaves for TRAINING, any other is as it was. -/
theorem exec_fibreLost {i : Instr} {n : Nat} (s : State) (hi : i ∈ [Instr.dataFibreDisconnect n, .farEndLightLost n])
    (hn : n < 16) : exec i s = .next (if engUp s n = true then engLeave s n .training else s) := by
  have hcond : (n < 16 ∧ engUp s n = true) = (engUp s n = true) := by simp [hn]
  simp only [List.mem_cons, List.not_mem_nil, or_false] at hi
  rcases hi with rfl | rfl
  · change execDataFibreDisconnect n s = _
    simp only [execDataFibreDisconnect, hcond]
  · change execFarEndLightLost n s = _
    simp only [execFarEndLightLost, hcond]

/-! ### Laser inputs (R25, R295) -/

/-- Engine `n` without its laser input: DARK, unless its block is off or it is RETIRED. -/
def loseLight (s : State) (n : Nat) : State :=
  let y := setE s n { getE s n with noLight := true }
  if isOn y .opt n ∧ (getE y n).st ≠ .retired then engLeave y n .dark else y

theorem execLaserInputLost_of_lt {k : Nat} (hk : k < 4) (s : State) :
    execLaserInputLost k s = .next ((List.range 4).foldl (fun x i => loseLight x (4 * k + i)) s) :=
  if_neg (Nat.not_le.2 hk)

theorem loseLight_eq (s : State) (n : Nat) :
    loseLight s n = { s with fab := (loseLight s n).fab, deal := (loseLight s n).deal } := by
  unfold loseLight
  dsimp only
  split
  · rw [engLeave_eq]; rfl
  · rfl

theorem isOn_congr {s t : State} (h : t.blk = s.blk) (b : Blk) (i : Nat) : isOn t b i = isOn s b i := by
  simp only [isOn, blkState_congr h]

theorem getE_loseLight_ne (s : State) {n m : Nat} (h : m ≠ n) : getE (loseLight s n) m = getE s m := by
  unfold loseLight
  dsimp only
  split
  · rw [getE_engLeave_ne _ _ h, getE_setE_ne _ _ h]
  · exact getE_setE_ne _ _ h

theorem getE_loseLight_noLight (s : State) (n : Nat) : (getE (loseLight s n) n).noLight = true := by
  unfold loseLight
  dsimp only
  split <;> simp

theorem getE_loseLight_st {s : State} {n : Nat} (hon : isOn s .opt n = true) (hr : (getE s n).st ≠ .retired) :
    (getE (loseLight s n) n).st = .dark := by
  have hgo : isOn (setE s n { getE s n with noLight := true }) .opt n = true ∧
      (getE (setE s n { getE s n with noLight := true }) n).st ≠ .retired :=
    ⟨hon, by simpa using hr⟩
  rw [loseLight, if_pos hgo, getE_engLeave_st]

/-- The engines `k`, …, `k + j - 1` without their laser input. -/
theorem foldl_loseLight (k : Nat) (s : State) (j : Nat) :
    let t := (List.range j).foldl (fun x i => loseLight x (k + i)) s
    (∀ m, k ≤ m → m < k + j → (getE t m).noLight = true ∧
      (isOn s .opt m = true → (getE s m).st ≠ .retired → (getE t m).st = .dark)) ∧
    (∀ m, m < k ∨ k + j ≤ m → getE t m = getE s m) ∧ t = { s with fab := t.fab, deal := t.deal } := by
  induction j with
  | zero => exact ⟨fun m h1 h2 => absurd h2 (by omega), fun _ _ => rfl, rfl⟩
  | succ j ih =>
    rw [List.range_succ, List.foldl_append]
    generalize (List.range j).foldl (fun x i => loseLight x (k + i)) s = u at ih
    obtain ⟨hlost, hkept, hframe⟩ := ih
    refine ⟨fun m h1 h2 => ?lost, fun m h => ?kept, ?frame⟩
    case lost =>
      by_cases hm : m = k + j
      · subst hm
        refine ⟨getE_loseLight_noLight .., fun hon hr => getE_loseLight_st ?_ ?_⟩
        · rwa [isOn_congr (congrArg State.blk hframe :)]
        · rwa [hkept _ (by omega)]
      · have hne : getE (loseLight u (k + j)) m = getE u m := getE_loseLight_ne u hm
        simpa only [List.foldl_cons, List.foldl_nil, hne] using hlost m h1 (by omega)
    case kept => exact (getE_loseLight_ne u (by omega)).trans (hkept m (by omega))
    case frame =>
      change loseLight u (k + j) = _
      rw [loseLight_eq, hframe]
      rfl

/-- Engine `n` with its laser input back. -/
def regainLight (s : State) (n : Nat) : State := setE s n { getE s n with noLight := false }

@[simp] theorem getE_regainLight (s : State) (n : Nat) :
    getE (regainLight s n) n = { getE s n with noLight := false } :=
  getE_setE_self ..

/-- The laser input is back: a DARK engine whose clock runs trains. -/
theorem execLaserInputRestored_of_dark {n : Nat} {s : State} (hn : n < 16) (hon : isOn s .opt n = true)
    (hd : (getE s n).st = .dark) (hc : engClkLost s n = false) :
    execLaserInputRestored n s = .next (engLeave (regainLight s n) n .training) := by
  have hclk : engClkLost (regainLight s n) n = false := hc
  have hrest : engRest (regainLight s n) n = .training := by simp [engRest, hclk]
  have hgo : isOn (regainLight s n) .opt n = true ∧ (getE (regainLight s n) n).st = .dark :=
    ⟨hon, by simpa using hd⟩
  rw [← hrest]
  exact (if_neg (Nat.not_le.2 hn)).trans (congrArg Host.Outcome.next (if_pos hgo))

/-! ### Training (R295) -/

/-- The far end's topology, ring or position is not the one expected. -/
def farEndWrong (s : State) (n topo ring pos : Nat) : Bool :=
  decide (topo ≠ fabTopo s) || decide (ring ≠ fabRing s) ||
    (decide (2 ≤ fabN s) && decide (pos ≠ neighbour s (portOf s n)))

theorem farEndWrong_iff {s : State} {n topo ring pos : Nat} : farEndWrong s n topo ring pos = true ↔
    (topo ≠ fabTopo s ∨ ring ≠ fabRing s ∨ (2 ≤ fabN s ∧ pos ≠ neighbour s (portOf s n))) := by
  simp [farEndWrong, or_assoc]

/-- The errors a training that has heard the far end sets. -/
def trainErrs (s : State) (n ver topo ring pos : Nat) : State :=
  { s with fab := { s.fab with
      verErr := s.fab.verErr || decide (ver ≠ 0x100)
      topoErr := s.fab.topoErr || farEndWrong s n topo ring pos } }

/-- An engine in TRAINING whose block is ON and whose clock runs. -/
structure Trains (s : State) (n : Nat) : Prop where
  lt : n < 16
  on : isOn s .opt n = true
  st : (getE s n).st = .training
  clk : engClkLost s n = false

theorem execTrainingUp_of_trains {s : State} {n : Nat} (h : Trains s n) (ver topo ring pos : Nat) :
    execTrainingUp n ver topo ring pos s =
      (let u := trainErrs s n ver topo ring pos
       if ver ≠ 0x100 ∨ farEndWrong s n topo ring pos = true then .next u
       else .next (fabChanged u (setE u n { getE u n with st := .up }))) :=
  if_neg (by simp [h.lt, h.on, h.st, h.clk])

theorem execTrainingUp_of_expected {s : State} {n topo ring pos : Nat} (h : Trains s n)
    (hfar : farEndWrong s n topo ring pos = false) : execTrainingUp n 0x100 topo ring pos s =
      .next (fabChanged s (setE s n { getE s n with st := .up })) := by
  have hsame : trainErrs s n 0x100 topo ring pos = s := by simp [trainErrs, hfar]
  simp [execTrainingUp_of_trains h, hfar, hsame]

theorem execTrainingUp_of_wrong {s : State} {n ver topo ring pos : Nat} (h : Trains s n)
    (hbad : ver ≠ 0x100 ∨ farEndWrong s n topo ring pos = true) :
    execTrainingUp n ver topo ring pos s = .next (trainErrs s n ver topo ring pos) := by
  rw [execTrainingUp_of_trains h]
  exact if_pos hbad

theorem getE_execTrainingTimeout (n : Nat) (s : State) : ∃ t, execTrainingTimeout n s = .next t ∧
    (∀ m, getE t m = getE s m) ∧ t = { s with fab := t.fab } := by
  by_cases h : 16 ≤ n ∨ (getE s n).st ≠ .training
  · exact ⟨s, if_pos h, fun _ => rfl, rfl⟩
  · have hst : (getE s n).st = .training := Decidable.not_not.1 fun hne => h (.inr hne)
    refine ⟨_, if_neg h, fun m => ?_, rfl⟩
    by_cases hm : m = n
    · subst hm; rw [getE_setE_self, ← hst]
    · exact getE_setE_ne _ _ hm

/-! ### Bit fields -/

theorem testBit_fld (n hi lo j : Nat) : (fld n hi lo).testBit j = (decide (j < hi + 1 - lo) && n.testBit (lo + j)) := by
  simp [fld, Nat.testBit_mod_two_pow, Nat.testBit_div_two_pow, Nat.add_comm]

theorem fld_mod_two_pow {n hi m : Nat} (lo : Nat) (h : hi < m) : fld (n % 2 ^ m) hi lo = fld n hi lo := by
  refine Nat.eq_of_testBit_eq fun j => ?_
  simp only [testBit_fld, Nat.testBit_mod_two_pow]
  by_cases hj : j < hi + 1 - lo
  · simp [show lo + j < m by omega]
  · simp [hj]

/-- A number whose digit of weight `P` in base `K` is replaced by a smaller one than `K` stays below `P * K * R`. -/
theorem digit_replaced_lt {P K R a v c : Nat} (ha : a < P) (hv : v < K) (hc : c < R) :
    a + P * (v + K * c) < P * K * R := by
  have hdigits : v + K * c + 1 ≤ K * R :=
    calc v + K * c + 1 ≤ K * (c + 1) := by rw [Nat.mul_succ]; omega
      _ ≤ K * R := Nat.mul_le_mul_left K hc
  calc a + P * (v + K * c) < P * (v + K * c + 1) := by rw [Nat.mul_succ]; omega
    _ ≤ P * (K * R) := Nat.mul_le_mul_left P hdigits
    _ = P * K * R := (Nat.mul_assoc ..).symm

/-- A register with a field replaced: what lies below the field, the field, and what lies above it. -/
theorem toNat_putFld (w : W32) {hi lo : Nat} (v : Nat) (hlo : lo ≤ hi) (hhi : hi < 32) :
    (putFld w hi lo v).toNat = w.toNat % 2 ^ lo +
      2 ^ lo * (v % 2 ^ (hi + 1 - lo) + 2 ^ (hi + 1 - lo) * (w.toNat / 2 ^ lo / 2 ^ (hi + 1 - lo))) := by
  have hsize : 2 ^ lo * 2 ^ (hi + 1 - lo) * 2 ^ (31 - hi) = 2 ^ 32 := by
    rw [← Nat.pow_add, ← Nat.pow_add]; congr 1; omega
  simp only [putFld, fld, w32, BitVec.toNat_ofNat]
  have hP : 0 < 2 ^ lo := Nat.two_pow_pos lo
  have hK : 0 < 2 ^ (hi + 1 - lo) := Nat.two_pow_pos _
  have hn : w.toNat < 2 ^ lo * 2 ^ (hi + 1 - lo) * 2 ^ (31 - hi) := hsize ▸ w.isLt
  rw [← hsize]
  generalize 2 ^ lo = P at *
  generalize 2 ^ (hi + 1 - lo) = K at *
  generalize 2 ^ (31 - hi) = R at *
  generalize w.toNat = n at *
  have hc : n / P / K < R := by
    rw [Nat.div_div_eq_div_mul]; exact Nat.div_lt_of_lt_mul hn
  have hsplit : n = n % P + P * (n / P % K + K * (n / P / K)) := by rw [Nat.mod_add_div, Nat.mod_add_div]
  have hput : n - n / P % K * P + v % K * P = n % P + P * (v % K + K * (n / P / K)) := by
    rw [Nat.mul_comm _ P, Nat.mul_comm _ P, Nat.mul_add]
    rw [Nat.mul_add] at hsplit
    omega
  rw [hput, Nat.mod_eq_of_lt (digit_replaced_lt (Nat.mod_lt _ hP) (Nat.mod_lt _ hK) hc)]

theorem fld_putFld_self (w : W32) {hi lo v : Nat} (hlo : lo ≤ hi) (hhi : hi < 32) (hv : v < 2 ^ (hi + 1 - lo)) :
    fld (putFld w hi lo v).toNat hi lo = v := by
  have hlow : w.toNat % 2 ^ lo < 2 ^ lo := Nat.mod_lt _ (Nat.two_pow_pos lo)
  rw [toNat_putFld w v hlo hhi, fld, Nat.add_mul_div_left _ _ (Nat.two_pow_pos lo), Nat.div_eq_of_lt hlow, Nat.zero_add,
    Nat.add_mul_mod_self_left, Nat.mod_mod, Nat.mod_eq_of_lt hv]

/-- A field below the one replaced keeps its value. -/
theorem fld_putFld_below (w : W32) {hi lo h l : Nat} (v : Nat) (hlo : lo ≤ hi) (hhi : hi < 32) (hb : h < lo) :
    fld (putFld w hi lo v).toNat h l = fld w.toNat h l := by
  rw [← fld_mod_two_pow l hb, toNat_putFld w v hlo hhi, Nat.add_mul_mod_self_left, Nat.mod_mod, fld_mod_two_pow l hb]

theorem testBit_setBit_ne (w : W32) {i j : Nat} (h : j ≠ i) : (setBit w i).toNat.testBit j = w.toNat.testBit j := by
  have hw : w32 (2 ^ i) = BitVec.twoPow 32 i := BitVec.eq_of_toNat_eq (by simp [w32, BitVec.toNat_twoPow])
  change (setBit w i).getLsbD j = w.getLsbD j
  simp [setBit, hw, BitVec.getLsbD_twoPow, h.symm]

/-- A field below the bit set keeps its value. -/
theorem fld_setBit_below (w : W32) {i h : Nat} (l : Nat) (hb : h < i) :
    fld (setBit w i).toNat h l = fld w.toNat h l := by
  refine Nat.eq_of_testBit_eq fun j => ?_
  by_cases hj : j < h + 1 - l
  · rw [testBit_fld, testBit_fld, testBit_setBit_ne w (by omega)]
  · simp [testBit_fld, hj]

theorem bitN_setBit (w : W32) {i : Nat} (h : i < 32) : bitN (setBit w i).toNat i = true := by
  have hbit : (setBit w i).toNat.testBit i = true := bit_putBit w h true
  rw [Nat.testBit_eq_decide_div_mod_eq, decide_eq_true_eq] at hbit
  simp [bitN, hbit]

/-! ### Lanes (R294) -/

/-- OPT_LMAP once the lane's data has moved to the joker. -/
def lmapMoved (w : W32) (tx : Bool) (lane : Nat) : W32 :=
  if tx then setBit (putFld (putFld w 3 0 0xF) 11 8 lane) 16 else setBit (putFld (putFld w 7 4 0xF) 15 12 lane) 17

/-- Two fields written, the lower first, and a bit above them set: all three read back. -/
theorem fields_setBit_putFld_putFld (w : W32) {h1 l1 h2 l2 i u v : Nat} (hf1 : l1 ≤ h1) (h12 : h1 < l2)
    (hf2 : l2 ≤ h2) (h2i : h2 < i) (hi : i < 32) (hu : u < 2 ^ (h1 + 1 - l1)) (hv : v < 2 ^ (h2 + 1 - l2)) :
    let x := (setBit (putFld (putFld w h1 l1 u) h2 l2 v) i).toNat
    fld x h1 l1 = u ∧ fld x h2 l2 = v ∧ bitN x i = true := by
  refine ⟨?_, ?_, bitN_setBit _ hi⟩
  · rw [fld_setBit_below _ _ (by omega), fld_putFld_below _ _ hf2 (by omega) h12, fld_putFld_self _ hf1 (by omega) hu]
  · rw [fld_setBit_below _ _ h2i, fld_putFld_self _ hf2 (by omega) hv]

theorem lmapMoved_tx (w : W32) {lane : Nat} (h : lane < 9) : fld (lmapMoved w true lane).toNat 3 0 = 15 ∧
    fld (lmapMoved w true lane).toNat 11 8 = lane ∧ bitN (lmapMoved w true lane).toNat 16 = true :=
  fields_setBit_putFld_putFld w (by decide) (by decide) (by decide) (by decide) (by decide) (by decide) (by omega)

theorem lmapMoved_rx (w : W32) {lane : Nat} (h : lane < 9) : fld (lmapMoved w false lane).toNat 7 4 = 15 ∧
    fld (lmapMoved w false lane).toNat 15 12 = lane ∧ bitN (lmapMoved w false lane).toNat 17 = true :=
  fields_setBit_putFld_putFld w (by decide) (by decide) (by decide) (by decide) (by decide) (by decide) (by omega)

theorem laneMove_eq (s : State) (n : Nat) (tx : Bool) (lane : Nat) : laneMove s n tx lane =
    rasPut (wrReg s (optPg n + 0x44) (lmapMoved (rdReg s (optPg n + 0x44)) tx lane)) 0x07 2 .opt n lane lane := rfl

@[simp] theorem laneMove_fab (s : State) (n : Nat) (tx : Bool) (lane : Nat) : (laneMove s n tx lane).fab = s.fab := by
  rw [laneMove_eq, rasPut_fab, wrReg_fab]

/-- An engine's page lies above the RAS and journal pages. -/
theorem le_optPg (n : Nat) : 0x1A0000 ≤ optPg n := Nat.le_add_right ..

theorem rdN_laneMove (s : State) (n : Nat) (tx : Bool) (lane : Nat) :
    rdN (laneMove s n tx lane) (optPg n + 0x44) = (lmapMoved (rdReg s (optPg n + 0x44)) tx lane).toNat := by
  have h := le_optPg n
  rw [laneMove_eq, rdN_rasPut_ne _ _ _ _ _ _ _ (by omega) (by omega) (by omega), rdN_wrReg_self]

/-- An engine retired is RETIRED in its block's STATE and in its link's. -/
theorem blkState_engRetire (s : State) (n : Nat) : blkState (engRetire s n) .opt n = .retired := by
  rw [engRetire, blkState_congr (rasPut_blk ..), blkState_congr (capacity_blk _),
    blkState_setBlk _ (by decide) (by decide)]
theorem engRetire_fab (s : State) (n : Nat) : (engRetire s n).fab = (engLeave s n .retired).fab := by
  simp [engRetire]
theorem getE_engRetire_st (s : State) (n : Nat) : (getE (engRetire s n) n).st = .retired := by
  rw [getE_congr (engRetire_fab s n), getE_engLeave_st]
theorem getE_engRetire_ne (s : State) {n m : Nat} (h : m ≠ n) : getE (engRetire s n) m = getE s m := by
  rw [getE_congr (engRetire_fab s n), getE_engLeave_ne _ _ h]

/-- A lane that moves to the joker, told to the far end where this end began. -/
def laneMoved (s : State) (n : Nat) (tx : Bool) (lane : Nat) (told : Bool) : State :=
  if told then emit (laneMove s n tx lane) (.laneSwap n tx lane) else laneMove s n tx lane

theorem laneMoved_fab (s : State) (n : Nat) (tx : Bool) (lane : Nat) (told : Bool) :
    (laneMoved s n tx lane told).fab = s.fab := by
  cases told <;> simp [laneMoved]
theorem rdN_laneMoved (s : State) (n : Nat) (tx : Bool) (lane : Nat) (told : Bool) :
    rdN (laneMoved s n tx lane told) (optPg n + 0x44) = (lmapMoved (rdReg s (optPg n + 0x44)) tx lane).toNat := by
  rw [← rdN_laneMove]
  cases told <;> rfl

/-- A bad lane of an engine that is ON, found by either end: to the joker while one is free, else the engine is
retired. -/
theorem exec_laneBad {i : Instr} {far : Bool} {n lane : Nat} {tx : Bool} {s : State}
    (hi : (i, far) ∈ [(Instr.laneSwap n tx lane, false), (.laneRetire n tx lane, true)]) (hn : n < 16) (hl : lane < 9)
    (hon : isOn s .opt n = true) (hr : laneRetired s n tx lane = false) :
    exec i s = .next (if jokerFree s n tx = true then laneMoved s n tx lane far else engRetire s n) := by
  simp only [List.mem_cons, Prod.mk.injEq, List.not_mem_nil, or_false] at hi
  rcases hi with ⟨rfl, rfl⟩ | ⟨rfl, rfl⟩
  · have hgo : ¬ (16 ≤ n ∨ 9 ≤ lane ∨ (!isOn s .opt n) = true ∨ laneRetired s n tx lane = true) := by
      simp [hn, hl, hon, hr]
    change execLaneSwap n tx lane s = _
    simp only [execLaneSwap, if_neg hgo, laneMoved]
    split <;> rfl
  · have hgo : ¬ (16 ≤ n ∨ 9 ≤ lane ∨ (!isOn s .opt n) = true) := by simp [hn, hl, hon]
    change execLaneRetire n tx lane s = _
    simp only [execLaneRetire, if_neg hgo, retireLane, hr, laneMoved]
    rfl

/-- Settles O56: of each command the state after it is named, and the engines of that state are read off `engLeave`, the
lanes off the word that `laneMove` writes. -/
theorem opticalEngines : Obligations.OpticalEngines := by
  refine ⟨?fibre, ?laserLost, ?laserBack, ?trainingUp, ?timeout, ?lane⟩
  case fibre =>
    intro i n s hi hn
    refine ⟨fun hup => ?up, fun hup => ?other⟩
    case up =>
      have hst : (getE s n).st ≠ .training := by
        simp only [engUp, Bool.and_eq_true, beq_iff_eq] at hup
        simp [hup.2]
      have hfab := engLeave_fab_of_ne hst
      exact ⟨_, (exec_fibreLost s hi hn).trans (by rw [if_pos hup]), getE_engLeave_st ..,
        by rw [getE_engLeave_self_of_ne hst]; rfl, by rw [hfab]; rfl, by rw [hfab]; rfl,
        fun m hm => getE_engLeave_ne s _ hm, engLeave_eq ..⟩
    case other => rw [exec_fibreLost s hi hn, if_neg (by simp [hup])]
  case laserLost =>
    intro k s hk
    obtain ⟨hlost, hkept, hframe⟩ := foldl_loseLight (4 * k) s 4
    exact ⟨_, execLaserInputLost_of_lt hk s, fun m hm => hlost m (by omega) (by omega),
      fun m hm => hkept m (by omega), hframe⟩
  case laserBack =>
    intro n s hn hon hd hc
    refine ⟨_, execLaserInputRestored_of_dark hn hon hd hc, by simp, getE_engLeave_st .., fun m hm => ?_⟩
    rw [getE_engLeave_ne _ _ hm]
    exact getE_setE_ne s _ hm
  case trainingUp =>
    intro n ver topo ring pos s hn hon hst hc
    have htr : Trains s n := ⟨hn, hon, hst, hc⟩
    refine ⟨?expected, fun hbad => ?wrong⟩
    case expected =>
      rintro rfl htopo hring hpos
      have hfar : farEndWrong s n topo ring pos = false := by
        simpa [farEndWrong, htopo, hring] using hpos
      exact ⟨_, execTrainingUp_of_expected htr hfar, by simp, fun m hm => by simp [getE_setE_ne s _ hm],
        by simp [setE], by simp [setE]⟩
    case wrong =>
      refine ⟨_, execTrainingUp_of_wrong htr (hbad.imp_right farEndWrong_iff.2), rfl, fun hv => ?_,
        fun hf => ?_, rfl⟩
      · simp [trainErrs, hv]
      · simp [trainErrs, farEndWrong_iff.2 hf]
  case timeout => exact fun n s => getE_execTrainingTimeout n s
  case lane =>
    intro i n lane tx far s hi hn hl hon hr
    have hexec := exec_laneBad hi hn hl hon hr
    refine ⟨fun hj => ?moved, fun hj => ?retired⟩
    case moved =>
      rw [if_pos hj] at hexec
      refine ⟨_, hexec, fun m => getE_congr (laneMoved_fab ..) m, fun htx => ?tx, fun htx => ?rx, fun hfar => ?told⟩
      case tx => rw [rdN_laneMoved, htx]; exact lmapMoved_tx _ hl
      case rx => rw [rdN_laneMoved, htx]; exact lmapMoved_rx _ hl
      case told => rw [hfar]; exact List.mem_cons_self
    case retired =>
      rw [if_neg (by simp [hj])] at hexec
      exact ⟨_, hexec, blkState_engRetire s n, getE_engRetire_st s n, fun m hm => getE_engRetire_ne s hm⟩

end Sys2Proof.Machine
end

section
/-!
PROOF. Power and reset (R11, R20, R22, R404, R405, R407, R420): every way down ends in `freshHub`, so that what is left
to say is what reaches it, the pins, the clocks, the fuses, the flash and the debug unlock.
-/
namespace Sys2Proof.Machine

/-! ### What a cut-off burn or flash command changes (R423) -/

/-- All that `burnCut` can change. -/
theorem burnCut_eq (s : State) : burnCut s = { s with free := (burnCut s).free, fuses := (burnCut s).fuses } := by
  unfold burnCut
  split <;> rfl

/-- All that `flashCut` can change. -/
theorem flashCut_eq (s : State) :
    flashCut s = { s with free := (flashCut s).free, flash := (flashCut s).flash, sec := (flashCut s).sec } := by
  unfold flashCut
  split
  · dsimp only
    split <;> rfl
  · rfl

theorem flashCut_of_none {s : State} (h : s.sec.flashOp = none) : flashCut s = s := by
  simp only [flashCut, h]

/-! ### A flush of the journal (R397, R405) -/

/-- What the steps of a reset entry before the reset itself leave alone: the pins and the events, the sources that are
lost, and debug unlock. -/
structure FlushKept (s t : State) : Prop where
  edge : t.edge = s.edge
  clk : t.clk = s.clk
  unlocked : t.sec.unlocked = s.sec.unlocked
  unlockPending : t.sec.unlockPending = s.sec.unlockPending

theorem FlushKept.refl (s : State) : FlushKept s s := ⟨rfl, rfl, rfl, rfl⟩
theorem FlushKept.trans {s t u : State} (h : FlushKept s t) (g : FlushKept t u) : FlushKept s u :=
  ⟨g.edge.trans h.edge, g.clk.trans h.clk, g.unlocked.trans h.unlocked, g.unlockPending.trans h.unlockPending⟩

theorem flushKept_ite {c : Prop} [Decidable c] {s t u : State} (ht : FlushKept s t) (hu : FlushKept s u) :
    FlushKept s (if c then t else u) := by
  split
  · exact ht
  · exact hu

theorem flushKept_jrnCompactIf (s : State) : FlushKept s (jrnCompactIf s) := by
  unfold jrnCompactIf
  dsimp only
  split
  · exact .refl s
  · split <;> exact ⟨rfl, rfl, rfl, rfl⟩

theorem flushKept_jrnDue (s : State) : FlushKept s (jrnDue s) := by
  unfold jrnDue
  split
  · exact flushKept_jrnCompactIf s
  · exact .refl s

theorem flushKept_jrnProgram1 (s : State) : FlushKept s (jrnProgram1 s) := by
  unfold jrnProgram1
  split
  · exact .refl s
  · refine flushKept_ite (.refl s) (.trans ?programmed (flushKept_jrnDue _))
    refine ⟨rfl, rfl, ?_, ?_⟩ <;> dsimp only <;> split <;> rfl

theorem flushKept_jrnFlush (f : Nat) (s : State) : FlushKept s (jrnFlush f s) := by
  induction f generalizing s with
  | zero => exact .refl s
  | succ f ih =>
    unfold jrnFlush
    split
    · exact .refl s
    · exact (flushKept_jrnProgram1 s).trans (ih _)

theorem flushKept_flushAll (s : State) : FlushKept s (flushAll s) := by
  unfold flushAll
  split
  · exact flushKept_jrnFlush ..
  · exact .refl s

theorem flushKept_burnEnd (s : State) (n : Nat) : FlushKept s (burnEnd s n) := by
  unfold burnEnd
  constructor <;> simp

theorem flushKept_flashCut (s : State) : FlushKept s (flashCut s) := by
  unfold flashCut
  split
  · dsimp only
    split <;> exact ⟨rfl, rfl, rfl, rfl⟩
  · exact .refl s

/-- Reset entry: the journal flushed, a durable burn ended and a flash command cut off, the hub is at its reset
state. -/
theorem resetHub_eq (s : State) : ∃ u, FlushKept s u ∧ resetHub s = keepHubOn (noteLosses (freshHub u false)) := by
  refine ⟨_, ?_, rfl⟩
  refine .trans ?_ (flushKept_flashCut _)
  split
  · exact ((flushKept_flushAll s).trans (flushKept_burnEnd ..)).trans (flushKept_flushAll _)
  · exact flushKept_flushAll s

theorem execResetEntry_of_up {stages : Nat} {br : Bring} {s : State} (hp : s.edge.perst = false)
    (hu : s.edge.power = .up) (hc : s.clk.lost.contains .crystal = false) : execResetEntry stages br s =
      .next (bootRun br stages (resetHub { s with edge := { s.edge with perst := true } })) := by
  have hgo : ¬ (s.edge.power ≠ .up ∨ s.clk.lost.contains .crystal = true) := by rw [hu, hc]; decide
  simp only [execResetEntry, hp, if_neg hgo]
  rfl
theorem execResetEntry_of_down {stages : Nat} {br : Bring} {s : State} (hp : s.edge.perst = false)
    (hd : s.edge.power ≠ .up ∨ s.clk.lost.contains .crystal = true) : execResetEntry stages br s =
      .next { s with edge := { s.edge with perst := true } } := by
  simp only [execResetEntry, hp, if_pos hd]
  rfl

/-! ### The release of PERST# (R404, R407, R420) -/

/-- All that loading an instruction changes. -/
theorem tapLoad_eq (s : State) (i : Tap) : tapLoad s i = { s with out := (tapLoad s i).out, tap := i } := by
  unfold tapLoad
  dsimp only
  split
  · rfl
  · split <;> rfl

/-- The TAP at the release: an instruction that drives pins gives way to BYPASS. -/
def tapReleased (s : State) : State := if tapDrives s.tap then tapLoad s .bypass else s

theorem tapDrives_tapReleased (s : State) : tapDrives (tapReleased s).tap = false := by
  unfold tapReleased
  split
  · rw [tapLoad_eq]; rfl
  · exact Bool.eq_false_iff.2 ‹_›

/-- All that the release does to the TAP and its pins. -/
theorem tapReleased_eq (s : State) :
    tapReleased s = { s with out := (tapReleased s).out, tap := (tapReleased s).tap } := by
  unfold tapReleased
  split
  · rw [tapLoad_eq]
  · rfl

theorem execPerstRelease_of_asserted {stages : Nat} {br : Bring} {s : State} (hp : s.edge.perst = true) :
    execPerstRelease stages br s = .next (bootRun br stages { tapReleased s with
      edge := { s.edge with perst := false }, boot := { s.boot with reference := s.time } }) := by
  have hb : (tapReleased s).boot = s.boot := by rw [tapReleased_eq]
  have he : (tapReleased s).edge = s.edge := by rw [tapReleased_eq]
  rw [← hb, ← he]
  exact if_neg (by simp [hp])

/-! ### Hub power-good and power-down (R11, R20, R22) -/

/-- What leaves the device one after another changes nothing else. -/
theorem foldl_emit {α : Type} (f : α → Out) (l : List α) (s : State) :
    l.foldl (fun x a => emit x (f a)) s = { s with out := (l.map f).reverse ++ s.out } := by
  induction l generalizing s with
  | nil => rfl
  | cons a l ih =>
    rw [List.foldl_cons, ih]
    simp [emit]

/-- Hub power-good before the hub's own reset: the strap latched, the TAP and debug at reset, and `out` what has
left. -/
def latched (straps : Nat) (s : State) (out : List Out) : State :=
  { s with
    out := out, time := 0, tap := .idcode
    edge := { s.edge with power := .up, modid := straps % 8, modidChanged := false }
    sec := { s.sec with unlocked := false, unlockPending := false } }

theorem execHubPowerGood_of_ramping {straps stages : Nat} {br : Bring} {s : State} (h : s.edge.power = .ramping) :
    ∃ out, execHubPowerGood straps stages br s =
      .next (bootRun br stages (noteLosses (freshHub (latched straps s out) true))) := by
  refine ⟨((hubRails.reverse ++ dieRails.reverse).map (fun r => Out.rail r true)).reverse ++ s.out, ?_⟩
  rw [execHubPowerGood, if_neg (by simp [h])]
  simp only [foldl_emit]
  rfl

/-- R22's order, for a module that is up. -/
def downSteps : List Out :=
  [Out.faultPin true, .modulatorsDark] ++ (dieRails ++ hubRails).map (fun r => Out.rail r false)

theorem powerDownSteps_of_up {s : State} (h : s.edge.power = .up) :
    powerDownSteps s = { s with out := downSteps.reverse ++ s.out } := by
  simp only [powerDownSteps, if_pos h, railsRemoved, foldl_emit]
  simp [emit, downSteps]

/-- All that the steps of a power-down change before the hub loses what it holds. -/
theorem powerDownSteps_eq (s : State) : powerDownSteps s = { s with out := (powerDownSteps s).out } := by
  by_cases h : s.edge.power = .up
  · rw [powerDownSteps_of_up h]
  · simp only [powerDownSteps, if_neg h, foldl_emit]
    rfl

/-- The steps of R22 with a burn and a flash command cut off. -/
def powerCut (s : State) : State := powerDownSteps (flashCut (burnCut s))

/-- All that `powerCut` can change. -/
theorem powerCut_eq (s : State) : powerCut s = { s with
    free := (powerCut s).free, out := (powerCut s).out, fuses := (powerCut s).fuses, flash := (powerCut s).flash
    sec := (powerCut s).sec } := by
  rw [powerCut, powerDownSteps_eq, flashCut_eq, burnCut_eq]

theorem fuseLe_powerCut (s : State) : FuseLe s.fuses (powerCut s).fuses := by
  rw [powerCut, powerDownSteps_eq]
  exact (keep_flashCut (keep_burnCut (.refl s))).fuses

theorem powerCut_flash {s : State} (h : s.sec.flashOp = none) : (powerCut s).flash = s.flash := by
  have hop : (burnCut s).sec.flashOp = none := by rw [burnCut_eq]; exact h
  rw [powerCut, flashCut_of_none hop, powerDownSteps_eq, burnCut_eq]

theorem powerCut_out_of_up {s : State} (h : s.edge.power = .up) : (powerCut s).out = downSteps.reverse ++ s.out := by
  have hedge : (flashCut (burnCut s)).edge = s.edge := by rw [flashCut_eq, burnCut_eq]
  have hout : (flashCut (burnCut s)).out = s.out := by rw [flashCut_eq, burnCut_eq]
  rw [powerCut, powerDownSteps_of_up (by rw [hedge, h]), ← hout]

/-- The module once its last rail is down, before what the hub held is forgotten. -/
def railsDown (s : State) : State :=
  { powerCut s with
    tap := .idcode, edge := { s.edge with power := .off, modidChanged := false }
    sec := { (powerCut s).sec with unlocked := false, unlockPending := false } }

theorem execPowerDown_of_on {s : State} (h : s.edge.power ≠ .off) :
    execPowerDown s = .next (freshHub (railsDown s) false) := by
  have he : (powerCut s).edge = s.edge := by rw [powerCut_eq]
  rw [railsDown, ← he]
  exact if_neg h

/-- Settles O7: each command is `freshHub` of a named state, or the pin's level alone. -/
theorem powerAndReset : Obligations.PowerAndReset := by
  refine ⟨⟨?powerUp, ?hubPowerGood, ?powerDown⟩, ?resetEntry, ?pinAlone, ?perstRelease⟩
  case powerUp => exact fun s h => congrArg Host.Outcome.next (if_pos h)
  case hubPowerGood =>
    intro straps stages br s h
    obtain ⟨out, hexec⟩ := execHubPowerGood_of_ramping (straps := straps) (stages := stages) (br := br) h
    refine ⟨_, hexec, ?_⟩
    and_intros <;> rfl
  case powerDown =>
    intro s h
    have hqueue : (powerCut s).pending = s.pending := by rw [powerCut_eq]
    exact ⟨_, execPowerDown_of_on h, rfl, rfl, fuseLe_powerCut s, powerCut_flash, rfl, rfl, rfl, rfl, rfl, rfl, rfl,
      rfl, rfl, rfl, rfl, rfl, rfl, hqueue, powerCut_out_of_up⟩
  case resetEntry =>
    intro stages br s hp hu hc
    obtain ⟨u, hkept, hreset⟩ := resetHub_eq { s with edge := { s.edge with perst := true } }
    have hexec : exec (.resetEntry stages br) s =
        .next (bootRun br stages (keepHubOn (noteLosses (freshHub u false)))) :=
      hreset ▸ execResetEntry_of_up hp hu hc
    have hperst : (freshHub u false).edge.perst = true := congrArg Edge.perst hkept.edge
    have hdebug : (freshHub u false).sec.unlocked = (s.sec.unlocked || s.sec.unlockPending) := by
      rw [show (freshHub u false).sec.unlocked = (u.sec.unlocked || u.sec.unlockPending) from rfl, hkept.unlocked,
        hkept.unlockPending]
    exact ⟨_, hexec, rfl, rfl, rfl, rfl, rfl, rfl, rfl, rfl, rfl, rfl, rfl, rfl, rfl, rfl, rfl, rfl, rfl, rfl, hperst,
      hkept.clk, hdebug⟩
  case pinAlone => exact fun stages br s hp hd => execResetEntry_of_down hp hd
  case perstRelease =>
    intro stages br s hp
    refine ⟨_, execPerstRelease_of_asserted hp, rfl, rfl, tapDrives_tapReleased s, ?_, ?_, rfl⟩
    all_goals rw [tapReleased_eq]

end Sys2Proof.Machine
end

section
/-!
PROOF. Facts that the steps of a cluster share: the lists they fold over, how a step issues and runs at the head of its
queue (R79), what a fault leaves (R93), and what a command leaves beside its cluster.
-/
namespace Sys2Proof.Machine

/-! ### Lists and counters -/

/-- What no step of a fold changes, the fold does not change. -/
theorem foldl_keeps {α β γ : Type} {f : β → α → β} {g : β → γ} (hf : ∀ b a, g (f b a) = g b) :
    ∀ (l : List α) (b : β), g (l.foldl f b) = g b
  | [], _ => rfl
  | a :: l, b => (foldl_keeps hf l (f b a)).trans (hf b a)

theorem insertBy_perm {α : Type} (le : α → α → Bool) (a : α) : ∀ l : List α, (insertBy le a l).Perm (a :: l)
  | [] => .refl _
  | b :: t => by
    unfold insertBy
    split
    · exact ((insertBy_perm le a t).cons b).trans (.swap ..)
    · exact .refl _

theorem sortBy_perm {α : Type} (le : α → α → Bool) (l : List α) : (sortBy le l).Perm l := by
  have hfold : ∀ (l acc : List α), (l.foldl (fun acc a => insertBy le a acc) acc).Perm (acc ++ l) := by
    intro l
    induction l with
    | nil => intro acc; simp
    | cons a l ih =>
      intro acc
      exact (ih _).trans (((insertBy_perm le a acc).append_right l).trans List.perm_middle.symm)
  exact hfold l []

theorem le_sumN_of_mem : ∀ {l : List Nat} {a : Nat}, a ∈ l → a ≤ sumN l
  | b :: t, a, h => by
    rcases List.mem_cons.1 h with rfl | h
    · simp [sumN]
    · have := le_sumN_of_mem h
      simp only [sumN]; omega

/-- A counter that is at its last value and does not stop there takes a free value. -/
theorem bumpBy_free_of_wraps {s : State} {a n : Nat} (hfull : rdN s a = 0xFFFFFFFF) (hn : 0 < n)
    (hstop : ctrStops a = false) : (bumpBy s a n).free = s.free + 1 := by
  have hover : ¬ rdN s a + n ≤ 0xFFFFFFFF := by omega
  simp [bumpBy, hover, hstop, useFree]

/-! ### A cluster's sequencers -/

/-! Sequencer 64 is the cluster's own. -/
@[simp] theorem getS_cluster (k : Cluster) : getS k 64 = k.cseq := rfl
@[simp] theorem setS_cluster (k : Cluster) (x : Sequencer) : setS k 64 x = { k with cseq := x } := rfl

/-- Without a soft error in the deck cache nothing happens before the step issues (R75). -/
theorem deckEcc_none (s : State) (c q : Nat) : deckEcc s c q .none = s := by
  simp only [deckEcc]
  split <;> rfl

/-- A sequencer at a step of the opcode commanded issues it. -/
theorem issue_of_issues {s : State} {c q w op : Nat} {sel : Nat → Bool} {f : Cluster → Nat → State}
    (h : Issues s c q w) (hop : fld w 3 0 = op) (hsel : sel w = true) : issue s c q op sel f = f (getC s c) w := by
  subst hop
  obtain ⟨hrun, hst, hres, hword, hdeck, hrsv⟩ := h
  simp [issue, hrun, hst, hword, hdeck, hrsv, hsel, Option.isNone_eq_false_iff.2 hres]

/-- The first queued step runs by `f`. -/
theorem onArr_of_head {s : State} {c q op : Nat} {sel : Nat → Bool} {f : Cluster → ArrStep → State} {a : ArrStep}
    {tl : List ArrStep} (harr : (getS (getC s c) q).arr = a :: tl) (hrun : (getC s c).active = true)
    (hlive : seqLive (getS (getC s c) q) = true) (hop : fld a.w 3 0 = op) (hsel : sel a.w = true) :
    onArr s c q op sel f = f (getC s c) a := by
  simp [onArr, harr, hrun, hlive, hop, hsel]

/-- A stopped sequencer runs no queued step (R93). -/
theorem onArr_of_stopped {s : State} {c q op code : Nat} {sel : Nat → Bool} {f : Cluster → ArrStep → State}
    (hst : (getS (getC s c) q).st = .stopped code) : onArr s c q op sel f = s := by
  simp only [onArr, seqLive, hst]
  split <;> simp

/-- A cluster depends on the clusters' table alone. -/
theorem getC_congr {s t : State} (h : t.clu = s.clu) (c : Nat) : getC t c = getC s c := by simp only [getC, h]

/-- A fault that is not transient changes its cluster by stopping the sequencer (R93). -/
theorem getC_seqFault {s : State} {c q code : Nat} (hcode : faultTransient code = false) :
    getC (seqFault s c q code) c = setS (getC s c) q { getS (getC s c) q with st := .stopped code } := by
  have hclu : (seqFault s c q code).clu =
      (setC s c (setS (getC s c) q { getS (getC s c) q with st := .stopped code })).clu := by
    simp only [seqFault, hcode, Bool.false_eq_true, if_false]
    rfl
  rw [getC_congr hclu, getC_setC_self]

/-! ### What a command of a cluster leaves -/

/-- Where `t` is the state after a command of cluster `c` that left it as `k`: beside it only counters, sticky bits and free
values differ from `s`. -/
structure Leaves (s : State) (c : Nat) (k : Cluster) (t : State) : Prop where
  clu : getC t c = k
  others : ∀ e, e ≠ c → getC t e = getC s e
  frame : t = { s with clu := t.clu, regs := t.regs, free := t.free }

theorem leaves_setC (s : State) (c : Nat) (k : Cluster) : Leaves s c k (useFree (setC s c k)) :=
  ⟨getC_setC_self .., fun _ h => getC_setC_ne s k h, rfl⟩
theorem Leaves.orReg {s t : State} {c : Nat} {k : Cluster} (h : Leaves s c k t) (a : Nat) (m : W32) :
    Leaves s c k (orReg t a m) where
  clu := h.clu
  others := h.others
  frame := by rw [h.frame]; rfl

theorem Leaves.orReg_unless {s t : State} {c : Nat} {k : Cluster} (h : Leaves s c k t) (p : Prop) [Decidable p] (a : Nat)
    (m : W32) : Leaves s c k (if p then t else Machine.orReg t a m) := by
  split
  · exact h
  · exact h.orReg a m

end Sys2Proof.Machine
end

section
/-!
PROOF. Vector operations and combines (R99, R102, R109, R119, R120, R122): a VEC that is valid queues and runs at once,
its pass leaves the cluster as `vecLeft`, and a combine that all have sent is delivered to one participant after another.
-/
namespace Sys2Proof.Machine

/-! ### A VEC issues and runs -/

/-- The VEC step with word `w` as it issues at the cluster sequencer of `k`. -/
def vecStep (k : Cluster) (w : Nat) : ArrStep := { pc := k.cseq.pc, w := w, drop := k.cseq.drop, ar := k.cseq.ar }
/-- Cluster `k` once that step, with none before it, has issued. -/
def vecQueued (k : Cluster) (w : Nat) : Cluster :=
  { k with cseq := { k.cseq with pc := k.cseq.pc + 1, arr := [vecStep k w] } }

/-- A VEC that passes its checks queues, and runs at once where no earlier one is in the queue. -/
theorem execVec_of_valid {s : State} {c w : Nat} {o : VOp} (h : Issues s c 64 w) (hop : fld w 3 0 = 5)
    (hvec : vecOf (getC s c) w = some o) (hok : vopOk o (fld w 38 32) = true)
    (hfmt : o.stages.all stageFmtOk = true) (harr : (getC s c).cseq.arr = []) :
    execVec c .none s = .next (vecRun (setC s c (vecQueued (getC s c) w)) c .none (vecQueued (getC s c) w)
      (vecStep (getC s c) w)) := by
  have hissue : issue s c 64 5 (fun _ => true) (fun k w => opVec s c k w) = setC s c (vecQueued (getC s c) w) := by
    rw [issue_of_issues h hop rfl]
    simp [opVec, hvec, hok, hfmt, arrPush, harr, vecQueued, vecStep]
  have hst : (getC s c).cseq.st = .issue := h.st
  have hrun := onArr_of_head (s := setC s c (vecQueued (getC s c) w)) (c := c) (q := 64) (op := 5) (sel := fun _ => true)
    (f := fun k a => vecRun (setC s c (vecQueued (getC s c) w)) c .none k a) (a := vecStep (getC s c) w) (tl := [])
    (by simp [vecQueued]) (by simpa [vecQueued] using h.run) (by simp [vecQueued, seqLive, hst]) hop rfl
  simp only [execVec, deckEcc_none, hissue, hrun, getC_setC_self]

/-- A VEC that fails a check stops its sequencer, and nothing runs. -/
theorem execVec_of_fault {s : State} {c w code : Nat} (h : Issues s c 64 w) (hop : fld w 3 0 = 5)
    (hcode : faultTransient code = false) (hvec : opVec s c (getC s c) w = seqFault s c 64 code) :
    execVec c .none s = .next (seqFault s c 64 code) := by
  have hst : (getS (getC (seqFault s c 64 code) c) 64).st = .stopped code := by rw [getC_seqFault hcode]; rfl
  simp only [execVec, deckEcc_none, issue_of_issues h hop, hvec, onArr_of_stopped hst]

/-- Rows that are not FULL leave the step queued (R99). -/
theorem vecRun_of_notFull {s : State} {c : Nat} {up : Upset} {k : Cluster} {a : ArrStep} {o : VOp}
    (hvec : vecOf k a.w = some o) (hwait : (vopReads o (fld a.w 38 32)).any (fun r => !k.full.contains r) = true) :
    vecRun s c up k a = s := by
  simp only [vecRun, hvec, hwait, or_true, if_true]

/-- The result of an operation's reduction: rows, positions and TX_RANGE (R116). -/
def vecResult (o : VOp) (a : ArrStep) (p : VPass) : List Row × List Nat × Bool :=
  if voRop o = 0 then ([], [], false) else reduceRows (a.ar.getD (fld o.h 57 56) 0) o p.tap

theorem vecResult_of_reduction {o : VOp} {a : ArrStep} {p : VPass} (h : voRop o ≠ 0) :
    vecResult o a p = reduceRows (a.ar.getD (fld o.h 57 56) 0) o p.tap := if_neg h

/-- The place of an operation among those of its scope in the deck of `k` (R120). -/
def vecOrd (k : Cluster) (o : VOp) (a : ArrStep) : Nat :=
  match deckOf k 64 with
  | some d => ((xrSteps d (voXr o)).filter (fun pc => decide (pc < a.pc))).length
  | none => 0

/-- The combine an operation enters (R120). -/
def vecXr (k : Cluster) (o : VOp) (a : ArrStep) (p : VPass) : Xr :=
  { ord := vecOrd k o a, n := fld a.w 38 32 / 2 ^ voRgrl o, scope := voXr o, rop := voRop o, rgrl := voRgrl o
    ktop := voKtop o, rtb := voRtb o, rrow := voRrow o, rows := (vecResult o a p).1, pos := (vecResult o a p).2.1 }

/-- What an operation's pass leaves of cluster `c`, once `k`: its rows written, and its step complete or in a combine. -/
def vecLeft (c : Nat) (k : Cluster) (o : VOp) (a : ArrStep) (p : VPass) : Cluster :=
  let k1 := vecWrite (getC p.s c) o (fld a.w 38 32) p
  if voXr o = 0 ∨ voRop o = 0 then
    vecFinish (putResult p.s k1 (voRop o) (voRtb o) (voRrow o) (vecResult o a p).1 (vecResult o a p).2.1) o a.w
  else { k1 with xr := some (vecXr k o a p) }

/-- A VEC whose rows are FULL and agree with their check bits passes and leaves its cluster as `vecLeft`. -/
theorem vecRun_of_ready {s : State} {c : Nat} {k : Cluster} {a : ArrStep} {o : VOp} {p : VPass}
    (hvec : vecOf k a.w = some o) (hxr : k.xr = none)
    (hfull : (vopReads o (fld a.w 38 32)).all (fun r => k.full.contains r) = true)
    (hchk : vecChk k o (fld a.w 38 32) = true) (hp : p = vecPass s c k o (fld a.w 38 32))
    (hfmt : p.fl.format = false) :
    Leaves p.s c (vecLeft c k o a p) (vecRun s c .none k a) := by
  have hwait : (vopReads o (fld a.w 38 32)).any (fun r => !k.full.contains r) = false := by
    simpa using hfull
  subst hp
  simp only [vecRun, hvec, hxr, hwait, hchk, hfmt, Option.isSome_none, Bool.false_eq_true, or_self, if_false,
    Bool.not_true, reduceCtorEq]
  exact (leaves_setC ..).orReg_unless ..

/-- An operation without a reduction completes with its rows written. -/
theorem vecLeft_of_noReduction {c : Nat} {k : Cluster} {o : VOp} {a : ArrStep} {p : VPass} (h : voRop o = 0) :
    vecLeft c k o a p = vecFinish (vecWrite (getC p.s c) o (fld a.w 38 32) p) o a.w := by
  simp only [vecLeft, vecResult, h, or_true, if_true]
  rfl
/-- A reduction within the cluster completes with its result rows in the tile buffers. -/
theorem vecLeft_of_local {c : Nat} {k : Cluster} {o : VOp} {a : ArrStep} {p : VPass} (hrop : voRop o ≠ 0)
    (hxr : voXr o = 0) :
    vecLeft c k o a p = vecFinish (putResult p.s (vecWrite (getC p.s c) o (fld a.w 38 32) p) (voRop o) (voRtb o)
      (voRrow o) (reduceRows (a.ar.getD (fld o.h 57 56) 0) o p.tap).1
      (reduceRows (a.ar.getD (fld o.h 57 56) 0) o p.tap).2.1) o a.w := by
  simp only [vecLeft, vecResult_of_reduction hrop, hxr, true_or, if_true]
/-- A combined reduction sends its result rows and waits (R120). -/
theorem vecLeft_of_combined {c : Nat} {k : Cluster} {o : VOp} {a : ArrStep} {p : VPass} (hrop : voRop o ≠ 0)
    (hxr : voXr o ≠ 0) :
    vecLeft c k o a p = { vecWrite (getC p.s c) o (fld a.w 38 32) p with xr := some (vecXr k o a p) } := by
  simp only [vecLeft, hxr, hrop, or_self, if_false]

/-! ### Combines (R119, R120) -/

@[simp] theorem setFull_xr (k : Cluster) (r : Nat) : (setFull k r).xr = k.xr := by unfold setFull; split <;> rfl
@[simp] theorem setFull_cseq (k : Cluster) (r : Nat) : (setFull k r).cseq = k.cseq := by unfold setFull; split <;> rfl
@[simp] theorem tileWr_xr (k : Cluster) (r : Nat) (v : Row) : (tileWr k r v).xr = k.xr := rfl
@[simp] theorem tileWr_cseq (k : Cluster) (r : Nat) (v : Row) : (tileWr k r v).cseq = k.cseq := rfl

/-- Result rows go to the tile buffers: whatever neither row write changes stays. -/
theorem putResult_keeps {γ : Type} {g : Cluster → γ} (hg : ∀ k r v, g (setFull (tileWr k r v) r) = g k) (s : State)
    (k : Cluster) (rop rtb rrow : Nat) (rows : List Row) (pos : List Nat) :
    g (putResult s k rop rtb rrow rows pos) = g k := by
  unfold putResult
  split
  · exact (hg ..).trans (foldl_keeps (fun _ _ => hg ..) ..)
  · exact (foldl_keeps (fun _ _ => hg ..) ..).trans (foldl_keeps (fun _ _ => hg ..) ..)
  · exact foldl_keeps (fun _ _ => hg ..) ..

@[simp] theorem vecFinish_xr (k : Cluster) (o : VOp) (w : Nat) : (vecFinish k o w).xr = k.xr := by
  unfold vecFinish; dsimp only; split <;> rfl
@[simp] theorem vecFinish_cseq (k : Cluster) (o : VOp) (w : Nat) : (vecFinish k o w).cseq = arrDone k.cseq := by
  unfold vecFinish; dsimp only; split <;> rfl

/-- A participant that has sent its rows and waits: a combine is open there, with its VEC at the head of the queue. -/
def Sent (k : Cluster) : Prop := ∃ z a tl o, k.xr = some z ∧ k.cseq.arr = a :: tl ∧ vecOf k a.w = some o

theorem xrDeliver_of_notSent {s : State} {m : Nat} {r : Partial} (h : ¬ Sent (getC s m)) : xrDeliver s m r = s := by
  simp only [xrDeliver]
  split
  next z a tl hxr harr =>
    split
    next o hvec => exact absurd ⟨z, a, tl, o, hxr, harr, hvec⟩ h
    next => rfl
  next => rfl

/-- The delivery at a participant that waits closes its combine and completes its step. -/
theorem xrDeliver_of_sent {s : State} {m : Nat} {r : Partial} (h : Sent (getC s m)) :
    ∃ k, Leaves s m k (xrDeliver s m r) ∧ k.xr = none ∧ k.cseq = arrDone (getC s m).cseq := by
  obtain ⟨z, a, tl, o, hxr, harr, hvec⟩ := h
  refine ⟨vecFinish (putResult s { getC s m with xr := none } z.rop z.rtb z.rrow r.rows r.pos) o a.w, ?_, ?_, ?_⟩
  · simp only [xrDeliver, hxr, harr, hvec]
    split
    · exact (leaves_setC ..).orReg ..
    · exact leaves_setC ..
  · rw [vecFinish_xr, putResult_keeps (g := (·.xr)) (by simp)]
  · rw [vecFinish_cseq, putResult_keeps (g := (·.cseq)) (by simp)]

theorem not_sent_of_closed {k : Cluster} (h : k.xr = none) : ¬ Sent k := by
  rintro ⟨z, -, -, -, hxr, -⟩
  simp [h] at hxr

/-- A delivery changes its participant's cluster alone. -/
theorem getC_xrDeliver_ne {s : State} {m e : Nat} {r : Partial} (h : e ≠ m) : getC (xrDeliver s m r) e = getC s e := by
  by_cases hs : Sent (getC s m)
  · obtain ⟨k, hleaves, -⟩ := xrDeliver_of_sent (r := r) hs
    exact hleaves.others e h
  · rw [xrDeliver_of_notSent hs]

/-- Beside clusters a delivery changes registers and free values only. -/
theorem xrDeliver_frame (s : State) (m : Nat) (r : Partial) :
    ∃ cl rg f, xrDeliver s m r = { s with clu := cl, regs := rg, free := f } := by
  by_cases hs : Sent (getC s m)
  · obtain ⟨k, hleaves, -⟩ := xrDeliver_of_sent (r := r) hs
    exact ⟨_, _, _, hleaves.frame⟩
  · exact ⟨_, _, _, xrDeliver_of_notSent hs⟩

/-- The combined rows delivered at each participant in turn. -/
def deliverAll (r : Partial) (ms : List Nat) (s : State) : State := ms.foldl (fun y m => xrDeliver y m r) s

theorem deliverAll_cons (r : Partial) (m : Nat) (ms : List Nat) (s : State) :
    deliverAll r (m :: ms) s = deliverAll r ms (xrDeliver s m r) := rfl

theorem getC_deliverAll_of_not_mem {r : Partial} {e : Nat} : ∀ {ms : List Nat} {s : State}, e ∉ ms →
    getC (deliverAll r ms s) e = getC s e
  | [], _, _ => rfl
  | m :: ms, s, h => by
    rw [List.mem_cons, not_or] at h
    rw [deliverAll_cons, getC_deliverAll_of_not_mem h.2, getC_xrDeliver_ne h.1]

/-- A closed participant is not delivered to again. -/
theorem getC_deliverAll_of_closed {r : Partial} {e : Nat} : ∀ {ms : List Nat} {s : State}, (getC s e).xr = none →
    getC (deliverAll r ms s) e = getC s e
  | [], _, _ => rfl
  | m :: ms, s, h => by
    have hhead : getC (xrDeliver s m r) e = getC s e := by
      by_cases hm : e = m
      · rw [xrDeliver_of_notSent (hm ▸ not_sent_of_closed h)]
      · exact getC_xrDeliver_ne hm
    rw [deliverAll_cons, getC_deliverAll_of_closed (hhead ▸ h), hhead]

/-- Every participant that waits is closed, its step complete. -/
theorem getC_deliverAll_of_sent {r : Partial} {e : Nat} {ms : List Nat} {s : State} (hmem : e ∈ ms)
    (hsent : Sent (getC s e)) : (getC (deliverAll r ms s) e).xr = none ∧
      (getC (deliverAll r ms s) e).cseq = arrDone (getC s e).cseq := by
  induction ms generalizing s with
  | nil => cases hmem
  | cons m ms ih =>
    rw [deliverAll_cons]
    by_cases hm : e = m
    · subst hm
      obtain ⟨k, hleaves, hxr, hseq⟩ := xrDeliver_of_sent (r := r) hsent
      rw [getC_deliverAll_of_closed (hleaves.clu ▸ hxr), hleaves.clu]
      exact ⟨hxr, hseq⟩
    · have hhead : getC (xrDeliver s m r) e = getC s e := getC_xrDeliver_ne hm
      rw [← hhead] at hsent ⊢
      exact ih (List.mem_of_ne_of_mem hm hmem) hsent

theorem deliverAll_frame {r : Partial} : ∀ (ms : List Nat) (s : State),
    ∃ cl rg f, deliverAll r ms s = { s with clu := cl, regs := rg, free := f }
  | [], _ => ⟨_, _, _, rfl⟩
  | m :: ms, s => by
    obtain ⟨cl, rg, f, hhead⟩ := xrDeliver_frame s m r
    obtain ⟨cl', rg', f', htail⟩ := deliverAll_frame (r := r) ms (xrDeliver s m r)
    exact ⟨cl', rg', f', by rw [deliverAll_cons, htail, hhead]⟩

theorem treeLevel_ne_nil {α : Type} (f : α → α → α) {l : List α} (h : l ≠ []) : treeLevel f l ≠ [] := by
  unfold treeLevel
  split <;> simp_all

/-- The tree over at least one partial has a result (R119). -/
theorem treeFold_ne_nil {α : Type} (f : α → α → α) : ∀ (n : Nat) {l : List α}, l ≠ [] → treeFold f n l ≠ []
  | 0, _, h => h
  | n + 1, l, h => by
    unfold treeFold
    split
    · exact h
    · exact treeFold_ne_nil f n (treeLevel_ne_nil f h)

/-- A participant that has sent what the combine `x` asks for (R120). -/
def SentFor (x : Xr) (k : Cluster) : Prop :=
  ∃ z a tl o, k.xr = some z ∧ z.scope = x.scope ∧ z.ord = x.ord ∧ z.rop = x.rop ∧ z.rgrl = x.rgrl ∧ z.ktop = x.ktop ∧
    k.cseq.arr = a :: tl ∧ vecOf k a.w = some o

theorem SentFor.sent {x : Xr} {k : Cluster} (h : SentFor x k) : Sent k := by
  obtain ⟨z, a, tl, o, hxr, -, -, -, -, -, harr, hvec⟩ := h
  exact ⟨z, a, tl, o, hxr, harr, hvec⟩

/-- When every participant has sent, each is delivered the combined rows. -/
theorem execXrCombine_of_sent {s : State} {c : Nat} {x : Xr} (hxr : (getC s c).xr = some x) (hne : xrMembers s c x ≠ [])
    (hsent : ∀ m ∈ xrMembers s c x, SentFor x (getC s m)) :
    ∃ r ms, ms.Perm (xrMembers s c x) ∧ execXrCombine c s = .next (deliverAll r ms s) := by
  have hperm := sortBy_perm (fun a b => decide (lclu s a ≤ lclu s b)) (xrMembers s c x)
  simp only [execXrCombine, hxr]
  generalize sortBy (fun a b => decide (lclu s a ≤ lclu s b)) (xrMembers s c x) = ms at hperm ⊢
  have hms : ∀ m ∈ ms, SentFor x (getC s m) := fun m hm => hsent m (hperm.mem_iff.1 hm)
  rw [if_neg ?sameCombine, if_neg ?sameShape]
  case sameCombine =>
    simp only [List.any_map, List.any_eq_true, not_exists, not_and]
    intro m hm
    obtain ⟨z, -, -, -, hz, hscope, hord, -⟩ := hms m hm
    simp [hz, hscope, hord]
  case sameShape =>
    simp only [List.any_map, List.any_eq_true, not_exists, not_and]
    intro m hm
    obtain ⟨z, -, -, -, hz, -, -, hrop, hrgrl, hktop, -⟩ := hms m hm
    simp [hz, hrop, hrgrl, hktop]
  split
  next r _ htree => exact ⟨r, ms, hperm, rfl⟩
  next htree =>
    refine absurd htree (treeFold_ne_nil _ _ ?_)
    obtain ⟨m, hm⟩ := List.exists_mem_of_ne_nil ms fun h => hne (List.nil_perm.1 (h ▸ hperm))
    obtain ⟨z, -, -, -, hz, -⟩ := hms m hm
    exact List.ne_nil_of_mem (List.mem_filterMap.2 ⟨some z, List.mem_map.2 ⟨m, hm, hz⟩, rfl⟩)

/-! ### Settling O36 -/

/-- Settles O36: a VEC's outcome is `vecLeft` of its pass or the state it queued in, and a combine is one delivery to each
participant. -/
theorem vectorSteps : Obligations.VectorSteps := by
  refine ⟨?runs, ?waits, ?faults, ?combines, ?hangs⟩
  case runs =>
    intro c w nrow o p a s s1 h hop hnrow hvec hok hfmt harr hxr ha hs1 hfull hchk hp hflag
    subst ha hnrow hs1
    have hk : getC (setC s c (vecQueued (getC s c) w)) c = vecQueued (getC s c) w := getC_setC_self ..
    have hp' : p = vecPass (setC s c (vecQueued (getC s c) w)) c (vecQueued (getC s c) w) o (fld w 38 32) :=
      hp.trans (congrArg (vecPass _ c · o _) hk)
    have hexec := execVec_of_valid h hop hvec hok hfmt harr
    have hleaves := vecRun_of_ready (s := setC s c (vecQueued (getC s c) w)) (c := c) (k := vecQueued (getC s c) w)
      (a := vecStep (getC s c) w) hvec hxr hfull hchk hp' hflag
    refine ⟨fun hrop => ?noReduction, fun hrop hscope => ?inCluster, fun hrop hscope => ?combined⟩
    case noReduction =>
      exact ⟨_, hexec, hleaves.clu.trans (vecLeft_of_noReduction hrop), hleaves.others, hleaves.frame⟩
    case inCluster =>
      exact ⟨_, hexec, hleaves.clu.trans (vecLeft_of_local hrop hscope), hleaves.others, hleaves.frame⟩
    case combined =>
      have hclu := hleaves.clu.trans (vecLeft_of_combined hrop hscope)
      have hresult := vecResult_of_reduction (a := vecStep (getC s c) w) (p := p) hrop
      exact ⟨_, vecXr (vecQueued (getC s c) w) o (vecStep (getC s c) w) p, hexec, congrArg Cluster.xr hclu, rfl, rfl, rfl,
        rfl, congrArg (fun y => y.1) hresult, congrArg (fun y => y.2.1) hresult, hclu, hleaves.others, hleaves.frame⟩
  case waits =>
    intro c w o s h hop hvec hok hfmt harr hwait
    exact (execVec_of_valid h hop hvec hok hfmt harr).trans (congrArg _ (vecRun_of_notFull hvec hwait))
  case faults =>
    intro c w o s h hop hvec
    refine ⟨fun hok => ?_, fun hok hfmt => ?_⟩
    · exact execVec_of_fault h hop rfl (by simp [opVec, hvec, hok])
    · exact execVec_of_fault h hop rfl (by simp [opVec, hvec, hok, hfmt])
  case combines =>
    intro c x s hxr hne hsent
    obtain ⟨r, ms, hperm, hexec⟩ := execXrCombine_of_sent hxr hne hsent
    refine ⟨_, hexec, fun m hm => ?_, fun e he => ?_, ?_⟩
    · exact getC_deliverAll_of_sent (hperm.mem_iff.2 hm) (SentFor.sent (hsent m hm))
    · exact getC_deliverAll_of_not_mem (mt hperm.mem_iff.1 he)
    · obtain ⟨cl, rg, f, hframe⟩ := deliverAll_frame (r := r) ms s
      rw [hframe]
  case hangs =>
    intro c x s hxr
    show execXrTimeout c s = _
    simp only [execXrTimeout, hxr]

end Sys2Proof.Machine
end

section
/-!
PROOF. MAC (R82, R84): the statement bounds no cluster index. SAT_CNT stops at its last value on the pages of the 68
clusters (Table 3-19); at the address that index 68 gives it is no such counter, and a clamp there takes a free value,
where the statement has only clusters and registers change.
-/
namespace Sys2Proof.Machine

/-! ### A group served to one slot -/

/-- The cell pair of array row `r` and column `j` over one group (R64, R66). -/
def pairCell (sl : Slot) (cols : List Group) (acts : List (List Int)) (r j : Nat) : Cell :=
  cellGroup 0 { acc := sl.acc.getD (64 * r + j) 0, res := sl.res.getD (64 * r + j) 0 }
    (cols.getD j (List.replicate 256 (0, false))) (acts.getD r [])

theorem slotGroup_sats_ge {sl : Slot} {cols : List Group} {acts : List (List Int)} {rows r j : Nat} (hr : r < 32)
    (hj : j < 64) : (pairCell sl cols acts r j).sats ≤ (slotGroup sl cols acts rows).2 := by
  apply le_sumN_of_mem
  simp only [List.map_flatMap, List.map_map, List.mem_flatMap, List.mem_map, List.mem_range]
  exact ⟨r, hr, j, hj, rfl⟩

/-- The columns a group of the ring feeds (R69). -/
def fedCols (k : Cluster) (q : Nat) (a : ArrStep) (r : Ring) : List Group :=
  (List.range r.ncol).map (fun j =>
    feedGroup (ringFmt r (fld a.w 83 80)) (omBytes k q (ringAt r + j * r.gu) r.gu))

/-- The activations the first slot of a MAC meets (R80); a row that is gated meets zeros (R67). -/
def fedActs (k : Cluster) (q : Nat) (a : ArrStep) : List (List Int) :=
  (List.range 32).map (fun row =>
    if rowLive a (fld a.w 19 16) row then actRow k q (macUnits (getCore k q).seq a.w 0).1 (fld a.w 87 84) row
    else List.replicate 256 0)

/-- A group served to the one slot a MAC names (R82): the cluster it leaves, and the clamps counted in SAT_CNT. -/
theorem macGroup_of_oneSlot {s : State} {c q : Nat} {a : ArrStep} {r : Ring} (hone : fld a.w 23 20 = 0) :
    ∃ (k : Cluster) (rows : Nat), let n := (slotGroup (spGet {} (getCore (getC s c) q).slots (fld a.w 19 16))
        (fedCols (getC s c) q a r) (fedActs (getC s c) q a) rows).2
      macGroup s c q a r = if n = 0 then setC s c k
        else orReg (bumpBy (setC s c k) (pageOf .clu c + 0x48) n) (pageOf .clu c + 0x44) 1 := by
  simp only [macGroup, hone, List.range_one, List.foldl_cons, List.foldl_nil, Nat.zero_add, Nat.add_zero]
  exact ⟨_, _, rfl⟩

/-- Where a cell pair of that slot clamps and SAT_CNT is at its last value, with nothing to stop it there, it takes a free
value. -/
theorem macGroup_free_of_wraps {s : State} {c q i j : Nat} {a : ArrStep} {r : Ring} (hone : fld a.w 23 20 = 0)
    (hi : i < 32) (hj : j < 64)
    (hclamp : 0 < (pairCell (spGet {} (getCore (getC s c) q).slots (fld a.w 19 16)) (fedCols (getC s c) q a r)
      (fedActs (getC s c) q a) i j).sats)
    (hfull : rdN s (pageOf .clu c + 0x48) = 0xFFFFFFFF) (hstop : ctrStops (pageOf .clu c + 0x48) = false) :
    (macGroup s c q a r).free = s.free + 1 := by
  obtain ⟨k, rows, hgroup⟩ := macGroup_of_oneSlot (s := s) (c := c) (q := q) (r := r) hone
  have hcount := Nat.lt_of_lt_of_le hclamp (slotGroup_sats_ge (rows := rows) hi hj)
  have hfull' : rdN (setC s c k) (pageOf .clu c + 0x48) = 0xFFFFFFFF := (rdN_congr (setC_regs ..) _).trans hfull
  rw [hgroup, if_neg (Nat.pos_iff_ne_zero.1 hcount), orReg_free, bumpBy_free_of_wraps hfull' hcount hstop, setC_free]

/-- A MAC of one group takes the group its ring holds. -/
theorem macGo_one {s : State} {c q : Nat} {a : ArrStep} {r : Ring} (hring : (getCore (getC s c) q).ring = some r)
    (hheld : r.freed < r.written) (hfmt : ringFmtOk r (fld a.w 83 80) = true) (hchk : macChk (getC s c) q a.w r = true) :
    macGo c q a 1 s = macGroup s c q a r := by
  simp only [macGo, hring, if_neg (Nat.not_le.2 hheld), hfmt, hchk, Bool.not_true, Bool.false_eq_true, if_false]

/-! ### A MAC that clamps at index 68 -/

/-- A MAC word: slot 0, already open, array row 0 alone, one group of W4 weights against A4 activations from unit 32 up. -/
def clampMac : Nat := 3 + 2 ^ 24 + 32 * 2 ^ 32 + 2 ^ 64 + 1 * 2 ^ 80 + 5 * 2 ^ 84

/-- A ring of one column that holds its one group, from unit 0 up. -/
def clampRing : Ring := { base := 0, len := 22, ncol := 1, ngrp := 1, written := 1 }

/-- A core at that step: the group's first weight and row 0's first activation are 1, all others 0, and the sum they meet is
at its largest value. -/
def clampCore : Core :=
  { seq := { st := .issue, pc := 1 }
    om := (List.range 288).map (fun u => (u, if u = 0 ∨ u = 32 then 1 else 0))
    slots := [(0, { acc := [2147483647], res := [resd 2147483647] })]
    ring := some clampRing }

/-- A cluster of index 68 that runs that core in a deck of that one step; what stands where its SAT_CNT would be is at its
last value. -/
def clampRun : State :=
  { regs := { file := [(pageOf .clu 68 + 0x48, 0xFFFFFFFF)] }
    clu := [(68, { active := true, cores := [(0, clampCore)]
                   decks := [{ addr := 0, units := [BitVec.ofNat 128 (2 ^ 32), BitVec.ofNat 128 clampMac] }] })] }

/-- The MAC as it has issued there. -/
def clampStep : ArrStep := { pc := 1, w := clampMac, ar := [0, 0, 0, 0] }
/-- The machine with it at the head of the queue. -/
def clampQueued : State :=
  setC clampRun 68 (setCore (getC clampRun 68) 0 { clampCore with
    seq := { clampCore.seq with pc := 2, arr := [clampStep] } })

theorem issues_clampRun : Issues clampRun 68 0 clampMac := by
  constructor <;> decide +kernel

theorem omChk_clampRun (u n : Nat) : omChk (getC clampRun 68) 0 u n = true := by
  have hres : (getCore (getC clampRun 68) 0).omRes = [] := by decide +kernel
  simp [omChk, hres, spFind]

/-- The first cell pair's sum is clamped. -/
theorem pairCell_clampQueued : 0 < (pairCell (spGet {} (getCore (getC clampQueued 68) 0).slots 0)
    (fedCols (getC clampQueued 68) 0 clampStep clampRing) (fedActs (getC clampQueued 68) 0 clampStep) 0 0).sats := by
  decide +kernel

theorem macGo_clampQueued_free : (macGo 68 0 clampStep 1 clampQueued).free = clampRun.free + 1 := by
  rw [macGo_one (r := clampRing) (by decide +kernel) (by decide) (by decide) (by decide +kernel)]
  exact macGroup_free_of_wraps (i := 0) (j := 0) (by decide) (by decide) (by decide) pairCell_clampQueued
    (by decide +kernel) (by decide)

theorem slots_clampCore (i : Nat) (hi : i ≤ fld clampMac 23 20) :
    (spFind clampCore.slots (fld clampMac 19 16 + i)).isSome = !bitN clampMac 4 := by
  obtain rfl : i = 0 := Nat.le_zero.1 hi
  decide

/-- Refutes O34: the MAC of `clampRun` clamps a sum and takes a free value for the count, but the statement has the free
values of the next state be those before. No cluster of the device has the index 68; the statement bounds it nowhere. -/
theorem not_macAndDrain : ¬ Obligations.MacAndDrain := by
  rintro ⟨⟨hmac, -⟩, -⟩
  obtain ⟨-, -, hdone⟩ := hmac 68 0 clampMac 1 clampRing clampCore _ clampStep clampRun clampQueued _ issues_clampRun
    (by decide) (by decide) rfl (by decide +kernel) (by decide) (by decide) (by decide) (by decide) (by decide)
    (by decide) (by decide) rfl rfl slots_clampCore rfl rfl omChk_clampRun rfl rfl rfl rfl
  obtain ⟨t, -, hserved, -, -, -, -, -, hframe⟩ := hdone (by decide)
  have htaken : t.free = clampRun.free + 1 := by rw [hserved, setC_free, macGo_clampQueued_free]
  have hkept : t.free = clampRun.free := by rw [hframe]
  omega

end Sys2Proof.Machine
end

section
/-!
PROOF. The multiply engine (R128, R138): a wave counts its clamps in NBU_SATCNT, which Table 5-4 does not have stop at its
last value. Past it the counter takes a free value (log entry 5), where the statement has only units and registers change.
-/
namespace Sys2Proof.Machine

/-- The free values used when a command has answered, none where it answers no state. -/
def freeAfter : Res → Option Nat
  | .next t => some t.free
  | _ => none

/-- A plan of one task: one K4 record, already fetched, against one A8 group. -/
def clampPlan : Plan :=
  { pc := 0, wfmt := 8, src := 0, a := 0, nr := 1, ng := 1, ns := 1, accb := 0, slot0 := 0, qw := 0, qs := 0, af := 6,
    bw := none, fetched := 1 }

/-- A unit whose only task adds 1 × 1 to an ACCF entry that is at its largest value. -/
def clampUnit : Nbu :=
  { st := .running, acc := [(0, 2147483647)], accRes := [(0, resd 2147483647)]
    tabs := [(0, mkSlot 8 6 0 (1 :: List.replicate 255 0))], fifo := [1 :: List.replicate 127 0]
    plans := [clampPlan], outst := [{ pc := 0, op := 0x13, spans := [] }] }

/-- Stack 0 is ON, unit 0 is that unit, and its NBU_SATCNT is at its last value. -/
def clampState : State :=
  { blk := { st := [(pageOf .stk 0, .on)] }, regs := { file := [(nbuPg 0 + 0x48, 0xFFFFFFFF)] }, nbu := [(0, clampUnit)] }

theorem waveGo_clampUnit :
    waveGo clampPlan clampUnit.fifo 0 1 0 (clampUnit, 0, true) = (accWr clampUnit 0 2147483647, 1, true) := by
  decide +kernel

/-- The clamp is counted past the counter's last value, so the counter takes a free value. -/
theorem freeAfter_lmacWave_clampState :
    freeAfter (exec (.lmacWave 0 .none) clampState) = some (clampState.free + 1) := by decide +kernel

/-- Refutes O42: the last wave of `clampState` clamps once and its count takes a free value, but the statement has the free
values of the next state be those before. -/
theorem not_multiplyEngine : ¬ Obligations.MultiplyEngine := by
  rintro ⟨-, -, hwave⟩
  obtain ⟨-, hgood⟩ := hwave 0 1 0 0 1 true clampPlan [] clampUnit.fifo clampUnit (accWr clampUnit 0 2147483647)
    clampState rfl rfl rfl rfl (by decide) nofun rfl rfl rfl (fun _ => by decide) rfl (by decide) waveGo_clampUnit
  obtain ⟨t, hexec, -, -, -, -, hframe⟩ := (hgood (by decide +kernel) nofun).2.2 rfl rfl
  have hfree : t.free = clampState.free + 1 := by
    simpa [hexec, freeAfter] using freeAfter_lmacWave_clampState
  rw [hframe] at hfree
  exact absurd hfree (Nat.succ_ne_self _).symm

end Sys2Proof.Machine
end

section
/-!
PROOF. Facts that the near-bank units' statements share: what lies outside a unit and its page, what a command packet does to
the units it reaches one after another (R132), and how an instruction issues at a unit's pc (R134, R136).
-/
namespace Sys2Proof.Machine

/-! ### Units and their pages -/

/-- A unit depends on the units' table alone. -/
theorem getU_congr {s t : State} (h : t.nbu = s.nbu) (u : Nat) : getU t u = getU s u := by simp only [getU, h]
@[simp] theorem getU_nbuStat (s : State) (v i u : Nat) : getU (nbuStat s v i) u = getU s u := rfl
@[simp] theorem getU_useFree (s : State) (u : Nat) : getU (useFree s) u = getU s u := rfl
@[simp] theorem getU_bumpBy (s : State) (a n u : Nat) : getU (bumpBy s a n) u = getU s u := getU_congr (bumpBy_nbu ..) u
@[simp] theorem getU_bump (s : State) (a u : Nat) : getU (bump s a) u = getU s u := getU_bumpBy ..

/-- Two units' pages have no register in common (Table 13-5). -/
theorem nbuPg_add_ne {u v o p : Nat} (h : v ≠ u) (ho : o < 0x1000) (hp : p < 0x1000) : nbuPg v + p ≠ nbuPg u + o := by
  simp only [nbuPg, pageOf, blkBase]; omega

/-- A sticky bit set is read as 1. -/
theorem bit_nbuStat_self (s : State) (u : Nat) {i : Nat} (h : i < 32) :
    bit (rdReg (nbuStat s u i) (nbuPg u + 0x44)) i = true := by
  rw [nbuStat, rdReg_orReg_self]
  exact bit_putBit _ h true

/-- Beside the units, `t` differs from `s` in registers and free values only. -/
def UnitsOnly (s t : State) : Prop := t = { s with nbu := t.nbu, regs := t.regs, free := t.free }

theorem UnitsOnly.refl (s : State) : UnitsOnly s s := rfl
theorem UnitsOnly.trans {s t r : State} (h : UnitsOnly s t) (g : UnitsOnly t r) : UnitsOnly s r :=
  Eq.trans g (by rw [h])
theorem unitsOnly_bumpBy (s : State) (a n : Nat) : UnitsOnly s (bumpBy s a n) := by
  rw [bumpBy_eq]; rfl
/-- With no free value used, only the units and the registers differ. -/
theorem UnitsOnly.of_free_eq {s t : State} (h : UnitsOnly s t) (hf : t.free = s.free) :
    t = { s with nbu := t.nbu, regs := t.regs } :=
  Eq.trans h (by rw [hf])
theorem foldl_unitsOnly {f : State → Nat → State} (hf : ∀ s u, UnitsOnly s (f s u)) :
    ∀ (l : List Nat) (s : State), UnitsOnly s (l.foldl f s)
  | [], s => .refl s
  | u :: l, s => (hf s u).trans (foldl_unitsOnly hf l (f s u))

/-- Unit `v` and the registers of its page are the same in both states. -/
structure SameUnit (v : Nat) (s t : State) : Prop where
  unit : getU t v = getU s v
  page : ∀ o, o < 0x1000 → rdReg t (nbuPg v + o) = rdReg s (nbuPg v + o)

theorem SameUnit.refl (v : Nat) (s : State) : SameUnit v s s := ⟨rfl, fun _ _ => rfl⟩
theorem SameUnit.trans {v : Nat} {s t r : State} (h : SameUnit v s t) (g : SameUnit v t r) : SameUnit v s r :=
  ⟨g.unit.trans h.unit, fun o ho => (g.page o ho).trans (h.page o ho)⟩

/-- What happens at unit `u` alone: every other unit is as it was. -/
structure AtUnit (u : Nat) (s t : State) : Prop where
  others : ∀ v, v ≠ u → SameUnit v s t
  frame : UnitsOnly s t

namespace AtUnit
variable {u : Nat} {s t : State}

theorem refl (u : Nat) (s : State) : AtUnit u s s := ⟨fun v _ => .refl v s, .refl s⟩
theorem trans {r : State} (h : AtUnit u s t) (g : AtUnit u t r) : AtUnit u s r :=
  ⟨fun v hv => (h.others v hv).trans (g.others v hv), h.frame.trans g.frame⟩
theorem setU (h : AtUnit u s t) (x : Nbu) : AtUnit u s (setU t u x) :=
  h.trans ⟨fun _ hv => ⟨getU_setU_ne t x hv, fun _ _ => rdReg_congr rfl _⟩, rfl⟩
theorem wrReg (h : AtUnit u s t) {o : Nat} (ho : o < 0x1000) (v : W32) : AtUnit u s (wrReg t (nbuPg u + o) v) :=
  h.trans ⟨fun _ hv => ⟨rfl, fun _ hp => rdReg_wrReg_ne t v (nbuPg_add_ne hv ho hp)⟩, rfl⟩
theorem nbuStat (h : AtUnit u s t) (i : Nat) : AtUnit u s (nbuStat t u i) := h.wrReg (by decide) _
theorem useFree (h : AtUnit u s t) : AtUnit u s (useFree t) :=
  h.trans ⟨fun _ _ => ⟨rfl, fun _ _ => rdReg_congr rfl _⟩, rfl⟩
theorem bumpBy (h : AtUnit u s t) {o : Nat} (ho : o < 0x1000) (n : Nat) : AtUnit u s (bumpBy t (nbuPg u + o) n) :=
  h.trans ⟨fun _ hv => ⟨getU_bumpBy .., fun _ hp => rdReg_bumpBy_ne t n (nbuPg_add_ne hv ho hp)⟩, unitsOnly_bumpBy ..⟩
theorem unit_ne (h : AtUnit u s t) (v : Nat) (hv : v ≠ u) : getU t v = getU s v := (h.others v hv).unit

end AtUnit

/-! ### One unit after another -/

variable {f : State → Nat → State}

/-- A unit that is not in the list keeps what it holds. -/
theorem foldl_sameUnit_of_not_mem (hf : ∀ s u, AtUnit u s (f s u)) {v : Nat} :
    ∀ {l : List Nat} (s : State), v ∉ l → SameUnit v s (l.foldl f s)
  | [], s, _ => .refl v s
  | u :: l, s, h => by
    obtain ⟨hu, hl⟩ := not_or.1 (mt List.mem_cons.2 h)
    exact ((hf s u).others v hu).trans (foldl_sameUnit_of_not_mem hf (f s u) hl)

/-- A unit of the list ends as `f` leaves it, from a state that holds it as the first one does. -/
theorem foldl_sameUnit_of_mem (hf : ∀ s u, AtUnit u s (f s u)) {v : Nat} :
    ∀ {l : List Nat} (s : State), l.Nodup → v ∈ l → ∃ x, SameUnit v s x ∧ SameUnit v (f x v) (l.foldl f s)
  | [], _, _, h => absurd h List.not_mem_nil
  | u :: l, s, hl, h => by
    obtain ⟨hu, hl⟩ := List.nodup_cons.1 hl
    rcases List.mem_cons.1 h with rfl | h
    · exact ⟨s, .refl v s, foldl_sameUnit_of_not_mem hf (f s v) hu⟩
    · have hne : v ≠ u := fun e => hu (e ▸ h)
      obtain ⟨x, hx, hlast⟩ := foldl_sameUnit_of_mem hf (f s u) hl h
      exact ⟨x, ((hf s u).others v hne).trans hx, hlast⟩

/-- A packet reaches a unit once (R132). -/
theorem targets_nodup (s : State) (tgt : UTarget) : (targets s tgt).Nodup := by
  cases tgt with
  | one u => simp only [targets]; split <;> simp
  | group stk g =>
    simp only [targets]
    split
    · exact List.nodup_nil
    · exact List.Pairwise.filter _ (List.Pairwise.map _ (fun a b hne heq => hne (Nat.add_left_cancel heq)) List.nodup_range)

/-! ### Writes that reach a page, and instructions that issue -/

/-- A write that its master may make to a block that is ON is carried out (R344). -/
theorem gatedWrite_of_reach {s : State} {mid i : Nat} {b : Blk} (f : State → State) (hreach : pgReach s mid b = .yes)
    (hon : isOn s b i = true) : gatedWrite s mid b i f = f s := by
  simp only [gatedWrite, pageAccess, hreach, hon, if_true]

/-- A unit at an instruction of the opcode and the kind commanded issues it. -/
theorem uIssue_of_runs {s : State} {u w op : Nat} {sel : Nat → Bool} {f : State → Nbu → Nat → State} (h : URuns s u w)
    (hop : fld w 31 26 = op) (hsel : sel w = true) : uIssue s u op .none sel f = f s (getU s u) w := by
  subst hop
  obtain ⟨hon, hst, hpc, hword, hok⟩ := h
  simp only [uIssue, hon, hst, if_neg (Nat.not_lt.2 hpc), hword, hok, hsel, unitUp, ne_eq, not_true_eq_false, Bool.not_true,
    Bool.false_eq_true, or_self, reduceCtorEq, if_false]

/-- A parity error in the program store stops any instruction (R133). -/
theorem uIssue_parity {s : State} {u w op : Nat} {sel : Nat → Bool} {f : State → Nbu → Nat → State} (h : URuns s u w) :
    uIssue s u op .parity sel f = unitFault s u 5 (getU s u).pc := by
  obtain ⟨hon, hst, hpc, -, -⟩ := h
  simp [uIssue, hon, hst, Nat.not_lt.2 hpc]

end Sys2Proof.Machine
end

section
/-!
PROOF. Writes to a unit's parameters and program (R130).
-/
namespace Sys2Proof.Machine

theorem idleWrite_of_idle {s : State} {u : Nat} (f : State → State) (h : (getU s u).st = .idle) : idleWrite s u f = f s :=
  if_pos h
theorem idleWrite_of_busy {s : State} {u : Nat} (f : State → State) (h : (getU s u).st ≠ .idle) :
    idleWrite s u f = nbuStat s u 13 := if_neg h

theorem execCommandParameterWrite_of_reach {mid u n : Nat} {v : W32} {s : State} (hreach : pgReach s mid .nbu = .yes)
    (hon : isOn s .nbu u = true) (hlo : 4 ≤ n) (hhi : n ≤ 63) : exec (.commandParameterWrite mid u n v) s =
      .next (idleWrite s u (fun x => if n = 6 ∨ n = 7 then x else wrReg x (nbuPg u + 0x100 + 4 * n) v)) :=
  congrArg _ ((gatedWrite_of_reach _ hreach hon).trans (if_pos ⟨hlo, hhi⟩))

/-- The word of the program store that a write to word `n` of the MP window reaches (R133). -/
def mpIndex (s : State) (mid u n : Nat) : Nat := n + 512 * (rdSel s (nbuPg u + 0x60) mid % 2)

theorem execMpWindow_of_reach {mid u n : Nat} {v : W32} {s : State} (hreach : pgReach s mid .nbu = .yes)
    (hon : isOn s .nbu u = true) (hn : n < 512) : exec (.mpWindow mid u n v) s = .next (idleWrite s u (fun x =>
      setU x u { getU x u with store := spSet (getU x u).store (mpIndex s mid u n) v })) :=
  congrArg _ ((gatedWrite_of_reach _ hreach hon).trans (if_pos hn))

/-- Settles O39: either write is an `idleWrite`, which discards it unless the unit is IDLE. -/
theorem unitWritesOnlyWhenIdle : Obligations.UnitWritesOnlyWhenIdle := by
  intro mid u n v s hreach hon
  refine ⟨fun hbusy => ⟨fun hlo hhi => ?_, fun hn => ?_⟩, fun hidle => ⟨fun hlo hhi h6 h7 => ?_, fun hn => ?_⟩⟩
  · rw [execCommandParameterWrite_of_reach hreach hon hlo hhi, idleWrite_of_busy _ hbusy]; rfl
  · rw [execMpWindow_of_reach hreach hon hn, idleWrite_of_busy _ hbusy]; rfl
  · rw [execCommandParameterWrite_of_reach hreach hon hlo hhi, idleWrite_of_idle _ hidle, if_neg (by simp [h6, h7])]
  · refine ⟨_, mpIndex s mid u n, execMpWindow_of_reach hreach hon hn, rfl, ?_⟩
    rw [idleWrite_of_idle _ hidle, getU_setU_self]
    exact ⟨spGet_spSet_self .., fun j hj => spGet_spSet_ne _ hj, rfl, fun x hx => getU_setU_ne s _ hx, rfl⟩

end Sys2Proof.Machine
end

section
/-!
PROOF. The commands of the command register area (R131, R132, Table 5-6): at each unit the packet reaches, a command that its
state allows starts, and any other is ignored with CMDERR.
-/
namespace Sys2Proof.Machine

/-! ### A command its state does not allow -/

theorem atUnit_cmdErr (s : State) (u : Nat) : AtUnit u s (cmdErr s u) := ((AtUnit.refl u s).setU _).nbuStat 12
theorem getU_cmdErr (s : State) (u : Nat) : getU (cmdErr s u) u = { getU s u with done := false } := getU_setU_self ..
theorem cmdErr_bit (s : State) (u : Nat) : bit (rdReg (cmdErr s u) (nbuPg u + 0x44)) 12 = true :=
  bit_nbuStat_self _ u (by decide)

/-! ### Commands that start a unit -/

/-- `f` starts a unit, as `start` has it, from the states `allowed`, and is refused in every other (Table 5-6). -/
structure Starts (f : State → Nat → State) (allowed : UState → Prop) (start : Nbu → Nbu) : Prop where
  atUnit : ∀ s u, AtUnit u s (f s u)
  free : ∀ s u, (f s u).free = s.free
  taken : ∀ s u, allowed (getU s u).st → getU (f s u) u = start (getU s u)
  refused : ∀ s u, ¬ allowed (getU s u).st → f s u = cmdErr s u

theorem starts_of_ite {f : State → Nat → State} {allowed : UState → Prop} [DecidablePred allowed] {start : Nbu → Nbu}
    (hf : ∀ s u, f s u = if allowed (getU s u).st then setU s u (start (getU s u)) else cmdErr s u) :
    Starts f allowed start where
  atUnit s u := by
    rw [hf]
    split
    · exact (AtUnit.refl u s).setU _
    · exact atUnit_cmdErr s u
  free s u := by rw [hf]; split <;> rfl
  taken s u h := by rw [hf, if_pos h, getU_setU_self]
  refused s u h := by rw [hf, if_neg h]

/-- What a packet of such a command leaves. -/
theorem Starts.reached {f : State → Nat → State} {allowed : UState → Prop} {start : Nbu → Nbu} (h : Starts f allowed start)
    (tgt : UTarget) (s : State) :
    (∀ u, u ∉ targets s tgt → getU ((targets s tgt).foldl f s) u = getU s u) ∧
    (∀ u ∈ targets s tgt, allowed (getU s u).st → getU ((targets s tgt).foldl f s) u = start (getU s u)) ∧
    (∀ u ∈ targets s tgt, ¬ allowed (getU s u).st → getU ((targets s tgt).foldl f s) u = { getU s u with done := false } ∧
      bit (rdReg ((targets s tgt).foldl f s) (nbuPg u + 0x44)) 12 = true) ∧
    (targets s tgt).foldl f s = { s with nbu := ((targets s tgt).foldl f s).nbu, regs := ((targets s tgt).foldl f s).regs } := by
  refine ⟨fun u hu => ?notReached, fun u hu hok => ?taken, fun u hu hno => ?refused, ?frame⟩
  case notReached => exact (foldl_sameUnit_of_not_mem h.atUnit s hu).unit
  case taken =>
    obtain ⟨x, hx, hlast⟩ := foldl_sameUnit_of_mem h.atUnit s (targets_nodup s tgt) hu
    rw [hlast.unit, h.taken x u (hx.unit ▸ hok), hx.unit]
  case refused =>
    obtain ⟨x, hx, hlast⟩ := foldl_sameUnit_of_mem h.atUnit s (targets_nodup s tgt) hu
    rw [hlast.unit, hlast.page _ (by decide), h.refused x u (hx.unit ▸ hno), getU_cmdErr, hx.unit]
    exact ⟨rfl, cmdErr_bit x u⟩
  case frame =>
    exact (foldl_unitsOnly (fun x u => (h.atUnit x u).frame) _ s).of_free_eq (foldl_keeps (g := State.free) h.free _ s)

/-- RUN: the program starts at ENTRY, with BEV and the general registers 0. -/
def runStarted (entry tag : Nat) (x : Nbu) : Nbu :=
  { x with st := .running, done := false, cmdTag := tag, pc := entry, g := [], bev := 0, staged := none }

/-- The state whose NBU_CFG is the one staged, if any (R129). -/
def cfgTaken (s : State) (u : Nat) : State :=
  match (getU s u).staged with | some v => wrReg s (nbuPg u + 0x40) v | none => s

theorem atUnit_cfgTaken (s : State) (u : Nat) : AtUnit u s (cfgTaken s u) := by
  unfold cfgTaken
  split
  · exact (AtUnit.refl u s).wrReg (by decide) _
  · exact .refl u s

theorem unitRun1_of_idle {s : State} {u : Nat} (entry tag : Nat) (h : (getU s u).st = .idle) :
    unitRun1 s u entry tag = setU (cfgTaken s u) u (runStarted entry tag (getU s u)) := if_pos h
theorem unitRun1_of_busy {s : State} {u : Nat} (entry tag : Nat) (h : (getU s u).st ≠ .idle) :
    unitRun1 s u entry tag = cmdErr s u := if_neg h

theorem starts_unitRun1 (entry tag : Nat) :
    Starts (fun s u => unitRun1 s u entry tag) (· = .idle) (runStarted entry tag) where
  atUnit s u := by
    by_cases h : (getU s u).st = .idle
    · rw [unitRun1_of_idle entry tag h]; exact (atUnit_cfgTaken s u).setU _
    · rw [unitRun1_of_busy entry tag h]; exact atUnit_cmdErr s u
  free s u := by
    by_cases h : (getU s u).st = .idle
    · rw [unitRun1_of_idle entry tag h]; unfold cfgTaken; split <;> rfl
    · rw [unitRun1_of_busy entry tag h]; rfl
  taken s u h := by rw [unitRun1_of_idle entry tag h, getU_setU_self]
  refused s u h := unitRun1_of_busy entry tag h

theorem starts_unitFence1 (tag : Nat) : Starts (fun s u => unitFence1 s u tag) (· = .idle)
    (fun x => { x with st := .fencing, done := false, cmdTag := tag }) := starts_of_ite fun _ _ => rfl
theorem starts_unitSelftest1 (tag : Nat) : Starts (fun s u => unitSelftest1 s u tag) (· = .idle)
    (fun x => { x with st := .testing, done := false, cmdTag := tag }) := starts_of_ite fun _ _ => rfl
theorem starts_unitClear1 (tag : Nat) : Starts (fun s u => unitClear1 s u tag) (fun st => st = .idle ∨ st = .faulted)
    (fun x => { x with st := .clearing, done := false, cmdTag := tag }) :=
  starts_of_ite fun s u => by
    unfold unitClear1
    dsimp only
    cases (getU s u).st <;> simp

/-! ### ABORT -/

theorem unitAbort1_of_stopped {s : State} {u : Nat} (tag : Nat) (h : (getU s u).st = .idle ∨ (getU s u).st = .faulted) :
    unitAbort1 s u tag = useFree (setU s u (cmdDone { loseUnit (getU s u) s.free with cmdTag := tag })) := by
  unfold unitAbort1
  rcases h with h | h <;> simp only [h]
theorem unitAbort1_of_running {s : State} {u : Nat} (tag : Nat) (h : (getU s u).st = .running) :
    unitAbort1 s u tag = setU s u { getU s u with st := .aborting, done := false, cmdTag := tag } := by
  unfold unitAbort1
  simp only [h]

theorem atUnit_unitAbort1 (tag : Nat) (s : State) (u : Nat) : AtUnit u s (unitAbort1 s u tag) := by
  unfold unitAbort1
  dsimp only
  split
  · exact ((AtUnit.refl u s).setU _).useFree
  · exact ((AtUnit.refl u s).setU _).useFree
  · exact (AtUnit.refl u s).setU _
  · exact atUnit_cmdErr s u

/-! ### Settling O37 -/

/-- Settles O37: four of the commands start units, and ABORT is taken apart by the unit's state. -/
theorem unitCommands : Obligations.UnitCommands := by
  refine ⟨fun tgt entry tag s => ?run, fun tgt tag s => ?fence, fun tgt tag s => ?clear, fun tgt tag s => ?selftest,
    fun tgt tag s => ?abort⟩
  case run => exact ⟨_, rfl, (starts_unitRun1 (entry % 1024) (tag % 65536)).reached tgt s⟩
  case fence => exact ⟨_, rfl, (starts_unitFence1 (tag % 65536)).reached tgt s⟩
  case clear =>
    obtain ⟨hkept, htaken, hrefused, hframe⟩ := (starts_unitClear1 (tag % 65536)).reached tgt s
    exact ⟨_, rfl, hkept, htaken, fun u hu hidle hfault => hrefused u hu (not_or.2 ⟨hidle, hfault⟩), hframe⟩
  case selftest => exact ⟨_, rfl, (starts_unitSelftest1 (tag % 65536)).reached tgt s⟩
  case abort =>
    have hat := atUnit_unitAbort1 (tag % 65536)
    refine ⟨_, rfl, fun u hu => (foldl_sameUnit_of_not_mem hat s hu).unit, fun u hu hst => ?_, fun u hu hst => ?_,
      foldl_unitsOnly (fun x u => (hat x u).frame) _ s⟩
    · obtain ⟨x, hx, hlast⟩ := foldl_sameUnit_of_mem hat s (targets_nodup s tgt) hu
      rw [hlast.unit, unitAbort1_of_stopped _ (hx.unit ▸ hst), ← hx.unit, getU_useFree, getU_setU_self]
      exact ⟨rfl, rfl, rfl, rfl, rfl, rfl, rfl⟩
    · obtain ⟨x, hx, hlast⟩ := foldl_sameUnit_of_mem hat s (targets_nodup s tgt) hu
      rw [hlast.unit, unitAbort1_of_running _ (hx.unit ▸ hst), getU_setU_self, hx.unit]

end Sys2Proof.Machine
end

section
/-!
PROOF. The ends of unit commands (R131, R137, R153, R155), a hang (R154), and NBU_CFG (R129).
-/
namespace Sys2Proof.Machine

/-! ### What a fault leaves of its unit -/

@[simp] theorem winAdd_nbu (s : State) (b : Blk) (i elem : Nat) : (winAdd s b i elem).1.nbu = s.nbu := by
  unfold winAdd
  dsimp only
  split <;> split <;> simp

/-- A fault changes nothing of its unit but STATE (R154). -/
theorem getU_unitFault (s : State) (u code pc a : Nat) :
    getU (unitFault s u code pc a) u = { getU s u with st := .faulted } := by
  refine Eq.trans (getU_congr (s := setU s u { getU s u with st := .faulted }) ?_ u) (getU_setU_self ..)
  unfold unitFault
  dsimp only
  split
  · split <;> split <;> simp [nbuStat]
  · split <;> simp [nbuStat]

/-! ### Where each command ends -/

theorem complete_of_fencing {s : State} {u : Nat} (h : (getU s u).st = .fencing) (p : Bool) :
    exec (.unitCommandComplete u p) s = .next (setU s u (cmdDone (getU s u))) := by
  show execUnitCommandComplete u p s = _
  simp only [execUnitCommandComplete, h]
theorem complete_of_clearing {s : State} {u : Nat} (h : (getU s u).st = .clearing) (p : Bool) :
    exec (.unitCommandComplete u p) s = .next (setU s u (cmdDone (clearUnit (getU s u)))) := by
  show execUnitCommandComplete u p s = _
  simp only [execUnitCommandComplete, h]
theorem complete_of_aborting_refresh {s : State} {u : Nat} (h : (getU s u).st = .aborting)
    (hr : (getU s u).refRun = true) (p : Bool) : exec (.unitCommandComplete u p) s = .next s := by
  show execUnitCommandComplete u p s = _
  simp only [execUnitCommandComplete, h, hr, if_true]
theorem complete_of_aborting {s : State} {u : Nat} (h : (getU s u).st = .aborting) (hr : (getU s u).refRun = false)
    (p : Bool) : exec (.unitCommandComplete u p) s = .next (useFree (setU s u
      (cmdDone (loseUnit { getU s u with refDue := false, refRun := (getU s u).refDue } s.free)))) := by
  show execUnitCommandComplete u p s = _
  simp [execUnitCommandComplete, h, hr]
theorem complete_of_testing_pass {s : State} {u : Nat} (h : (getU s u).st = .testing) :
    exec (.unitCommandComplete u true) s = .next (wrReg (setU s u (cmdDone (getU s u))) (nbuPg u + 0x108) 0) := by
  show execUnitCommandComplete u true s = _
  simp only [execUnitCommandComplete, h, if_true]

/-- R153: what a failed SELFTEST leaves, and its report. -/
def selftestFailed (s : State) (u : Nat) : State :=
  report (wrReg (setU s u { cmdDone (getU s u) with st := .faulted }) (nbuPg u + 0x108) (w32 (15 + 65536 * (getU s u).cmdTag)))
    { code := repUnit, blk := .nbu, inst := u, elem := lunit s u, model := (getU s u).cmdTag
      trick := rdPair s (nbuPg u + 0x110) }

theorem complete_of_testing_fail {s : State} {u : Nat} (h : (getU s u).st = .testing) :
    exec (.unitCommandComplete u false) s = .next (selftestFailed s u) := by
  show execUnitCommandComplete u false s = _
  simp [execUnitCommandComplete, h, selftestFailed]

theorem fld_toNat_w32_code {c : Nat} (h : c < 16) (tag : Nat) : fld (w32 (c + 65536 * tag)).toNat 3 0 = c := by
  simp only [w32, fld, BitVec.toNat_ofNat]; omega

/-! ### A cleared unit -/

theorem lbRd_cleared (x : Nbu) (i : Nat) : lbRd (cmdDone (clearUnit x)) i = 0 := rfl
theorem accRd_cleared (x : Nbu) (i : Nat) : accRd (cmdDone (clearUnit x)) i = 0 := rfl
theorem getG_cleared (x : Nbu) (i : Nat) : getG (cmdDone (clearUnit x)) i = 0 := by
  unfold getG
  split <;> rfl

/-! ### NBU_CFG -/

theorem execNbuCfg_of_reach {mid u : Nat} {s : State} (v : W32) (hreach : pgReach s mid .nbu = .yes)
    (hon : isOn s .nbu u = true) : exec (.nbuCfg mid u v) s = .next (opNbuCfg s u v) :=
  congrArg _ (gatedWrite_of_reach _ hreach hon)

theorem targets_one {s : State} {u : Nat} (hon : isOn s .nbu u = true) (hclk : stkClkLost s (u / 272) = false) :
    targets s (.one u) = [u] := by
  simp [targets, hon, hclk]

theorem rdReg_unitRun1_staged {s : State} {u : Nat} {v : W32} (entry tag : Nat) (hidle : (getU s u).st = .idle)
    (hst : (getU s u).staged = some v) : rdReg (unitRun1 s u entry tag) (nbuPg u + 0x40) = v := by
  have hcfg : cfgTaken s u = wrReg s (nbuPg u + 0x40) v := by simp only [cfgTaken, hst]
  rw [unitRun1_of_idle entry tag hidle, hcfg, rdReg_congr (setU_regs ..), rdReg_wrReg_self]

/-! ### Settling O38 -/

/-- Settles O38: each command's end by the unit's state, and NBU_CFG by `cfgTaken` at a RUN. -/
theorem unitCompletions : Obligations.UnitCompletions := by
  refine ⟨?ends, ?config⟩
  case ends =>
    rintro u x s rfl
    refine ⟨complete_of_fencing, fun h p => ?cleared, fun h hr => complete_of_aborting_refresh h hr, fun h hr p => ?aborted,
      complete_of_testing_pass, fun h => ?failed, fun h => ?hang, fun h => if_neg h⟩
    case cleared =>
      refine ⟨_, complete_of_clearing h p, ?_⟩
      rw [getU_setU_self]
      exact ⟨rfl, rfl, rfl, fun i => ⟨lbRd_cleared _ i, accRd_cleared _ i, getG_cleared _ i⟩, rfl, rfl, rfl⟩
    case aborted =>
      refine ⟨_, complete_of_aborting h hr p, ?_⟩
      rw [getU_useFree, getU_setU_self]
      exact ⟨rfl, rfl, rfl, rfl, rfl, rfl⟩
    case failed =>
      refine ⟨_, complete_of_testing_fail h, getU_setU_self .., ?_, rfl⟩
      have hcode : rdN (selftestFailed s u) (nbuPg u + 0x108) = (w32 (15 + 65536 * (getU s u).cmdTag)).toNat :=
        rdN_wrReg_self ..
      rw [hcode, fld_toNat_w32_code (by decide)]
    case hang => exact ⟨_, if_pos h, rfl, getU_unitFault ..⟩
  case config =>
    intro mid u v s hreach hon
    refine ⟨fun hidle => ?taken, fun hbusy => ?staged, fun entry tag _ hclk hidle hst => ?atRun⟩
    case taken => rw [execNbuCfg_of_reach v hreach hon, opNbuCfg, if_pos hidle]
    case staged => rw [execNbuCfg_of_reach v hreach hon, opNbuCfg, if_neg hbusy]
    case atRun =>
      have hrun : exec (.unitRun (.one u) entry tag) s = .next (unitRun1 s u (entry % 1024) (tag % 65536)) :=
        congrArg (fun l : List Nat => Host.Outcome.next (l.foldl _ s)) (targets_one hon hclk)
      refine ⟨_, hrun, rdReg_unitRun1_staged _ _ hidle hst, ?_⟩
      rw [unitRun1_of_idle _ _ hidle, getU_setU_self]
      rfl

end Sys2Proof.Machine
end

section
/-!
PROOF. Control micro-instructions (R134 to R136, R150, R151).
-/
namespace Sys2Proof.Machine

/-! ### General registers -/

theorem getG_setG (x : Nbu) (n v m : Nat) :
    getG (setG x n v) m = if m = 0 then 0 else if m = n then v % 2 ^ 32 else getG x m := by
  by_cases hm : m = 0
  · simp [getG, hm]
  · by_cases hn : n = 0
    · subst hn; simp [setG, hm]
    · by_cases hmn : m = n
      · subst hmn; simp [getG, setG, hm, spGet_spSet_self, w32]
      · simp [getG, setG, hm, hn, hmn, spGet_spSet_ne]
theorem getG_lt (x : Nbu) (n : Nat) : getG x n < 2 ^ 32 := by
  unfold getG
  split
  · decide
  · exact BitVec.isLt _
@[simp] theorem setG_pc (x : Nbu) (n v : Nat) : (setG x n v).pc = x.pc := by
  unfold setG
  split <;> rfl
theorem uNext_setG (x : Nbu) (n v : Nat) : uNext (setG x n v) = { setG x n v with pc := x.pc + 1 } := by
  rw [uNext, setG_pc]

/-- A decrement modulo 2^32. -/
theorem unsx_pred (n : Nat) : unsx 32 ((n : Int) - 1) = (n + (2 ^ 32 - 1)) % 2 ^ 32 := by
  unfold unsx; omega

/-! ### Instructions at the pc -/

/-- What an instruction at the pc does, once its command is known to issue it. -/
theorem exec_of_runs {i : Instr} {s : State} {u w op : Nat} {sel : Nat → Bool} {f : State → Nbu → Nat → State}
    (hi : exec i s = .next (uIssue s u op .none sel f)) (h : URuns s u w) (hop : fld w 31 26 = op) (hsel : sel w = true) :
    exec i s = .next (f s (getU s u) w) :=
  hi.trans (congrArg _ (uIssue_of_runs h hop hsel))

/-- BNZ that goes back no further than instruction 0 (Table 5-7). -/
def bnzTo (x : Nbu) (d back : Nat) : Nbu :=
  let y := setG x d ((getG x d + (2 ^ 32 - 1)) % 2 ^ 32)
  if getG y d = 0 then uNext y else { y with pc := y.pc - back }

theorem execBnz_of_runs {s : State} {u w : Nat} (h : URuns s u w) (hop : fld w 31 26 = 8)
    (hback : fld w 9 0 ≤ (getU s u).pc) :
    exec (.bnz u .none) s = .next (setU s u (bnzTo (getU s u) (fld w 25 22) (fld w 9 0))) := by
  refine (exec_of_runs (i := .bnz u .none) rfl h hop rfl).trans ?_
  simp only [if_neg (Nat.not_lt.2 hback), unsx_pred]
  rfl

theorem bnzTo_of_ne_one {x : Nbu} {d back : Nat} (hd : d ≠ 0) (h1 : getG x d ≠ 1) :
    bnzTo x d back = { setG x d ((getG x d + (2 ^ 32 - 1)) % 2 ^ 32) with pc := x.pc - back } := by
  have hlt := getG_lt x d
  have hne : getG (setG x d ((getG x d + (2 ^ 32 - 1)) % 2 ^ 32)) d ≠ 0 := by
    rw [getG_setG, if_neg hd, if_pos rfl]; omega
  simp only [bnzTo, if_neg hne, setG_pc]
theorem bnzTo_of_eq_one {x : Nbu} {d back : Nat} (h1 : getG x d = 1) :
    bnzTo x d back = { setG x d 0 with pc := x.pc + 1 } := by
  have hdown : (getG x d + (2 ^ 32 - 1)) % 2 ^ 32 = 0 := by omega
  have hzero : getG (setG x d 0) d = 0 := by simp [getG_setG]
  simp only [bnzTo, hdown, if_pos hzero, uNext_setG]
/-- G0 stays 0, so a BNZ of it goes on. -/
theorem bnzTo_zero (x : Nbu) (back : Nat) : bnzTo x 0 back = { x with pc := x.pc + 1 } := rfl

theorem yieldNow_of_not_due {s : State} {u : Nat} (h : (getU s u).refDue = false) : yieldNow s u = s := by
  simp [yieldNow, h]
theorem yieldNow_of_due {s : State} {u : Nat} (h : (getU s u).refDue = true) : yieldNow s u =
    bump (setU s u { getU s u with refDue := false, refRun := true }) (nbuPg u + 0x54) := if_pos h
theorem atUnit_yieldNow (s : State) (u : Nat) : AtUnit u s (yieldNow s u) := by
  cases h : (getU s u).refDue with
  | false => rw [yieldNow_of_not_due h]; exact .refl u s
  | true => rw [yieldNow_of_due h]; exact ((AtUnit.refl u s).setU _).bumpBy (by decide) 1
theorem getU_yieldNow_of_due {s : State} {u : Nat} (h : (getU s u).refDue = true) :
    getU (yieldNow s u) u = { getU s u with refDue := false, refRun := true } := by
  rw [yieldNow_of_due h, getU_bump, getU_setU_self]

theorem execWaitb_of_runs {s : State} {u w : Nat} (h : URuns s u w) (hop : fld w 31 26 = 9) : exec (.waitb u .none) s =
    .next (if bevMet (getU s u) (getG (getU s u) (fld w 25 22)) then setU s u (uNext (getU s u)) else yieldNow s u) :=
  exec_of_runs (i := .waitb u .none) rfl h hop rfl
theorem execFence_of_runs {s : State} {u w : Nat} (h : URuns s u w) (hop : fld w 31 26 = 3) : exec (.fence u .none) s =
    .next (if (getU s u).outst.any (fun o => o.op == 0x11) then yieldNow s u else setU s u (uNext (getU s u))) :=
  exec_of_runs (i := .fence u .none) rfl h hop rfl
theorem execYieldPoint_of_runs {s : State} {u w : Nat} (h : URuns s u w) (hop : fld w 31 26 = 2) :
    exec (.yieldPoint u .none) s = .next (yieldNow (setU s u (uNext (getU s u))) u) :=
  exec_of_runs (i := .yieldPoint u .none) rfl h hop rfl
theorem execMpEnd_of_runs {s : State} {u w : Nat} (h : URuns s u w) (hop : fld w 31 26 = 1) : exec (.mpEnd u .none) s =
    .next (if (getU s u).outst.isEmpty then
      emit (yieldNow (setU s u (cmdDone (uNext (getU s u)))) u) (.unitDone u (getU s u).cmdTag) else yieldNow s u) :=
  exec_of_runs (i := .mpEnd u .none) rfl h hop rfl

/-- Every micro-instruction's command goes through `uIssue`. -/
theorem exec_eq_uIssue {i : Nat → Upset → Instr} (hi : i ∈ [Instr.nop, .mpEnd, .yieldPoint, .fence, .movi, .movh, .addi, .ldc,
    .bnz, .waitb, .rdl, .wrl, .tbld, .lmac, .accz, .eopCvt, .eopResc, .eopAdd, .eopSub, .eopMul, .eopTable, .eopSsq, .eopAmax,
    .eopQnt, .bsendGather, .bsendSum, .bsendMax]) (u : Nat) (up : Upset) (s : State) :
    ∃ op sel f, exec (i u up) s = .next (uIssue s u op up sel f) := by
  simp only [List.mem_cons, List.not_mem_nil, or_false] at hi
  rcases hi with rfl | rfl | rfl | rfl | rfl | rfl | rfl | rfl | rfl | rfl | rfl | rfl | rfl | rfl | rfl | rfl | rfl | rfl |
    rfl | rfl | rfl | rfl | rfl | rfl | rfl | rfl | rfl <;> exact ⟨_, _, _, rfl⟩

/-! ### Settling O40 -/

/-- Settles O40: each instruction is its own effect on the unit at the pc, and a parity error is one fault for all of them. -/
theorem controlInstructions : Obligations.ControlInstructions := by
  refine ⟨getG_setG, ?steps, ?parity⟩
  case steps =>
    rintro u w d x s h rfl rfl
    refine ⟨fun hop => ?nop, fun hop => ?movi, fun hop => ?movh, fun hop => ?addi, fun hop => ?ldc,
      fun hop hd hback h1 => ?bnzBack, fun hop hd hback => ?bnzZero, fun hop hback h1 => ?bnzOn, fun hop hback => ?bnzBelow,
      fun hop hbev => ?waitbMet, fun hop hbev => ?waitbWaits, fun hop hno => ?fenceOn, fun hop hwr => ?fenceWaits,
      fun hop hdue => ?yieldOn, fun hop hdue => ?yieldDue, fun hop hout => ?endDone, fun hop hout => ?endWaits,
      yieldNow_of_not_due, yieldNow_of_due⟩
    case nop => exact exec_of_runs (i := .nop u .none) rfl h hop rfl
    case movi => rw [exec_of_runs (i := .movi u .none) rfl h hop rfl, uNext_setG]
    case movh => rw [exec_of_runs (i := .movh u .none) rfl h hop rfl, uNext_setG]
    case addi => rw [exec_of_runs (i := .addi u .none) rfl h hop rfl, uNext_setG]
    case ldc => rw [exec_of_runs (i := .ldc u .none) rfl h hop rfl, uNext_setG]
    case bnzBack => rw [execBnz_of_runs h hop hback, bnzTo_of_ne_one hd h1]
    case bnzZero => rw [execBnz_of_runs h hop hback, hd, bnzTo_zero]
    case bnzOn => rw [execBnz_of_runs h hop hback, bnzTo_of_eq_one h1]
    case bnzBelow => exact (exec_of_runs (i := .bnz u .none) rfl h hop rfl).trans (congrArg _ (if_pos hback))
    case waitbMet => exact (execWaitb_of_runs h hop).trans (congrArg _ (if_pos (decide_eq_true hbev)))
    case waitbWaits =>
      rw [execWaitb_of_runs h hop, bevMet, decide_eq_false (Nat.not_lt.2 hbev), if_neg Bool.false_ne_true]
    case fenceOn =>
      have hany : (getU s u).outst.any (fun o => o.op == 0x11) = false :=
        List.any_eq_false.2 fun o ho => by simpa using List.all_eq_true.1 hno o ho
      rw [execFence_of_runs h hop, hany, if_neg Bool.false_ne_true]
      rfl
    case fenceWaits => rw [execFence_of_runs h hop, if_pos hwr]
    case yieldOn =>
      rw [execYieldPoint_of_runs h hop, yieldNow_of_not_due (by rw [getU_setU_self]; exact hdue)]
      rfl
    case yieldDue =>
      have hdue' : (getU (setU s u (uNext (getU s u))) u).refDue = true := by rw [getU_setU_self]; exact hdue
      refine ⟨_, execYieldPoint_of_runs h hop, ?_, (((AtUnit.refl u s).setU _).trans (atUnit_yieldNow _ u)).frame⟩
      rw [getU_yieldNow_of_due hdue', getU_setU_self]
      rfl
    case endDone =>
      rw [execMpEnd_of_runs h hop, if_pos (List.isEmpty_iff.2 hout)]
      rfl
    case endWaits => rw [execMpEnd_of_runs h hop, if_neg (mt List.isEmpty_iff.1 hout)]
  case parity =>
    intro i u w s h hi
    obtain ⟨op, sel, f, hexec⟩ := exec_eq_uIssue hi u .parity s
    rw [hexec, uIssue_parity h]

end Sys2Proof.Machine
end

section
/-!
PROOF. Moves between a bank pair and its unit (R127, R134, R139): what the row buffer, the accumulators and the table store
read after they are written, and the issue of RDL, WRL, TBLD and ACCZ.
-/
namespace Sys2Proof.Machine

/-! ### Reads after writes in a unit -/

theorem length_leBytes : ∀ (n w : Nat), (leBytes w n).length = n
  | 0, _ => rfl
  | n + 1, w => congrArg (· + 1) (length_leBytes n (w / 256))
theorem length_lbBytes (x : Nbu) (i : Nat) : ∀ n, (lbBytes x i n).length = 32 * n
  | 0 => rfl
  | n + 1 => by
    have hlast : lbBytes x i (n + 1) = lbBytes x i n ++ leBytes (lbRd x (i + n)).toNat 32 := by
      simp only [lbBytes, List.range_succ, List.flatMap_append, List.flatMap_cons, List.flatMap_nil, List.append_nil]
    rw [hlast, List.length_append, length_lbBytes x i n, length_leBytes, Nat.mul_succ]

/-- ACCF zeroed from entry `lo`, `n` entries. -/
def accZero (x : Nbu) (lo n : Nat) : Nbu := (List.range n).foldl (fun y i => accWr y (lo + i) 0) x

theorem accRd_accWr (x : Nbu) (i j : Nat) (v : Int) : accRd (accWr x i v) j = if j = i then v else accRd x j := by
  by_cases h : j = i
  · subst h; simp [accRd, accWr, spFind_spSet_self]
  · simp [accRd, accWr, spFind_spSet_ne _ h, h]
theorem accZero_succ (x : Nbu) (lo n : Nat) : accZero x lo (n + 1) = accWr (accZero x lo n) (lo + n) 0 := by
  simp [accZero, List.range_succ]
theorem accRd_accZero (x : Nbu) (lo j : Nat) : ∀ n, accRd (accZero x lo n) j = if lo ≤ j ∧ j < lo + n then 0 else accRd x j
  | 0 => (if_neg (by omega)).symm
  | n + 1 => by
    rw [accZero_succ, accRd_accWr, accRd_accZero x lo j n]
    by_cases hnew : j = lo + n
    · rw [if_pos hnew, if_pos (by omega)]
    · rw [if_neg hnew]
      by_cases hold : lo ≤ j ∧ j < lo + n
      · rw [if_pos hold, if_pos (by omega)]
      · rw [if_neg hold, if_neg (by omega)]
/-- Only ACCF and its residues change. -/
theorem accZero_frame (x : Nbu) (lo : Nat) : ∀ n,
    accZero x lo n = { x with acc := (accZero x lo n).acc, accRes := (accZero x lo n).accRes }
  | 0 => rfl
  | n + 1 => by rw [accZero_succ, accZero_frame x lo n]; rfl

/-- What TBLD builds for the group whose activations are `act`, its slots being from `lo` up: one of whole codes, or one for each
nibble (R141). -/
def tabPut (wf af k : Nat) (act : List Int) (y : Nbu) (lo : Nat) : Nbu :=
  if k = 2 then { y with tabs := spSet (spSet y.tabs lo (mkSlot wf af 1 act)) (lo + 1) (mkSlot wf af 2 act) }
  else { y with tabs := spSet y.tabs lo (mkSlot wf af 0 act) }

/-- `m` groups' slots built from slot `s0` up, `k` a group. -/
def tabLoad (wf af k s0 : Nat) (act : Nat → List Int) (x : Nbu) (m : Nat) : Nbu :=
  (List.range m).foldl (fun y i => tabPut wf af k (act i) y (s0 + k * i)) x

theorem tabRd_spSet (x : Nbu) (i j : Nat) (v : TSlot) :
    tabRd { x with tabs := spSet x.tabs i v } j = if j = i then v else tabRd x j := by
  by_cases h : j = i
  · subst h; simp [tabRd, spFind_spSet_self]
  · simp [tabRd, spFind_spSet_ne _ h, h]

theorem slotsPer_cases (wf : Nat) : slotsPer wf = 1 ∨ slotsPer wf = 2 := by
  unfold slotsPer
  split
  · exact .inr rfl
  · exact .inl rfl

/-- A group's own slots are built. -/
theorem tabRd_tabPut {k h : Nat} (hk : k = 1 ∨ k = 2) (hh : h < k) (wf af : Nat) (act : List Int) (y : Nbu) (lo : Nat) :
    tabRd (tabPut wf af k act y lo) (lo + h) = mkSlot wf af (if k = 2 then h + 1 else 0) act := by
  rcases hk with rfl | rfl
  · obtain rfl : h = 0 := by omega
    exact (tabRd_spSet y lo _ _).trans (if_pos rfl)
  · refine (tabRd_spSet { y with tabs := spSet y.tabs lo (mkSlot wf af 1 act) } (lo + 1) _ _).trans ?_
    obtain rfl | rfl : h = 0 ∨ h = 1 := by omega
    · rw [if_neg (by omega)]
      exact (tabRd_spSet y lo _ _).trans (if_pos rfl)
    · exact if_pos rfl
/-- Every other slot is kept. -/
theorem tabRd_tabPut_outside {k j lo : Nat} (hk : k = 1 ∨ k = 2) (hj : j < lo ∨ lo + k ≤ j) (wf af : Nat) (act : List Int)
    (y : Nbu) : tabRd (tabPut wf af k act y lo) j = tabRd y j := by
  rcases hk with rfl | rfl
  · exact (tabRd_spSet y lo _ _).trans (if_neg (by omega))
  · refine (tabRd_spSet { y with tabs := spSet y.tabs lo (mkSlot wf af 1 act) } (lo + 1) _ _).trans ?_
    rw [if_neg (by omega), tabRd_spSet, if_neg (by omega)]

/-- The slots as TBLD lays them out. -/
theorem tabLoad_eq_foldl (wf af s0 : Nat) (act : Nat → List Int) (x : Nbu) (m : Nat) :
    (List.range m).foldl (fun y i =>
      if slotsPer wf = 2 then
        { y with tabs := spSet (spSet y.tabs (s0 + 2 * i) (mkSlot wf af 1 (act i))) (s0 + 2 * i + 1) (mkSlot wf af 2 (act i)) }
      else { y with tabs := spSet y.tabs (s0 + i) (mkSlot wf af 0 (act i)) }) x =
      tabLoad wf af (slotsPer wf) s0 act x m := by
  unfold tabLoad
  congr 1
  funext y i
  rcases slotsPer_cases wf with hk | hk <;> simp [tabPut, hk]
theorem tabLoad_succ (wf af k s0 : Nat) (act : Nat → List Int) (x : Nbu) (m : Nat) :
    tabLoad wf af k s0 act x (m + 1) = tabPut wf af k (act m) (tabLoad wf af k s0 act x m) (s0 + k * m) := by
  simp [tabLoad, List.range_succ]
theorem tabRd_tabLoad {k h i : Nat} (hk : k = 1 ∨ k = 2) (hh : h < k) (wf af s0 : Nat) (act : Nat → List Int) (x : Nbu) :
    ∀ m, i < m → tabRd (tabLoad wf af k s0 act x m) (s0 + k * i + h) = mkSlot wf af (if k = 2 then h + 1 else 0) (act i)
  | m + 1, hi => by
    rw [tabLoad_succ]
    rcases Nat.lt_succ_iff_lt_or_eq.1 hi with hlt | rfl
    · have hstep : k * i + k ≤ k * m := Nat.mul_succ k i ▸ Nat.mul_le_mul_left k hlt
      rw [tabRd_tabPut_outside hk (by omega), tabRd_tabLoad hk hh wf af s0 act x m hlt]
    · exact tabRd_tabPut hk hh ..
theorem tabRd_tabLoad_outside {k j s0 : Nat} (hk : k = 1 ∨ k = 2) (wf af : Nat) (act : Nat → List Int) (x : Nbu) :
    ∀ m, (j < s0 ∨ s0 + k * m ≤ j) → tabRd (tabLoad wf af k s0 act x m) j = tabRd x j
  | 0, _ => rfl
  | m + 1, hj => by
    rw [Nat.mul_succ] at hj
    rw [tabLoad_succ, tabRd_tabPut_outside hk (by omega), tabRd_tabLoad_outside hk wf af act x m (by omega)]
/-- Only the table store changes. -/
theorem tabLoad_frame (wf af k s0 : Nat) (act : Nat → List Int) (x : Nbu) : ∀ m,
    tabLoad wf af k s0 act x m = { x with tabs := (tabLoad wf af k s0 act x m).tabs }
  | 0 => rfl
  | m + 1 => by
    rw [tabLoad_succ, tabPut]
    split <;> rw [tabLoad_frame wf af k s0 act x m]

/-! ### RDL and WRL -/

theorem issueFaults_none : issueFaults false false false = [] := rfl


/-- The faults of an RDL or a WRL of `n` words before it starts (R134, R136). -/
def moveFaults (a b : Nat) : List Nat :=
  issueFaults (b / 2 ^ 19 != 0 || (decide (a < 2 ^ 28) && a % 32 != 0))
    (decide (2 ^ 28 ≤ a) || fld b 18 9 == 0 || decide (512 < fld b 8 0 + fld b 18 9) ||
      decide (2 ^ 28 < a + 32 * fld b 18 9)) false

theorem moveFaults_eq {a b : Nat} (hb : b < 2 ^ 19) (ha : a % 32 = 0) : moveFaults a b =
    if fld b 18 9 = 0 ∨ 512 < fld b 8 0 + fld b 18 9 ∨ 2 ^ 28 < a + 32 * fld b 18 9 then [7] else [] := by
  have hmp : (b / 2 ^ 19 != 0 || (decide (a < 2 ^ 28) && a % 32 != 0)) = false := by simpa [ha] using hb
  have hbounds : (decide (2 ^ 28 ≤ a) || fld b 18 9 == 0 || decide (512 < fld b 8 0 + fld b 18 9) ||
      decide (2 ^ 28 < a + 32 * fld b 18 9)) =
      decide (fld b 18 9 = 0 ∨ 512 < fld b 8 0 + fld b 18 9 ∨ 2 ^ 28 < a + 32 * fld b 18 9) := by
    rw [Bool.eq_iff_iff]
    simp only [Bool.or_eq_true, decide_eq_true_eq, beq_iff_eq]
    omega
  rw [moveFaults, hmp, hbounds]
  simp [issueFaults]
theorem moveFaults_of_inRange {a b : Nat} (hb : b < 2 ^ 19) (ha : a % 32 = 0) (hn : 0 < fld b 18 9)
    (hlb : fld b 8 0 + fld b 18 9 ≤ 512) (hpair : a + 32 * fld b 18 9 ≤ 2 ^ 28) : moveFaults a b = [] :=
  (moveFaults_eq hb ha).trans (if_neg (by omega))
theorem moveFaults_of_outside {a b : Nat} (hb : b < 2 ^ 19) (ha : a % 32 = 0)
    (hout : fld b 18 9 = 0 ∨ 512 < fld b 8 0 + fld b 18 9 ∨ 2 ^ 28 < a + 32 * fld b 18 9) : moveFaults a b = [7] :=
  (moveFaults_eq hb ha).trans (if_pos hout)

section
variable {s : State} {u w : Nat}

theorem opRdl_of_faults {f : Nat} {fs : List Nat} (up : Upset) (x : Nbu)
    (hf : moveFaults (getG x (fld w 25 22)) (getG x (fld w 21 18)) = f :: fs) :
    opRdl s u up x w = unitFaults s u (f :: fs) x.pc := by
  show (if !(moveFaults (getG x (fld w 25 22)) (getG x (fld w 21 18))).isEmpty then unitFaults s u (moveFaults _ _) x.pc
    else _) = _
  rw [hf]
  rfl
theorem opWrl_of_faults {f : Nat} {fs : List Nat} (x : Nbu)
    (hf : moveFaults (getG x (fld w 25 22)) (getG x (fld w 21 18)) = f :: fs) :
    opWrl s u x w = unitFaults s u (f :: fs) x.pc := by
  show (if !(moveFaults (getG x (fld w 25 22)) (getG x (fld w 21 18))).isEmpty then unitFaults s u (moveFaults _ _) x.pc
    else _) = _
  rw [hf]
  rfl

variable {a b : Nat} {x : Nbu} (ha : getG x (fld w 25 22) = a) (hb : getG x (fld w 21 18) = b) (hf : moveFaults a b = [])
  (href : x.refRun = false) (htag : tagFault s u a (32 * fld b 18 9) = [])
include ha hb hf href htag

theorem opRdl_of_ready (hready : uReady x [⟨0, fld b 8 0, fld b 18 9, true⟩] = true) : opRdl s u .none x w =
    setU s u (uOut (lbWrs x (fld b 8 0) (wordsOf (rdBytes s.mem.dram (uPlace u a) (32 * fld b 18 9)))) 0x10
      [⟨0, fld b 8 0, fld b 18 9, true⟩]) := by
  subst ha hb
  unfold moveFaults at hf
  simp only [opRdl, hf, href, hready, htag, List.isEmpty_nil, Bool.not_true, Bool.false_eq_true, or_self, reduceCtorEq,
    if_false]
theorem opWrl_of_ready (hready : uReady x [⟨0, fld b 8 0, fld b 18 9, false⟩] = true) : opWrl s u x w =
    setU (dramPut s (uPlace u a) none (lbBytes x (fld b 8 0) (fld b 18 9))) u
      (uOut x 0x11 [⟨0, fld b 8 0, fld b 18 9, false⟩]) := by
  subst ha hb
  unfold moveFaults at hf
  simp only [opWrl, hf, href, hready, htag, List.isEmpty_nil, Bool.not_true, Bool.false_eq_true, or_self, if_false]

end

/-- Bytes put into the cells of a place without a mirror are read there, and every other byte is as it was. -/
theorem spGet_dramPut (s : State) (p : Nat) (bs : List Byte) (k : Nat) : spGet 0 (dramPut s p none bs).mem.dram k =
    if p ≤ k ∧ k < p + bs.length then bs.getD (k - p) 0 else spGet 0 s.mem.dram k := spGet_wrBytes ..

/-! ### TBLD and ACCZ -/

/-- The faults of a TBLD before it starts (R136, R139), from the register its field names. -/
def tbldFaults (a wf af : Nat) : List Nat :=
  issueFaults (a / 2 ^ 27 != 0)
    (decide (512 < fld a 8 0 + (fld a 23 21 + 1 - 1) * fld a 17 9 + (fld a 20 18 + 1) * gWords af) ||
      decide (8 < fld a 26 24 + (fld a 20 18 + 1) * (fld a 23 21 + 1) * slotsPer wf)) (wf == 4 || !pairOk wf af)

theorem tbldFaults_of_inRange {a wf af : Nat} (hlt : a < 2 ^ 27) (h4 : wf ≠ 4) (hpair : pairOk wf af = true)
    (hlb : fld a 8 0 + (fld a 23 21 + 1 - 1) * fld a 17 9 + (fld a 20 18 + 1) * gWords af ≤ 512)
    (htab : fld a 26 24 + (fld a 20 18 + 1) * (fld a 23 21 + 1) * slotsPer wf ≤ 8) : tbldFaults a wf af = [] := by
  simp only [tbldFaults, Nat.div_eq_of_lt hlt, decide_eq_false (Nat.not_lt.2 hlb), decide_eq_false (Nat.not_lt.2 htab), hpair,
    beq_false_of_ne h4]
  rfl

/-- The spans of a TBLD (R134). -/
def tbldSpans (lo str g n af s0 k : Nat) : List Span :=
  (List.range n).map (fun q => ⟨0, lo + q * str, g * gWords af, false⟩) ++ [⟨2, s0, g * n * k, true⟩]

theorem opTbld_of_ready {s : State} {u w a wf af g n k : Nat} {x : Nbu} (ha : getG x (fld w 25 22) = a)
    (hwf : fld w 17 14 = wf) (haf : fld w 21 18 = af) (hg : fld a 20 18 + 1 = g) (hn : fld a 23 21 + 1 = n)
    (hk : slotsPer wf = k) (hlt : a < 2 ^ 27) (h4 : wf ≠ 4) (hpair : pairOk wf af = true)
    (hlb : fld a 8 0 + (n - 1) * fld a 17 9 + g * gWords af ≤ 512) (htab : fld a 26 24 + g * n * k ≤ 8)
    (hready : uReady x (tbldSpans (fld a 8 0) (fld a 17 9) g n af (fld a 26 24) k) = true) : opTbld s u x w =
      setU s u (uOut (tabLoad wf af k (fld a 26 24)
        (fun i => lbAct x af (fld a 8 0 + i % n * fld a 17 9 + i / n * gWords af)) x (g * n)) 0x12
        (tbldSpans (fld a 8 0) (fld a 17 9) g n af (fld a 26 24) k)) := by
  subst ha hwf haf hg hn hk
  have hfaults := tbldFaults_of_inRange hlt h4 hpair hlb htab
  unfold tbldSpans at hready
  unfold tbldFaults at hfaults
  simp only [opTbld, hfaults, hready, List.isEmpty_nil, Bool.not_true, Bool.false_eq_true, if_false]
  rw [← tabLoad_eq_foldl]
  rfl

theorem opAccz_of_ready {s : State} {u w a : Nat} {x : Nbu} (ha : getG x (fld w 25 22) = a) (hlt : a < 2 ^ 17)
    (hn : 0 < fld a 16 8) (hin : fld a 7 0 + fld a 16 8 ≤ 256)
    (hready : uReady x [⟨1, fld a 7 0, fld a 16 8, true⟩] = true) : opAccz s u x w =
      setU s u (uOut (accZero x (fld a 7 0) (fld a 16 8)) 0x14 [⟨1, fld a 7 0, fld a 16 8, true⟩]) := by
  subst ha
  have hmp : (getG x (fld w 25 22) / 2 ^ 17 != 0) = false := by simpa using hlt
  have hbounds : (fld (getG x (fld w 25 22)) 16 8 == 0 ||
      decide (256 < fld (getG x (fld w 25 22)) 7 0 + fld (getG x (fld w 25 22)) 16 8)) = false := by simp [Nat.ne_of_gt hn, hin]
  simp only [opAccz, hmp, hbounds, issueFaults_none, hready, List.isEmpty_nil, Bool.not_true, Bool.false_eq_true, if_false]
  rfl

/-! ### Completion -/

theorem execAsync_of_head {s : State} {u k : Nat} {o : UAsync} (ho : (getU s u).outst[k]? = some o) (hop : o.op ≠ 0x13)
    (hfirst : ((getU s u).outst.take k).all (fun p => engineOf p.op != engineOf o.op) = true) :
    exec (.asyncInstructionComplete u k) s =
      .next (setU s u { getU s u with outst := (getU s u).outst.eraseIdx k }) := by
  have hnone : ((getU s u).outst.take k).any (fun p => engineOf p.op == engineOf o.op) = false :=
    List.any_eq_false.2 fun p hp => by simpa using List.all_eq_true.1 hfirst p hp
  show execAsyncInstructionComplete u k s = _
  simp only [execAsyncInstructionComplete, ho, hnone, hop, Bool.false_eq_true, or_self, if_false]

/-! ### Settling O41 -/

/-- Settles O41: each move is the issue of its instruction, and what is then read is what its fold wrote. -/
theorem transferInstructions : Obligations.TransferInstructions := by
  rintro u w a b x s h rfl rfl rfl
  refine ⟨fun hop hb ha hn hlb hpair href hready htag => ?rdl, fun hop hb ha hn hlb hpair href hready htag _ => ?wrl,
    fun _ hb ha hout => ⟨fun hop => ?rdlBounds, fun hop => ?wrlBounds⟩,
    fun hop hlt wf af n g k hwf haf hg hn hk h4 hpair hlb htab hready => ?tbld, fun hop hlt hn hin hready => ?accz,
    fun k o ho hne hfirst => execAsync_of_head ho hne hfirst⟩
  case rdl =>
    exact (exec_of_runs (i := .rdl u .none) rfl h hop rfl).trans (congrArg _
      (opRdl_of_ready rfl rfl (moveFaults_of_inRange hb ha hn hlb hpair) href htag hready))
  case wrl =>
    refine ⟨_, (exec_of_runs (i := .wrl u .none) rfl h hop rfl).trans (congrArg _
      (opWrl_of_ready rfl rfl (moveFaults_of_inRange hb ha hn hlb hpair) href htag hready)), getU_setU_self ..,
      fun i hi => ?_, fun k hk => ?_, rfl, rfl, fun v hv => getU_setU_ne _ _ hv, rfl⟩
    · rw [setU_mem, spGet_dramPut, length_lbBytes, if_pos (by omega), Nat.add_sub_cancel_left]
    · rw [setU_mem, spGet_dramPut, length_lbBytes, if_neg (by omega)]
  case rdlBounds =>
    exact (exec_of_runs (i := .rdl u .none) rfl h hop rfl).trans (congrArg _
      (opRdl_of_faults _ _ (moveFaults_of_outside hb ha hout)))
  case wrlBounds =>
    exact (exec_of_runs (i := .wrl u .none) rfl h hop rfl).trans (congrArg _
      (opWrl_of_faults _ (moveFaults_of_outside hb ha hout)))
  case tbld =>
    have hslots : k = 1 ∨ k = 2 := hk ▸ slotsPer_cases wf
    have hframe := tabLoad_frame wf af k (fld (getG (getU s u) (fld w 25 22)) 26 24)
      (fun i => lbAct (getU s u) af (fld (getG (getU s u) (fld w 25 22)) 8 0 +
        i % n * fld (getG (getU s u) (fld w 25 22)) 17 9 + i / n * gWords af)) (getU s u) (g * n)
    refine ⟨_, (exec_of_runs (i := .tbld u .none) rfl h hop rfl).trans (congrArg _
      (opTbld_of_ready rfl hwf.symm haf.symm hg.symm hn.symm hk.symm hlt h4 hpair hlb htab hready)),
      fun i j hi hj => ?_, fun i hi => ?_, ?_, ?_, ?_, fun v hv => getU_setU_ne s _ hv, rfl⟩
    · rw [getU_setU_self]
      exact tabRd_tabLoad hslots hj wf af _ _ _ _ hi
    · rw [getU_setU_self]
      refine tabRd_tabLoad_outside hslots wf af _ _ _ ?_
      rw [Nat.mul_comm k]; exact hi
    · rw [getU_setU_self, hframe]; rfl
    · rw [getU_setU_self, hframe]; rfl
    · rw [getU_setU_self, hframe]; rfl
  case accz =>
    have hframe := accZero_frame (getU s u) (fld (getG (getU s u) (fld w 25 22)) 7 0)
      (fld (getG (getU s u) (fld w 25 22)) 16 8)
    refine ⟨_, (exec_of_runs (i := .accz u .none) rfl h hop rfl).trans (congrArg _
      (opAccz_of_ready rfl hlt hn hin hready)), fun i hi => ?_, fun i hi => ?_, ?_, fun v hv => getU_setU_ne s _ hv, rfl⟩
    · rw [getU_setU_self]
      exact (accRd_accZero ..).trans (if_pos (by omega))
    · rw [getU_setU_self]
      exact (accRd_accZero ..).trans (if_neg (by omega))
    · rw [getU_setU_self]
      exact (congrArg (fun y => uOut y 0x14 _) hframe).trans rfl

end Sys2Proof.Machine
end

section
/-!
PROOF. The element unit and the bus port (R134, R136, R143, R145): an EOP or a BSEND whose operands break no rule issues.
-/
namespace Sys2Proof.Machine

/-! ### EOP -/

/-- Two ranges of one instruction overlap without being one (R134). -/
def halfOverlaps (sp : List Span) : Bool :=
  (enumFrom 0 sp).any (fun a => (enumFrom 0 sp).any (fun b => decide (a.1 < b.1) && halfOverlap a.2 b.2))

theorem halfOverlaps_eq_false {sp : List Span} (h : (enumFrom 0 sp).all (fun a =>
    (enumFrom 0 sp).all (fun b => !(decide (a.1 < b.1) && halfOverlap a.2 b.2))) = true) : halfOverlaps sp = false := by
  refine List.any_eq_false.2 fun a ha => Bool.not_eq_true _ ▸ List.any_eq_false.2 fun b hb => ?_
  have hab := List.all_eq_true.1 (List.all_eq_true.1 h a ha) b hb
  rwa [Bool.not_eq_true', ← Bool.not_eq_true] at hab

/-- The operands of an EOP as the registers `g` and `o` that its fields name give them (Table 5-8). -/
def eopOf (w g o : Nat) : Eop :=
  { efn := fld w 17 12, len := fld w 5 0, src := fld g 8 0, dst := fld g 17 9, nrow := fld g 23 18, opw := fld o 8 0
    omode := fld o 10 9, xf := fld w 11 0 }

/-- The faults of an EOP before it starts (R134, R136). -/
def eopFaults (g o : Nat) (e : Eop) : List Nat :=
  issueFaults (g / 2 ^ 24 != 0 || o / 2 ^ 11 != 0 || decide (32 < e.len) || halfOverlaps (eopSpans e))
    (e.nrow == 0 || e.len == 0 || (eopSpans e).any (fun a => decide ((if a.space = 1 then 256 else 512) < a.lo + a.n)))
    (e.efn == 9 && !fmtCode (fld e.xf 11 8))

/-- An EOP that breaks no rule of its operands: what R134 and R136 ask of it. -/
structure EopOk (g o : Nat) (e : Eop) : Prop where
  g_lt : g < 2 ^ 24
  o_lt : o < 2 ^ 11
  len_pos : 0 < e.len
  len_le : e.len ≤ 32
  nrow_pos : 0 < e.nrow
  fmt : e.efn = 9 → fmtCode (fld e.xf 11 8) = true
  inside : (eopSpans e).all (fun a => decide (a.lo + a.n ≤ if a.space = 1 then 256 else 512)) = true
  apart : halfOverlaps (eopSpans e) = false

theorem eopFaults_of_ok {g o : Nat} {e : Eop} (h : EopOk g o e) : eopFaults g o e = [] := by
  obtain ⟨hg, ho, hlen, hlen32, hrow, hfmt, hin, hapart⟩ := h
  have hmp : (g / 2 ^ 24 != 0 || o / 2 ^ 11 != 0 || decide (32 < e.len) || halfOverlaps (eopSpans e)) = false := by
    simpa [hapart, hlen32] using ⟨hg, ho⟩
  have hout : (eopSpans e).any (fun a => decide ((if a.space = 1 then 256 else 512) < a.lo + a.n)) = false :=
    List.any_eq_false.2 fun a ha => by simpa using List.all_eq_true.1 hin a ha
  have hbounds : (e.nrow == 0 || e.len == 0 ||
      (eopSpans e).any (fun a => decide ((if a.space = 1 then 256 else 512) < a.lo + a.n))) = false := by
    simp [hout, Nat.ne_of_gt hrow, Nat.ne_of_gt hlen]
  have hformat : (e.efn == 9 && !fmtCode (fld e.xf 11 8)) = false := by
    simpa using hfmt
  rw [eopFaults, hmp, hbounds, hformat, issueFaults_none]

/-- What an EOP leaves when it goes out with the result `r`: TX_RANGE, and the counts of QNT, beside the rows it wrote. -/
def eopLeft (s : State) (u : Nat) (e : Eop) (r : Nbu × Bool × Nat × Nat) : State :=
  let s1 := useFree (setU s u (uOut r.1 0x15 (eopSpans e)))
  let s2 := if r.2.1 then nbuStat s1 u 1 else s1
  if e.efn = 9 then bumpBy (bumpBy s2 (nbuPg u + 0x70) r.2.2.1) (nbuPg u + 0x74) r.2.2.2 else s2

theorem opEop_eq {s : State} {u w g o : Nat} {x : Nbu} {e : Eop} (hg : getG x (fld w 25 22) = g)
    (ho : getG x (fld w 21 18) = o) (he : e = eopOf w g o) : opEop s u x w =
      if !(eopFaults g o e).isEmpty then unitFaults s u (eopFaults g o e) x.pc
      else if !uReady x (eopSpans e) then s
      else if e.efn = 9 ∧ !scOk ((lbRd x e.opw).toNat % 2 ^ 32) then unitFault s u 8 x.pc
      else eopLeft s u e (eopRun s x e) := by
  subst hg ho he
  rfl

theorem opEop_of_ready {s : State} {u w g o : Nat} {x : Nbu} {e : Eop} (hg : getG x (fld w 25 22) = g)
    (ho : getG x (fld w 21 18) = o) (he : e = eopOf w g o) (hok : EopOk g o e) (hready : uReady x (eopSpans e) = true)
    (hsc : e.efn = 9 → scOk ((lbRd x e.opw).toNat % 2 ^ 32) = true) : opEop s u x w = eopLeft s u e (eopRun s x e) := by
  have hscale : ¬ (e.efn = 9 ∧ (!scOk ((lbRd x e.opw).toNat % 2 ^ 32)) = true) := fun ⟨h9, hno⟩ => by
    rw [hsc h9] at hno
    exact absurd hno (by decide)
  rw [opEop_eq hg ho he, eopFaults_of_ok hok, hready, if_neg (by decide), if_neg (by decide), if_neg hscale]

theorem atUnit_eopLeft (s : State) (u : Nat) (e : Eop) (r : Nbu × Bool × Nat × Nat) : AtUnit u s (eopLeft s u e r) := by
  have hout : AtUnit u s (useFree (setU s u (uOut r.1 0x15 (eopSpans e)))) := ((AtUnit.refl u s).setU _).useFree
  unfold eopLeft
  dsimp only
  split <;> split
  · exact ((hout.nbuStat 1).bumpBy (by decide) _).bumpBy (by decide) _
  · exact (hout.bumpBy (by decide) _).bumpBy (by decide) _
  · exact hout.nbuStat 1
  · exact hout
theorem getU_eopLeft (s : State) (u : Nat) (e : Eop) (r : Nbu × Bool × Nat × Nat) :
    getU (eopLeft s u e r) u = uOut r.1 0x15 (eopSpans e) := by
  unfold eopLeft
  dsimp only
  split <;> split <;> simp

/-- Each EOP command names its function. -/
theorem exec_eq_eopCmd {i : Upset → Instr} {n u : Nat} (hi : (i, n) ∈ [(Instr.eopCvt u, 1), (.eopResc u, 2), (.eopAdd u, 3),
    (.eopSub u, 4), (.eopMul u, 5), (.eopTable u, 6), (.eopSsq u, 7), (.eopAmax u, 8), (.eopQnt u, 9)]) (up : Upset)
    (s : State) : exec (i up) s = .next (eopCmd n u up s) := by
  simp only [List.mem_cons, Prod.mk.injEq, List.not_mem_nil, or_false] at hi
  rcases hi with ⟨rfl, rfl⟩ | ⟨rfl, rfl⟩ | ⟨rfl, rfl⟩ | ⟨rfl, rfl⟩ | ⟨rfl, rfl⟩ | ⟨rfl, rfl⟩ | ⟨rfl, rfl⟩ | ⟨rfl, rfl⟩ |
    ⟨rfl, rfl⟩ <;> rfl

/-! ### BSEND -/

/-- What a BSEND puts on its stack's bus (R145), from the registers `g` and `y` that its fields name. -/
def bsendContrib (s : State) (u w g y : Nat) (x : Nbu) : Contrib :=
  { stk := u / 272, tag := y, lunit := lunit s u, unit := u, bop := fld w 17 15
    words := (List.range (fld g 16 9)).map (fun j => lbRd x (fld g 8 0 + j)) }

theorem opBsend_of_ready {s : State} {u w g y : Nat} {x : Nbu} (hg : getG x (fld w 25 22) = g)
    (hy : getG x (fld w 21 18) = y) (hglt : g < 2 ^ 17) (hylt : y < 256) (hn : 0 < fld g 16 9)
    (hin : fld g 8 0 + fld g 16 9 ≤ 512) (hready : uReady x [⟨0, fld g 8 0, fld g 16 9, false⟩] = true) : opBsend s u x w =
      { setU s u (uOut x 0x16 [⟨0, fld g 8 0, fld g 16 9, false⟩]) with bus := s.bus ++ [bsendContrib s u w g y x] } := by
  subst hg hy
  have hmp : (getG x (fld w 25 22) / 2 ^ 17 != 0 || getG x (fld w 21 18) / 256 != 0) = false := by
    simpa using ⟨hglt, hylt⟩
  have hbounds : (fld (getG x (fld w 25 22)) 16 9 == 0 ||
      decide (512 < fld (getG x (fld w 25 22)) 8 0 + fld (getG x (fld w 25 22)) 16 9)) = false := by simp [Nat.ne_of_gt hn, hin]
  simp only [opBsend, hmp, hbounds, issueFaults_none, hready, List.isEmpty_nil, Bool.not_true, Bool.false_eq_true, if_false]
  rfl

/-- Each BSEND command names its operation. -/
theorem exec_eq_bsendCmd {i : Upset → Instr} {n u : Nat}
    (hi : (i, n) ∈ [(Instr.bsendGather u, 0), (.bsendSum u, 1), (.bsendMax u, 2)]) (up : Upset) (s : State) :
    exec (i up) s = .next (bsendCmd n u up s) := by
  simp only [List.mem_cons, Prod.mk.injEq, List.not_mem_nil, or_false] at hi
  rcases hi with ⟨rfl, rfl⟩ | ⟨rfl, rfl⟩ | ⟨rfl, rfl⟩ <;> rfl

/-! ### Settling O43 -/

/-- Settles O43: an EOP's outcome is `eopLeft` of its result, and a BSEND's is the one contribution more on the bus. -/
theorem elementAndBusInstructions : Obligations.ElementAndBusInstructions := by
  refine ⟨?eop, ?bsend⟩
  case eop =>
    rintro i n u w g o e x s hi h hop rfl rfl rfl rfl hg ho he hlen hlen32 hrow hqnt hin hapart hready
    have hefn : e.efn = fld w 17 12 := he ▸ rfl
    have hok : EopOk _ _ e := ⟨hg, ho, hlen, hlen32, hrow, fun h9 => (hqnt (hefn ▸ h9)).1, hin, halfOverlaps_eq_false hapart⟩
    have hexec : exec (i .none) s = .next (eopLeft s u e (eopRun s (getU s u) e)) :=
      ((exec_eq_eopCmd hi .none s).trans (congrArg _ (uIssue_of_runs h hop (beq_self_eq_true _)))).trans
        (congrArg _ (opEop_of_ready rfl rfl he hok hready fun h9 => (hqnt (hefn ▸ h9)).2))
    have hat := atUnit_eopLeft s u e (eopRun s (getU s u) e)
    exact ⟨_, hexec, getU_eopLeft .., hat.unit_ne, hat.frame⟩
  case bsend =>
    rintro i n u w g y x s hi h hop rfl rfl rfl rfl hg hy hn hin hready
    have hexec := ((exec_eq_bsendCmd hi .none s).trans (congrArg _ (uIssue_of_runs h hop (beq_self_eq_true _)))).trans
      (congrArg _ (opBsend_of_ready rfl rfl hg hy hn hin hready))
    exact ⟨_, _, hexec, rfl, rfl, rfl, rfl, rfl, rfl, rfl, getU_setU_self .., rfl⟩

end Sys2Proof.Machine
end

section
/-!
PROOF. The base-die bus (R132, R144 to R146, R175, R262), and the refresh of a bank pair (R150).
-/
namespace Sys2Proof.Machine

/-! ### The row buffer after a write -/

theorem lbRd_lbWr (x : Nbu) (i j : Nat) (v : BitVec 256) : lbRd (lbWr x i v) j = if j = i then v else lbRd x j := by
  by_cases h : j = i
  · subst h; simp [lbRd, lbWr, spFind_spSet_self]
  · simp [lbRd, lbWr, spFind_spSet_ne _ h, h]
theorem lbRd_lbWrs (j : Nat) : ∀ (vs : List (BitVec 256)) (x : Nbu) (i : Nat),
    lbRd (lbWrs x i vs) j = if i ≤ j ∧ j < i + vs.length then vs.getD (j - i) 0 else lbRd x j
  | [], x, i => (if_neg (by simp)).symm
  | v :: vs, x, i => by
    rw [lbWrs, lbRd_lbWrs j vs, lbRd_lbWr]
    by_cases hfirst : j = i
    · subst hfirst
      rw [if_neg (by omega), if_pos rfl, if_pos (by simp), Nat.sub_self, List.getD_cons_zero]
    · rw [if_neg hfirst]
      by_cases hrest : i + 1 ≤ j ∧ j < i + 1 + vs.length
      · rw [if_pos hrest, if_pos (by simp; omega), show j - i = j - (i + 1) + 1 by omega, List.getD_cons_succ]
      · rw [if_neg hrest, if_neg (by simp; omega)]
/-- Only LB and its residues change. -/
theorem lbWrs_frame : ∀ (vs : List (BitVec 256)) (x : Nbu) (i : Nat),
    lbWrs x i vs = { x with lb := (lbWrs x i vs).lb, lbRes := (lbWrs x i vs).lbRes }
  | [], _, _ => rfl
  | v :: vs, x, i => Eq.trans (lbWrs_frame vs (lbWr x i v) (i + 1)) rfl

/-! ### A broadcast -/

/-- A broadcast into a unit that runs (R144): the words up to the end of LB, and one more BEV. -/
def heard (x : Nbu) (word : Nat) (data : List (BitVec 256)) : Nbu :=
  { lbWrs x word (data.take (512 - word)) with bev := (x.bev + 1) % 65536 }

theorem broadcast1_of_running {s : State} {u : Nat} (word : Nat) (data : List (BitVec 256)) (h : (getU s u).st = .running) :
    broadcast1 s u word data = setU s u (heard (getU s u) word data) := if_pos h
theorem broadcast1_of_not_running {s : State} {u : Nat} (word : Nat) (data : List (BitVec 256))
    (h : (getU s u).st ≠ .running) : broadcast1 s u word data = nbuStat s u 14 := if_neg h
theorem atUnit_broadcast1 (word : Nat) (data : List (BitVec 256)) (s : State) (u : Nat) :
    AtUnit u s (broadcast1 s u word data) := by
  unfold broadcast1
  dsimp only
  split
  · exact (AtUnit.refl u s).setU _
  · exact (AtUnit.refl u s).nbuStat 14
theorem broadcast1_free (word : Nat) (data : List (BitVec 256)) (s : State) (u : Nat) :
    (broadcast1 s u word data).free = s.free := by
  unfold broadcast1
  dsimp only
  split <;> rfl

theorem lbRd_heard (x : Nbu) (word j : Nat) (data : List (BitVec 256)) : lbRd (heard x word data) j =
    if word ≤ j ∧ j < word + (data.take (512 - word)).length then (data.take (512 - word)).getD (j - word) 0 else lbRd x j :=
  lbRd_lbWrs j _ x word
theorem lbRd_heard_word {word j : Nat} {data : List (BitVec 256)} (hj : j < data.length) (hend : word + j < 512) (x : Nbu) :
    lbRd (heard x word data) (word + j) = data.getD j 0 := by
  rw [lbRd_heard, if_pos (by simp; omega), Nat.add_sub_cancel_left]
  have hj' : j < 512 - word := by omega
  simp [List.getD_eq_getElem?_getD, hj']
theorem lbRd_heard_outside {word j : Nat} {data : List (BitVec 256)} (hj : j < word ∨ word + data.length ≤ j) (x : Nbu) :
    lbRd (heard x word data) j = lbRd x j := by
  rw [lbRd_heard, if_neg (by simp; omega)]
theorem heard_keeps (x : Nbu) (word : Nat) (data : List (BitVec 256)) :
    (heard x word data).pc = x.pc ∧ (heard x word data).acc = x.acc ∧ (heard x word data).g = x.g := by
  rw [heard, lbWrs_frame]
  exact ⟨rfl, rfl, rfl⟩

/-- The stack's units after the dealer's marks: only units and registers differ. -/
theorem broadcast_frame (s : State) (stk g word : Nat) (data : List (BitVec 256)) : broadcast s stk g word data =
    { markDrops s stk g with nbu := (broadcast s stk g word data).nbu, regs := (broadcast s stk g word data).regs } :=
  (foldl_unitsOnly (fun x u => (atUnit_broadcast1 word data x u).frame) _ (markDrops s stk g)).of_free_eq
    (foldl_keeps (g := State.free) (broadcast1_free word data) _ _)

/-! ### A combine -/

/-- One stack's part of a combine (R145, R146): its contributions in order of LUNIT, one after another or as a tree. -/
def stackPart (b : Nat) (cs : List Contrib) (k : Nat) : List (BitVec 256) :=
  if b = 0 then (sortBy (fun (a b : Contrib) => decide (a.lunit ≤ b.lunit)) (cs.filter (fun c => c.stk == k))).flatMap
    (fun c => c.words)
  else (treeFold (busCombine2 b) 10 ((sortBy (fun (a b : Contrib) => decide (a.lunit ≤ b.lunit))
    (cs.filter (fun c => c.stk == k))).map (fun c => c.words))).headD []

/-- The result over the stacks of the span. -/
def spanResult (b : Nat) (per : Nat → List (BitVec 256)) (span : List Nat) : List (BitVec 256) :=
  if b = 0 then (span.map per).flatten
  else (treeFold (busCombine2 b) 4 ((span.map per).filter (fun l => !l.isEmpty))).headD []

/-- The address of the scratchpad line of a tag entry, and the way that holds it. -/
def lineAddr (e1 : Nat) : Nat := 0x010000000000 + 32 * fld e1 23 0
def lineWay (s : State) (e1 : Nat) : Way := getWay s (scrAt (lineAddr e1)).1 (scrAt (lineAddr e1)).2.1

/-- Where the result of a combine goes, `s1` being the state without the contributions. -/
def combineTo (s s1 : State) (e0 e1 : Nat) (span : List Nat) (r : List (BitVec 256)) : Res :=
  if bitN e0 12 then .next (span.foldl (fun x k => broadcast x k (fld e0 3 0) (fld e0 21 13) r) s1)
  else if (lineWay s e1).pend.isSome then .next s
  else .next (memWrite s1 (lineWay s e1).owner (lineAddr e1) (r.flatMap (fun v => leBytes v.toNat 32))).1

/-- The stacks a tag entry of stack `stk` spans (R145). -/
def tagSpan (stk e0 : Nat) : List Nat := (List.range 8).filter (fun k => bitN e0 (4 + k) || k == stk)
/-- The participants of a tag entry, and the contributions of theirs that the bus holds. -/
def tagUnits (s : State) (stk e0 : Nat) : List Nat := (tagSpan stk e0).flatMap (fun k => tagMembers s k (fld e0 3 0))
def tagSent (s : State) (tag : Nat) (us : List Nat) : List Contrib :=
  us.filterMap (fun u => s.bus.find? (fun c => c.unit == u && c.tag == tag))
/-- The bus without the contributions `cs`. -/
def busWithout (s : State) (cs : List Contrib) : State := { s with bus := cs.foldl (fun l c => l.erase c) s.bus }

/-- The contribution the others are held against. -/
def firstSent (cs : List Contrib) : Contrib :=
  cs.headD { stk := 0, tag := 0, lunit := 0, unit := 0, bop := 0, words := [] }

theorem firstSent_mem {cs : List Contrib} (h : cs ≠ []) : firstSent cs ∈ cs := by
  cases cs with
  | nil => exact absurd rfl h
  | cons c cs => exact List.mem_cons_self

theorem sent_ne_nil {us : List Nat} {cs : List Contrib} (hne : us ≠ []) (hlen : cs.length = us.length) : cs ≠ [] :=
  fun h => hne (List.length_eq_zero_iff.1 (by rw [← hlen, h]; rfl))

section
variable {s : State} {stk tag e0 e1 : Nat} {us : List Nat} {cs : List Contrib}
  (hent : tagEnt s stk tag = (e0, e1)) (hus : us = tagUnits s stk e0) (hcs : cs = tagSent s tag us)
include hent hus hcs

theorem execBusCombine_eq : exec (.busCombine stk tag) s =
    if us.isEmpty ∨ cs.length ≠ us.length then .next s
    else if (tagSpan stk e0).any (fun k => tagEnt s k tag != (e0, e1)) ∨
        cs.any (fun c => c.bop != (firstSent cs).bop || c.words.length != (firstSent cs).words.length) then
      .next (tagError (busWithout s cs) us)
    else combineTo s (busWithout s cs) e0 e1 (tagSpan stk e0)
      (spanResult (firstSent cs).bop (stackPart (firstSent cs).bop cs) (tagSpan stk e0)) := by
  subst hus hcs
  show execBusCombine stk tag s = _
  simp only [execBusCombine, hent]
  rfl

theorem execBusCombine_of_missing (hlen : cs.length ≠ us.length) : exec (.busCombine stk tag) s = .next s :=
  (execBusCombine_eq hent hus hcs).trans (if_pos (.inr hlen))

variable (hne : us ≠ []) (hlen : cs.length = us.length)
include hne hlen

theorem execBusCombine_of_agree (hspan : ∀ k ∈ tagSpan stk e0, tagEnt s k tag = (e0, e1)) {n b : Nat}
    (hall : ∀ c ∈ cs, c.bop = b ∧ c.words.length = n) : exec (.busCombine stk tag) s =
      combineTo s (busWithout s cs) e0 e1 (tagSpan stk e0) (spanResult b (stackPart b cs) (tagSpan stk e0)) := by
  obtain ⟨hbop, hwords⟩ := hall _ (firstSent_mem (sent_ne_nil hne hlen))
  have hsame : ¬ ((tagSpan stk e0).any (fun k => tagEnt s k tag != (e0, e1)) = true ∨
      cs.any (fun c => c.bop != (firstSent cs).bop || c.words.length != (firstSent cs).words.length) = true) := by
    rintro (h | h)
    · obtain ⟨k, hk, hdiff⟩ := List.any_eq_true.1 h
      simp [hspan k hk] at hdiff
    · obtain ⟨c, hc, hdiff⟩ := List.any_eq_true.1 h
      simp [hbop, hwords, hall c hc] at hdiff
  rw [execBusCombine_eq hent hus hcs, if_neg (by simp [hne, hlen]), if_neg hsame, hbop]

theorem execBusCombine_of_differ (hdiff : ∃ a ∈ cs, ∃ b ∈ cs, a.bop ≠ b.bop) :
    exec (.busCombine stk tag) s = .next (tagError (busWithout s cs) us) := by
  obtain ⟨a, ha, b, hb, hab⟩ := hdiff
  have hany : cs.any (fun c => c.bop != (firstSent cs).bop || c.words.length != (firstSent cs).words.length) = true := by
    refine List.any_eq_true.2 ?_
    by_cases h : a.bop = (firstSent cs).bop
    · exact ⟨b, hb, by simp [← h, Ne.symm hab]⟩
    · exact ⟨a, ha, by simp [h]⟩
  rw [execBusCombine_eq hent hus hcs, if_neg (by simp [hne, hlen]), if_pos (.inr hany)]

end

/-! ### Refresh and pre-emption -/

section
variable {s : State} {u : Nat}

theorem execRefreshDue_of_on (hon : isOn s .stk (u / 272) = true) (hrun : (getU s u).refRun = false)
    (hdue : (getU s u).refDue = false) : exec (.refreshDue u) s = .next (
      if !pairBusy (getU s u) then setU s u { getU s u with refRun := true }
      else if atYield (getU s u) then yieldNow (setU s u { getU s u with refDue := true }) u
      else setU s u { getU s u with refDue := true }) := by
  show execRefreshDue u s = _
  simp only [execRefreshDue, hon, hrun, hdue, Bool.not_true, Bool.false_eq_true, or_self, if_false, ← apply_ite]

theorem execPreemption_of_due (h : (getU s u).refDue = true) : exec (.preemption u) s =
    .next (bump (setU s u { getU s u with refDue := false, refRun := true, preempt := true }) (nbuPg u + 0x50)) := if_pos h
theorem execPreemption_of_not_due (h : (getU s u).refDue = false) : exec (.preemption u) s = .next s :=
  if_neg (by simp [h])
theorem execRefreshDone_of_running (h : (getU s u).refRun = true) :
    exec (.refreshDone u) s = .next (setU s u { getU s u with refRun := false }) := if_pos h
theorem execRefreshDone_of_none (h : (getU s u).refRun = false) : exec (.refreshDone u) s = .next s :=
  if_neg (by simp [h])

/-- A count in a unit's page after the unit is set. -/
theorem rdN_bump_setU {a : Nat} (x : Nbu) (h : rdN s a < 0xFFFFFFFF) : rdN (bump (setU s u x) a) a = rdN s a + 1 :=
  rdN_bump (setU s u x) h

end

/-! ### Settling O44 -/

/-- Settles O44: a broadcast is one effect at each unit it reaches, a combine is `combineTo` of its result, and a refresh goes by
the unit's three flags. -/
theorem busAndRefresh : Obligations.BusAndRefresh := by
  refine ⟨⟨?broadcast, ?combine⟩, ?refresh⟩
  case broadcast =>
    intro stk g word data s
    have hat := atUnit_broadcast1 word data
    have hframe := broadcast_frame s stk g word data
    have hdeal : (broadcast s stk g word data).deal = (markDrops s stk g).deal :=
      (congrArg State.deal hframe).trans rfl
    refine ⟨_, rfl, fun u hu => (foldl_sameUnit_of_not_mem hat (markDrops s stk g) hu).unit, fun u hu hst => ?running,
      fun u hu hst => ?dropped, hdeal, hframe.trans (by rw [hdeal]; rfl)⟩
    case running =>
      obtain ⟨x, hx, hlast⟩ := foldl_sameUnit_of_mem hat (markDrops s stk g) (targets_nodup s _) hu
      have hxu : getU x u = getU s u := hx.unit
      have hheard : getU (broadcast s stk g word data) u = heard (getU s u) word data := by
        rw [broadcast, hlast.unit, broadcast1_of_running _ _ (hxu ▸ hst), getU_setU_self, hxu]
      obtain ⟨hpc, hacc, hg⟩ := heard_keeps (getU s u) word data
      rw [hheard]
      exact ⟨rfl, hpc, hacc, hg, fun j hj hend => lbRd_heard_word hj hend _, fun j hj => lbRd_heard_outside hj _⟩
    case dropped =>
      obtain ⟨x, hx, hlast⟩ := foldl_sameUnit_of_mem hat (markDrops s stk g) (targets_nodup s _) hu
      have hxu : getU x u = getU s u := hx.unit
      rw [broadcast, hlast.unit, hlast.page _ (by decide), broadcast1_of_not_running _ _ (hxu ▸ hst), getU_nbuStat]
      exact ⟨hxu, bit_nbuStat_self x u (by decide)⟩
  case combine =>
    rintro stk tag e0 e1 g span us cs s s1 hent rfl rfl hus hcs hne rfl
    refine ⟨execBusCombine_of_missing hent hus hcs, fun hlen hspan n b hall per r hper hr => ?agree,
      execBusCombine_of_differ hent hus hcs hne⟩
    case agree =>
      obtain rfl : per = stackPart b cs := funext hper
      have hexec := execBusCombine_of_agree hent hus hcs hne hlen hspan hall
      subst hr
      refine ⟨fun hgroups => hexec.trans (if_pos hgroups), fun hline hpend => ?_, fun hline hpend => ?_⟩
      · exact hexec.trans ((if_neg (by simp [hline])).trans (if_pos hpend))
      · exact hexec.trans ((if_neg (by simp [hline])).trans (if_neg (by simp [lineWay, lineAddr, hpend])))
  case refresh =>
    rintro u x s rfl
    refine ⟨fun hon hrun hdue hbusy => ?atOnce, fun hon hrun hdue hbusy hyield => ?waits,
      fun hon hrun hdue hbusy hyield => ?atYieldPoint, fun hdue => ?preempts, execPreemption_of_not_due,
      execRefreshDone_of_running, execRefreshDone_of_none⟩
    case atOnce =>
      rw [execRefreshDue_of_on hon hrun hdue, hbusy]
      rfl
    case waits =>
      rw [execRefreshDue_of_on hon hrun hdue, hbusy, hyield]
      rfl
    case atYieldPoint =>
      have hexec : exec (.refreshDue u) s = .next (yieldNow (setU s u { getU s u with refDue := true }) u) := by
        rw [execRefreshDue_of_on hon hrun hdue, hbusy, hyield]
        rfl
      have hset : (getU (setU s u { getU s u with refDue := true }) u).refDue = true := by rw [getU_setU_self]
      have hat := ((AtUnit.refl u s).setU { getU s u with refDue := true }).trans (atUnit_yieldNow _ u)
      refine ⟨_, hexec, ?_, hat.unit_ne, fun hcount => ?_, hat.frame⟩
      · rw [getU_yieldNow_of_due hset, getU_setU_self]
      · rw [yieldNow_of_due hset]
        exact rdN_bump_setU (s := setU s u _) _ hcount
    case preempts =>
      have hat := ((AtUnit.refl u s).setU { getU s u with refDue := false, refRun := true, preempt := true }).bumpBy
        (o := 0x50) (by decide) 1
      exact ⟨_, execPreemption_of_due hdue, (getU_bump ..).trans (getU_setU_self ..), hat.unit_ne, rdN_bump_setU _, hat.frame⟩

end Sys2Proof.Machine
end

section
/-!
PROOF. Facts that the generation service's statements share: the dealer's tables are memory (R192, R214, R216), and a page moved
between tiers (R218, R220) leaves the sequence table as it was.
-/
namespace Sys2Proof.Machine

/-! ### The dealer's tables (R192, R214, R216) -/

theorem MemOnly.host {s t : State} (h : MemOnly s t) : t.host = s.host := by obtain ⟨_, _, _, rfl⟩ := h; rfl
theorem MemOnly.deal {s t : State} (h : MemOnly s t) : t.deal = s.deal := by obtain ⟨_, _, _, rfl⟩ := h; rfl
theorem MemOnly.kv {s t : State} (h : MemOnly s t) : t.kv = s.kv := by obtain ⟨_, _, _, rfl⟩ := h; rfl
/-- The state of an access whose result is named. -/
theorem MemOnly.of_eq {α : Type} {s t : State} {p : State × α} {b : α} (h : MemOnly s p.1) (e : p = (t, b)) :
    MemOnly s t := by
  subst e; exact h

theorem memOnly_rdTab (s : State) (a n : Nat) : MemOnly s (rdTab s a n).1 := by
  have h := memOnly_memRead s 256 true a n
  unfold rdTab
  split <;> exact h.of_eq ‹_›

theorem memOnly_wrTab (s : State) (a n v : Nat) : MemOnly s (wrTab s a n v) := memOnly_memWrite ..
theorem memOnly_wrPte (s : State) (a e : Nat) : MemOnly s (wrPte s a e) := memOnly_wrTab ..
theorem memOnly_putLeaf (s : State) (walk : Bool) (a e : Nat) : MemOnly s (putLeaf s walk a e) :=
  .foldl _ (fun x _ => memOnly_wrPte x _ _) _ s
theorem memOnly_newSeq (s : State) (m g : Nat) : MemOnly s (newSeq s m g) :=
  (memOnly_wrTab ..).trans (.foldl _ (fun x _ => memOnly_wrTab x _ _ _) _ _)

theorem memOnly_poolRing (s : State) (c : List Byte) (r : Nat) : MemOnly s (poolRing s c r).1 := by
  have h := memOnly_rdTab s (cxPool c + 16 * r) 16
  unfold poolRing
  dsimp only
  split
  next hread => split <;> exact h.of_eq hread
  next hread => exact h.of_eq hread

theorem memOnly_pushFreed (s : State) (c : List Byte) (base trick : Nat) : MemOnly s (pushFreed s c base trick) := by
  have h := memOnly_poolRing s c 18
  unfold pushFreed
  split
  next hring => exact ((h.of_eq hring).trans (memOnly_wrTab ..)).trans (memOnly_wrTab ..)
  next hring => exact h.of_eq hring

/-! ### The sequence table while pages move (R218, R220) -/

/-- The sequence table is the same in both states. -/
def SlotsKept (s t : State) : Prop := t.deal.slots = s.deal.slots

theorem SlotsKept.refl (s : State) : SlotsKept s s := rfl
theorem SlotsKept.trans {s t r : State} (h : SlotsKept s t) (g : SlotsKept t r) : SlotsKept s r := Eq.trans g h
theorem SlotsKept.slot {s t : State} (h : SlotsKept s t) (g : Nat) : getSlot t g = getSlot s g := by
  rw [getSlot, h]; rfl
theorem SlotsKept.ite {c : Prop} [Decidable c] {s t r : State} (ht : SlotsKept s t) (hr : SlotsKept s r) :
    SlotsKept s (if c then t else r) := by
  split <;> assumption
theorem SlotsKept.foldl {α : Type} {f : State → α → State} (hf : ∀ x a, SlotsKept x (f x a)) (l : List α) (s : State) :
    SlotsKept s (l.foldl f s) :=
  List.foldlRecOn (motive := SlotsKept s) l f (.refl s) fun x hx a _ => hx.trans (hf x a)
theorem MemOnly.slotsKept {s t : State} (h : MemOnly s t) : SlotsKept s t := congrArg Deal.slots h.deal

theorem slotsKept_popFrame (s : State) (c : List Byte) (tier sze : Nat) : SlotsKept s (popFrame s c tier sze).1 := by
  have h := memOnly_poolRing s c (9 * tier + (sze - 4))
  unfold popFrame
  split
  next hring =>
    have hring := h.of_eq hring
    split
    · exact hring.slotsKept
    · split
      next hread =>
        refine (hring.trans ((memOnly_rdTab ..).of_eq hread)).slotsKept.trans (.trans ?_ (memOnly_wrTab ..).slotsKept)
        exact .ite (.refl _) (.refl _)
      next hread => exact (hring.trans ((memOnly_rdTab ..).of_eq hread)).slotsKept
  next hring => exact (h.of_eq hring).slotsKept

theorem slotsKept_vacate (s : State) (m g layer fpos base : Nat) : SlotsKept s (vacate s m g layer fpos base) := by
  unfold vacate makeFree
  exact .ite (.refl s) (.ite (.refl s) (.ite (.refl s) (memOnly_pushFreed ..).slotsKept))

theorem slotsKept_movePage (s : State) (m g layer : Nat) (p : Nat × Nat) (tier : Nat) :
    SlotsKept s (movePage s m g layer p tier).1 := by
  have hframe := slotsKept_popFrame s (getM s m).ctx tier (pSze p.2)
  unfold movePage
  dsimp only
  split
  next hpop => rw [hpop] at hframe; exact hframe
  next hpop =>
    rw [hpop] at hframe
    split
    next hread =>
      refine (hframe.trans ((memOnly_memRead ..).of_eq hread).slotsKept).trans (.trans (t := snapMove _ g layer p.2 _) ?_
        (slotsKept_vacate ..))
      exact ((memOnly_memWrite ..).trans (memOnly_putLeaf ..)).slotsKept
    next hread => exact hframe.trans ((memOnly_memRead ..).of_eq hread).slotsKept

theorem slotsKept_pauseMove (s : State) (m g : Nat) : SlotsKept s (pauseMove s m g) :=
  .foldl (fun x _ => .ite (slotsKept_movePage ..) (.refl x)) _ s

theorem slotsKept_resumeMove (s : State) (m g : Nat) : SlotsKept s (resumeMove s m g) :=
  .foldl (fun x _ => .ite (slotsKept_movePage ..) (.refl x)) _ s

end Sys2Proof.Machine
end

section
/-!
PROOF. Acceptance of GENERATE and APPEND (R228, R231, R237): the outcome of an accepted descriptor without a stop table is
`opCreate` of the state that has taken the head, and `newSeq` writes memory only.
-/
namespace Sys2Proof.Machine

/-! ### Slots under the dealer's shared operations -/

theorem getSlot_congr {s t : State} (h : t.deal = s.deal) (g : Nat) : getSlot t g = getSlot s g := by rw [getSlot, h]; rfl
@[simp] theorem getSlot_bump (s : State) (a g : Nat) : getSlot (bump s a) g = getSlot s g := getSlot_congr (bump_deal ..) g
@[simp] theorem getSlot_popDesc (s : State) (q g : Nat) : getSlot (popDesc s q) g = getSlot s g := rfl
@[simp] theorem getSlot_ackDesc (s : State) (q g h st : Nat) (d : Desc) : getSlot (ackDesc s q g d st) h = getSlot s h := rfl

/-! ### The checks of Table 8-7 -/

/-- No row matches exactly when each one's condition fails. -/
theorem firstRow_eq_none : ∀ {l : List (Bool × Nat × Nat)}, firstRow l = none ↔ ∀ e ∈ l, e.1 = false
  | [] => by simp [firstRow]
  | (c, r, st) :: l => by cases c <;> simp [firstRow, firstRow_eq_none (l := l)]

/-- Row 3: an accepted request on a sequence that is held names the sequence's model. -/
theorem model_eq_of_not_refused {s : State} {f g : Nat} {d : Desc} {tab : StopTab}
    (h : genRefusal s f g d tab = none) (hst : (getSlot s g).st = .retained) : (getSlot s g).model = dF d 8 1 := by
  have hrows := firstRow_eq_none.1 h
  have happ := hrows _ (.tail _ (.tail _ (.tail _ (.tail _ (.tail _ (.head _))))))
  have hmodel := hrows _ (.tail _ (.tail _ (.head _)))
  have hopc : dOpc d = 2 := by simpa [hst] using happ
  simp only [hst, hopc, Bool.or_eq_false_iff] at hmodel
  simpa using hmodel.2

/-! ### The head taken and the request created -/

theorem scrWaits_zero (s : State) (fn n : Nat) : scrWaits s fn 0 n = false := rfl

section
variable {s : State} {opc q f : Nat} {d : Desc} (rd : StopRead) (hhead : headDesc s q opc = some (f, d))
  (hstops : dF d 0x28 8 = 0)
include hhead hstops

/-- A GENERATE or APPEND without a stop table that a row matches, judged on the state that has taken it. -/
theorem acceptGen_of_refused {row st : Nat} (hrow : genRefusal (popDesc s q) f (gidOf s f d) d .absent = some (row, st)) :
    acceptGen opc q rd s = refuse (popDesc s q) q (gidOf s f d) d row st := by
  simp only [acceptGen, hhead, readStops, hstops, scrWaits_zero, Bool.and_false, Bool.false_eq_true, if_false, if_true, hrow]

/-- A GENERATE or APPEND without a stop table that no row matches. -/
theorem acceptGen_of_accepted (hnone : genRefusal (popDesc s q) f (gidOf s f d) d .absent = none) :
    acceptGen opc q rd s = opCreate (popDesc s q) (gidOf s f d) (mkReq (popDesc s q) q f d {}) := by
  simp only [acceptGen, hhead, readStops, hstops, scrWaits_zero, Bool.and_false, Bool.false_eq_true, if_false, if_true, hnone]

end

theorem exec_of_creates {i : Instr} {opc q : Nat} {rd : StopRead}
    (hi : (i, opc) ∈ [(Instr.generate q rd, 1), (.append q rd, 2)]) (s : State) :
    (opc = 1 ∨ opc = 2) ∧ exec i s = .next (acceptGen opc q rd s) := by
  simp only [List.mem_cons, Prod.mk.injEq, List.not_mem_nil, or_false] at hi
  rcases hi with ⟨rfl, rfl⟩ | ⟨rfl, rfl⟩
  · exact ⟨.inl rfl, rfl⟩
  · exact ⟨.inr rfl, rfl⟩

/-- The state in which a created request is entered: one more in the order of acceptance, and one more counted. -/
def orderTaken (s : State) : State := bump { s with deal := { s.deal with order := s.deal.order + 1 } } (svc 0x50)

@[simp] theorem orderTaken_deal (s : State) : (orderTaken s).deal = { s.deal with order := s.deal.order + 1 } := bump_deal ..
@[simp] theorem orderTaken_host (s : State) : (orderTaken s).host = s.host := bump_host ..
@[simp] theorem orderTaken_mem (s : State) : (orderTaken s).mem = s.mem := bump_mem ..
@[simp] theorem orderTaken_kv (s : State) : (orderTaken s).kv = s.kv := bump_kv ..
@[simp] theorem getSlot_orderTaken (s : State) (g : Nat) : getSlot (orderTaken s) g = getSlot s g := by
  rw [getSlot, orderTaken_deal]; rfl

/-- The slot that a created request leaves. -/
def slotCreated (x : SeqSlot) (r : Req) : SeqSlot :=
  if x.st = .free then { st := .active, fn := r.fn, model := r.model, req := some r }
  else { x with st := .active, dlv := 0, req := some { r with lastCommit := x.lastCommit } }

/-- A request on a FREE or a RETAINED slot is entered in the slot; the tables of a new sequence are memory. -/
theorem memOnly_opCreate {s : State} {g : Nat} (r : Req) (hst : (getSlot s g).st = .free ∨ (getSlot s g).st = .retained) :
    MemOnly (setSlot (orderTaken s) g (slotCreated (getSlot s g) r)) (opCreate s g r) := by
  unfold opCreate slotCreated
  rcases hst with hst | hst
  · simp only [hst, if_true]
    exact memOnly_newSeq ..
  · simp only [hst, reduceCtorEq, if_false]
    exact .refl _

theorem opCreate_mem_of_retained {s : State} {g : Nat} (r : Req) (hst : (getSlot s g).st = .retained) :
    (opCreate s g r).mem = s.mem := by
  simp only [opCreate, hst, setSlot_mem, bump_mem]

/-! ### Settling O48 -/

/-- Settles O48: an accepted descriptor's outcome differs from the slot's new entry in the sequence table in memory only. -/
theorem requestsAccepted : Obligations.RequestsAccepted := by
  rintro i opc q f g d rd s x hi hhead hopc hstops rfl rfl
  obtain ⟨hkind, hexec⟩ := exec_of_creates hi s
  refine ⟨fun hnone hst => ?created, fun row st hrow => ?refused⟩
  case created =>
    rw [acceptGen_of_accepted rd hhead hstops hnone] at hexec
    have hframe := memOnly_opCreate (s := popDesc s q) (mkReq (popDesc s q) q f d {}) hst
    have hslot (h : Nat) := hframe.slotsKept.slot h
    have hself := hslot (gidOf s f d)
    rw [getSlot_setSlot_self, slotCreated, getSlot_popDesc] at hself
    refine ⟨_, hexec, ?_, fun hfree => ?_, fun hret => ?_, ?_, fun hfree => ?_, fun hret => ⟨?_, ?_⟩, fun h hne => ?_, ?_, ?_, ?_⟩
    · rw [hself]; split <;> rfl
    · rw [hself, if_pos hfree]
    · rw [hself, if_neg (by simp [hret])]
    · rw [hself]
      rcases hst with hfree | hret
      · rw [if_pos hfree]; rfl
      · rw [if_neg (by simp [hret])]
        exact model_eq_of_not_refused (s := popDesc s q) hnone hret
    · rw [hself, if_pos hfree]
      exact ⟨rfl, rfl⟩
    · rw [hself, if_neg (by simp [hret])]
    · exact opCreate_mem_of_retained _ hret
    · rw [hslot, getSlot_setSlot_ne _ _ hne, getSlot_orderTaken, getSlot_popDesc]
    · rw [getQ, hframe.host, setSlot_host, orderTaken_host]
      exact getQ_setQ_self ..
    · rw [hframe.deal, setSlot, orderTaken_deal]
      rfl
    · rw [hframe.kv, setSlot_kv, orderTaken_kv]
      rfl
  case refused =>
    have hctl : decide (2 < dOpc d) = false := by
      rw [hopc]
      rcases hkind with rfl | rfl <;> rfl
    rw [hexec, acceptGen_of_refused rd hhead hstops hrow, refuse, hctl]

end Sys2Proof.Machine
end

section
/-!
PROOF. Control descriptors (R238, R240, R253, R261): each outcome is the refusal of the first row that matches, or what the
descriptor does to the slot's request in the state that has taken the head.
-/
namespace Sys2Proof.Machine

/-! ### The head judged (R237) -/

theorem firstRow_append (a b : List (Bool × Nat × Nat)) : firstRow (a ++ b) = (firstRow a).or (firstRow b) := by
  induction a with
  | nil => rfl
  | cons e a ih =>
    obtain ⟨c, r, st⟩ := e
    cases c
    · exact ih
    · rfl

/-- A well-formed descriptor of kind `opc` at the head of queue `q`, for the slot `g`. -/
structure CtlHead (s : State) (q opc f g : Nat) (d : Desc) : Prop where
  head : headDesc s q opc = some (f, d)
  ok : dRsvOk d = true
  gid : g = gidOf s f d
  inRange : g ≠ 65536

section
variable {s : State} {q opc f g : Nat} {d : Desc} {rows : State → Nat → Desc → List (Bool × Nat × Nat)}
  {act : State → Nat → Desc → State}

theorem CtlHead.refused (h : CtlHead s q opc f g d) {row st : Nat} (hrow : firstRow (rows (popDesc s q) g d) = some (row, st)) :
    acceptCtl opc q s rows act = refuse (popDesc s q) q g d row st := by
  obtain ⟨hhead, hok, rfl, hin⟩ := h
  simp [acceptCtl, hhead, firstRow, hok, hin, hrow]

theorem CtlHead.accepted (h : CtlHead s q opc f g d) (hrow : firstRow (rows (popDesc s q) g d) = none) :
    acceptCtl opc q s rows act = act (popDesc s q) g d := by
  obtain ⟨hhead, hok, rfl, hin⟩ := h
  simp [acceptCtl, hhead, firstRow, hok, hin, hrow]

theorem firstRow_rowsDone_of_active (hst : (getSlot s g).st = .active) : firstRow (rowsDone s g) = none := by
  simp [rowsDone, ended, firstRow, hst]
theorem firstRow_rowsDone_of_retained (hst : (getSlot s g).st = .retained) : firstRow (rowsDone s g) = some (6, 0x81) := by
  simp [rowsDone, ended, firstRow, hst]
theorem firstRow_rowsDone_of_free (hst : (getSlot s g).st = .free) : firstRow (rowsDone s g) = some (7, 0x82) := by
  simp [rowsDone, ended, firstRow, hst]

/-- CANCEL, PAUSE and RESUME of a slot without a request (Table 8-7, rows 6 and 7). -/
theorem exec_of_rowsDone {i : Instr} {row st : Nat} (hi : (i, opc) ∈ [(Instr.cancel q, 3), (.pause q, 4), (.resume q, 5)])
    (h : CtlHead s q opc f g d) (hrow : firstRow (rowsDone (popDesc s q) g) = some (row, st)) :
    exec i s = .next (refuse (popDesc s q) q g d row st) := by
  simp only [List.mem_cons, Prod.mk.injEq, List.not_mem_nil, or_false] at hi
  rcases hi with ⟨rfl, rfl⟩ | ⟨rfl, rfl⟩ | ⟨rfl, rfl⟩
  · exact congrArg _ (h.refused hrow)
  · exact congrArg _ (h.refused (by rw [firstRow_append, hrow]; rfl))
  · exact congrArg _ (h.refused (by rw [firstRow_append, hrow]; rfl))

end

/-! ### A request changed -/

section
variable (s : State) (g : Nat) (f : Req → Req)

theorem reqOf_modReq : reqOf (modReq s g f) g = (reqOf s g).map f := by
  rw [reqOf, modReq, getSlot_setSlot_self]; rfl
theorem getSlot_modReq_st : (getSlot (modReq s g f) g).st = (getSlot s g).st := by
  rw [modReq, getSlot_setSlot_self]
theorem getSlot_modReq_ne {h : Nat} (hne : h ≠ g) : getSlot (modReq s g f) h = getSlot s h := getSlot_setSlot_ne _ _ hne

end

/-! ### The end of a request (R239, R261) -/

/-- Nothing of the slots but what slot `g` holds beside its state, and neither the trick in flight nor the memory, differs. -/
structure InSlot (g : Nat) (s t : State) : Prop where
  others : ∀ h, h ≠ g → getSlot t h = getSlot s h
  st : (getSlot t g).st = (getSlot s g).st
  cur : t.deal.cur = s.deal.cur
  next : t.deal.next = s.deal.next
  mem : t.mem = s.mem

theorem InSlot.refl (g : Nat) (s : State) : InSlot g s s := ⟨fun _ _ => rfl, rfl, rfl, rfl, rfl⟩
theorem InSlot.trans {g : Nat} {s t r : State} (h : InSlot g s t) (k : InSlot g t r) : InSlot g s r :=
  ⟨fun j hj => (k.others j hj).trans (h.others j hj), k.st.trans h.st, k.cur.trans h.cur, k.next.trans h.next,
    k.mem.trans h.mem⟩
theorem inSlot_modReq (s : State) (g : Nat) (f : Req → Req) : InSlot g s (modReq s g f) :=
  ⟨fun _ hne => getSlot_modReq_ne s g f hne, getSlot_modReq_st s g f, rfl, rfl, rfl⟩
theorem inSlot_bump (s : State) (g a : Nat) : InSlot g s (bump s a) :=
  ⟨fun _ _ => getSlot_bump .., by rw [getSlot_bump], by rw [bump_deal], by rw [bump_deal], bump_mem ..⟩
theorem inSlot_breachOut (s : State) (g h : Nat) (r : Req) (item first last : Nat) :
    InSlot g s (breachOut s h r item first last) := ⟨fun _ _ => rfl, rfl, rfl, rfl, rfl⟩
theorem inSlot_tokEntry (s : State) (g h : Nat) (r : Req) (commit status : Nat) (ts : List (Nat × Int)) (more : Bool) (trick : Nat) :
    InSlot g s (tokEntry s h r commit status ts more trick) := ⟨fun _ _ => rfl, rfl, rfl, rfl, rfl⟩
theorem inSlot_cqDetail (s : State) (g q gid htag seq status reason : Nat) (ack : Bool) :
    InSlot g s (cqDetail s q gid htag seq status reason ack) := ⟨fun _ _ => rfl, rfl, rfl, rfl, rfl⟩

theorem inSlot_breachEnd (s : State) (g : Nat) : InSlot g s (breachEnd s g) := by
  unfold breachEnd
  cases (getSlot s g).req with
  | none => exact .refl g s
  | some r =>
    refine .trans ?_ (inSlot_modReq ..)
    cases r.b3 <;> cases r.b4
    · exact .refl g s
    · exact inSlot_breachOut ..
    · exact inSlot_breachOut ..
    · exact (inSlot_breachOut ..).trans (inSlot_breachOut ..)

/-- The request of an ACTIVE slot ends: its entries are written, then the sequence leaves the trick in flight and the slot enters
FREEING. -/
theorem endReq_of_active {s : State} {g : Nat} {r : Req} (status reason ctr : Nat) (hst : (getSlot s g).st = .active)
    (hreq : (getSlot s g).req = some r) : ∃ u, InSlot g s u ∧ endReq s g status reason ctr = freeSlot (dropSeq u g) g := by
  have hpacked : InSlot g s (if r.packed.isEmpty then breachEnd s g
      else tokEntry (breachEnd s g) g r 0 0x01 r.packed false r.lastCommit) := by
    split
    · exact inSlot_breachEnd s g
    · exact (inSlot_breachEnd s g).trans (inSlot_tokEntry ..)
  have hwritten := (hpacked.trans (inSlot_cqDetail _ g r.q g r.htag r.seq status reason false)).trans (inSlot_bump _ g ctr)
  refine ⟨_, hwritten, ?_⟩
  simp only [endReq, hreq]
  exact if_pos (hwritten.st.trans hst)

theorem getSlot_dropSeq (s : State) (g h : Nat) : getSlot (dropSeq s g) h = getSlot s h := rfl
theorem freeTrick_dropSeq (s : State) (g : Nat) : freeTrick (dropSeq s g) = freeTrick s := by
  unfold freeTrick dropSeq
  cases s.deal.cur <;> rfl

/-- Every entry of the sequence in the trick in flight is marked (R262). -/
theorem dropped_of_dropSeq {s : State} {g : Nat} {y : Trick} (hy : (dropSeq s g).deal.cur = some y) {e : TEntry}
    (he : e ∈ y.entries) (hg : e.gid = g) : e.dropped = true := by
  obtain ⟨t, -, rfl⟩ := Option.map_eq_some_iff.1 hy
  obtain ⟨x, -, rfl⟩ := List.mem_map.1 he
  by_cases hx : x.gid = g
  · rw [if_pos hx]
  · rw [if_neg hx] at hg
    exact absurd hg hx

/-! ### Pause and resume (R238, R240) -/

@[simp] theorem enterPaused_st (r : Req) : (enterPaused r).st = .paused := by
  unfold enterPaused; split <;> trivial
@[simp] theorem enterPaused_host (r : Req) : (enterPaused r).host = r.host := by
  unfold enterPaused; split <;> rfl
@[simp] theorem enterPaused_ttl (r : Req) : (enterPaused r).ttl = r.ttl := by
  unfold enterPaused; split <;> rfl
@[simp] theorem leavePaused_host (n : Nat) (r : Req) : (leavePaused n r).host = r.host := by
  unfold leavePaused; split <;> rfl
@[simp] theorem leavePaused_ttlFrom (n : Nat) (r : Req) : (leavePaused n r).ttlFrom = r.ttlFrom := by
  unfold leavePaused; split <;> rfl
theorem leavePaused_st {n : Nat} {r : Req} (hst : r.st = .paused) (hhost : r.host = false) (hbudget : r.budget = false) :
    (leavePaused n r).st = r.prev := by
  simp [leavePaused, hst, hhost, hbudget]

/-- A request after PAUSE, before the pause takes effect. -/
def pauseAsked (ttl : Nat) (r : Req) : Req := { r with host := true, ttl := ttl, ttlFrom := none }
/-- A request whose host pause takes effect; one that was PAUSED already keeps its admission (R277). -/
def pauseTaken (time : Nat) (was : Bool) (r : Req) : Req :=
  { enterPaused r with
    hostWait := false, ttlFrom := some time, adm := if was then r.adm else 0, withdrawn := r.withdrawn && was, lastTok := none }
/-- A request after RESUME. -/
def resumed (commit : Nat) (r : Req) : Req :=
  leavePaused commit { r with host := false, hostWait := false, ttl := 0, ttlFrom := none }

theorem SlotsKept.modReq {s t : State} (h : SlotsKept s t) (g : Nat) (f : Req → Req) :
    SlotsKept (modReq s g f) (modReq t g f) := by
  unfold Machine.modReq
  rw [h.slot g]
  exact congrArg (spSet · g _) h

/-- The state in which a host pause takes effect: a request that enters PAUSED has its entry written (R238). -/
def pauseNoted (s : State) (g : Nat) (r : Req) : State :=
  if decide (r.st = .paused) then s else cqDetail s r.q g r.htag r.seq 0x02 1 false

theorem slotsKept_pauseNoted (s : State) (g : Nat) (r : Req) : SlotsKept s (pauseNoted s g r) := .ite (.refl s) rfl

theorem hostPauseNow_of_req {s : State} {g : Nat} {r : Req} (hreq : reqOf s g = some r) :
    ∃ x, x = modReq (pauseNoted s g r) g (pauseTaken s.time (decide (r.st = .paused))) ∧
      hostPauseNow s g 0 = if (getSlot x g).st = .active then pauseMove x r.model g else x := by
  refine ⟨_, rfl, ?_⟩
  simp only [hostPauseNow, hreq, pauseNoted, if_true]
  rfl

/-- A host pause that takes effect changes the slot's request; the moves of its pages leave the sequence table alone. -/
theorem slotsKept_hostPauseNow {s : State} {g : Nat} {r : Req} (hreq : reqOf s g = some r) :
    SlotsKept (modReq s g (pauseTaken s.time (decide (r.st = .paused)))) (hostPauseNow s g 0) := by
  obtain ⟨x, hx, hnow⟩ := hostPauseNow_of_req hreq
  rw [hnow]
  exact (hx ▸ (slotsKept_pauseNoted s g r).modReq g _).trans (.ite (slotsKept_pauseMove ..) (.refl x))

theorem slotsKept_opPause {s : State} {q g : Nat} {d : Desc} {r : Req} (hin : inTrick s g = false) (hreq : reqOf s g = some r) :
    SlotsKept (modReq (modReq s g (pauseAsked (dF d 8 4))) g (pauseTaken s.time (decide (r.st = .paused)))) (opPause s q g d) := by
  have hasked : reqOf (modReq s g (pauseAsked (dF d 8 4))) g = some (pauseAsked (dF d 8 4) r) := by
    rw [reqOf_modReq, hreq]; rfl
  simp only [opPause, hin, Bool.false_eq_true, if_false]
  exact slotsKept_hostPauseNow (r := pauseAsked (dF d 8 4) r) hasked

theorem slotsKept_opResume (s : State) (q g : Nat) (d : Desc) :
    SlotsKept (modReq s g (resumed s.deal.commit)) (opResume s q g d) := by
  have hmoved : SlotsKept (modReq s g (resumed s.deal.commit)) (if isPaused s g && (getSlot s g).st == .active then
      resumeMove (modReq s g (resumed s.deal.commit)) (getSlot s g).model g else modReq s g (resumed s.deal.commit)) :=
    .ite (slotsKept_resumeMove ..) (.refl _)
  exact hmoved

/-! ### Descriptors of an ACTIVE slot carried out -/

theorem reqOf_popDesc (s : State) (q g : Nat) : reqOf (popDesc s q) g = (getSlot s g).req := rfl
@[simp] theorem getM_popDesc (s : State) (q m : Nat) : getM (popDesc s q) m = getM s m := rfl

namespace CtlHead
variable {s : State} {q f g : Nat} {d : Desc} {r : Req}

theorem execCancel (h : CtlHead s q 3 f g d) (hst : (getSlot s g).st = .active) (hreq : (getSlot s g).req = some r) :
    ∃ u, InSlot g (popDesc s q) u ∧ exec (.cancel q) s = .next (ackDesc (freeSlot (dropSeq u g) g) q g d 0x80) := by
  obtain ⟨u, hu, hend⟩ := endReq_of_active (s := popDesc s q) 0x20 0 (svc 0x5C) hst hreq
  exact ⟨u, hu, hend ▸ congrArg _ (h.accepted (firstRow_rowsDone_of_active hst))⟩

theorem execPause (h : CtlHead s q 4 f g d) (hst : (getSlot s g).st = .active) (hreq : (getSlot s g).req = some r)
    (hnot : r.host = false ∨ r.st ≠ .paused) : exec (.pause q) s = .next (opPause (popDesc s q) q g d) := by
  have hpaused : (hostPaused (popDesc s q) g && isPaused (popDesc s q) g) = false := by
    simp only [hostPaused, isPaused, reqOf_popDesc, hreq]
    rcases hnot with hhost | hst
    · rw [hhost, Bool.false_and]
    · rw [beq_eq_false_iff_ne.2 hst, Bool.and_false]
  refine congrArg _ (h.accepted ?_)
  rw [firstRow_append, firstRow_rowsDone_of_active (s := popDesc s q) hst, hpaused]
  rfl

theorem execResume (h : CtlHead s q 5 f g d) (hst : (getSlot s g).st = .active) (hreq : (getSlot s g).req = some r)
    (hhost : r.host = true) : exec (.resume q) s = .next (opResume (popDesc s q) q g d) := by
  refine congrArg _ (h.accepted ?_)
  rw [firstRow_append, firstRow_rowsDone_of_active (s := popDesc s q) hst]
  simp [hostPaused, reqOf_popDesc, hreq, hhost, firstRow]

theorem execRelease_of_retained (h : CtlHead s q 6 f g d) (hst : (getSlot s g).st = .retained) :
    exec (.release q) s = .next (ackDesc (freeSlot (popDesc s q) g) q g d 0x80) :=
  congrArg _ (h.accepted (by simp [firstRow, hst]))

theorem execRelease_of_ne (h : CtlHead s q 6 f g d) (hst : (getSlot s g).st ≠ .retained) :
    exec (.release q) s = .next (refuse (popDesc s q) q g d 9 0x85) :=
  congrArg _ (h.refused (by simp [firstRow, hst]))

theorem execDraft (h : CtlHead s q 7 f g d) (hst : (getSlot s g).st = .active) (hreq : (getSlot s g).req = some r)
    (hdec : r.st = .decode) (hpos : 1 ≤ dF d 8 1) (hmax : dF d 8 1 ≤ 8)
    (hvocab : ∀ j, j < dF d 8 1 → dTok d j < (getM s r.model).b.vocab) :
    exec (.draft q) s = .next (setSlot (popDesc s q) g { getSlot s g with
      req := some { r with drafts := (List.range (dF d 8 1)).map (dTok d), draftSince := s.deal.commit } }) := by
  have hmod (f : Req → Req) : modReq (popDesc s q) g f = setSlot (popDesc s q) g { getSlot s g with req := some (f r) } := by
    rw [modReq, getSlot_popDesc, hreq]; rfl
  have hrange : ((List.range (dF d 8 1)).any fun i => decide (reqVocab (popDesc s q) g ≤ dTok d i)) = false := by
    simpa [reqVocab, reqOf_popDesc, hreq] using hvocab
  have hcount : dF d 8 1 ≠ 0 ∧ ¬ 8 < dF d 8 1 := by omega
  refine (congrArg _ (h.accepted ?_)).trans (congrArg _ (hmod _))
  simp [firstRow, hcount, hrange, hst, reqOf_popDesc, hreq, hdec]

end CtlHead

/-! ### Settling O49 -/

/-- Settles O49: each descriptor's outcome is named by the lemma about its `CtlHead`, and what is said of its slot is read off the
change of the slot's request that it makes. -/
theorem requestControl : Obligations.RequestControl := by
  refine ⟨?noRequest, ?cancel, ?pause, ?resume, ?release, ?draft⟩
  case noRequest =>
    rintro i opc q f g d s x hi hhead hok rfl hgid hin
    have h : CtlHead s q opc f g d := ⟨hhead, hok, hgid, hin⟩
    exact ⟨fun hst => exec_of_rowsDone hi h (firstRow_rowsDone_of_retained hst),
      fun hst => exec_of_rowsDone hi h (firstRow_rowsDone_of_free hst)⟩
  case cancel =>
    intro q f g d r s hhead hok hgid hin hst hreq
    obtain ⟨u, hu, hexec⟩ := CtlHead.execCancel ⟨hhead, hok, hgid, hin⟩ hst hreq
    have htrick : freeTrick (dropSeq u g) = freeTrick s := by
      rw [freeTrick_dropSeq, freeTrick, hu.cur, hu.next]; rfl
    have hslot : getSlot (ackDesc (freeSlot (dropSeq u g) g) q g d 0x80) g =
        { getSlot u g with st := .freeing, req := none, freeAt := freeTrick (dropSeq u g) } := getSlot_setSlot_self ..
    refine ⟨_, hexec, by rw [hslot], by rw [hslot], by rw [hslot, htrick], fun j hj => ?_, fun y hy e he hg => ?_, hu.mem⟩
    · exact (getSlot_setSlot_ne _ _ hj).trans (hu.others j hj)
    · exact dropped_of_dropSeq hy he hg
  case pause =>
    intro q f g d r s hhead hok hgid hin hst hreq hnot
    have hexec := CtlHead.execPause ⟨hhead, hok, hgid, hin⟩ hst hreq hnot
    refine ⟨fun htrick => ?waits, fun htrick => ?atOnce⟩
    case waits =>
      have hcur : inTrick (popDesc s q) g = true := htrick
      rw [hexec, opPause, hcur]
      rfl
    case atOnce =>
      have hkept := slotsKept_opPause (s := popDesc s q) (q := q) (d := d) htrick hreq
      refine ⟨_, pauseTaken s.time (decide (r.st = .paused)) (pauseAsked (dF d 8 4) r), hexec,
        (congrArg SeqSlot.req (hkept.slot g)).trans ?_, enterPaused_st _, enterPaused_host _, enterPaused_ttl _, rfl,
        fun j hj => ?_⟩
      · exact (reqOf_modReq ..).trans (by rw [reqOf_modReq, reqOf_popDesc, hreq]; rfl)
      · rw [hkept.slot, getSlot_modReq_ne _ _ _ hj, getSlot_modReq_ne _ _ _ hj, getSlot_popDesc]
  case resume =>
    intro q f g d r s hhead hok hgid hin hst hreq hhost
    have hkept := slotsKept_opResume (popDesc s q) q g d
    refine ⟨_, resumed s.deal.commit r, CtlHead.execResume ⟨hhead, hok, hgid, hin⟩ hst hreq hhost,
      (congrArg SeqSlot.req (hkept.slot g)).trans ?_, leavePaused_host .., leavePaused_ttlFrom ..,
      fun hbudget hpaused => leavePaused_st hpaused rfl hbudget, fun j hj => ?_⟩
    · exact (reqOf_modReq ..).trans (by rw [reqOf_popDesc, hreq]; rfl)
    · rw [hkept.slot, getSlot_modReq_ne _ _ _ hj, getSlot_popDesc]
  case release =>
    intro q f g d s hhead hok hgid hin
    exact ⟨CtlHead.execRelease_of_retained ⟨hhead, hok, hgid, hin⟩, CtlHead.execRelease_of_ne ⟨hhead, hok, hgid, hin⟩⟩
  case draft =>
    rintro q f g n d r s hhead hok hgid hin hst hreq hdec rfl hpos hmax hvocab
    exact CtlHead.execDraft ⟨hhead, hok, hgid, hin⟩ hst hreq hdec hpos hmax hvocab

end Sys2Proof.Machine
end

section
/-!
PROOF. The service commands (R268, R269, R273, R276): `svcCmd` decides whether the message of channel 0 is answered and what is
carried out; each operation answers the status of its first check that fails, or makes its change.
-/
namespace Sys2Proof.Machine

/-! ### The message of channel 0 (R268, R334, R408) -/

/-- The instructions of Table 9-2, each with its code and its operation. -/
def svcTable : List (Instr × Nat × (State → Svc)) :=
  [(.fnSet, 1, opFnSet), (.acctSet, 2, opAcctSet), (.acctGet, 3, opAcctGet), (.modelAdm, 4, opModelAdm),
    (.admGet, 5, opAdmGet), (.svcSet, 6, opSvcSet)]

theorem exec_of_mem_svcTable {i : Instr} {code : Nat} {f : State → Svc} (h : (i, code, f) ∈ svcTable) (s : State) :
    exec i s = .next (svcCmd code f s) := by
  simp only [svcTable, List.mem_cons, Prod.mk.injEq, List.not_mem_nil, or_false] at h
  rcases h with ⟨rfl, rfl, rfl⟩ | ⟨rfl, rfl, rfl⟩ | ⟨rfl, rfl, rfl⟩ | ⟨rfl, rfl, rfl⟩ | ⟨rfl, rfl, rfl⟩ | ⟨rfl, rfl, rfl⟩ <;>
    rfl

theorem code_of_mem_svcTable {i : Instr} {code : Nat} {f : State → Svc} (h : (i, code, f) ∈ svcTable) :
    code ≠ 0 ∧ code ≤ 6 := by
  have hall : ∀ e ∈ svcTable, e.2.1 ≠ 0 ∧ e.2.1 ≤ 6 := by simp [svcTable]
  exact hall _ h

section
variable {s : State} {code : Nat} {f : State → Svc}

theorem svcCmd_of_no_message (hwaits : mbWaits s 0 0x101 = false) : svcCmd code f s = s := by
  simp [svcCmd, hwaits]

variable (hwaits : mbWaits s 0 0x101 = true)
include hwaits

theorem svcCmd_of_starting (hrun : s.deal.running = false) (hcfg : s.boot.cfgReady = true) (hdev : s.boot.devReady = false) :
    svcCmd code f s = mbReply s 0 0x101 3 [] := by
  simp [svcCmd, hwaits, hrun, hcfg, hdev]

variable (hrun : s.deal.running = true)
include hrun

theorem svcCmd_of_not_pf (hsender : (getMb s 0).sender ≠ 1) : svcCmd code f s = mbReply s 0 0x101 1 [] := by
  simp [svcCmd, hwaits, hrun, hsender]

theorem svcCmd_of_named (hsender : (getMb s 0).sender = 1) (hcmd : mbCmd s 0 = code) (hcode : code ≠ 0 ∧ code ≤ 6) :
    svcCmd code f s = mbReply (f s).1 0 0x101 (f s).2.1 (f s).2.2 := by
  obtain ⟨hpos, hmax⟩ := hcode
  simp [svcCmd, hwaits, hrun, hsender, hcmd, hpos, Nat.not_lt_of_le hmax]

end

/-! ### FN_SET (Table 9-2, R269, R337) -/

/-- The range `[base, base + cnt)` meets the range of no function but `f`. -/
def RangeApart (s : State) (f base cnt : Nat) : Prop :=
  ∀ g, g < 256 → g ≠ f → (seqRange s g).2 = 0 ∨ base + cnt ≤ (seqRange s g).1 ∨ (seqRange s g).1 + (seqRange s g).2 ≤ base

/-- Of the slots in `f`'s range, those that `[base, base + cnt)` leaves out are FREE. -/
def SlotsHeld (s : State) (f base cnt : Nat) : Prop :=
  ∀ e ∈ s.deal.slots, (seqRange s f).1 ≤ e.1 → e.1 < (seqRange s f).1 + (seqRange s f).2 →
    (base ≤ e.1 ∧ e.1 < base + cnt) ∨ e.2.st = .free

theorem any_overlap_of_rangeApart {s : State} {f base cnt : Nat} (h : RangeApart s f base cnt) :
    (List.range 256).any (fun g => g != f && ((seqRange s g).2 != 0 && decide ((seqRange s g).1 < base + cnt) &&
      decide (base < (seqRange s g).1 + (seqRange s g).2))) = false := by
  rw [List.any_eq_false]
  intro g hg
  have hapart := h g (List.mem_range.1 hg)
  simp only [Bool.and_eq_true, bne_iff_ne, decide_eq_true_eq]
  omega

theorem any_lost_of_slotsHeld {s : State} {f base cnt : Nat} (h : SlotsHeld s f base cnt) :
    s.deal.slots.any (fun e => decide ((seqRange s f).1 ≤ e.1) && decide (e.1 < (seqRange s f).1 + (seqRange s f).2) &&
      !(decide (base ≤ e.1) && decide (e.1 < base + cnt)) && e.2.st != .free) = false := by
  rw [List.any_eq_false]
  intro e he hlost
  simp only [Bool.and_eq_true, Bool.not_eq_true', Bool.and_eq_false_iff, bne_iff_ne, decide_eq_true_eq,
    decide_eq_false_iff_not] at hlost
  obtain ⟨⟨⟨hlo, hhi⟩, hout⟩, hst⟩ := hlost
  rcases h e he hlo hhi with ⟨hbase, hend⟩ | hfree
  · omega
  · exact hst hfree

theorem opFnSet_of_badIndex {s : State} (hf : 256 ≤ mbIdx s 0) : opFnSet s = (s, 1, []) := by
  simp [opFnSet, svcNo, hf]

theorem opFnSet_of_ok {s : State} {f base cnt : Nat} (hf : mbIdx s 0 = f) (hbase : svcFld s 2 15 0 = base)
    (hcnt : svcFld s 3 16 0 = cnt) (hfn : f < 256) (htable : base + cnt ≤ 65536) (hlock : tdiLocked s f = false)
    (hapart : cnt ≠ 0 → RangeApart s f base cnt) (hheld : SlotsHeld s f base cnt) :
    opFnSet s = ({ s with deal := { s.deal with fnSeq := spSet s.deal.fnSeq f (base, cnt) } }, 0, []) := by
  subst hf hbase hcnt
  refine (if_neg ?fields).trans ((if_neg ?range).trans (if_neg ?busy))
  case fields => omega
  case range =>
    rintro (hout | ⟨hne, hany⟩)
    · omega
    · exact Bool.eq_false_iff.1 (any_overlap_of_rangeApart (hapart hne)) hany
  case busy => exact fun h => h.elim (Bool.eq_false_iff.1 hlock) (Bool.eq_false_iff.1 (any_lost_of_slotsHeld hheld))

/-! ### Accounts (Table 9-3, R269, R273, R337) -/

theorem opAcctSet_of_badField {s : State}
    (h : svcFld s 3 23 0 < svcFld s 2 23 0 ∨ svcFld s 5 23 16 = 0 ∨ 256 < svcFld s 6 8 0) : opAcctSet s = (s, 1, []) :=
  if_pos (.inr h)

/-- The terms that ACCT_SET has wait for the next build (R273). -/
def acctTerms (s : State) : Terms :=
  { ante := svcFld s 2 23 0, weight := svcFld s 5 23 16, cmax := svcFld s 5 25 24, pfr := svcFld s 6 8 0 }

/-- Account `a` as ACCT_SET asks for it. -/
def acctAsked (s : State) (a : Nat) : Acct :=
  { getA s a with
    ceil := svcFld s 3 23 0
    burst := svcFld s 4 23 0
    owner := svcFld s 5 7 0
    enable := bitN (mbData s 0 5) 8
    waits := some (acctTerms s)
    demand := if (spFind s.deal.accts a).isSome then (getA s a).demand else decide (s.deal.next ≤ s.deal.perFirst) }

theorem not_refused_of_noWorse {before after : List Nat} (h : noWorse before after = true) :
    ¬ (!noWorse before after) = true := by
  simp [h]

theorem any_request_of_unused {s : State} {a : Nat} (h : ∀ e ∈ allReqs s, e.2.acct ≠ a) :
    (allReqs s).any (fun e => e.2.acct == a) = false :=
  List.any_eq_false.2 fun e he => by simpa using h e he

theorem opAcctSet_of_ok {s : State} {a : Nat} (ha : mbIdx s 0 = a) (hacct : a < 4096)
    (hante : svcFld s 2 23 0 ≤ svcFld s 3 23 0) (hweight : svcFld s 5 23 16 ≠ 0) (hpfr : svcFld s 6 8 0 ≤ 256)
    (hold : tdiLocked s (getA s a).owner = false) (hnew : tdiLocked s (svcFld s 5 7 0) = false)
    (hunused : ∀ e ∈ allReqs s, e.2.acct ≠ a)
    (hadmit : noWorse (excess s (admSoon s) none (anteSum s a (getA s a)))
      (excess s (admSoon s) none (anteSum s a (acctAsked s a))) = true) :
    opAcctSet s = (setA s a (acctAsked s a), 0, []) := by
  subst ha
  refine (if_neg ?fields).trans ((if_neg ?locked).trans ((if_neg ?inUse).trans (if_neg ?noExcess)))
  case fields =>
    dsimp only
    omega
  case locked => exact fun h => h.2.elim (Bool.eq_false_iff.1 hold) (Bool.eq_false_iff.1 hnew)
  case inUse => exact fun h => Bool.eq_false_iff.1 (any_request_of_unused hunused) h.2
  case noExcess => exact not_refused_of_noWorse hadmit

theorem opAcctGet_of_lt {s : State} {a : Nat} (ha : mbIdx s 0 = a) (hacct : a < 4096) :
    opAcctGet s = (s, 0, [unsx 32 (getA s a).bal, (getA s a).charged, (getA s a).breaches]) := by
  subst ha
  exact if_neg (Nat.not_le_of_lt hacct)

/-! ### Admission (Table 9-6, R274 to R276) -/

/-- The admission settings that MODEL_ADM asks for. -/
def admAsked (s : State) : AdmSet :=
  { tper := svcFld s 2 23 0, rmax := svcFld s 3 10 0, imax := svcFld s 4 10 0, draft := svcFld s 4 19 16 }

theorem opModelAdm_of_ok {s : State} {m : Nat} (hm : mbIdx s 0 = m) (hslot : m < 64) (hpos : 1 ≤ svcFld s 3 10 0)
    (hrows : svcFld s 3 10 0 ≤ 1024) (hinter : svcFld s 4 10 0 ≤ 1024) (hdraft : svcFld s 4 19 16 ≤ 8)
    (hcap : (getM s m).st = 1 ∨ (getM s m).st = 3 → rowCap s m (admAsked s) ≠ 0)
    (hadmit : noWorse (excess s (admSoon s) (if (getM s m).st = 3 then some m else none) (anteSum s 0 (getA s 0)))
      (excess s (fun k => if k = m then admAsked s else admSoon s k) (if (getM s m).st = 3 then some m else none)
        (anteSum s 0 (getA s 0))) = true) :
    opModelAdm s = ({ s with deal := { s.deal with admNew := spSet s.deal.admNew m (admAsked s) } }, 0, []) := by
  subst hm
  refine (if_neg ?fields).trans ((if_neg ?runs).trans (if_neg ?noExcess))
  case fields =>
    dsimp only
    omega
  case runs => exact fun ⟨hst, hzero⟩ => hcap hst hzero
  case noExcess => exact not_refused_of_noWorse hadmit

theorem opAdmGet_of_loaded {s : State} {m : Nat} {x : AdmSet} (hm : mbIdx s 0 = m) (hx : getAdm s m = x) (hslot : m < 64)
    (hst : (getM s m).st = 1) (hkappa : kappa s ≠ 0) :
    opAdmGet s = (s, 0, [pA s, anteCapOf s (getAdm s) none, rowCap s m x + 2 ^ 16 * interCap s m x,
      lowRows s m x + 2 ^ 16 * b2n (thinPath s m (rowCap s m x)), kappa s + 2 ^ 8 * theta s]) := by
  subst hm hx
  simp [opAdmGet, svcOk, hst, hkappa, Nat.not_le_of_lt hslot]

/-! ### SVC_SET (Table 9-2) -/

theorem opSvcSet_of_ok {s : State} (hidx : mbIdx s 0 = 0) (hrep : 10 ≤ svcFld s 2 15 0) (hrepMax : svcFld s 2 15 0 ≤ 10000)
    (hage : svcFld s 3 7 0 ≠ 0) (hstall : 1 ≤ svcFld s 4 15 0) (hstallMax : svcFld s 4 15 0 ≤ 1000) :
    opSvcSet s = ({ s with deal := { s.deal with
      repPeriod := svcFld s 2 15 0
      svcNew := some (svcFld s 3 7 0, svcFld s 4 15 0)
      perDue := max s.time (s.deal.perLast + svcFld s 2 15 0 * 1000000) } }, 0, []) :=
  if_neg (by omega)

/-! ### Settling O52 -/

/-- Settles O52: which reply the message gets is a lemma about `svcCmd`, and what each operation changes and answers is the
lemma about its last check passed. -/
theorem serviceCommands : Obligations.ServiceCommands := by
  refine ⟨?answered, ?fnSet, fun _ => opFnSet_of_badIndex, ?acctGet, fun _ => opSvcSet_of_ok, ?acctSet,
    fun _ => opAcctSet_of_badField, ?modelAdm, ?admGet⟩
  case answered =>
    intro i code f s hi
    rw [exec_of_mem_svcTable hi]
    exact ⟨fun hwaits hrun hsender hcmd =>
        congrArg _ (svcCmd_of_named hwaits hrun hsender hcmd (code_of_mem_svcTable hi)),
      fun hwaits => congrArg _ (svcCmd_of_no_message hwaits),
      fun hwaits hrun hsender => congrArg _ (svcCmd_of_not_pf hwaits hrun hsender),
      fun hwaits hrun hcfg hdev => congrArg _ (svcCmd_of_starting hwaits hrun hcfg hdev)⟩
  case fnSet =>
    intro f base cnt s hf hbase hcnt
    exact opFnSet_of_ok hf.symm hbase.symm hcnt.symm
  case acctGet =>
    intro a s ha
    exact opAcctGet_of_lt ha.symm
  case acctSet =>
    rintro a x y s ha hacct rfl rfl
    exact opAcctSet_of_ok ha.symm hacct
  case modelAdm =>
    rintro m x also s hm hslot rfl hpos hrows hinter hdraft rfl
    exact opModelAdm_of_ok hm.symm hslot hpos hrows hinter hdraft
  case admGet =>
    intro m x s hm hslot hx
    exact opAdmGet_of_loaded hm.symm hx.symm hslot

end Sys2Proof.Machine
end

section
/-!
PROOF. The link layer (R296, R298, R299, R301, R303): how a frame leaves an engine, what a frame that is taken does with
its packet, and what a NAK has sent again.
-/
namespace Sys2Proof.Machine

/-- An engine depends on the table of engines alone. -/
theorem getE_of_eng {s t : State} (h : t.fab.eng = s.fab.eng) (n : Nat) : getE t n = getE s n := by
  simp only [getE, h]

/-- What the far end sends to an engine that is UP is not ignored. -/
theorem not_ignored {s : State} {n : Nat} (hn : n < 16) (hup : engUp s n = true) : ¬ (16 ≤ n ∨ (!engUp s n) = true) := by
  simp [hn, hup]

/-- The engines of a state whose table is that of `s` with engine `n` set. -/
theorem getE_of_set {s t : State} {n : Nat} {y : Engine} (h : t.fab.eng = spSet s.fab.eng n y) :
    getE t n = y ∧ ∀ m, m ≠ n → getE t m = getE s m := by
  simp only [getE, h]
  exact ⟨spGet_spSet_self .., fun m hm => spGet_spSet_ne _ hm⟩

theorem engUp_st {s : State} {n : Nat} (h : engUp s n = true) : (getE s n).st = .up := by
  simp only [engUp, Bool.and_eq_true, beq_iff_eq] at h
  exact h.2

@[simp] theorem fabRefused_fab (s : State) : (fabRefused s).fab = s.fab := bump_fab ..
@[simp] theorem getE_fabRefused (s : State) (n : Nat) : getE (fabRefused s) n = getE s n := getE_congr (fabRefused_fab s) n
/-- FAB_REFUSED of a state whose registers are those of `s`. -/
theorem rdN_fabRefused {s t : State} (h : t.regs = s.regs) (hlt : rdN s 0xB070 < 0xFFFFFFFF) :
    rdN (fabRefused t) 0xB070 = rdN s 0xB070 + 1 := by
  have hsame := rdN_congr h 0xB070
  rw [← hsame] at hlt ⊢
  exact rdN_bump t hlt

/-! ### A frame leaves (R296, R298, R301) -/

/-- What `sendFrame` does: one frame goes out, and engine `n` alone changes. -/
theorem sendFrame_eq (s : State) (n : Nat) (p : Packet) :
    let x := getE s n
    let q := leaveDl s (portOf s n) p
    ∃ v d k y, sendFrame s n p = emit (setE s n y) (mkFrame n x.seq ((x.rxSeq + 4095) % 4096) v d k q) ∧
      y.seq = (x.seq + 1) % 4096 ∧ y.replay = x.replay ++ [(x.seq, p)] ∧
      spGet 0 y.used (pCls q) = spGet 0 x.used (pCls q) + (if pType p = 15 then 0 else 1) := by
  refine ⟨_, _, _, _, rfl, rfl, rfl, ?_⟩
  dsimp only
  split
  · rfl
  · exact spGet_spSet_self ..

/-- `t` is `s` but for the fabric's records; its engines and the packets that wait are as they were. -/
structure QueuesKept (s t : State) : Prop where
  frame : t = { s with fab := t.fab }
  eng : t.fab.eng = s.fab.eng
  outq : t.fab.outq = s.fab.outq
  resend : t.fab.resend = s.fab.resend

theorem QueuesKept.trans {s t u : State} (h : QueuesKept s t) (g : QueuesKept t u) : QueuesKept s u :=
  ⟨g.frame.trans (by rw [h.frame]), g.eng.trans h.eng, g.outq.trans h.outq, g.resend.trans h.resend⟩

theorem noteReq_kept (s : State) (p : Packet) : QueuesKept s (noteReq s p) := by
  unfold noteReq
  split
  · exact ⟨rfl, rfl, rfl, rfl⟩
  · exact ⟨rfl, rfl, rfl, rfl⟩

theorem noteSent_kept (s : State) (p : Packet) : QueuesKept s (noteSent s p) := by
  unfold noteSent
  dsimp only
  split
  · exact ⟨rfl, rfl, rfl, rfl⟩
  · split
    · exact ⟨rfl, rfl, rfl, rfl⟩
    · exact ⟨rfl, rfl, rfl, rfl⟩

/-- A packet sent for the first time is taken off the list of those that wait; its port's flows are carried as now. -/
def outTaken (s : State) (port : Nat) (p : Packet) : State :=
  { s with fab := { s.fab with outq := removePkt p s.fab.outq, flows := spSet s.fab.flows port (flowEngs s port) } }

/-- The packet taken off the list it waits on: the frames to resend, or the packets to send; one sent for the first
time is entered as a request and in the bytes sent (R304, R306). -/
def offQueue (s : State) (port : Nat) (p : Packet) : Bool → State
  | true => { s with fab := { s.fab with resend := removePkt p s.fab.resend } }
  | false => noteReq (if s.fab.outq.contains p then outTaken s port p else noteSent (outTaken s port p) p) p

/-- `t` is `s` with a packet taken off the list it waits on: the engines are as they were. -/
structure PacketOff (s : State) (p : Packet) (again : Bool) (t : State) : Prop where
  frame : t = { s with fab := t.fab }
  eng : t.fab.eng = s.fab.eng
  first : again = false → t.fab.outq = removePkt p s.fab.outq ∧ t.fab.resend = s.fab.resend
  resent : again = true → t.fab.outq = s.fab.outq ∧ t.fab.resend = removePkt p s.fab.resend

theorem offQueue_off (s : State) (port : Nat) (p : Packet) (again : Bool) :
    PacketOff s p again (offQueue s port p again) := by
  cases again
  case true => exact ⟨rfl, rfl, nofun, fun _ => ⟨rfl, rfl⟩⟩
  case false =>
    have hkept : QueuesKept (outTaken s port p) (offQueue s port p false) := by
      rw [offQueue]
      split
      · exact noteReq_kept ..
      · exact (noteSent_kept ..).trans (noteReq_kept ..)
    exact ⟨hkept.frame, hkept.eng, fun _ => ⟨hkept.outq, hkept.resend⟩, nofun⟩

/-- The packet leaves once its flow is carried by the engine, and that engine is UP with a credit and room. -/
theorem opTransmit_of_carried {s : State} {n port : Nat} {pkt p : Packet} {again : Bool}
    (hsend : toSend s pkt = some (p, again)) (hfab : fabUp s = true) (hport : port = route s (pDst p) (pVc p))
    (hcar : carrier (if again then portUp s port else flowEngs s port) p = some n) (hup : engUp s n = true)
    (hcred : creditHeld (getE s n) (leaveDl s port p) = true) (hroom : (getE s n).replay.length < 512) :
    opTransmit s n pkt = sendFrame (offQueue s port p again) n p := by
  subst hport
  rw [opTransmit, hsend]
  dsimp only
  rw [if_neg (by simp [hfab, hcar, hup, hcred, hroom])]
  cases again <;> rfl

/-- A command that carries no DMSG does what `opTransmit` does. -/
theorem execFrameTransmit_of_not_dmsg {n : Nat} {pkt : Packet} {s : State} (hn : n < 16) (hty : pType pkt ≠ 7) :
    execFrameTransmit n pkt s = .next (opTransmit s n pkt) := by
  have hown : ∀ t, ownPart t pkt = t := fun t => if_pos (.inl hty)
  have hlt : ¬ 16 ≤ n := by omega
  simp only [execFrameTransmit, hown, if_neg hlt]
  split
  case isTrue h => rw [h]
  case isFalse => rfl

theorem execFrameTransmit_of_none {n : Nat} {pkt : Packet} {s : State} (h : toSend s pkt = none) :
    execFrameTransmit n pkt s = .next s := by
  have hop : opTransmit s n pkt = s := by simp only [opTransmit, h]
  simp [execFrameTransmit, hop]

/-! ### A frame is received (R296, R299, R303) -/

@[simp] theorem freeBuf_rxSeq (x : Engine) (p : Packet) : (freeBuf x p).rxSeq = x.rxSeq := by
  unfold freeBuf; split <;> rfl
@[simp] theorem freeBuf_replay (x : Engine) (p : Packet) : (freeBuf x p).replay = x.replay := by
  unfold freeBuf; split <;> rfl
@[simp] theorem freeBuf_rxq (x : Engine) (p : Packet) : (freeBuf x p).rxq = x.rxq := by
  unfold freeBuf; split <;> rfl
/-- The buffer of a packet that is not the link's own is owed to the far end. -/
theorem freeBuf_owed {p : Packet} (x : Engine) (h : pType p ≠ 15) :
    spGet 0 (freeBuf x p).owed (pCls p) = spGet 0 x.owed (pCls p) + 1 := by
  rw [freeBuf, if_neg h]
  exact spGet_spSet_self ..

theorem forwardPkt_eq (s : State) (n : Nat) (p : Packet) :
    ∃ q, forwardPkt s n p = enqueue s q ∧ q.payload = p.payload := by
  refine ⟨_, rfl, ?_⟩
  split <;> rfl

/-- All that the news of a control packet can change. -/
theorem ctlNews_eq (s : State) :
    ctlNews s = { s with fab := (ctlNews s).fab, deal := (ctlNews s).deal, free := (ctlNews s).free } := by
  rw [ctlNews, fabChanged_eq]
  rfl
@[simp] theorem ctlNews_outq (s : State) : (ctlNews s).fab.outq = s.fab.outq := by rw [ctlNews, fabChanged_fab]; rfl
@[simp] theorem getE_ctlNews (s : State) (n : Nat) : getE (ctlNews s) n = getE s n :=
  getE_of_eng (by rw [ctlNews, fabChanged_fab]; rfl) n
@[simp] theorem getE_enqueue (s : State) (q : Packet) (n : Nat) : getE (enqueue s q) n = getE s n := rfl

/-- The engine once the next frame in sequence is taken: frames up to `ack` acknowledged, `k` credits of class `c` back. -/
def Engine.took (x : Engine) (ack c k : Nat) : Engine :=
  { x with
    rxSeq := (x.rxSeq + 1) % 4096, replay := acked ack x.replay
    nakked := x.nakked.filter (fun i => (acked ack x.replay).any (fun r => r.1 == i))
    used := spSet x.used c (spGet 0 x.used c - k) }

/-- Where the packet of a frame that is taken goes, `y` being the engine after it. -/
def packetTaken (s : State) (n : Nat) (y : Engine) (pkt : Packet) : State :=
  if !pktOk pkt then fabRefused (setE s n (freeBuf y pkt))
  else if pType pkt = 0xF then ctlNews (setE s n y)
  else if pDst pkt = fabPos s then setE s n { y with rxq := y.rxq ++ [pkt] }
  else forwardPkt (setE s n (freeBuf y pkt)) n pkt

section
variable {s s0 : State} {n seq ack crv crcnt crc unc : Nat} {crdl : Bool} {syms : List Nat} {pkt : Packet}
  (hn : n < 16) (hup : engUp s n = true)
  (hs0 : s0 = syms.foldl (fun y l => symCount y n l) (bumpBy s (optPg n + 0x74) unc)) (hup0 : engUp s0 n = true)
include hn hup hs0 hup0

theorem execFrameReceive_of_failed (hbad : crc ≠ frameCrc seq ack crv (b2n crdl) crcnt pkt ∨ seq ≠ (getE s0 n).rxSeq) :
    execFrameReceive n seq ack crv crdl crcnt ⟨crc, syms, unc⟩ pkt s =
      .next (emit (bump s0 (optPg n + 0x7C)) (.nak n (((getE s0 n).rxSeq + 4095) % 4096))) := by
  rw [execFrameReceive, if_neg (not_ignored hn hup), ← hs0]
  simp [hup0, hbad]

theorem execFrameReceive_of_good (hcrc : crc = frameCrc seq ack crv (b2n crdl) crcnt pkt) (hseq : seq = (getE s0 n).rxSeq) :
    execFrameReceive n seq ack crv crdl crcnt ⟨crc, syms, unc⟩ pkt s =
      .next (packetTaken s0 n ((getE s0 n).took ack (2 * (crv % 4) + b2n crdl) (crcnt % 32)) pkt) := by
  rw [execFrameReceive, if_neg (not_ignored hn hup), ← hs0]
  have hgood : ¬ (crc ≠ frameCrc seq ack crv (b2n crdl) crcnt pkt ∨ seq ≠ (getE s0 n).rxSeq) := by simp [hcrc, hseq]
  dsimp only
  rw [if_neg (by simp [hup0]), if_neg hgood]
  simp only [packetTaken, Engine.took, apply_ite Host.Outcome.next]
end

section
variable {pkt : Packet} (s : State) (n : Nat) (y : Engine)

theorem packetTaken_of_refused (h : pktOk pkt = false) :
    packetTaken s n y pkt = fabRefused (setE s n (freeBuf y pkt)) := by simp [packetTaken, h]
theorem packetTaken_of_control (h : pktOk pkt = true) (hty : pType pkt = 15) :
    packetTaken s n y pkt = ctlNews (setE s n y) := by simp [packetTaken, h, hty]
theorem packetTaken_of_own {s : State} (h : pktOk pkt = true) (hty : pType pkt ≠ 15) (hdst : pDst pkt = fabPos s) :
    packetTaken s n y pkt = setE s n { y with rxq := y.rxq ++ [pkt] } := by simp [packetTaken, h, hty, hdst]
theorem packetTaken_of_other {s : State} (h : pktOk pkt = true) (hty : pType pkt ≠ 15) (hdst : pDst pkt ≠ fabPos s) :
    ∃ q, packetTaken s n y pkt = enqueue (setE s n (freeBuf y pkt)) q ∧ q.payload = pkt.payload := by
  have htaken : packetTaken s n y pkt = forwardPkt (setE s n (freeBuf y pkt)) n pkt := by
    simp [packetTaken, h, hty, hdst]
  exact htaken ▸ forwardPkt_eq ..
end

/-! ### A NAK arrives (R296) -/

/-- The first frame a NAK of `seq` leaves unacknowledged. -/
def firstLeft (left : List (Nat × Packet)) : Option Nat := left.head?.map (fun r => r.1)

/-- The engine once a NAK has come and `left` are its unacknowledged frames. -/
def Engine.heardNak (x : Engine) (left : List (Nat × Packet)) : Engine := { x with replay := left, nakked := firstLeft left }

/-- A NAK has the frames it leaves unacknowledged sent again, in order; the second one for a frame sends the engine to
TRAINING. -/
theorem execNak_of_up {s s0 : State} {n seq : Nat} {syms : List Nat} {left : List (Nat × Packet)} (hn : n < 16)
    (hup : engUp s n = true) (hs0 : s0 = syms.foldl (fun y l => symCount y n l) s) (hup0 : engUp s0 n = true)
    (hleft : left = acked seq (getE s0 n).replay) :
    execNak n seq syms s =
      (let x := getE s0 n
       let t := setE s0 n (x.heardNak left)
       if (firstLeft left).isSome = true ∧ x.nakked = firstLeft left then
         .next (engLeave (bump t (optPg n + 0x78)) n .training)
       else .next { t with out := (left.map (fun r =>
         mkFrame n r.1 ((x.rxSeq + 4095) % 4096) 0 0 0 (leaveDl s0 (portOf s0 n) r.2))).reverse ++ s0.out }) := by
  rw [execNak, if_neg (not_ignored hn hup), ← hs0]
  dsimp only
  rw [if_neg (by simp [hup0]), ← hleft, foldl_emit]
  rfl

/-! ### Settling O54 -/

/-- Settles O54: a frame that leaves is one `sendFrame` on the fabric with its packet off the queue; a frame that is
taken is one case of `packetTaken`; a NAK is a fold of frames sent, or the engine leaving UP. -/
theorem linkFrames : Obligations.LinkFrames := by
  refine ⟨?transmit, fun n pkt s => execFrameTransmit_of_none, ?receive, ?nak⟩
  case transmit =>
    intro n port pkt p q again s hn hsend hfab hport hcar hup hcred hroom hty hq
    have hexec := (execFrameTransmit_of_not_dmsg hn hty).trans
      (congrArg _ (opTransmit_of_carried hsend hfab hport hcar hup hcred hroom))
    obtain ⟨hframe, heng, hfirst, hresent⟩ := offQueue_off s port p again
    generalize offQueue s port p again = u at *
    obtain ⟨v, d, k, y, hsent, hseq, hreplay, hused⟩ := sendFrame_eq u n p
    have hq : q = leaveDl u (portOf u n) p := by rw [hq, hframe]; rfl
    have hout : u.out = s.out := by rw [hframe]
    rw [getE_of_eng heng n] at hsent hseq hreplay hused
    rw [← hq] at hsent hused
    obtain ⟨hself, hne⟩ := getE_of_set (s := s) (t := sendFrame u n p) (n := n) (y := y) (by rw [hsent, ← heng]; rfl)
    refine ⟨_, v, d, k, hexec, hself ▸ hseq, hself ▸ hreplay, hself ▸ hused, hne, ?_⟩
    rw [hsent]
    exact ⟨hfirst, hresent, congrArg _ hout, by rw [hframe]; rfl⟩
  case receive =>
    rintro n seq ack crv crcnt crc unc crdl syms pkt s s0 x hn hup hs0 hup0 rfl
    refine ⟨execFrameReceive_of_failed hn hup hs0 hup0, fun hcrc hseq => ?taken⟩
    have hexec := execFrameReceive_of_good hn hup hs0 hup0 hcrc hseq
    refine ⟨fun hok hty hdst => ?own, fun hok hty hdst => ?other, fun hok hty => ?control, fun hok => ?refused⟩
    case own =>
      rw [packetTaken_of_own n _ hok hty hdst] at hexec
      refine ⟨_, hexec, ?_⟩
      rw [getE_setE_self]
      exact ⟨rfl, rfl, rfl, rfl, rfl, fun m hm => getE_setE_ne _ _ hm, rfl, rfl⟩
    case other =>
      obtain ⟨q, hq, hpay⟩ := packetTaken_of_other n _ hok hty hdst
      rw [hq] at hexec
      refine ⟨_, q, hexec, ?_⟩
      rw [getE_enqueue, getE_setE_self]
      exact ⟨freeBuf_rxSeq .., freeBuf_replay .., freeBuf_rxq .., freeBuf_owed _ hty, rfl, hpay,
        fun m hm => getE_setE_ne _ _ hm, rfl⟩
    case control =>
      rw [packetTaken_of_control s0 n _ hok hty] at hexec
      refine ⟨_, hexec, ?_⟩
      rw [getE_ctlNews, getE_setE_self]
      exact ⟨rfl, rfl, rfl, rfl, fun m hm => (getE_ctlNews ..).trans (getE_setE_ne _ _ hm), ctlNews_outq ..,
        ctlNews_eq ..⟩
    case refused =>
      rw [packetTaken_of_refused s0 n _ hok] at hexec
      refine ⟨_, hexec, ?_⟩
      rw [getE_fabRefused, getE_setE_self]
      exact ⟨freeBuf_rxSeq .., freeBuf_rxq .., rdN_fabRefused rfl, by rw [fabRefused_fab]; rfl⟩
  case nak =>
    rintro n seq syms s s0 left bad hn hup hs0 hup0 hleft rfl
    have hexec := execNak_of_up hn hup hs0 hup0 hleft
    refine ⟨fun hfirst => ?first, fun hsome hagain => ?second⟩
    case first =>
      exact ⟨_, hexec.trans (if_neg hfirst), getE_setE_self .., fun m hm => getE_setE_ne _ _ hm, rfl, rfl⟩
    case second =>
      replace hexec := hexec.trans (if_pos ⟨hsome, hagain⟩)
      generalize hu : bump (setE s0 n ((getE s0 n).heardNak left)) (optPg n + 0x78) = u at hexec
      have hfab : u.fab = (setE s0 n ((getE s0 n).heardNak left)).fab := by rw [← hu, bump_fab]
      have hself : getE u n = (getE s0 n).heardNak left := (getE_congr hfab n).trans (getE_setE_self ..)
      have hst : (getE u n).st ≠ .training := by
        rw [hself]
        exact fun h => nomatch (engUp_st hup0).symm.trans h
      have hleave := engLeave_fab_of_ne hst
      refine ⟨_, hexec, getE_engLeave_st .., by rw [getE_engLeave_self_of_ne hst]; rfl, ?_, ?_, fun m hm => ?_⟩
      · rw [hleave, hself, hfab]; rfl
      · rw [hleave, hfab]; rfl
      · exact (getE_engLeave_ne _ _ hm).trans ((getE_congr hfab m).trans (getE_setE_ne _ _ hm))

end Sys2Proof.Machine
end

section
/-!
PROOF. Remote access (R304 to R306): a WR or RD is turned down or performed through its window and answered, a response or
FAB_TMO ends its request, and a NOTIFY waits for its bytes before it posts.
-/
namespace Sys2Proof.Machine

/-! ### WR (R305) -/

/-- The end of a WR: its bytes count for a NOTIFY (R306), and its response goes out, unless it is posted and not refused. -/
def wrEnd (s : State) (p : Packet) (stat : Nat) : State :=
  let t := addBytes s (pSrc p) (pVc p) (32 * pLen p)
  if pVc p = 0 ∨ stat = 1 then respond t p 4 stat [] else t

theorem wrEnd_refused (s : State) (p : Packet) :
    wrEnd s p 1 = respond (addBytes s (pSrc p) (pVc p) (32 * pLen p)) p 4 1 [] := if_pos (.inr rfl)
theorem wrEnd_of_ne {stat : Nat} (s : State) (p : Packet) (h : stat ≠ 1) : wrEnd s p stat =
    if pVc p = 0 then respond (addBytes s (pSrc p) (pVc p) (32 * pLen p)) p 4 stat []
    else addBytes s (pSrc p) (pVc p) (32 * pLen p) := by simp [wrEnd, h]

/-- A WR once its window has answered: stored, or refused. -/
def wrPerformed (s : State) (p : Packet) : MemRes → State
  | .ok _ => wrEnd s p 0
  | _ => wrEnd (fabRefused s) p 1

theorem wrPerformed_of_refused {r : MemRes} (s : State) (p : Packet) (h : ∀ bs, r ≠ .ok bs) :
    wrPerformed s p r = wrEnd (fabRefused s) p 1 := by
  cases r with
  | ok bs => exact absurd rfl (h bs)
  | _ => rfl

theorem execWr_of_turned_down {n : Nat} {p : Packet} {s : State} (hhead : headOf s n 1 = some p)
    (h : pLen p = 0 ∨ pAddr p % 32 ≠ 0 ∨ rwinFor s (pSrc p) (pAddr p) (32 * pLen p) true = none) :
    execWr n s = .next (wrEnd (fabRefused (takePkt s n p)) p 1) := by
  have hnone : (if 32 * pLen p = 0 ∨ pAddr p % 32 ≠ 0 then none
      else rwinFor s (pSrc p) (pAddr p) (32 * pLen p) true) = none := by
    rcases h with hlen | hal | hwin
    · exact if_pos (by omega)
    · exact if_pos (.inr hal)
    · rw [hwin, ite_self]
  rw [execWr, hhead]
  dsimp only
  rw [hnone]
  rfl

theorem execWr_of_window {n i : Nat} {p : Packet} {s : State} (hhead : headOf s n 1 = some p) (hlen : 0 < pLen p)
    (hal : pAddr p % 32 = 0) (hwin : rwinFor s (pSrc p) (pAddr p) (32 * pLen p) true = some i)
    (hfree : scrWaits s (rwinFn s i) (pAddr p) (32 * pLen p) = false) :
    execWr n s = .next (if pF p 7 7 = 1 then wrEnd (takePkt s n p) p 2 else
      let m := memWrite (takePkt s n p) (rwinFn s i) (pAddr p) p.payload
      wrPerformed m.1 p m.2) := by
  have hfmt : ¬ (32 * pLen p = 0 ∨ pAddr p % 32 ≠ 0) := by omega
  rw [execWr, hhead]
  dsimp only
  rw [if_neg hfmt, hwin]
  dsimp only
  rw [if_neg (by simp [hfree])]
  split
  · rfl
  · generalize memWrite (takePkt s n p) (rwinFn s i) (pAddr p) p.payload = m
    obtain ⟨s1, r⟩ := m
    cases r <;> rfl

/-! ### RD (R305) -/

/-- An RD once its window has answered: the bytes, a refusal, or POISON. -/
def rdPerformed (s : State) (p : Packet) : MemRes → State
  | .ok bs => respond s p 3 0 bs
  | .outside => respond (fabRefused s) p 3 1 []
  | _ => respond (bump s 0xB078) p 3 2 []

theorem rdPerformed_of_poison {r : MemRes} (s : State) (p : Packet) (hok : ∀ bs, r ≠ .ok bs) (hout : r ≠ .outside) :
    rdPerformed s p r = respond (bump s 0xB078) p 3 2 [] := by
  cases r with
  | ok bs => exact absurd rfl (hok bs)
  | outside => exact absurd rfl hout
  | _ => rfl

theorem execRd_of_turned_down {n : Nat} {p : Packet} {s : State} (hhead : headOf s n 2 = some p)
    (h : pXw p < 32 ∨ 256 < pXw p ∨ pAddr p % 32 ≠ 0 ∨ rwinFor s (pSrc p) (pAddr p) (pXw p) false = none) :
    execRd n s = .next (respond (fabRefused (takePkt s n p)) p 3 1 []) := by
  have hnone : (if pXw p < 32 ∨ 256 < pXw p ∨ pAddr p % 32 ≠ 0 then none
      else rwinFor s (pSrc p) (pAddr p) (pXw p) false) = none := by
    rcases h with hmin | hmax | hal | hwin
    · exact if_pos (.inl hmin)
    · exact if_pos (.inr (.inl hmax))
    · exact if_pos (.inr (.inr hal))
    · rw [hwin, ite_self]
  simp only [execRd, hhead, hnone]

theorem execRd_of_window {n i : Nat} {p : Packet} {s : State} (hhead : headOf s n 2 = some p) (hmin : 32 ≤ pXw p)
    (hmax : pXw p ≤ 256) (hal : pAddr p % 32 = 0) (hwin : rwinFor s (pSrc p) (pAddr p) (pXw p) false = some i)
    (hfree : scrWaits s (rwinFn s i) (pAddr p) (pXw p) = false) :
    execRd n s = .next (
      let m := memRead (takePkt s n p) (rwinFn s i) true (pAddr p) (pXw p) .none
      rdPerformed m.1 p m.2) := by
  have hfmt : ¬ (pXw p < 32 ∨ 256 < pXw p ∨ pAddr p % 32 ≠ 0) := by omega
  rw [execRd, hhead]
  dsimp only
  rw [if_neg hfmt, hwin]
  dsimp only
  rw [if_neg (by simp [hfree])]
  generalize memRead (takePkt s n p) (rwinFn s i) true (pAddr p) (pXw p) .none = m
  obtain ⟨s1, r⟩ := m
  cases r <;> rfl

/-! ### Responses and timeouts (R304) -/

theorem takePkt_rxq (s : State) (n : Nat) (p : Packet) : (getE (takePkt s n p) n).rxq = removePkt p (getE s n).rxq := by
  rw [takePkt, getE_setE_self, freeBuf_rxq]

/-- A response completes its request where one is outstanding, or it is the refusal of a posted WR; else it is dropped. -/
theorem exec_response {i : Instr} {n ty : Nat} {p : Packet} {s : State}
    (hi : (i, ty) ∈ [(Instr.rdrsp n, 3), (.wrrsp n, 4)]) (hhead : headOf s n ty = some p) :
    exec i s = .next (if (spFind s.fab.reqs (pTag p)).isSome = true ∨ (ty = 4 ∧ pStat p = 1) then opResponse s n p
      else takePkt s n p) := by
  simp only [List.mem_cons, Prod.mk.injEq, List.not_mem_nil, or_false] at hi
  rcases hi with ⟨rfl, rfl⟩ | ⟨rfl, rfl⟩
  · change execRdrsp n s = _
    simp [execRdrsp, hhead, apply_ite Host.Outcome.next]
  · change execWrrsp n s = _
    simp [execWrrsp, hhead, apply_ite Host.Outcome.next]

/-- A response ends its request, and tells the dealer of a refusal (Table 11-10). -/
theorem opResponse_eq (s : State) (n : Nat) (p : Packet) : opResponse s n p =
    { s with
      fab := { (takePkt s n p).fab with reqs := spDel s.fab.reqs (pTag p) }
      out := .fabDone (pTag p) (pStat p) (if pStat p = 0 then p.payload else []) :: s.out
      deal := { s.deal with reports := s.deal.reports ++
        (if pStat p = 1 then [{ code := repFabRefused, blk := .fab, inst := 0, elem := pTag p }] else []) } } := by
  unfold opResponse
  dsimp only
  split
  · rfl
  · rw [List.append_nil]; rfl

section
variable {tag : Nat} {h : BitVec 128} {s : State} (hreq : spFind s.fab.reqs tag = some h)
include hreq

theorem execFabTimeout_of_early (ht : s.time < spGet 0 s.fab.reqAt tag + rdN s 0xB04C) :
    execFabTimeout tag s = .next s := by
  rw [execFabTimeout, hreq]
  exact if_pos ht

theorem execFabTimeout_of_due (ht : spGet 0 s.fab.reqAt tag + rdN s 0xB04C ≤ s.time) :
    execFabTimeout tag s = .next (emit { bump s 0xB074 with fab := { (bump s 0xB074).fab with
      reqs := spDel s.fab.reqs tag } } (.fabDone tag 3 [])) := by
  rw [execFabTimeout, hreq]
  exact if_neg (Nat.not_lt.2 ht)
end

/-! ### NOTIFY (R306) -/

/-- A NOTIFY taken from its buffer and held. -/
def notifyHeld (s : State) (n : Nat) (p : Packet) : State :=
  let t := takePkt s n p
  { t with fab := { t.fab with held := t.fab.held ++
      [{ src := pSrc p, vc := pVc p, bytes := pXw p, sem := pF p 57 48, die := pF p 58 58, n := pF p 79 64 }] } }

theorem execNotify_of_head {n : Nat} {p : Packet} {s : State} (hhead : headOf s n 5 = some p) :
    execNotify n s = .next (notifyHeld s n p) := by
  rw [execNotify, hhead]
  rfl

/-- The fabric once a NOTIFY held has its bytes: it is no longer held, and they are taken from those completed. -/
def notifyTaken (s : State) (src vc : Nat) (h : Notify) : State :=
  { s with fab := { s.fab with
      held := removeHeld h s.fab.held
      bytes := spSet s.fab.bytes (4 * src + vc) (spGet 0 s.fab.bytes (4 * src + vc) - h.bytes) } }

section
variable {src vc : Nat} {h : Notify} {s : State}
  (hheld : s.fab.held.find? (fun x => x.src == src && x.vc == vc) = some h)
include hheld

theorem execNotifyPost_of_short (hlt : spGet 0 s.fab.bytes (4 * src + vc) < h.bytes) :
    execNotifyPost src vc s = .next s := by
  rw [execNotifyPost, hheld]
  exact if_pos hlt

theorem execNotifyPost_of_complete (hle : h.bytes ≤ spGet 0 s.fab.bytes (4 * src + vc)) :
    execNotifyPost src vc s =
    (let t := notifyTaken s src vc h
     if 65535 < semVal s h.die h.sem + h.n then .next (fabRefused { t with fab := { t.fab with ovf := true } })
     else .next (setSem t h.die h.sem (semVal s h.die h.sem + h.n))) := by
  rw [execNotifyPost, hheld]
  exact if_neg (Nat.not_lt.2 hle)
end

/-! ### Settling O55 -/

/-- Settles O55: a WR or RD ends by what its window's access answers (`wrPerformed`, `rdPerformed`), a response by
`opResponse`, and a NOTIFY whose bytes are there by `notifyTaken` and its post. -/
theorem remoteAccess : Obligations.RemoteAccess := by
  refine ⟨?wr, ?wrPoisoned, ?wrTurnedDown, ?rd, fun n p s => execRd_of_turned_down, ?response, ?dropped, ?timeout,
    ?notify, ?post⟩
  case wr =>
    intro n i p r s s1 hhead hlen hal hwin hfree hclean hmem
    have hexec := execWr_of_window hhead hlen hal hwin hfree
    rw [hmem, if_neg (by omega)] at hexec
    refine ⟨fun bs hr => ?stored, fun hr => ?refused⟩
    case stored => rw [hr] at hexec; exact hexec.trans (congrArg _ (wrEnd_of_ne s1 p (by decide)))
    case refused => exact hexec.trans (congrArg _ ((wrPerformed_of_refused s1 p hr).trans (wrEnd_refused ..)))
  case wrPoisoned =>
    rintro n i p s s1 hhead hlen hal hwin hfree hpoison rfl
    have hexec := execWr_of_window hhead hlen hal hwin hfree
    rw [if_pos hpoison] at hexec
    exact hexec.trans (congrArg _ (wrEnd_of_ne _ p (by decide)))
  case wrTurnedDown =>
    intro n p s hhead hbad
    exact (execWr_of_turned_down hhead hbad).trans (congrArg _ (wrEnd_refused ..))
  case rd =>
    intro n i p s s1 r hhead hmin hmax hal hwin hfree hmem
    have hexec := execRd_of_window hhead hmin hmax hal hwin hfree
    rw [hmem] at hexec
    refine ⟨fun bs hr => ?bytes, fun hr => ?outside, fun hok hout => ?poison⟩
    case bytes => rw [hr] at hexec; exact hexec
    case outside => rw [hr] at hexec; exact hexec
    case poison => exact hexec.trans (congrArg _ (rdPerformed_of_poison s1 p hok hout))
  case response =>
    intro i n ty p h s hi hhead hreq
    have hends : (spFind s.fab.reqs (pTag p)).isSome = true ∨ (ty = 4 ∧ pStat p = 1) :=
      hreq.imp_left fun hfound => by rw [hfound]; rfl
    have hexec := exec_response hi hhead
    rw [if_pos hends, opResponse_eq] at hexec
    exact ⟨_, hexec, rfl, rfl, takePkt_rxq .., rfl, rfl⟩
  case dropped =>
    intro i n ty p s hi hhead hreq hplain
    have hdrop : ¬ ((spFind s.fab.reqs (pTag p)).isSome = true ∨ (ty = 4 ∧ pStat p = 1)) := by
      rw [hreq]
      rintro (h | ⟨hty, hstat⟩)
      · cases h
      · omega
    exact (exec_response hi hhead).trans (by rw [if_neg hdrop])
  case timeout =>
    intro tag h s hreq
    refine ⟨execFabTimeout_of_early hreq, fun hdue => ⟨_, execFabTimeout_of_due hreq hdue, ?_, ?_, ?_⟩⟩
    · rw [emit_fab, bump_fab]
    · exact congrArg _ (bump_out ..)
    · exact rdN_bump s
  case notify =>
    intro n p s hhead
    exact ⟨_, execNotify_of_head hhead, rfl, takePkt_rxq s n p, rfl⟩
  case post =>
    intro src vc h s hheld
    refine ⟨execNotifyPost_of_short hheld, fun hle hfits => ?posts, fun hle hover => ?overflows⟩
    case posts =>
      exact ⟨_, (execNotifyPost_of_complete hheld hle).trans (if_neg (Nat.not_lt.2 hfits)),
        semVal_setSem_self .., spGet_spSet_self .., rfl, rfl⟩
    case overflows =>
      refine ⟨_, (execNotifyPost_of_complete hheld hle).trans (if_pos hover), bump_sync .., ?_, rdN_fabRefused rfl⟩
      rw [fabRefused_fab]

end Sys2Proof.Machine
end

section
/-!
PROOF. Facts that the host interface's statements share: what a queue depends on, and what an interrupt or an event leaves of the
queues and of its function (R328, Table 12-3).
-/
namespace Sys2Proof.Machine

theorem fld_zero (w hi : Nat) : fld w hi 0 = w % 2 ^ (hi + 1) := by simp [fld]

/-! ### What a queue depends on -/

theorem getQ_congr {s t : State} (h : t.host.queues = s.host.queues) (q : Nat) : getQ t q = getQ s q := by
  simp only [getQ, h]
@[simp] theorem getQ_setFn (s : State) (f q : Nat) (x : Func) : getQ (setFn s f x) q = getQ s q := rfl
@[simp] theorem getQ_bump (s : State) (a q : Nat) : getQ (bump s a) q = getQ s q := getQ_congr (by rw [bump_host]) q

/-! ### An interrupt (R328) -/

theorem msix_of_sent {s : State} {f v : Nat} (hsend : fnCanSend s f = true)
    (hopen : (getFn s f).msixUnmasked.contains v = true) : msix s f v = emit s (.msix f v) := by
  simp only [msix, hsend, hopen, Bool.and_self, if_true]

theorem msix_of_held {s : State} {f v : Nat} (hsend : fnCanSend s f = false)
    (hnew : (getFn s f).msixPend.contains v = false) :
    msix s f v = setFn s f { getFn s f with msixPend := (getFn s f).msixPend ++ [v] } := by
  simp only [msix, hsend, hnew, Bool.false_and, Bool.false_eq_true, if_false]

@[simp] theorem msix_queues (s : State) (f v : Nat) : (msix s f v).host.queues = s.host.queues := by
  unfold msix
  dsimp only
  split
  · rfl
  · split <;> rfl

/-- An interrupt changes its function by a pending bit at most. -/
theorem getFn_msix (s : State) (f v : Nat) : ∃ p, getFn (msix s f v) f = { getFn s f with msixPend := p } := by
  unfold msix
  dsimp only
  split
  · exact ⟨_, rfl⟩
  · split
    · exact ⟨_, rfl⟩
    · exact ⟨_, getFn_setFn_self ..⟩

/-! ### An event of a function (Table 12-3) -/

/-- Setting a bit that is clear. -/
theorem bitN_add_two_pow {n b : Nat} (h : bitN n b = false) : bitN (n + 2 ^ b) b = true := by
  have hpos := Nat.two_pow_pos b
  simp only [bitN, beq_eq_false_iff_ne, beq_iff_eq] at h ⊢
  rw [Nat.add_div_right _ hpos]
  omega

theorem bitN_fnEvent (n b : Nat) : bitN (if bitN n b then n else n + 2 ^ b) b = true := by
  split
  · assumption
  · exact bitN_add_two_pow (Bool.eq_false_iff.2 ‹_›)

@[simp] theorem fnEvent_queues (s : State) (f b : Nat) : (fnEvent s f b).host.queues = s.host.queues := by
  unfold fnEvent
  dsimp only
  split
  · rw [msix_queues]; rfl
  · rfl

/-- An event sets its bit; of the rest of its function only a pending bit changes. -/
theorem getFn_fnEvent (s : State) (f b : Nat) : ∃ e p,
    getFn (fnEvent s f b) f = { getFn s f with evt := e, msixPend := p } ∧ bitN e b = true := by
  unfold fnEvent
  dsimp only
  split
  · obtain ⟨p, hp⟩ := getFn_msix (setFn s f { getFn s f with
      evt := if bitN (getFn s f).evt b then (getFn s f).evt else (getFn s f).evt + 2 ^ b }) f 0
    rw [getFn_setFn_self] at hp
    exact ⟨_, p, hp, bitN_fnEvent ..⟩
  · exact ⟨_, _, getFn_setFn_self .., bitN_fnEvent ..⟩

end Sys2Proof.Machine
end

section
/-!
PROOF. Queue states, doorbells and descriptor fetches (R324, R325, R327): each access that is let through is one operation on
its queue, and beside the queue it changes a register, or an event of the function that owns it.
-/
namespace Sys2Proof.Machine

/-- An access to a queue set that is let through. -/
theorem queAccess_of_reach {s : State} {mid q : Nat} (f : State → State) (h : queReach s mid q = .yes) :
    queAccess s mid q f = f s := by
  simp only [queAccess, h]

/-- The next state of a command that is such an access. -/
theorem next_queAccess_of_reach {s t : State} {mid q : Nat} {f : State → State} (h : queReach s mid q = .yes)
    (hf : f s = t) : (.next (queAccess s mid q f) : Res) = .next t :=
  congrArg _ ((queAccess_of_reach f h).trans hf)

/-! ### EN (R324, Table 12-5) -/

section
variable {s : State} {q : Nat}

theorem opQueueEn_starts (hst : (getQ s q).st = .disabled) (hdev : s.boot.devReady = true) (hcfg : qCfgOk s q = true) :
    opQueueEn s q true = setQ (wrReg s (qPg q + 0x20) 1) q { st := .enabled } := by
  simp only [opQueueEn, hst, hdev, hcfg, Bool.not_true, Bool.false_eq_true, if_false, if_true]
  rfl

theorem opQueueEn_badCfg (hst : (getQ s q).st = .disabled) (hdev : s.boot.devReady = true) (hcfg : qCfgOk s q = false) :
    opQueueEn s q true = setQ (wrReg s (qPg q + 0x20) 1) q { getQ s q with cfgErr := true } := by
  simp only [opQueueEn, hst, hdev, hcfg, Bool.not_true, Bool.false_eq_true, if_false]
  rfl

theorem opQueueEn_drains (hst : (getQ s q).st = .enabled ∨ (getQ s q).st = .paused ∨ (getQ s q).st = .error) :
    opQueueEn s q false = setQ (wrReg s (qPg q + 0x20) 0) q { getQ s q with st := .draining } := by
  rcases hst with hst | hst | hst <;>
  · simp only [opQueueEn, hst]
    rfl

theorem execQueueDrainComplete_of_drained (hempty : qDrained s q = true) (hst : (getQ s q).st = .draining) :
    execQueueDrainComplete q s = .next (setQ s q { getQ s q with st := .disabled }) := by
  simp only [execQueueDrainComplete, hempty, hst, Bool.not_true, Bool.false_eq_true, if_false]

/-! ### ERROR -/

/-- An ENABLED queue stops; its function's event changes no queue. -/
theorem getQ_qError_of_enabled (hst : (getQ s q).st = .enabled) :
    getQ (qError s q) q = { getQ s q with st := .error } := by
  rw [qError, if_neg (not_not_intro hst)]
  dsimp only
  split
  · split
    · exact getQ_setQ_self ..
    · rw [getQ_congr (fnEvent_queues ..), getQ_setQ_self]
  · exact getQ_setQ_self ..

/-! ### Doorbells (R325) -/

theorem fld_doorbell (v : W32) : fld v.toNat 15 0 = v.toNat % 65536 := fld_zero ..

theorem opSqTail_within {v : W32} (hres : qResetting s q = false)
    (hst : (getQ s q).st = .enabled ∨ (getQ s q).st = .paused) (hin : v.toNat % 65536 < qSize s q) :
    opSqTail s q v = setQ (bump s 0x706C) q { getQ s q with sqTail := v.toNat % 65536 } := by
  have hact : ¬ (qResetting s q = true ∨ ((getQ s q).st ≠ .enabled ∧ (getQ s q).st ≠ .paused)) := by
    rintro (h | ⟨hen, hpa⟩)
    · exact Bool.eq_false_iff.1 hres h
    · exact hst.elim hen hpa
  simp only [opSqTail, if_neg hact, fld_doorbell, if_neg (Nat.not_le_of_lt hin)]

theorem opSqTail_beyond {v : W32} (hres : qResetting s q = false) (hst : (getQ s q).st = .enabled)
    (hout : qSize s q ≤ v.toNat % 65536) :
    opSqTail s q v = qError (setQ (bump s 0x706C) q { getQ s q with errTail := true }) q := by
  simp only [opSqTail, hres, hst, fld_doorbell, if_pos hout]
  rfl

/-- A queue that is not PAUSED stays in its state when slots are freed. -/
theorem opCqHead_frees {v : W32} (hres : qResetting s q = false) (hst : (getQ s q).st = .enabled)
    (hin : v.toNat % 65536 < cqSize s q)
    (hhead : (v.toNat % 65536 + cqSize s q - (getQ s q).cqHead) % cqSize s q ≤
      ((getQ s q).cqTail + cqSize s q - (getQ s q).cqHead) % cqSize s q) :
    opCqHead s q v = setQ (bump s 0x706C) q { getQ s q with
      cqHead := v.toNat % 65536
      fullAt := if ((getQ s q).cqTail + 1) % cqSize s q = v.toNat % 65536 then (getQ s q).fullAt else none } := by
  have hgood : ¬ (cqSize s q ≤ v.toNat % 65536 ∨ ((getQ s q).cqTail + cqSize s q - (getQ s q).cqHead) % cqSize s q <
      (v.toNat % 65536 + cqSize s q - (getQ s q).cqHead) % cqSize s q) := by omega
  simp only [opCqHead, hres, hst, fld_doorbell, if_neg hgood]
  rfl

end

/-! ### Descriptor fetches (R325, R327) -/

section
variable {s : State} {q f : Nat} (ds : List Desc) (hq : q < 4096) (hst : (getQ s q).st = .enabled)
  (hroom : fetchable s q ≠ 0) (hreach : hostReach s q = true) (hres : qResetting s q = false)
  (hhost : bit (rdReg s (qPg q + 0x10)) 20 = false)
include hreach hhost

/-- A queue in host memory that is within reach has an owner. -/
theorem queOwner_of_hostReach : ∃ f, queOwner s q = some f := by
  simp only [hostReach, show bit (rdReg s (pageOf .que q + 0x10)) 20 = false from hhost, Bool.false_or] at hreach
  split at hreach
  · exact ⟨_, ‹_›⟩
  · cases hreach

variable (hown : queOwner s q = some f)
include hq hst hroom hres hown

theorem execDescriptorFetch_of_host (ok : Bool) : execDescriptorFetch q ds ok s = .next (
    if ok then setQ (hostAsk s f q false) q { getQ s q with
      ready := (getQ s q).ready ++ ds.take (fetchable s q)
      sqHead := ((getQ s q).sqHead + (ds.take (fetchable s q)).length) % qSize s q }
    else qError (setQ (hostAsk s f q false) q { getQ s q with xlatErr := true }) q) := by
  have hgo : ¬ (4096 ≤ q ∨ (getQ s q).st ≠ .enabled ∨ fetchable s q = 0 ∨ (!hostReach s q) = true ∨
      qResetting s q = true) := by
    simp [hst, hroom, hreach, hres, hq]
  simp only [execDescriptorFetch, if_neg hgo, hhost, hown]
  cases ok <;> rfl

end

/-! ### Settling O19 -/

/-- Settles O19: each command is its operation, and the operation is one `setQ` on the state that has noted it. -/
theorem queues : Obligations.Queues := by
  refine ⟨⟨?starts, ?badCfg, ?drains, fun q s => execQueueDrainComplete_of_drained⟩,
    ?tailWithin, ?tailBeyond, ?headFrees, ?fetched, ?asks, ?failed⟩
  case starts =>
    intro mid q s hreach hst hdev hcfg
    have hexec : exec (.queueEnable mid q) s = .next (setQ (wrReg s (qPg q + 0x20) 1) q { st := .enabled }) :=
      next_queAccess_of_reach hreach (opQueueEn_starts hst hdev hcfg)
    refine ⟨_, hexec, ?_⟩
    rw [getQ_setQ_self]
    exact ⟨rfl, rfl, rfl, rfl, rfl, rfl, rfl, fun r hr => getQ_setQ_ne _ _ hr, rfl⟩
  case badCfg =>
    intro mid q s hreach hst hdev hcfg
    exact ⟨_, next_queAccess_of_reach hreach (opQueueEn_badCfg hst hdev hcfg), getQ_setQ_self .., rfl⟩
  case drains =>
    intro mid q s hreach hst
    exact ⟨_, next_queAccess_of_reach hreach (opQueueEn_drains hst), getQ_setQ_self ..,
      fun r hr => getQ_setQ_ne _ _ hr, rfl⟩
  case tailWithin =>
    intro mid q v s hreach hres hst hin
    refine ⟨_, next_queAccess_of_reach hreach (opSqTail_within hres hst hin), getQ_setQ_self ..,
      fun r hr => (getQ_setQ_ne _ _ hr).trans (getQ_bump ..), ?frame⟩
    case frame => rw [bump_eq]; rfl
  case tailBeyond =>
    intro mid q v s hreach hres hst hout
    refine ⟨_, next_queAccess_of_reach hreach (opSqTail_beyond hres hst hout), ?_⟩
    rw [getQ_qError_of_enabled (by rw [getQ_setQ_self]; exact hst), getQ_setQ_self]
    exact ⟨rfl, rfl, rfl⟩
  case headFrees =>
    intro mid q v s hreach hres hst hin hhead
    refine ⟨_, next_queAccess_of_reach hreach (opCqHead_frees hres hst hin hhead), getQ_setQ_self ..,
      fun r hr => (getQ_setQ_ne _ _ hr).trans (getQ_bump ..), ?frame⟩
    case frame => rw [bump_eq]; rfl
  case fetched =>
    intro q ds s hq hst hroom hreach hres hhost f hown
    exact execDescriptorFetch_of_host ds hq hst hroom hreach hres hhost hown true
  case asks =>
    intro f q wr s
    rw [hostAsk, fld_zero]
  case failed =>
    intro q ds s hq hst hroom hreach hres hhost
    obtain ⟨f, hown⟩ := queOwner_of_hostReach hreach hhost
    refine ⟨_, execDescriptorFetch_of_host ds hq hst hroom hreach hres hhost hown false, ?_⟩
    rw [if_neg Bool.false_ne_true, getQ_qError_of_enabled (by rw [getQ_setQ_self]; exact hst), getQ_setQ_self]
    exact ⟨rfl, rfl⟩

end Sys2Proof.Machine
end

section
/-!
PROOF. Queue interrupts and the host's other requests (R177, R315, R321, R328, R330, R419): an interrupt is sent or held, what is
held is flushed once its function can send and its vector is unmasked, and each other request is answered by one completion.
-/
namespace Sys2Proof.Machine

/-! ### A queue's interrupt (R328) -/

section
variable {s : State} {q f : Nat} (hown : queOwner s q = some f)
include hown

theorem qInterrupt_of_owner : qInterrupt s q =
    msix (setQ s q { getQ s q with unsig := 0 }) f (fld (rdN s (qPg q + 0x10)) 19 8) := by
  simp only [qInterrupt, hown]

theorem qInterrupt_of_sent (hsend : fnCanSend s f = true)
    (hopen : (getFn s f).msixUnmasked.contains (fld (rdN s (qPg q + 0x10)) 19 8) = true) : qInterrupt s q =
    emit (setQ s q { getQ s q with unsig := 0 }) (.msix f (fld (rdN s (qPg q + 0x10)) 19 8)) :=
  (qInterrupt_of_owner hown).trans (msix_of_sent hsend hopen)

theorem qInterrupt_of_held (hsend : fnCanSend s f = false)
    (hnew : (getFn s f).msixPend.contains (fld (rdN s (qPg q + 0x10)) 19 8) = false) : qInterrupt s q =
    setFn (setQ s q { getQ s q with unsig := 0 }) f
      { getFn s f with msixPend := (getFn s f).msixPend ++ [fld (rdN s (qPg q + 0x10)) 19 8] } :=
  (qInterrupt_of_owner hown).trans (msix_of_held hsend hnew)

end

theorem execMsiXInterrupt_of_count {s : State} {q : Nat} (hcnt : max 1 (fld (rdN s (qPg q + 0x18)) 7 0) ≤ (getQ s q).unsig) :
    execMsiXInterrupt q s = .next (qInterrupt s q) :=
  congrArg Host.Outcome.next (if_pos hcnt)

theorem execCoalesceTimeout_of_due {s : State} {q : Nat} (htime : fld (rdN s (qPg q + 0x18)) 23 8 ≠ 0)
    (hsome : (getQ s q).unsig ≠ 0) (hdue : (getQ s q).unsigAt + 1000 * fld (rdN s (qPg q + 0x18)) 23 8 ≤ s.time) :
    execCoalesceTimeout q s = .next (qInterrupt s q) :=
  congrArg Host.Outcome.next (if_pos ⟨htime, hsome, hdue⟩)

/-! ### Held interrupts (R328, R330) -/

/-- The pending vectors of a function that are unmasked. -/
def dueVectors (x : Func) : List Nat := x.msixPend.filter (fun v => x.msixUnmasked.contains v)
/-- The function once they have been sent. -/
def Func.flushed (x : Func) : Func := { x with msixPend := x.msixPend.filter (fun v => !x.msixUnmasked.contains v) }

theorem flushed_of_none_due {x : Func} (h : dueVectors x = []) : x.flushed = x := by
  have hall : x.msixPend.filter (fun v => !x.msixUnmasked.contains v) = x.msixPend :=
    List.filter_eq_self.2 fun v hv => by simpa using List.filter_eq_nil_iff.1 h v hv
  simp only [Func.flushed, hall]

/-- Where `t` is `s` after function `f` has sent what is due: its pending bits are taken, and nothing else changes. -/
structure Flushes (s : State) (f : Nat) (t : State) : Prop where
  fn : getFn t f = (getFn s f).flushed
  out : t.out = ((dueVectors (getFn s f)).map (Out.msix f)).reverse ++ s.out
  frame : t = { s with host := t.host, out := t.out }

theorem flushes_msixFlush {s : State} {f : Nat} (hsend : fnCanSend s f = true) : Flushes s f (msixFlush s f) := by
  have hflush : msixFlush s f = if (dueVectors (getFn s f)).isEmpty then s else
      { setFn s f (getFn s f).flushed with out := ((dueVectors (getFn s f)).map (Out.msix f)).reverse ++ s.out } := by
    simp only [msixFlush, hsend, foldl_emit]
    rfl
  by_cases hdue : dueVectors (getFn s f) = []
  · have hsame : msixFlush s f = s := hflush.trans (if_pos (by rw [hdue]; rfl))
    rw [hsame]
    exact ⟨(flushed_of_none_due hdue).symm, by rw [hdue]; rfl, rfl⟩
  · rw [hflush, if_neg (by simpa using hdue)]
    exact ⟨getFn_setFn_self .., rfl, rfl⟩

/-- A vector's mask bit cleared: the vector is the last of the unmasked ones. -/
def Func.unmasked (x : Func) (v : Nat) : Func :=
  { x with msixUnmasked := x.msixUnmasked.filter (fun u => u != v) ++ [v] }

theorem execVectorUnmask_of_there {s : State} {f v : Nat} (hthere : fnThere s f = true) (hv : v < if f = 0 then 4096 else 16)
    (hlink : s.host.linkUp = true) :
    execVectorUnmask f v s = .next (msixFlush (setFn s f ((getFn s f).unmasked v)) f) :=
  congrArg Host.Outcome.next (if_neg (by simp [hthere, hlink, hv]))

theorem execBusMasterEnable_of_there {s : State} {f : Nat} (hlink : s.host.linkUp = true) (hthere : fnThere s f = true) :
    execBusMasterEnable f s = .next (msixFlush (setFn s f { getFn s f with bme := true }) f) :=
  congrArg Host.Outcome.next (if_neg (by simp [hthere, hlink]))

/-- Whether a function can send is a matter of its own record and the link (R328). -/
theorem fnCanSend_setFn (s : State) (f : Nat) (x : Func) :
    fnCanSend (setFn s f x) f = (x.bme && !x.d3hot && s.host.linkUp) := by
  rw [fnCanSend, getFn_setFn_self]
  rfl

/-! ### AtomicOps of the host (R177, R321) -/

section
variable {s : State} {f : Nat} (hlink : s.host.linkUp = true) (hthere : fnThere s f = true)
include hlink hthere

theorem execHostAtomicop_of_unlisted {a n x w : Nat} {op : AtomOp} (hadd : op ≠ .add) (hcas : op ≠ .cas) :
    execHostAtomicop f a n op x w s = .next (emit (hostRef s) (.unsupported f)) := by
  simp [execHostAtomicop, hlink, hthere, hadd, hcas]

theorem execHostAtomicop_of_add {a n x d v : Nat} {t : State} (hmap : hostAddr s f a true true = some d)
    (hfree : scrWaits s f d n = false) (hatomic : atomic s f .add d n x 0 = (t, .old v)) :
    execHostAtomicop f a n .add x 0 s = .next (emit t (.atomic f v)) := by
  simp [execHostAtomicop, opAtomic, doAtomic, reqFn, hlink, hthere, hmap, hfree, hatomic]

/-! ### ATS invalidations and lane margins (R315, R419) -/

theorem execAtsInvalidation_of_there : execAtsInvalidation f s = .next (emit s (.atsDone f)) := by
  simp [execAtsInvalidation, hlink, hthere]

end

theorem execLaneMarginCommand_of_up {s : State} {lane steps : Nat} {tm : Bool} (hlane : lane < 16)
    (hlink : s.host.linkUp = true) :
    execLaneMarginCommand lane tm steps s = .next (emit (useFree s) (.margin lane (Config.freeNat s.free 0))) :=
  congrArg Host.Outcome.next (if_neg (by simp [hlink, hlane]))

/-! ### Settling O20 -/

/-- Settles O20: an interrupt is `msix` of the queue's vector, a flush is `Flushes`, and the other requests are answered as
their own lemmas say. -/
theorem interruptsAndHostRequests : Obligations.InterruptsAndHostRequests := by
  refine ⟨⟨?count, ?timeout, ?unmask, ?enable⟩, ?unlisted, ?fetchAdd, ?invalidation, ?margin⟩
  case count =>
    intro q f s hown hcnt hsend hopen
    exact (execMsiXInterrupt_of_count hcnt).trans (congrArg _ (qInterrupt_of_sent hown hsend hopen))
  case timeout =>
    intro q f s hown htime hsome hdue hsend hnew
    refine ⟨_, (execCoalesceTimeout_of_due htime hsome hdue).trans (congrArg _ (qInterrupt_of_held hown hsend hnew)), ?_⟩
    rw [getFn_setFn_self, getQ_setFn, getQ_setQ_self]
    exact ⟨rfl, rfl, rfl, rfl⟩
  case unmask =>
    intro f v s hthere hv hsend hlink hpend hmasked
    have hcan : fnCanSend (setFn s f ((getFn s f).unmasked v)) f = true := (fnCanSend_setFn ..).trans hsend
    obtain ⟨hfn, hout, hframe⟩ := flushes_msixFlush hcan
    rw [getFn_setFn_self] at hfn hout
    have hdue : dueVectors ((getFn s f).unmasked v) = [v] := by simp [dueVectors, Func.unmasked, hpend]
    rw [hdue] at hout
    refine ⟨_, execVectorUnmask_of_there hthere hv hlink, hout, ?noneHeld, ?nowOpen, hframe⟩
    case noneHeld => rw [hfn]; simp [Func.flushed, Func.unmasked, hpend]
    case nowOpen => rw [hfn]; simp [Func.flushed, Func.unmasked]
  case enable =>
    intro f s hlink hthere hd3
    have hcan : fnCanSend (setFn s f { getFn s f with bme := true }) f = true := by
      simp [fnCanSend_setFn, hd3, hlink]
    obtain ⟨hfn, -, hframe⟩ := flushes_msixFlush hcan
    rw [getFn_setFn_self] at hfn
    exact ⟨_, execBusMasterEnable_of_there hlink hthere, by rw [hfn]; rfl, by rw [hfn]; rfl, hframe⟩
  case unlisted => exact fun f a n x w op s hlink hthere => execHostAtomicop_of_unlisted hlink hthere
  case fetchAdd => exact fun f a d n x v s t hlink hthere => execHostAtomicop_of_add hlink hthere
  case invalidation => exact fun f s => execAtsInvalidation_of_there
  case margin =>
    exact fun lane steps tm s hlane hlink => ⟨_, execLaneMarginCommand_of_up (steps := steps) (tm := tm) hlane hlink⟩

end Sys2Proof.Machine
end

section
/-!
PROOF. Function reset, queue ranges, configuration requests and the link (R316, R318, R329, R330, R407, R425).
-/
namespace Sys2Proof.Machine

/-! ### Function reset (R329, Table 12-2) -/

theorem execFunctionReset_of_vf {s : State} {f : Nat} (hne : f ≠ 0) (hthere : fnThere s f = true) :
    execFunctionReset f s = .next (fnReset1 s f) := by
  simp [execFunctionReset, opFnReset, hne, hthere]

theorem fnReset1_of_running {s : State} {f : Nat} (hrun : (getFn s f).resetRun = true) :
    fnReset1 s f = setFn s f { getFn s f with resetPend := true } :=
  if_pos hrun

/-- The function as its reset begins. -/
def Func.inReset (x : Func) : Func :=
  { x with resetRun := true, bme := false, pasid := false, ats := false, d3hot := false, tdi := tdiErr x.tdi }

/-- The queues of function `f` forget what waits in them: its entries to be written, its descriptors read. -/
def queuesDropped (s : State) (f : Nat) : State :=
  { s with
    deal := { s.deal with cq := s.deal.cq.filter (fun o => queOwner s o.q != some f) }
    host := { s.host with queues := s.host.queues.map (fun e =>
      if queOwner s e.1 = some f then (e.1, { e.2 with ready := [] }) else e) } }

theorem fnReset1_of_idle {s : State} {f : Nat} (hrun : (getFn s f).resetRun = false) :
    fnReset1 s f = fnWays (queuesDropped (fnEndAll (mbFnReset (setFn s f (getFn s f).inReset) f) f) f) f := by
  simp only [fnReset1, hrun, Bool.false_eq_true, if_false]
  rw [← Func.inReset]
  rfl

theorem queuesDropped_mem (s : State) (f : Nat) : (queuesDropped s f).mem = s.mem := rfl
theorem mem_queuesDropped_cq {s : State} {f : Nat} {o : CqOut} :
    o ∈ (queuesDropped s f).deal.cq ↔ o ∈ s.deal.cq ∧ queOwner s o.q ≠ some f := by
  simp [queuesDropped]

/-- The end of function `f`'s reset, up to its event: its queue sets are as at reset, its register file is `file`, its
vectors are masked. -/
def tablesReset (s : State) (f : Nat) (file : Sparse W32) : State :=
  setFn { s with
    regs := { s.regs with file := file }
    host := { s.host with queues := s.host.queues.filter (fun e =>
      !(decide ((getFn s f).qbase ≤ e.1) && decide (e.1 < (getFn s f).qbase + (getFn s f).qcnt))) } }
    f { getFn s f with resetRun := false, resetPend := false, msixPend := [], msixUnmasked := [] }

theorem getFn_tablesReset (s : State) (f : Nat) (file : Sparse W32) : getFn (tablesReset s f file) f =
    { getFn s f with resetRun := false, resetPend := false, msixPend := [], msixUnmasked := [] } := getFn_setFn_self ..

theorem spFind_tablesReset {s : State} {f q : Nat} (file : Sparse W32) (hlo : (getFn s f).qbase ≤ q)
    (hhi : q < (getFn s f).qbase + (getFn s f).qcnt) : spFind (tablesReset s f file).host.queues q = none := by
  refine (spFind_filter (fun i => !(decide ((getFn s f).qbase ≤ i) &&
    decide (i < (getFn s f).qbase + (getFn s f).qcnt))) s.host.queues q).trans (if_neg ?_)
  simp [hlo, hhi]

theorem fnResetEnd_of_vf {s : State} {f : Nat} (hne : f ≠ 0) :
    ∃ file, fnResetEnd s f = fnEvent (tablesReset s f file) f 3 :=
  ⟨_, if_neg hne⟩

theorem execFunctionResetComplete_of_last {s : State} {f : Nat} (hrun : (getFn s f).resetRun = true)
    (hpend : (getFn s f).resetPend = false) : execFunctionResetComplete f s = .next (fnResetEnd s f) := by
  simp [execFunctionResetComplete, hrun, hpend]

/-! ### Queue ranges (R318) -/

theorem execFnQ_of_reach {mid : Nat} {v : W32} {s : State} (hreach : pgReach s mid .pcie = .yes)
    (hon : isOn s .pcie 0 = true) : execFnQ mid v s = .next (opFnQ s (rdSel s 0x7044 mid % 256) v) := by
  simp [execFnQ, pageAccess, hreach, hon]

theorem fld_fnQ_base (v : W32) : fld v.toNat 11 0 = v.toNat % 4096 := fld_zero ..

section
variable {s : State} {f base cnt : Nat} {v : W32} (hbase : v.toNat % 4096 = base) (hcnt : min 256 (fld v.toNat 20 12) = cnt)
include hbase hcnt

theorem opFnQ_of_outside (hout : 4096 < base + cnt) : opFnQ s f v = setFn s f { getFn s f with fnErr := true } := by
  subst hbase hcnt
  rw [← fld_fnQ_base] at hout
  exact if_pos (.inl hout)

/-- A range that meets no other function's, of a function that is not locked and whose queues are all DISABLED. -/
theorem opFnQ_of_free (hin : base + cnt ≤ 4096)
    (hapart : ∀ g, g < 256 → g ≠ f → (getFn s g).qcnt = 0 ∨ base + cnt ≤ (getFn s g).qbase ∨
      (getFn s g).qbase + (getFn s g).qcnt ≤ base)
    (hidle : ∀ i, i < (getFn s f).qcnt → (getQ s ((getFn s f).qbase + i)).st = .disabled)
    (hlock : tdiLocked s f = false) :
    opFnQ s f v = setFn s f { getFn s f with qbase := base, qcnt := cnt, fnErr := false } := by
  subst hbase hcnt
  rw [← fld_fnQ_base] at hin hapart ⊢
  refine if_neg ?_
  rintro (hout | ⟨-, hclash⟩ | hbusy | hlocked)
  · exact Nat.not_lt.2 hin hout
  · obtain ⟨g, hg, hmeets⟩ := List.any_eq_true.1 hclash
    have hapart := hapart g (List.mem_range.1 hg)
    simp only [Bool.and_eq_true, bne_iff_ne, decide_eq_true_eq] at hmeets
    omega
  · obtain ⟨i, hi, hst⟩ := List.any_eq_true.1 hbusy
    exact (bne_iff_ne.1 hst) (hidle i (List.mem_range.1 hi))
  · exact Bool.eq_false_iff.1 hlock hlocked

end

/-! ### Configuration requests (R316, R407, R425) -/

section
variable {f : Nat} {rq : CfgReq} (br : Bring) {s : State} (hlink : s.host.linkUp = true)
include hlink

theorem execConfigRequest_of_early (hcfg : s.boot.cfgReady = false) :
    execConfigRequest f rq 0 br s = .next (emit s (.rrs f)) := by
  simp [execConfigRequest, bootRun, hlink, hcfg]

theorem execConfigRequest_of_there (hcfg : s.boot.cfgReady = true) (hthere : fnThere s f = true) :
    execConfigRequest f rq 0 br s = .next (emit (cfgDo s f rq).1 (.cfg f (cfgDo s f rq).2)) := by
  simp [execConfigRequest, bootRun, hlink, hcfg, hthere]

end

/-! ### The link (R330, Table 12-1) -/

theorem execLinkUp_of_down {s : State} {speed width : Nat} (hdown : s.host.linkUp = false) (hperst : s.edge.perst = false)
    (hhub : hubUp s = true) (hclk : s.clk.lost.contains .refclk = false) (hon : isOn s .pcie 0 = true)
    (hspeed : speed = 4 ∨ speed = 5 ∨ speed = 6) (hwidth : width ∈ [1, 2, 4, 8, 16]) :
    execLinkUp speed width (decide (speed = 6)) s = .next ((List.range 256).foldl msixFlush { s with
      host := { s.host with linkUp := true, speed := speed, width := width, flit := decide (speed = 6) } }) := by
  have hlanes : [1, 2, 4, 8, 16].contains width = true := List.contains_iff_mem.2 hwidth
  refine if_neg ?_
  simp only [hdown, hperst, hhub, hclk, hon, hspeed, hlanes, decide_true, Bool.false_eq_true, Bool.not_true,
    not_true_eq_false, ne_eq, reduceCtorEq, or_self, not_false_eq_true]

/-! ### Settling O21 -/

/-- Settles O21: a reset is `fnWays` of the state in which the function's requests have ended, its completion one event, a
write of FN_Q one function record, and each other command what its lemma says. -/
theorem functionsAndLink : Obligations.FunctionsAndLink := by
  refine ⟨⟨?again, ?reset, ?complete⟩, ?range, ?refused, ?retry, ?identity, ?enables, ?linkUp, fun s => rfl⟩
  case again =>
    exact fun f s hne hthere hrun => (execFunctionReset_of_vf hne hthere).trans (congrArg _ (fnReset1_of_running hrun))
  case reset =>
    intro f s hne hthere hrun
    have hexec := (execFunctionReset_of_vf hne hthere).trans (congrArg _ (fnReset1_of_idle hrun))
    refine ⟨(getFn s f).inReset, _, _, hexec, rfl, rfl, rfl, rfl, rfl, rfl, rfl, fun htdi => ?error, queuesDropped_mem ..,
      fun o => mem_queuesDropped_cq.1⟩
    case error => simp only [Func.inReset, htdi, tdiErr]
  case complete =>
    intro f s hne hrun hpend
    obtain ⟨file, hend⟩ := fnResetEnd_of_vf (s := s) hne
    refine ⟨_, (execFunctionResetComplete_of_last hrun hpend).trans (congrArg _ hend), ?_⟩
    obtain ⟨e, p, hfn, hevt⟩ := getFn_fnEvent (tablesReset s f file) f 3
    rw [hfn, getFn_tablesReset]
    refine ⟨rfl, rfl, hevt, fun q hlo hhi => ?noQueue, ?frame⟩
    case noQueue => rw [fnEvent_queues]; exact spFind_tablesReset file hlo hhi
    case frame => rw [fnEvent_eq]; rfl
  case range =>
    intro mid v s hreach hon hin hapart hidle hlock
    exact (execFnQ_of_reach hreach hon).trans (congrArg _ (opFnQ_of_free rfl rfl hin hapart hidle hlock))
  case refused =>
    exact fun mid v s hreach hon hout => (execFnQ_of_reach hreach hon).trans (congrArg _ (opFnQ_of_outside rfl rfl hout))
  case retry => exact fun f rq br s hlink => execConfigRequest_of_early br hlink
  case identity => exact fun br s hlink hcfg => execConfigRequest_of_there (rq := .readId) br hlink hcfg rfl
  case enables =>
    exact fun f on br s hlink hcfg hthere => ⟨execConfigRequest_of_there (rq := .pasid on) br hlink hcfg hthere,
      execConfigRequest_of_there (rq := .ats on) br hlink hcfg hthere⟩
  case linkUp => exact fun speed width s => execLinkUp_of_down

end Sys2Proof.Machine
end

section
/-!
PROOF. The mailbox procedure (R333): an access of a bound party that is not refused is one operation on its channel, and the
signal that ends a message or an acknowledgement leaves every channel as it is.
-/
namespace Sys2Proof.Machine

/-! ### Signals (R333, R353) -/

/-- Where registers, what leaves and the functions' records are all that may differ between `s` and `t`. -/
structure SignalsOnly (s t : State) : Prop where
  eq : t = { s with regs := t.regs, out := t.out, host := t.host }

theorem SignalsOnly.refl (s : State) : SignalsOnly s s := ⟨rfl⟩
theorem SignalsOnly.trans {s t u : State} (h : SignalsOnly s t) (g : SignalsOnly t u) : SignalsOnly s u :=
  ⟨by rw [g.eq, h.eq]⟩
theorem SignalsOnly.ite {c : Prop} [Decidable c] {s t u : State} (ht : SignalsOnly s t) (hu : SignalsOnly s u) :
    SignalsOnly s (if c then t else u) := by
  split <;> assumption
theorem SignalsOnly.orReg (s : State) (a : Nat) (m : W32) : SignalsOnly s (orReg s a m) := ⟨rfl⟩
theorem SignalsOnly.msix (s : State) (f v : Nat) : SignalsOnly s (msix s f v) := ⟨by rw [msix_eq]⟩
theorem SignalsOnly.fnEvent (s : State) (f b : Nat) : SignalsOnly s (fnEvent s f b) := ⟨by rw [fnEvent_eq]⟩

theorem signalsOnly_mbSignal (s : State) (ch m b : Nat) : SignalsOnly s (mbSignal s ch m b) := by
  unfold mbSignal
  refine .ite (.trans ?_ (.fnEvent ..)) ?_ <;>
    exact (SignalsOnly.orReg ..).trans (.ite (.msix ..) (.refl _))

theorem getMb_congr {s t : State} (h : t.mbx = s.mbx) (ch : Nat) : getMb t ch = getMb s ch := by simp only [getMb, h]
@[simp] theorem getMb_mbSignal (s : State) (ch m b c : Nat) : getMb (mbSignal s ch m b) c = getMb s c :=
  getMb_congr (congrArg State.mbx (signalsOnly_mbSignal s ch m b).eq) c

/-! ### The operations on a channel (R333) -/

section
variable {s : State} {m ch : Nat}

theorem opGo_of_owner (h : (getMb s ch).owner = m) : opGo s m ch = mbSignal (setMb s ch { getMb s ch with
    owner := 0, full := true, sender := m, count := ((getMb s ch).count + 1) % 65536, discarded := false })
    ch (mbOther s ch m) 0 :=
  if_neg (not_not_intro h)
theorem opGo_of_other (h : (getMb s ch).owner ≠ m) : opGo s m ch = mbDeny s ch := if_pos h

theorem opAck_of_recipient (hfull : (getMb s ch).full = true) (hm : m = mbOther s ch (getMb s ch).sender) :
    opAck s m ch = mbSignal (setMb s ch { getMb s ch with full := false }) ch (getMb s ch).sender 2 :=
  if_neg (by simp [hfull, hm])

theorem opRelease_of_owner (h : (getMb s ch).owner = m) : opRelease s m ch = setMb s ch { getMb s ch with owner := 0 } :=
  if_neg (not_not_intro h)
theorem opRelease_of_other (h : (getMb s ch).owner ≠ m) : opRelease s m ch = mbDeny s ch := if_pos h

end

/-! ### A bound party's access -/

section
variable {mid ch : Nat} {s : State} (hup : hubUp s = true) (hch : ch < 319) (hok : mbRefused s mid ch = false)
  (hbound : mbBound s ch (midOf mid) = true)
include hup hch hok hbound

omit hok hbound in
theorem mbox_answers : ¬ (319 ≤ ch ∨ (!hubUp s) = true) := by simp [hup, hch]

theorem execGo_of_bound : execGo mid ch s = .next (opGo s (midOf mid) ch) := by
  simp only [execGo, if_neg (mbox_answers hup hch), opMbCtl, hok, hbound]
  rfl

theorem execAck_of_bound : execAck mid ch s = .next (opAck s (midOf mid) ch) := by
  simp only [execAck, if_neg (mbox_answers hup hch), opMbCtl, hok, hbound]
  rfl

theorem execMbRelease_of_bound : execMbRelease mid ch s = .next (opRelease s (midOf mid) ch) := by
  simp only [execMbRelease, if_neg (mbox_answers hup hch), opMbCtl, hok, hbound]
  rfl

theorem execMbLock_of_empty (hempty : (getMb s ch).full = false) : execMbLock mid ch s = .next (
    if (getMb s ch).owner = 0 then
      emit (setMb s ch { getMb s ch with owner := midOf mid }) (.reg (midOf mid) (mbPg ch + 0x44) 0)
    else emit s (.reg (midOf mid) (mbPg ch + 0x44) (w32 (getMb s ch).owner))) := by
  rw [execMbLock, if_neg (mbox_answers hup hch)]
  by_cases hfree : (getMb s ch).owner = 0 <;> simp [opMbLock, hok, hbound, hempty, hfree]

end

/-! ### Settling O18 -/

/-- Settles O18: each access is its operation on the channel, and the signal after it keeps the channels. -/
theorem mailboxProcedure : Obligations.MailboxProcedure := by
  intro mid ch s hup hch hok hbound
  have hgo := execGo_of_bound hup hch hok hbound
  have hack := execAck_of_bound hup hch hok hbound
  have hrelease := execMbRelease_of_bound hup hch hok hbound
  refine ⟨fun hempty hfree => ?locks, fun hempty howned => ?owned, fun howner => ?sends, fun hfull hm => ?empties,
    fun howner => ?frees, fun hother => ?denied⟩
  case locks => exact (execMbLock_of_empty hup hch hok hbound hempty).trans (congrArg _ (if_pos hfree))
  case owned => exact (execMbLock_of_empty hup hch hok hbound hempty).trans (congrArg _ (if_neg howned))
  case sends =>
    refine ⟨_, hgo.trans (congrArg _ (opGo_of_owner howner)), ?_, fun c hc => ?_, ?_⟩
    · rw [getMb_mbSignal, getMb_setMb_self]
    · rw [getMb_mbSignal, getMb_setMb_ne _ _ hc]
    · rw [(signalsOnly_mbSignal ..).eq]; rfl
  case empties =>
    refine ⟨_, hack.trans (congrArg _ (opAck_of_recipient hfull hm)), ?_, fun c hc => ?_, ?_⟩
    · rw [getMb_mbSignal, getMb_setMb_self]
    · rw [getMb_mbSignal, getMb_setMb_ne _ _ hc]
    · rw [(signalsOnly_mbSignal ..).eq]; rfl
  case frees => exact hrelease.trans (congrArg _ (opRelease_of_owner howner))
  case denied =>
    exact ⟨hgo.trans (congrArg _ (opGo_of_other hother)), hrelease.trans (congrArg _ (opRelease_of_other hother))⟩

end Sys2Proof.Machine
end

section
/-!
PROOF. The firmwares' mailbox commands (R412, R426) and the management sideband (R11, R12, R13).
-/
namespace Sys2Proof.Machine

/-! ### A message that its firmware serves (R426) -/

theorem fwCmd_of_served {s : State} {ch self sender cmd : Nat} {up : Bool} {listed : List Nat}
    {f : State → State × Nat × List Nat} (hwaits : mbWaits s ch self = true) (hup : up = true)
    (hsender : (getMb s ch).sender = sender) (hcmd : mbCmd s ch = cmd) (hlisted : listed.contains cmd = true) :
    fwCmd s ch self sender up listed cmd f = mbReply (f s).1 ch self (f s).2.1 (f s).2.2 := by
  subst hup hsender hcmd
  simp only [fwCmd, hwaits, hlisted, Bool.not_true, Bool.false_eq_true, Bool.true_eq_false, ne_eq, not_true_eq_false,
    or_self, if_false]

/-! ### A signed command object (R412) -/

/-- A revocation signed by a programmed key that is not revoked, of a slot that is not the running image's. -/
theorem secPerform_revoke {s : State} {k j : Nat} (hk : k < 4) (hprog : s.fuses.programmed.getLsbD k = true)
    (hrev : s.fuses.keyrev.getLsbD k = false) (hj : j < 4) (hrunning : j ≠ s.boot.keyIdx) :
    secPerform s { act := .revoke j, keySlot := k, sigOk := true } =
      some { s with fuses := { s.fuses with keyrev := s.fuses.keyrev ||| BitVec.ofNat 4 (2 ^ j) } } := by
  have hk' : ¬ 3 < k := by omega
  have hj' : ¬ 3 < j := by omega
  simp [secPerform, hk', hprog, hrev, hj', hrunning]

/-- An object of 64 to 16,384 bytes that lies in E regions and is read whole is performed. -/
theorem opSecCmd_of_read {s x y : State} {obj : SecObj} {a n : Nat} {bs : List Byte}
    (ha : mbData s 1 2 + 2 ^ 32 * fld (mbData s 1 3) 15 0 = a) (hn : mbData s 1 4 = n) (hmin : 64 ≤ n) (hmax : n ≤ 16384)
    (hlo : rangeOf a = .stack) (hhi : rangeOf (a + n - 1) = .stack)
    (hclass : ∀ r, a / 2 ^ 21 ≤ r → r ≤ (a + n - 1) / 2 ^ 21 → rgnClass s r = 1)
    (hread : memRead s 256 true a n .none = (x, .ok bs)) (hdone : secPerform x obj = some y) :
    opSecCmd obj s = (y, 0, []) := by
  have hregions : (List.range ((a + n - 1) / 2 ^ 21 + 1 - a / 2 ^ 21)).all
      (fun i => rgnClass s (a / 2 ^ 21 + i) == 1) = true := by
    rw [List.all_eq_true]
    intro i hi
    have hi := List.mem_range.1 hi
    exact beq_iff_eq.2 (hclass _ (by omega) (by omega))
  simp only [opSecCmd, ha, hn, hmin, hmax, hlo, hhi, hregions, hread, hdone]
  rfl

/-! ### Management (R11 to R13) -/

theorem execModidChanged_of_powered {s : State} (straps : Nat) (h : s.edge.power = .up ∨ s.edge.power = .tripped) :
    execModidChanged straps s = .next (mgmt { s with edge := { s.edge with modidChanged := true } } .modidChanged) :=
  congrArg Host.Outcome.next (if_neg fun ⟨hup, htrip⟩ => h.elim hup htrip)

/-- What the SMBus target answers a request with. -/
def mctpAnswer (s : State) : MctpReq → List Nat
  | .coolant => [fld (rdN s 0x3058) 7 0, fld (rdN s 0x3058) 15 8]
  | .serial => [Config.serial.toNat % 2 ^ 32, Config.serial.toNat / 2 ^ 32]
  | .trip => [rdN s 0x3060]

theorem execMctpRequest_of_on {s : State} (rq : MctpReq) (hon : smbusOn s = true) :
    execMctpRequest rq s = .next (emit s (.mctp (mctpAnswer s rq))) := by
  cases rq <;> exact congrArg Host.Outcome.next (if_neg (by simp [hon]))

theorem execMctpEventRead_of_pending {s : State} {e : MEvent} {l : List MEvent} (hon : smbusOn s = true)
    (hev : s.edge.events = e :: l) :
    execMctpEventRead s = .next (emit { s with edge := { s.edge with events := l } } (.mctpEvent e)) := by
  simp only [execMctpEventRead, hev, hon]
  rfl

theorem hubPowered_of_smbusOn {s : State} (h : smbusOn s = true) : hubPowered s = true := (Bool.and_eq_true_iff.1 h).1

/-! ### Settling O14 -/

/-- Settles O14: a served message is answered by `mbReply` of what its command does, and management reads and writes the
edge alone. -/
theorem firmwareAndManagement : Obligations.FirmwareAndManagement := by
  refine ⟨⟨?boot, ?serial, ?health, ?revoke⟩, ?strap, ?request, ?event⟩
  case boot =>
    exact fun s hwaits hfw hsender hcmd => congrArg Host.Outcome.next (fwCmd_of_served hwaits hfw hsender hcmd rfl)
  case serial =>
    exact fun s hwaits hfw hsender hcmd => congrArg Host.Outcome.next (fwCmd_of_served hwaits hfw hsender hcmd rfl)
  case health =>
    exact fun s hwaits hfw hsender hcmd => congrArg Host.Outcome.next (fwCmd_of_served hwaits hfw hsender hcmd rfl)
  case revoke =>
    intro k j s x bs hwaits hfw hsender hcmd hmin hmax hlo hhi hclass hread hfuses hboot hk hprog hrev hj hrunning
    rw [← hfuses] at hprog hrev ⊢
    rw [← hboot] at hrunning
    have hobj := opSecCmd_of_read rfl rfl hmin hmax hlo hhi hclass hread (secPerform_revoke hk hprog hrev hj hrunning)
    refine congrArg Host.Outcome.next ((fwCmd_of_served hwaits hfw hsender hcmd rfl).trans ?_)
    rw [hobj]
  case strap => exact fun st s hpower => ⟨_, execModidChanged_of_powered st hpower, rfl, rfl, rfl, rfl⟩
  case request =>
    exact fun s hon => ⟨execMctpRequest_of_on .serial hon, execMctpRequest_of_on .coolant hon,
      execMctpRequest_of_on .trip hon⟩
  case event =>
    intro e l s hon hev
    refine ⟨_, execMctpEventRead_of_pending hon hev, rfl, rfl, ?alert, rfl⟩
    case alert => exact (congrArg (· && !l.isEmpty) (hubPowered_of_smbusOn hon)).trans (Bool.true_and _)

end Sys2Proof.Machine
end

section
/-!
PROOF. Attestation and sessions (R335, R336, R337, R417): each request, over the link and where it needs one over a session,
is answered by one completion or changes one record.
-/
namespace Sys2Proof.Machine

section
variable {s : State} (hlink : s.host.linkUp = true)
include hlink

/-! ### SPDM (R417) -/

theorem execSpdmRequest_of_early (rq : SpdmReq) (hcfg : s.boot.cfgReady = false) :
    execSpdmRequest rq s = .next (emit s (.rrs 0)) := by
  simp only [execSpdmRequest, hlink, hcfg]
  rfl

theorem execSpdmRequest_getMeasurement (i : Nat) (hcfg : s.boot.cfgReady = true) :
    execSpdmRequest (.getMeasurement i) s = .next (emit s (.spdm (measurement s i).1 (measurement s i).2)) := by
  simp only [execSpdmRequest, hlink, hcfg]
  rfl

theorem execSpdmRequest_openSession (hcfg : s.boot.cfgReady = true) : execSpdmRequest .openSession s =
    .next (emit { s with sec := { s.sec with session := true } } (.session true)) := by
  simp only [execSpdmRequest, hlink, hcfg]
  rfl

/-! ### DOE Discovery (R335) -/

theorem execDoeDiscovery_listed : execDoeDiscovery 0 s = .next (emit s (.doe 1 0 1)) ∧
    execDoeDiscovery 1 s = .next (emit s (.doe 1 1 2)) ∧ execDoeDiscovery 2 s = .next (emit s (.doe 1 2 0)) := by
  simp only [execDoeDiscovery, hlink]
  exact ⟨rfl, rfl, rfl⟩

variable (hsession : s.sec.session = true)
include hsession

/-! ### IDE (R336) -/

theorem execIdeKm_keyProg {n : Nat} (hn : n < 9) (hnew : s.sec.ideKeys.contains n = false) :
    execIdeKm (.keyProg n) s = .next { s with sec := { s.sec with ideKeys := s.sec.ideKeys ++ [n] } } := by
  have hgo : ¬ (9 ≤ n ∨ s.sec.ideKeys.contains n = true) := by
    simp only [hnew, Bool.false_eq_true, or_false]
    omega
  simp only [execIdeKm, hlink, hsession, if_neg hgo]
  rfl

theorem execIdeKm_setGo {n : Nat} (hkeys : s.sec.ideKeys.contains n = true) (hidle : s.sec.ideActive.contains n = false) :
    execIdeKm (.setGo n) s = .next { s with sec := { s.sec with ideActive := s.sec.ideActive ++ [n] } } := by
  simp only [execIdeKm, hlink, hsession, hkeys, hidle]
  rfl

/-! ### TDISP (R337) -/

section
variable {f : Nat} (hvf : f ≠ 0) (hthere : fnThere s f = true)
include hvf hthere

theorem execTdisp_start (hlocked : (getFn s f).tdi = .locked) :
    let t : Tdi := if s.boot.devReady = true ∧ s.sec.unlocked = false then .run else .locked
    execTdisp f .start s = .next (emit (setFn s f { getFn s f with tdi := t }) (.tdi f t)) := by
  simp [execTdisp, hlink, hsession, hvf, hthere, hlocked]

theorem execTdisp_stop :
    execTdisp f .stop s = .next (emit (setFn s f { getFn s f with tdi := .unlocked }) (.tdi f .unlocked)) := by
  simp [execTdisp, hlink, hsession, hvf, hthere]

end
end

/-! ### Settling O15 -/

/-- Settles O15, request by request. -/
theorem attestationAndSessions : Obligations.AttestationAndSessions := by
  intro s hlink
  refine ⟨fun rq => execSpdmRequest_of_early hlink rq, execSpdmRequest_getMeasurement hlink 4,
    execSpdmRequest_openSession hlink, execDoeDiscovery_listed hlink, fun n hsession => execIdeKm_keyProg hlink hsession,
    fun n hsession => execIdeKm_setGo hlink hsession, ?starts, ?stops⟩
  case starts =>
    intro f hsession hvf hthere hlocked
    exact ⟨_, execTdisp_start hlink hsession hvf hthere hlocked, congrArg Func.tdi (getFn_setFn_self ..), rfl⟩
  case stops =>
    intro f hsession hvf hthere
    exact ⟨_, execTdisp_stop hlink hsession hvf hthere, congrArg Func.tdi (getFn_setFn_self ..),
      fun g hg => getFn_setFn_ne _ _ hg, rfl⟩

end Sys2Proof.Machine
end

section
/-!
PROOF. Every command and every step: what each command of the dispatch keeps, that each answers a next state, and so what
a step keeps of the fuses (R412, R415) and of the byte memories.
-/
namespace Sys2Proof.Machine

/-! ### What every command keeps -/

/-- The dispatch, arm by arm: what the command's meaning keeps. -/
theorem keep_exec (s : State) : ∀ i, KeepR s (exec i s)
  | .powerUp => keep_execPowerUp (.refl s)
  | .hubPowerGood .. => keep_execHubPowerGood (.refl s)
  | .modidChanged straps => keep_execModidChanged (_straps := straps) (.refl s)
  | .mctpRequest .. => keep_execMctpRequest (.refl s)
  | .mctpEventRead => keep_execMctpEventRead (.refl s)
  | .inputLow => keep_execInputLow (.refl s)
  | .inputLowClear => keep_execInputLowClear (.refl s)
  | .powerDown => keep_execPowerDown (.refl s)
  | .resetEntry .. => keep_execResetEntry (.refl s)
  | .perstRelease .. => keep_execPerstRelease (.refl s)
  | .dataFibreDisconnect .. => keep_execDataFibreDisconnect (.refl s)
  | .laserInputLost .. => keep_execLaserInputLost (.refl s)
  | .run .. => keep_execRun (.refl s)
  | .drop .. => keep_execDrop (.refl s)
  | .abort .. => keep_execAbort (.refl s)
  | .event .. => keep_execEvent (.refl s)
  | .ping .. => keep_execPing (.refl s)
  | .load .. => keep_execLoad (.refl s)
  | .loadRaw .. => keep_execLoadRaw (.refl s)
  | .stream .. => keep_execStream (.refl s)
  | .streamPage .. => keep_execStreamPage (.refl s)
  | .ringGroupWrite .. => keep_execRingGroupWrite (.refl s)
  | .mac .. => keep_execMac (.refl s)
  | .drain .. => keep_execDrain (.refl s)
  | .drainScore .. => keep_execDrainScore (.refl s)
  | .drainValue .. => keep_execDrainValue (.refl s)
  | .drainFinal .. => keep_execDrainFinal (.refl s)
  | .vec .. => keep_execVec (.refl s)
  | .xrCombine .. => keep_execXrCombine (.refl s)
  | .xrTimeout .. => keep_execXrTimeout (.refl s)
  | .waitEvent .. => keep_execWaitEvent (.refl s)
  | .waitRelease .. => keep_execWaitRelease (.refl s)
  | .acquire .. => keep_execAcquire (.refl s)
  | .acquireGrant .. => keep_execAcquireGrant (.refl s)
  | .waitBarrier .. => keep_execWaitBarrier (.refl s)
  | .barrierRelease .. => keep_execBarrierRelease (.refl s)
  | .signalEvent .. => keep_execSignalEvent (.refl s)
  | .post .. => keep_execPost (.refl s)
  | .dealerNotice .. => keep_execDealerNotice (.refl s)
  | .moveCore .. => keep_execMoveCore (.refl s)
  | .moveRows .. => keep_execMoveRows (.refl s)
  | .moveRaw .. => keep_execMoveRaw (.refl s)
  | .loop .. => keep_execLoop (.refl s)
  | .endStep .. => keep_execEndStep (.refl s)
  | .stepComplete .. => keep_execStepComplete (.refl s)
  | .hang .. => keep_execHang (.refl s)
  | .dcacheInv .. => keep_execDcacheInv (.refl s)
  | .cluCfg .. => keep_execCluCfg (.refl s)
  | .coreMap .. => keep_execCoreMap (.refl s)
  | .coreRet .. => keep_execCoreRet (.refl s)
  | .unitRun .. => keep_execUnitRun (.refl s)
  | .unitAbort .. => keep_execUnitAbort (.refl s)
  | .fenceCmd .. => keep_execFenceCmd (.refl s)
  | .clear .. => keep_execClear (.refl s)
  | .selftest .. => keep_execSelftest (.refl s)
  | .commandParameterWrite .. => keep_execCommandParameterWrite (.refl s)
  | .mpWindow .. => keep_execMpWindow (.refl s)
  | .nbuCfg .. => keep_execNbuCfg (.refl s)
  | .nop .. => keep_execNop (.refl s)
  | .mpEnd .. => keep_execMpEnd (.refl s)
  | .yieldPoint .. => keep_execYieldPoint (.refl s)
  | .fence .. => keep_execFence (.refl s)
  | .movi .. => keep_execMovi (.refl s)
  | .movh .. => keep_execMovh (.refl s)
  | .addi .. => keep_execAddi (.refl s)
  | .ldc .. => keep_execLdc (.refl s)
  | .bnz .. => keep_execBnz (.refl s)
  | .waitb .. => keep_execWaitb (.refl s)
  | .rdl .. => keep_execRdl (.refl s)
  | .wrl .. => keep_execWrl (.refl s)
  | .tbld .. => keep_execTbld (.refl s)
  | .lmac .. => keep_execLmac (.refl s)
  | .recordFetch .. => keep_execRecordFetch (.refl s)
  | .lmacWave .. => keep_execLmacWave (.refl s)
  | .accz .. => keep_execAccz (.refl s)
  | .eopCvt .. => keep_execEopCvt (.refl s)
  | .eopResc .. => keep_execEopResc (.refl s)
  | .eopAdd .. => keep_execEopAdd (.refl s)
  | .eopSub .. => keep_execEopSub (.refl s)
  | .eopMul .. => keep_execEopMul (.refl s)
  | .eopTable .. => keep_execEopTable (.refl s)
  | .eopSsq .. => keep_execEopSsq (.refl s)
  | .eopAmax .. => keep_execEopAmax (.refl s)
  | .eopQnt .. => keep_execEopQnt (.refl s)
  | .bsendGather .. => keep_execBsendGather (.refl s)
  | .bsendSum .. => keep_execBsendSum (.refl s)
  | .bsendMax .. => keep_execBsendMax (.refl s)
  | .busBroadcast .. => keep_execBusBroadcast (.refl s)
  | .busCombine .. => keep_execBusCombine (.refl s)
  | .refreshDue .. => keep_execRefreshDue (.refl s)
  | .preemption .. => keep_execPreemption (.refl s)
  | .refreshDone .. => keep_execRefreshDone (.refl s)
  | .unitHang .. => keep_execUnitHang (.refl s)
  | .memoryRead .. => keep_execMemoryRead (.refl s)
  | .memoryWrite .. => keep_execMemoryWrite (.refl s)
  | .goldenReloadDone .. => keep_execGoldenReloadDone (.refl s)
  | .atomicAdd .. => keep_execAtomicAdd (.refl s)
  | .atomicSmin .. => keep_execAtomicSmin (.refl s)
  | .atomicSmax .. => keep_execAtomicSmax (.refl s)
  | .atomicUmin .. => keep_execAtomicUmin (.refl s)
  | .atomicUmax .. => keep_execAtomicUmax (.refl s)
  | .atomicCas .. => keep_execAtomicCas (.refl s)
  | .gatherRead .. => keep_execGatherRead (.refl s)
  | .retagC .. => keep_execRetagC (.refl s)
  | .retagE .. => keep_execRetagE (.refl s)
  | .retagOffline .. => keep_execRetagOffline (.refl s)
  | .retagDone .. => keep_execRetagDone (.refl s)
  | .remap .. => keep_execRemap (.refl s)
  | .rgnEnt .. => keep_execRgnEnt (.refl s)
  | .wayCfg .. => keep_execWayCfg (.refl s)
  | .wayCfgDone .. => keep_execWayCfgDone (.refl s)
  | .invCmd .. => keep_execInvCmd (.refl s)
  | .invCmdDone => keep_execInvCmdDone (.refl s)
  | .stackTempRead .. => keep_execStackTempRead (.refl s)
  | .kvInval .. => keep_execKvInval (.refl s)
  | .appendCopy .. => keep_execAppendCopy (.refl s)
  | .spill .. => keep_execSpill (.refl s)
  | .ttlExpiry .. => keep_execTtlExpiry (.refl s)
  | .deferredFree .. => keep_execDeferredFree (.refl s)
  | .ringPrefillStep .. => keep_execRingPrefillStep (.refl s)
  | .generate .. => keep_execGenerate (.refl s)
  | .append .. => keep_execAppend (.refl s)
  | .cancel .. => keep_execCancel (.refl s)
  | .pause .. => keep_execPause (.refl s)
  | .resume .. => keep_execResume (.refl s)
  | .release .. => keep_execRelease (.refl s)
  | .draft .. => keep_execDraft (.refl s)
  | .trickBuild .. => keep_execTrickBuild (.refl s)
  | .commit .. => keep_execCommit (.refl s)
  | .trickEnd => keep_execTrickEnd (.refl s)
  | .completionWrite .. => keep_execCompletionWrite (.refl s)
  | .faultReport .. => keep_execFaultReport (.refl s)
  | .fnSet => keep_execFnSet (.refl s)
  | .acctSet => keep_execAcctSet (.refl s)
  | .acctGet => keep_execAcctGet (.refl s)
  | .modelAdm => keep_execModelAdm (.refl s)
  | .admGet => keep_execAdmGet (.refl s)
  | .svcSet => keep_execSvcSet (.refl s)
  | .replenish => keep_execReplenish (.refl s)
  | .cqStall .. => keep_execCqStall (.refl s)
  | .frameTransmit .. => keep_execFrameTransmit (.refl s)
  | .frameReceive .. => keep_execFrameReceive (.refl s)
  | .nak .. => keep_execNak (.refl s)
  | .wr .. => keep_execWr (.refl s)
  | .rd .. => keep_execRd (.refl s)
  | .rdrsp .. => keep_execRdrsp (.refl s)
  | .wrrsp .. => keep_execWrrsp (.refl s)
  | .notify .. => keep_execNotify (.refl s)
  | .notifyPost .. => keep_execNotifyPost (.refl s)
  | .red .. => keep_execRed (.refl s)
  | .dmsg .. => keep_execDmsg (.refl s)
  | .laneSwap .. => keep_execLaneSwap (.refl s)
  | .laneRetire .. => keep_execLaneRetire (.refl s)
  | .fabTimeout .. => keep_execFabTimeout (.refl s)
  | .trainingUp .. => keep_execTrainingUp (.refl s)
  | .trainingTimeout .. => keep_execTrainingTimeout (.refl s)
  | .sqTail .. => keep_execSqTail (.refl s)
  | .cqHead .. => keep_execCqHead (.refl s)
  | .descriptorFetch .. => keep_execDescriptorFetch (.refl s)
  | .queueEnable .. => keep_execQueueEnable (.refl s)
  | .queueDisable .. => keep_execQueueDisable (.refl s)
  | .queueDrainComplete .. => keep_execQueueDrainComplete (.refl s)
  | .msiXInterrupt .. => keep_execMsiXInterrupt (.refl s)
  | .coalesceTimeout .. => keep_execCoalesceTimeout (.refl s)
  | .vectorUnmask .. => keep_execVectorUnmask (.refl s)
  | .functionReset .. => keep_execFunctionReset (.refl s)
  | .functionResetComplete .. => keep_execFunctionResetComplete (.refl s)
  | .fnQ .. => keep_execFnQ (.refl s)
  | .hostAtomicop .. => keep_execHostAtomicop (.refl s)
  | .busMasterEnable .. => keep_execBusMasterEnable (.refl s)
  | .linkUp .. => keep_execLinkUp (.refl s)
  | .configRequest .. => keep_execConfigRequest (.refl s)
  | .mbLock .. => keep_execMbLock (.refl s)
  | .go .. => keep_execGo (.refl s)
  | .ack .. => keep_execAck (.refl s)
  | .mbRelease .. => keep_execMbRelease (.refl s)
  | .secCmd .. => keep_execSecCmd (.refl s)
  | .getBoot => keep_execGetBoot (.refl s)
  | .getSerial => keep_execGetSerial (.refl s)
  | .getHealth => keep_execGetHealth (.refl s)
  | .spdmRequest .. => keep_execSpdmRequest (.refl s)
  | .doeDiscovery .. => keep_execDoeDiscovery (.refl s)
  | .ideKm .. => keep_execIdeKm (.refl s)
  | .tdisp .. => keep_execTdisp (.refl s)
  | .blkCtlEnOn .. => keep_execBlkCtlEnOn (.refl s)
  | .blkCtlEnOff .. => keep_execBlkCtlEnOff (.refl s)
  | .srst .. => keep_execSrst (.refl s)
  | .softResetDone .. => keep_execSoftResetDone (.refl s)
  | .domainStartDone .. => keep_execDomainStartDone (.refl s)
  | .domainStopDone .. => keep_execDomainStopDone (.refl s)
  | .blkIset .. => keep_execBlkIset (.refl s)
  | .blkLock .. => keep_execBlkLock (.refl s)
  | .nameHiWrite .. => keep_execNameHiWrite (.refl s)
  | .nameLoWrite .. => keep_execNameLoWrite (.refl s)
  | .nameLoRead .. => keep_execNameLoRead (.refl s)
  | .nameHiRead .. => keep_execNameHiRead (.refl s)
  | .readToClear .. => keep_execReadToClear (.refl s)
  | .registerWrite .. => keep_execRegisterWrite (.refl s)
  | .clockGate .. => keep_execClockGate (.refl s)
  | .clockUngate .. => keep_execClockUngate (.refl s)
  | .clockLoss .. => keep_execClockLoss (.refl s)
  | .clockReturn .. => keep_execClockReturn (.refl s)
  | .domainFault .. => keep_execDomainFault (.refl s)
  | .levelFall => keep_execLevelFall (.refl s)
  | .powerMeasure .. => keep_execPowerMeasure (.refl s)
  | .thermalRead .. => keep_execThermalRead (.refl s)
  | .pwrbrk .. => keep_execPwrbrk (.refl s)
  | .throttleN .. => keep_execThrottleN (.refl s)
  | .throttleHeld .. => keep_execThrottleHeld (.refl s)
  | .stormEnd .. => keep_execStormEnd (.refl s)
  | .thrCap .. => keep_execThrCap (.refl s)
  | .migCmd .. => keep_execMigCmd (.refl s)
  | .migrationStart .. => keep_execMigrationStart (.refl s)
  | .migrationCopyDone .. => keep_execMigrationCopyDone (.refl s)
  | .retrainDone .. => keep_execRetrainDone (.refl s)
  | .marginProbe .. => keep_execMarginProbe (.refl s)
  | .rasPop .. => keep_execRasPop (.refl s)
  | .journalProgram .. => keep_execJournalProgram (.refl s)
  | .jrnCompact .. => keep_execJrnCompact (.refl s)
  | .compactionCommit => keep_execCompactionCommit (.refl s)
  | .segmentEraseDone .. => keep_execSegmentEraseDone (.refl s)
  | .svnCommit .. => keep_execSvnCommit (.refl s)
  | .bootConfirm .. => keep_execBootConfirm (.refl s)
  | .bootPref .. => keep_execBootPref (.refl s)
  | .flashProgram .. => keep_execFlashProgram (.refl s)
  | .flashErase .. => keep_execFlashErase (.refl s)
  | .flashRead .. => keep_execFlashRead (.refl s)
  | .flashCmdDone .. => keep_execFlashCmdDone (.refl s)
  | .bypass => keep_execBypass (.refl s)
  | .idcode => keep_execIdcode (.refl s)
  | .samplePreload => keep_execSamplePreload (.refl s)
  | .extest => keep_execExtest (.refl s)
  | .extestPulse => keep_execExtestPulse (.refl s)
  | .extestTrain => keep_execExtestTrain (.refl s)
  | .clamp => keep_execClamp (.refl s)
  | .highz => keep_execHighz (.refl s)
  | .debugUnlock .. => keep_execDebugUnlock (.refl s)
  | .laserInputRestored .. => keep_execLaserInputRestored (.refl s)
  | .farEndLightLost .. => keep_execFarEndLightLost (.refl s)
  | .pcieLinkDown => keep_execPcieLinkDown (.refl s)
  | .laneMarginCommand _ timing steps => keep_execLaneMarginCommand (_timing := timing) (_steps := steps) (.refl s)
  | .jtagTrstN => keep_execJtagTrstN (.refl s)
  | .debugInstruction .. => keep_execDebugInstruction (.refl s)
  | .unitCommandComplete .. => keep_execUnitCommandComplete (.refl s)
  | .asyncInstructionComplete .. => keep_execAsyncInstructionComplete (.refl s)
  | .modelLoad .. => keep_execModelLoad (.refl s)
  | .modelLoadDone .. => keep_execModelLoadDone (.refl s)
  | .fuseBurnDone => keep_execFuseBurnDone (.refl s)
  | .lpddrTemperatureReport .. => keep_execLpddrTemperatureReport (.refl s)
  | .atsInvalidation .. => keep_execAtsInvalidation (.refl s)

/-! ### Every command but an unlocked debug instruction answers a next state -/

/-- The device carries the command out: it neither faults nor is refused a meaning. -/
def Answers (r : Res) : Prop := ∃ t, r = .next t

theorem answers_next (s : State) : Answers (.next s) := ⟨s, rfl⟩

theorem answers_ite {c : Prop} [Decidable c] {a b : Res} (ha : Answers a) (hb : Answers b) :
    Answers (if c then a else b) := by
  split
  · exact ha
  · exact hb

/-- A meaning is a tree of choices, and every leaf of it is a next state, but for the debug instruction's (R421). The
meanings named are those whose tree begins with a match, which has to be seen to be split. -/
theorem exec_answers (i : Instr) (s : State)
    (hlocked : ∀ code, i = .debugInstruction code → ¬ (tapOn s = true ∧ s.sec.unlocked = true)) :
    Answers (exec i s) := by
  cases i
  case debugInstruction code => exact ⟨s, if_neg (hlocked code rfl)⟩
  case mctpEventRead | xrCombine | xrTimeout | waitRelease | acquireGrant | stepComplete | hang | lmacWave |
      memoryRead | memoryWrite | retagDone | wayCfgDone | invCmdDone | appendCopy | ttlExpiry | commit | trickEnd |
      completionWrite | faultReport | wr | rd | rdrsp | wrrsp | notify | notifyPost | dmsg | fabTimeout |
      nameHiWrite | nameLoWrite | nameLoRead | nameHiRead | readToClear | migrationStart | migrationCopyDone |
      retrainDone | compactionCommit | flashCmdDone | unitCommandComplete | asyncInstructionComplete |
      fuseBurnDone | lpddrTemperatureReport =>
    dsimp only [exec, execMctpEventRead, execXrCombine, execXrTimeout, execWaitRelease, execAcquireGrant,
      execStepComplete, execHang, execLmacWave, execMemoryRead, execMemoryWrite, execRetagDone, execWayCfgDone,
      execInvCmdDone, execAppendCopy, execTtlExpiry, execCommit, execTrickEnd, execCompletionWrite,
      execFaultReport, execWr, execRd, execRdrsp, execWrrsp, execNotify, execNotifyPost, execDmsg, execFabTimeout,
      execNameHiWrite, execNameLoWrite, execNameLoRead, execNameHiRead, execReadToClear, execMigrationStart,
      execMigrationCopyDone, execRetrainDone, execCompactionCommit, execFlashCmdDone, execUnitCommandComplete,
      execAsyncInstructionComplete, execFuseBurnDone, execLpddrTemperatureReport]
    repeat' first | apply answers_next | apply answers_ite | split
  all_goals repeat' first | apply answers_next | apply answers_ite | dsimp only | split

/-- Settles O4: the dispatch answers, and its answer keeps what every meaning keeps. -/
theorem everyCommandCompletes : Obligations.EveryCommandCompletes := by
  intro i s hlocked
  obtain ⟨t, ht⟩ := exec_answers i s hlocked
  have hkeep := (keep_exec s i).next t ht
  exact ⟨t, ht, hkeep.queue, hkeep.fuses, hkeep.free, hkeep.out⟩

/-! ### Steps -/

theorem step_of_nil {s : State} (h : s.pending = []) : step s = .next (idle s) := by
  simp only [step, h]

theorem step_of_cons {s : State} {c : Instr} {rest : List Instr} (h : s.pending = c :: rest) :
    step s = exec c { s with pending := rest } := by
  simp only [step, h]

/-- A step keeps what a command keeps, of the state with the command taken off its queue. -/
theorem keep_step {s t : State} (h : step s = .next t) : ∃ q, Keep { s with pending := q } t := by
  match hq : s.pending with
  | [] =>
    obtain rfl : idle s = t := by simpa [step_of_nil hq] using h
    exact ⟨s.pending, keep_idle (.refl s)⟩
  | c :: rest => exact ⟨rest, (keep_exec _ c).next t (step_of_cons hq ▸ h)⟩

/-- Settles O6: a step keeps the fuses as a command does. -/
theorem stepOnlyBurnsFuses : Obligations.StepOnlyBurnsFuses := by
  intro s t h
  obtain ⟨q, hkeep⟩ := keep_step h
  exact hkeep.fuses

/-- Settles O5: a step keeps the byte memories as a command does, and the queue is none of them. -/
theorem stepKeepsMemoryCanonical : Obligations.StepKeepsMemoryCanonical := by
  intro s t hwf h
  obtain ⟨q, hkeep⟩ := keep_step h
  exact hkeep.mem hwf

/-- Settles O1. -/
theorem stepRunsFront : Obligations.StepRunsFront := fun _ _ _ => step_of_cons rfl

/-- An idle module whose hub does not run. -/
theorem idle_of_down {s : State} (h : s.edge.power = .off ∨ s.edge.power = .ramping ∨ s.clk.lost.contains .crystal = true) :
    idle s = s := by
  refine if_neg fun ⟨hpower, hcrystal⟩ => ?_
  rcases h with h | h | h
  · simp [h] at hpower
  · simp [h] at hpower
  · exact Bool.false_ne_true (hcrystal.symm.trans h)

theorem bootStage_of_stopped {s : State} {br : Bring} (h : s.boot.running = false) : bootStage s br = s :=
  if_pos (.inl (by simp [h]))

/-- Settles O2: the idle step, with no stage of boot to end. -/
theorem idleStep : Obligations.IdleStep := by
  intro s hq
  rw [step_of_nil hq]
  refine ⟨fun hdown => by rw [idle_of_down hdown], fun hup hcrystal hboot => ?_⟩
  have htick : idle s = bootStage { s with time := s.time + 1 } {} := if_pos ⟨hup, hcrystal⟩
  exact congrArg Host.Outcome.next (htick.trans (bootStage_of_stopped hboot))

/-- Settles O3: the reset state, evaluated. -/
theorem resetState : Obligations.ResetState := by
  unfold Obligations.ResetState
  decide

end Sys2Proof.Machine
end

section
/-!
PROOF. Register accesses (R5, R341, R342, R346, R347): how an access that reaches its page is carried out, the words of a
write, and the halves of a 64-bit pair.
-/
namespace Sys2Proof.Machine

/-! ### A page's interrupt (R353) -/

/-- All that a page's vectors can change. -/
theorem pageSignal_eq (s : State) (b : Blk) (i : Nat) :
    pageSignal s b i = { s with out := (pageSignal s b i).out, host := (pageSignal s b i).host } := by
  have hmsix : ∀ (c : Bool) (x : State) (f v : Nat), x = { s with out := x.out, host := x.host } →
      (if c = true then msix x f v else x) = { s with
        out := (if c = true then msix x f v else x).out, host := (if c = true then msix x f v else x).host } := by
    intro c x f v hx
    split
    · rw [msix_eq, hx]
    · exact hx
  unfold pageSignal
  dsimp only
  split
  · exact hmsix _ _ _ _ (hmsix _ _ _ _ (hmsix _ _ _ _ rfl))
  · rw [msix_eq]

/-- All that follows a change of BLK_ISR or BLK_IER. -/
theorem irqAfter_eq (before s : State) (b : Blk) (i : Nat) : irqAfter before s b i =
    { s with out := (irqAfter before s b i).out, host := (irqAfter before s b i).host } := by
  unfold irqAfter
  split
  · exact pageSignal_eq s b i
  · rfl

theorem rdReg_irqAfter (before s : State) (b : Blk) (i a : Nat) : rdReg (irqAfter before s b i) a = rdReg s a :=
  rdReg_congr (congrArg State.regs (irqAfter_eq before s b i)) a

theorem irqAfter_self (s : State) (b : Blk) (i : Nat) : irqAfter s s b i = s := if_neg (by simp)

/-! ### The header (R342, R346) -/

/-- A header that is reached is one of a block there is, of a hub that runs. -/
theorem there_of_hdrReach {s : State} {mid i : Nat} {b : Blk} (h : hdrReach s mid b i = .yes) :
    i < Blk.count b ∧ blkHeader b = true ∧ hubUp s = true := by
  by_contra hno
  have hout : Blk.count b ≤ i ∨ (!blkHeader b) = true ∨ (!hubUp s) = true := by
    rw [← Nat.not_lt, Bool.not_eq_true', Bool.not_eq_true', ← Bool.not_eq_true, ← Bool.not_eq_true]
    tauto
  rw [hdrReach, if_pos hout] at h
  exact absurd h (by decide)

theorem hdrAccess_of_reach {s : State} {mid i : Nat} {b : Blk} (f : State → State) (h : hdrReach s mid b i = .yes) :
    hdrAccess s mid b i f = f s := by
  simp only [hdrAccess, h]

theorem execBlkIset_of_reach {mid i : Nat} {b : Blk} {s : State} (v : W32) (h : hdrReach s mid b i = .yes) :
    execBlkIset mid b i v s = .next (irqAfter s (orReg s (pageOf b i + 0x14) v) b i) :=
  congrArg _ (hdrAccess_of_reach _ h)

theorem execBlkLock_of_reach {mid i : Nat} {b : Blk} {s : State} (v : W32) (h : hdrReach s mid b i = .yes) :
    execBlkLock mid b i v s = .next (if bit v 0 then wrBit s (pageOf b i + 0x30) 0 true else s) :=
  congrArg _ (hdrAccess_of_reach _ h)

/-- A 4-byte write of the common header. -/
theorem regWrite4_of_header {mid a i off : Nat} {b : Blk} {s : State} (v : W32) (hloc : locate a = .blk b i off)
    (hoff : off < 0x40) (h : hdrReach s mid b i = .yes) : regWrite4 s mid a v = hdrWrite s mid b i off v := by
  obtain ⟨hi, hhdr, -⟩ := there_of_hdrReach h
  simp only [regWrite4, hloc, if_neg (Nat.not_le.2 hi), if_pos (⟨hhdr, hoff⟩ : blkHeader b = true ∧ off < 0x40)]

theorem regRow_of_header {b : Blk} {off : Nat} (hb : blkHeader b = true) (hoff : off < 0x40) :
    regRow b off = hdrRow b off := if_pos ⟨hb, hoff⟩

theorem regLimit_ier (b : Blk) (v : W32) : regLimit b 0x18 v = v := by cases b <;> rfl

/-- A write of BLK_IER stores every bit. -/
theorem hdrWrite_ier {mid i : Nat} {b : Blk} {s : State} (v : W32) (h : hdrReach s mid b i = .yes) :
    hdrWrite s mid b i 0x18 v = irqAfter s (wrReg s (pageOf b i + 0x18) v) b i := by
  have hrow := regRow_of_header (there_of_hdrReach h).2.1 (show 0x18 < 0x40 by decide)
  have hall : v &&& w32 0xFFFFFFFF = v := BitVec.and_allOnes
  simp only [hdrWrite, hdrAccess_of_reach _ h, storeWrite, hrow, hdrRow, regLimit_ier, hall]

/-- A locked page's BLK_ERR_THR takes nothing. -/
theorem hdrWrite_errThr_of_locked {mid i : Nat} {b : Blk} {s : State} (v : W32) (h : hdrReach s mid b i = .yes)
    (hlock : locked s (pageOf b i) = true) : hdrWrite s mid b i 0x2C v = s := by
  have hrow := regRow_of_header (there_of_hdrReach h).2.1 (show 0x2C < 0x40 by decide)
  have hstore : storeWrite s mid b i 0x2C v = s := by
    cases herr : blkErr b <;> simp [storeWrite, hrow, hdrRow, herr, hlock]
  simp only [hdrWrite, hdrAccess_of_reach _ h, hstore, irqAfter_self]

/-! ### The words of a write (R341) -/

theorem leNat_leBytes : ∀ n w, leNat (leBytes w n) = w % 256 ^ n
  | 0, w => by simp [leBytes, leNat, Nat.mod_one]
  | n + 1, w => by
    rw [leBytes, leNat, leNat_leBytes n, BitVec.toNat_ofNat, Nat.pow_succ' (m := 256)]
    exact (Nat.mod_mul ..).symm

theorem length_chunks {α : Type} (n : Nat) : ∀ (k : Nat) (l : List α), (chunks n k l).length = k
  | 0, _ => rfl
  | k + 1, l => by rw [chunks, List.length_cons, length_chunks n k]

theorem length_regWords (bs : List Byte) : (regWords bs).length = bs.length / 4 := by
  rw [regWords, List.length_map, length_chunks]

theorem regWords_append (v : W32) (bs : List Byte) : regWords (leBytes v.toNat 4 ++ bs) = v :: regWords bs := by
  have hlen : (leBytes v.toNat 4 ++ bs).length / 4 = bs.length / 4 + 1 := by
    rw [List.length_append, length_leBytes]; omega
  have hword : w32 (leNat (leBytes v.toNat 4)) = v := by
    rw [leNat_leBytes, Nat.mod_eq_of_lt (show v.toNat < 256 ^ 4 from v.isLt)]
    exact BitVec.ofNat_toNat 32 v
  rw [regWords, hlen, chunks, List.map_cons, List.take_left' (length_leBytes 4 _), List.drop_left' (length_leBytes 4 _),
    hword, regWords]

theorem regWords_leBytes (v : W32) : regWords (leBytes v.toNat 4) = [v] := by
  simpa [regWords, chunks] using regWords_append v []

/-! ### Writes as they arrive (R341, R347) -/

theorem not_refused_of_whole {a : Nat} {bs : List Byte} (ha : a % 4 = 0) (hlen : bs.length % 4 = 0) (hne : bs ≠ [])
    (hal : bs.length = 8 → a % 8 = 0) :
    ¬ (bs.isEmpty = true ∨ bs.length % 4 ≠ 0 ∨ a % 4 ≠ 0 ∨ (bs.length = 8 ∧ a % 8 ≠ 0)) := by
  simpa [hne, hlen, ha] using hal

section
variable {mid a : Nat} {bs : List Byte} {s : State} (hup : hubUp s = true)
include hup

/-- A write that is not whole words, or not aligned, is refused. -/
theorem opRegisterWrite_of_bad (hbad : a % 4 ≠ 0 ∨ bs.length % 4 ≠ 0 ∨ (bs.length = 8 ∧ a % 8 ≠ 0))
    (hmid : hostMid mid = true) : opRegisterWrite s mid a bs = hostRef s := by
  have hrefused : bs.isEmpty = true ∨ bs.length % 4 ≠ 0 ∨ a % 4 ≠ 0 ∨ (bs.length = 8 ∧ a % 8 ≠ 0) := by tauto
  simp only [opRegisterWrite, hup, if_pos hrefused, hmid]
  rfl

section
variable (ha : a % 4 = 0) (hlen : bs.length % 4 = 0) (hne : bs ≠ []) (hal : bs.length = 8 → a % 8 = 0)
include ha hlen hne hal

/-- Eight bytes at NAME_LO are both halves in one action. -/
theorem opRegisterWrite_of_pair {l h : W32} {p : Blk × Nat × Nat} (hpair : pairOf a false = some p)
    (hwords : regWords bs = [l, h]) :
    opRegisterWrite s mid a bs = regWrite4 (regWrite4 s mid (a + 4) h) mid a l := by
  simp only [opRegisterWrite, hup, if_neg (not_refused_of_whole ha hlen hne hal), hpair, hwords]
  rfl

/-- Any other write of whole words is its words in ascending order. -/
theorem opRegisterWrite_of_words (hpair : bs.length = 8 → pairOf a false = none) : opRegisterWrite s mid a bs =
    (enumFrom 0 (regWords bs)).foldl (fun x w => regWrite4 x mid (a + 4 * w.1) w.2) s := by
  simp only [opRegisterWrite, hup, if_neg (not_refused_of_whole ha hlen hne hal)]
  split
  · next heq => exact absurd heq (by decide)
  · split
    · next lo hi hp hw =>
      have htwo : bs.length / 4 = 2 := by rw [← length_regWords, hw]; rfl
      exact absurd (hpair (by omega)) (by simp [hp])
    · rfl

end

/-- A 4-byte write of a register that is no NAME_LO. -/
theorem opRegisterWrite_of_word (ha : a % 4 = 0) (v : W32) :
    opRegisterWrite s mid a (leBytes v.toNat 4) = regWrite4 s mid a v := by
  have hlen := length_leBytes 4 v.toNat
  rw [opRegisterWrite_of_words hup ha (by rw [hlen]) (by rintro hnil; simp [hnil] at hlen) (by simp [hlen])
    (by simp [hlen]), regWords_leBytes]
  rfl

end

/-! ### 64-bit pairs (R347) -/

theorem ownWrite_of_reach {s : State} {mid i : Nat} {b : Blk} (f : State → State) (h : ownReach s mid b i = .yes) :
    ownWrite s mid b i f = f s := by
  simp only [ownWrite, h]

/-- A half that can be written: software writes it, its page is not locked against it, and a queue set is DISABLED. -/
theorem pairOpen_iff {s : State} {b : Blk} {i off : Nat} : pairOpen s b i off = true ↔ ∃ m l,
    pairMask b off = some (l, m) ∧ (l && locked s (pageOf b i)) = false ∧ ¬ (b = .que ∧ (getQ s i).st ≠ .disabled) := by
  unfold pairOpen
  rcases pairMask b off with _ | ⟨l, m⟩
  · simp
  · cases l <;> simp [Classical.or_iff_not_imp_left]

/-- The two halves of a pair are stored apart. -/
theorem pairAt_hi_ne_lo (s : State) (mid : Nat) (b : Blk) (i lo : Nat) : pairAt s mid b i lo ≠ pairAt s mid b i (lo + 4) := by
  unfold pairAt
  split
  · simp only [rwinAt]; omega
  · omega

section
variable {s : State} {mid i lo : Nat} {b : Blk}

theorem opHiWrite_of_open {m : W32} {l : Bool} (hopen : pairOpen s b i (lo + 4) = true)
    (hmask : pairMask b (lo + 4) = some (l, m)) (v : W32) : opHiWrite s mid b i lo v =
      { s with regs := { s.regs with stage := spSet s.regs.stage (pairKey s mid b i lo) (v &&& m) } } := by
  obtain ⟨-, -, -, -, hque⟩ := pairOpen_iff.1 hopen
  simp only [opHiWrite, hmask, if_neg hque, hopen]
  rfl

theorem opLoWrite_of_open {m : W32} {l : Bool} (hopen : pairOpen s b i lo = true) (hmask : pairMask b lo = some (l, m))
    (v : W32) : opLoWrite s mid b i lo v =
      (let x := wrReg s (pairAt s mid b i lo) (v &&& m)
       match spFind s.regs.stage (pairKey s mid b i lo) with
       | some h => wrReg { x with regs := { x.regs with stage := spDel x.regs.stage (pairKey s mid b i lo) } }
           (pairAt s mid b i (lo + 4)) h
       | none => x) := by
  obtain ⟨-, -, -, -, hque⟩ := pairOpen_iff.1 hopen
  simp only [opLoWrite, hmask, if_neg hque, hopen]
  rfl

end

section
variable {s : State} {mid a i lo : Nat} {b : Blk} (hreach : ownReach s mid b i = .yes)
include hreach

theorem execNameHiWrite_of_reach (v : W32) (hpair : pairOf a true = some (b, i, lo)) :
    execNameHiWrite mid a v s = .next (opHiWrite s mid b i lo v) := by
  simp only [execNameHiWrite, hpair, ownWrite_of_reach _ hreach]

theorem execNameLoWrite_of_reach (v : W32) (hpair : pairOf a false = some (b, i, lo)) :
    execNameLoWrite mid a v s = .next (opLoWrite s mid b i lo v) := by
  simp only [execNameLoWrite, hpair, ownWrite_of_reach _ hreach]

theorem execNameLoRead_of_reach (hpair : pairOf a false = some (b, i, lo)) : execNameLoRead mid a s =
    .next (emit { s with regs := { s.regs with
      capt := spSet s.regs.capt (pairKey s mid b i lo) (w32 (regView s mid b i (lo + 4))) } }
      (.reg (midOf mid) a (w32 (regView s mid b i lo)))) := by
  simp only [execNameLoRead, hpair, answerRead_of_ownReach _ hreach]

theorem execNameHiRead_of_captured {h : W32} (hpair : pairOf a true = some (b, i, lo))
    (hcapt : spFind s.regs.capt (pairKey s mid b i lo) = some h) : execNameHiRead mid a s =
      .next (emit { s with regs := { s.regs with capt := spDel s.regs.capt (pairKey s mid b i lo) } }
        (.reg (midOf mid) a h)) := by
  simp only [execNameHiRead, hpair, answerRead_of_ownReach _ hreach, hcapt]

theorem execNameHiRead_of_none (hpair : pairOf a true = some (b, i, lo))
    (hcapt : spFind s.regs.capt (pairKey s mid b i lo) = none) : execNameHiRead mid a s =
      .next (emit s (.reg (midOf mid) a (w32 (regView s mid b i (lo + 4))))) := by
  simp only [execNameHiRead, hpair, answerRead_of_ownReach _ hreach, hcapt]

end

/-! ### Settling O16 -/

/-- Settles O16, access by access. -/
theorem registerAccess : Obligations.RegisterAccess := by
  refine ⟨⟨?iset, ?lock, ?ier, ?errThr, ?refused, ?both, ?words, fun v bs _ => regWords_append v bs⟩,
    ?hiWrite, ?commits, ?loWrite, ?loRead, ?captured, ?current⟩
  case iset =>
    intro mid b i v s h
    refine ⟨_, execBlkIset_of_reach v h, ?gains, fun x hx => ?others, ?frame⟩
    case gains => rw [rdReg_irqAfter, rdReg_orReg_self]
    case others => rw [rdReg_irqAfter, rdReg_orReg_ne _ _ hx]
    case frame => rw [irqAfter_eq]; rfl
  case lock =>
    intro mid b i v s h
    refine ⟨fun hv => ?_, fun hv => ⟨_, (execBlkLock_of_reach v h).trans (congrArg _ (if_pos hv)), ?locks, fun x hx => ?others, rfl⟩⟩
    · exact (execBlkLock_of_reach v h).trans (congrArg _ (if_neg (by simp [hv])))
    case locks => exact Bool.or_eq_true_iff.2 (.inr (bit_wrBit _ _ (by decide) _))
    case others => exact rdReg_wrReg_ne _ _ hx
  case ier =>
    rintro mid a b i v s hal rfl hloc hhdr h
    have hexec : exec (.registerWrite mid (pageOf b i + 0x18) (leBytes v.toNat 4)) s =
        .next (irqAfter s (wrReg s (pageOf b i + 0x18) v) b i) :=
      congrArg _ ((opRegisterWrite_of_word (there_of_hdrReach h).2.2 hal v).trans
        ((regWrite4_of_header v hloc (by decide) h).trans (hdrWrite_ier v h)))
    refine ⟨_, hexec, ?stored, fun x hx => ?others, ?frame⟩
    case stored => rw [rdReg_irqAfter, rdReg_wrReg_self]
    case others => rw [rdReg_irqAfter, rdReg_wrReg_ne _ _ hx]
    case frame => rw [irqAfter_eq]; rfl
  case errThr =>
    intro mid a b i v s hal hloc hhdr h hlock
    exact congrArg _ ((opRegisterWrite_of_word (there_of_hdrReach h).2.2 hal v).trans
      ((regWrite4_of_header v hloc (by decide) h).trans (hdrWrite_errThr_of_locked v h hlock)))
  case refused =>
    intro mid a bs s hbad hmid hup
    refine ⟨congrArg _ (opRegisterWrite_of_bad hup hbad hmid), ?_⟩
    rw [hostRef, bump_host]
  case both =>
    intro mid a b i lo l h s hal hpair hup
    have hlen : (leBytes l.toNat 4 ++ leBytes h.toNat 4).length = 8 := by simp [length_leBytes]
    refine congrArg _ (opRegisterWrite_of_pair hup (by omega) (by rw [hlen]) ?_ (fun _ => hal) hpair ?_)
    · exact List.ne_nil_of_length_eq_add_one hlen
    · rw [regWords_append, regWords_leBytes]
  case words =>
    intro mid a bs s hal hlen hne hpair hup
    exact congrArg _ (opRegisterWrite_of_words hup hal hlen hne (fun h8 => (hpair h8).1) (fun h8 => (hpair h8).2))
  case hiWrite =>
    intro mid a b i lo v s hpair hreach hopen
    obtain ⟨m, l, hmask, -⟩ := pairOpen_iff.1 hopen
    exact ⟨m, l, hmask, (execNameHiWrite_of_reach hreach v hpair).trans (congrArg _ (opHiWrite_of_open hopen hmask v))⟩
  case commits =>
    intro mid a b i lo v h s hpair hreach hopen hstage
    obtain ⟨m, l, hmask, -⟩ := pairOpen_iff.1 hopen
    have hexec := execNameLoWrite_of_reach hreach v hpair
    rw [opLoWrite_of_open hopen hmask, hstage] at hexec
    refine ⟨_, m, l, hmask, hexec, ?lower, rdReg_wrReg_self .., rfl⟩
    case lower => exact (rdReg_wrReg_ne _ _ (pairAt_hi_ne_lo s mid b i lo)).trans (rdReg_wrReg_self ..)
  case loWrite =>
    intro mid a b i lo v s hpair hreach hopen hstage
    obtain ⟨m, l, hmask, -⟩ := pairOpen_iff.1 hopen
    have hexec := execNameLoWrite_of_reach hreach v hpair
    rw [opLoWrite_of_open hopen hmask, hstage] at hexec
    exact ⟨m, l, hmask, hexec⟩
  case loRead =>
    intro mid a b i lo s hpair hreach
    exact ⟨_, execNameLoRead_of_reach hreach hpair, rfl, spFind_spSet_self .., rfl, rfl⟩
  case captured =>
    intro mid a b i lo h s hpair hreach hcapt
    exact ⟨_, execNameHiRead_of_captured hreach hpair hcapt, rfl, rfl⟩
  case current => exact fun mid a b i lo s hpair hreach hcapt => execNameHiRead_of_none hreach hpair hcapt

end Sys2Proof.Machine
end

section
/-!
PROOF. Margin probes (R392): a probe below the limit crosses the channel's threshold, and the crossing of a joker that is
being filled gives the channel it was to replace its REMAP entry back. The statement bounds that channel's number nowhere.
-/
namespace Sys2Proof.Machine

/-- STK[0] is ON, and the migration that fills its joker 0 replaces a channel numbered far past the 34 of a stack: the
REMAP entry of that number lies in the page of CH[0]. -/
def strayMigration : State :=
  { State.reset with
    blk := { st := [(pageOf .stk 0, .on)] }
    wear := { mig := [(0, { ch := 0x20022, joker := 0, old := 7, step := 1 })] } }

/-- A register when a command has answered, none where it answers no state. -/
def regAfter (a : Nat) : Res → Option W32
  | .next t => some (rdReg t a)
  | _ => none

/-- The probe reads 0 in CH[0], but its CH_MARGIN holds the entry of the stopped migration. -/
theorem regAfter_marginProbe_strayMigration :
    regAfter (pageOf .ch 0 + 0x108) (exec (.marginProbe 0 0 0 0 []) strayMigration) = some (w32 7) := by decide

/-- Refutes O58: the probe of `strayMigration` leaves 7 in the CH_MARGIN of CH[0], where the statement has the 0 that was
read. No command starts the migration of such a channel; the statement bounds it nowhere. -/
theorem not_marginsAndRecords : ¬ Obligations.MarginsAndRecords := by
  rintro ⟨hprobe, -⟩
  obtain ⟨t, hexec, hmargin, -⟩ := hprobe 0 0 0 0 strayMigration (pageOf .ch 0) (by decide) (by decide) (by decide)
    (by decide) (by decide) rfl
  have hseven : rdReg t (pageOf .ch 0 + 0x108) = w32 7 := by
    simpa [hexec, regAfter] using regAfter_marginProbe_strayMigration
  exact absurd (hmargin.symm.trans hseven) (by decide)

end Sys2Proof.Machine
end

section
/-!
PROOF. The TAP (R420) and debug (R421).
-/
namespace Sys2Proof.Machine

/-! ### The TAP -/

section
variable {s : State} (hon : tapOn s = true)
include hon

theorem execIdcode_of_on : execIdcode s = .next (emit (tapLoad s .idcode) (.tdo 0x1D512A6F)) := congrArg _ (if_pos hon)

theorem execBypass_of_on : execBypass s = .next (tapLoad s .bypass) := congrArg _ (if_pos hon)

theorem execSamplePreload_of_on : execSamplePreload s = .next (tapLoad s .sample) := congrArg _ (if_pos hon)

theorem execJtagTrstN_of_on : execJtagTrstN s = .next (tapLoad s .idcode) := congrArg _ (if_pos hon)

/-- PERST# asserted: the pins are driven. -/
theorem tapPins_of_perst {i : Tap} (hperst : s.edge.perst = true) (hdrives : tapDrives i = true) :
    tapPins s i = emit { s with tap := i } (.pins true) := by
  simp only [tapPins, hon, hperst, tapLoad, hdrives]
  rfl

/-- PERST# released: it acts as BYPASS and JTAG_REF is set. -/
theorem tapPins_of_released (i : Tap) (hperst : s.edge.perst = false) :
    tapPins s i = tapLoad { s with sec := { s.sec with jtagRef := true } } .bypass := by
  simp only [tapPins, hon, hperst]
  rfl

end

/-- An instruction that drives pins. -/
theorem exec_of_drives {i : Instr} {x : Tap} (s : State) (h : (i, x) ∈ [(Instr.extest, Tap.extest),
    (.extestPulse, .extestPulse), (.extestTrain, .extestTrain), (.clamp, .clamp), (.highz, .highz)]) :
    exec i s = .next (tapPins s x) ∧ tapDrives x = true := by
  simp only [List.mem_cons, Prod.mk.injEq, List.not_mem_nil, or_false] at h
  rcases h with ⟨rfl, rfl⟩ | ⟨rfl, rfl⟩ | ⟨rfl, rfl⟩ | ⟨rfl, rfl⟩ | ⟨rfl, rfl⟩ <;> exact ⟨rfl, rfl⟩

theorem tapOn_iff {s : State} : tapOn s = true ↔ s.edge.power = .up ∨ s.edge.power = .tripped := by
  simp [tapOn, hubPowered]

/-! ### Debug -/

/-- DEBUG_UNLOCK is refused without an unrevoked key's signature, or once DBG_OFF is burned. -/
theorem execDebugUnlock_of_refused {key : Nat} {ok : Bool} {s : State}
    (h : s.fuses.dbgOff = true ∨ ok = false ∨ s.fuses.keyrev.getLsbD key = true) : execDebugUnlock key ok s = .next s := by
  refine congrArg _ (if_pos ?_)
  rcases h with hoff | hok | hrev
  · simp [hoff]
  · simp [hok]
  · simp [hrev]

/-- Settles O12, instruction by instruction. -/
theorem tapAndDebug : Obligations.TapAndDebug := by
  refine ⟨fun s hpower => ?tap, ?unlocks, fun key ok s h => execDebugUnlock_of_refused h, ?locked, ?unlocked⟩
  case tap =>
    have hon := tapOn_iff.2 hpower
    refine ⟨⟨_, execIdcode_of_on hon, ?idTap, rfl, ?idFrame⟩, ⟨_, execBypass_of_on hon, tapLoad_eq s .bypass⟩,
      ⟨_, execSamplePreload_of_on hon, tapLoad_eq s .sample⟩, ⟨_, execJtagTrstN_of_on hon, tapLoad_eq s .idcode⟩, ?pins⟩
    case idTap => rw [emit_tap, tapLoad_eq]
    case idFrame => rw [tapLoad_eq]; rfl
    case pins =>
      intro i x hix
      obtain ⟨hexec, hdrives⟩ := exec_of_drives s hix
      constructor
      · intro hperst
        exact ⟨_, hexec.trans (congrArg _ (tapPins_of_perst hon hperst hdrives)), rfl, rfl, rfl⟩
      · intro hperst
        refine ⟨_, hexec.trans (congrArg _ (tapPins_of_released hon x hperst)), ?_, ?_, ?_⟩
        · rw [tapLoad_eq]
        · rw [tapLoad_eq]
        · rw [tapLoad_eq]
  case unlocks =>
    intro key s hon hfw hdbg hkey hprog hrev
    exact congrArg _ (if_neg (by simp [hon, hfw, hdbg, hprog, hrev, Nat.le_of_lt_succ hkey]))
  case locked => exact fun code s hlocked => if_neg (by simp [hlocked])
  case unlocked => exact fun code s hon hun => if_pos ⟨hon, hun⟩

end Sys2Proof.Machine
end

section
/-!
PROOF. Power domains and the clock gating tree (R343, R357, R361, R364, R365): the switches of PWR_ON and the gates of
CLK_GATED, bit by bit, and what the starts and stops of a block do with them.
-/
namespace Sys2Proof.Machine

/-! ### A bit of a register beside the one that is put -/

theorem w32_two_pow (i : Nat) : w32 (2 ^ i) = BitVec.twoPow 32 i := by
  apply BitVec.eq_of_toNat_eq
  simp [w32, BitVec.toNat_twoPow]

theorem bit_putBit_ne (w : W32) {i j : Nat} (hne : j ≠ i) (b : Bool) : bit (putBit w i b) j = bit w j := by
  have hw := w32_two_pow i
  have hj : (BitVec.twoPow 32 i).getLsbD j = false := by simp [BitVec.getLsbD_twoPow, hne.symm]
  cases b
  · rcases Nat.lt_or_ge j 32 with hlt | hge
    · simp [putBit, clrBit, bit, hw, hlt, hne]
    · simp [bit, BitVec.getLsbD_of_ge _ _ hge]
  · simp [putBit, setBit, bit, hw, hj]

/-- Bits numbered through an array of registers: another number's bit is not the one written. -/
theorem bit_wrBit_array_ne (s : State) (base : Nat) {m n : Nat} (hne : n ≠ m) (b : Bool) :
    bit (rdReg (wrBit s (base + 4 * (m / 32)) (m % 32) b) (base + 4 * (n / 32))) (n % 32) =
      bit (rdReg s (base + 4 * (n / 32))) (n % 32) := by
  by_cases hreg : base + 4 * (n / 32) = base + 4 * (m / 32)
  · rw [hreg, wrBit, rdReg_wrReg_self, bit_putBit_ne _ (by omega)]
  · rw [wrBit, rdReg_wrReg_ne _ _ hreg]

/-! ### Where registers are all that changes -/

/-- Registers are all that may differ between `s` and `t`. -/
def RegsOnly (s t : State) : Prop := t = { s with regs := t.regs }

theorem RegsOnly.refl (s : State) : RegsOnly s s := rfl
theorem RegsOnly.trans {s t r : State} (h : RegsOnly s t) (g : RegsOnly t r) : RegsOnly s r := by
  unfold RegsOnly at *
  rw [g, h]
theorem RegsOnly.blk {s t : State} (h : RegsOnly s t) : t.blk = s.blk := by rw [h]
theorem regsOnly_wrReg (s : State) (a : Nat) (v : W32) : RegsOnly s (wrReg s a v) := rfl
theorem regsOnly_wrBit (s : State) (a i : Nat) (b : Bool) : RegsOnly s (wrBit s a i b) := rfl

theorem foldl_regsOnly {α : Type} {f : State → α → State} (hf : ∀ s a, RegsOnly s (f s a)) :
    ∀ (l : List α) (s : State), RegsOnly s (l.foldl f s)
  | [], s => .refl s
  | a :: l, s => (hf s a).trans (foldl_regsOnly hf l (f s a))

/-! ### Switches (R361, R363) -/

section
variable (s : State) (d : Nat)

theorem isPwr_pwrOn_self (on : Bool) : isPwr (pwrOn s d on) d = on := bit_wrBit _ _ (Nat.mod_lt _ (by decide)) _

theorem isPwr_pwrOn_ne {e : Nat} (hne : e ≠ d) (on : Bool) : isPwr (pwrOn s d on) e = isPwr s e :=
  bit_wrBit_array_ne s _ hne on

theorem regsOnly_pwrUp : RegsOnly s (pwrUp s d) := by
  unfold pwrUp
  split
  · exact (regsOnly_wrBit ..).trans (regsOnly_wrBit ..)
  · exact regsOnly_wrBit ..

theorem isPwr_pwrUp : isPwr (pwrUp s d) d = true := by
  unfold pwrUp
  split <;> exact isPwr_pwrOn_self ..

theorem regsOnly_pwrOff : RegsOnly s (pwrOff s d) := by
  unfold pwrOff
  dsimp only
  split
  · split
    · exact regsOnly_wrBit ..
    · exact (regsOnly_wrBit ..).trans (regsOnly_wrBit ..)
  · exact regsOnly_wrBit ..

/-- A domain of a compute die is none of the bridge domains. -/
theorem lt_of_domDie {k : Nat} (h : domDie d = some k) : d < 88 := by
  by_contra hge
  simp [domDie, show ¬ d < 68 by omega, show ¬ d < 72 by omega, show ¬ d < 80 by omega, show ¬ d < 88 by omega] at h

theorem isPwr_pwrOff : isPwr (pwrOff s d) d = false := by
  unfold pwrOff
  dsimp only
  split
  · next k hk =>
    have hd := lt_of_domDie d hk
    split
    · exact isPwr_pwrOn_self ..
    · rw [isPwr_pwrOn_ne _ _ (by omega), isPwr_pwrOn_self]
  · exact isPwr_pwrOn_self ..

end

/-! ### Gates (R357) -/

section
variable (s : State) (n : Nat) (on : Bool)

theorem gated_setGate_self : gated (setGate s n on) n = on := bit_wrBit _ _ (Nat.mod_lt _ (by decide)) _

theorem gated_setGate_ne {m : Nat} (hne : m ≠ n) : gated (setGate s n on) m = gated s m := bit_wrBit_array_ne s _ hne on

theorem regsOnly_setGate : RegsOnly s (setGate s n on) := rfl

/-- CLK_GATE_STS is not a register of the gates. -/
theorem gated_gateSts (m code : Nat) : gated (gateSts s m code) n = gated s n := by
  rw [gated, gated, gateSts, rdReg_wrReg_ne _ _ (by omega)]

end

theorem nodeOk_lt {n : Nat} (h : nodeOk n = true) : n < 160 := by
  simp only [nodeOk, Bool.or_eq_true, Bool.and_eq_true, decide_eq_true_eq, beq_iff_eq] at h
  omega

section
variable {s : State} {n : Nat}

theorem opGate_of_bad (g : Bool) (hbad : nodeOk n = false) : opGate s n g = gateSts s n 2 := if_pos (by simp [hbad])

theorem opGate_of_used (hok : nodeOk n = true) (hused : nodeUsed s n = true) : opGate s n true = gateSts s n 1 :=
  (if_neg (by simp [hok])).trans (if_pos ⟨rfl, hused⟩)

theorem opGate_of_done {g : Bool} (hok : nodeOk n = true) (hfree : g = true → nodeUsed s n = false) :
    opGate s n g = gateSts (setGate s n g) n 0 := by
  have hmay : ¬ (g = true ∧ nodeUsed s n = true) := by
    rintro ⟨hg, hused⟩
    rw [hfree hg] at hused
    exact Bool.noConfusion hused
  exact (if_neg (by simp [hok])).trans (if_neg hmay)

end

/-! ### STATE and what it carries (R343) -/

theorem setBlk_cycle (s : State) (b : Blk) (i : Nat) (st : BState) : (setBlk s b i st).blk.cycle = s.blk.cycle := by
  unfold setBlk
  split
  · rfl
  · rw [raiseIsr_eq]

/-- A block with a domain has a STATE of its own, which is the one that was set. -/
theorem blkState_setBlk_of_domOf {s : State} {b : Blk} {i d : Nat} (hdom : domOf b i = some d) (st : BState) :
    blkState (setBlk s b i st) b i = st :=
  blkState_setBlk _ (by rintro rfl; simp [domOf] at hdom) (by rintro rfl; simp [domOf] at hdom) i st

theorem enAccess_of_reach {s : State} {mid i : Nat} {b : Blk} (f : State → State) (h : hdrReach s mid b i = .yes) :
    enAccess s mid b i f = f s := by
  unfold enAccess
  split
  · rfl
  · exact hdrAccess_of_reach f h

/-- A start that nothing holds. -/
theorem startBlk_of_ready {s : State} {b : Blk} {i d : Nat} (hdom : domOf b i = some d) (hup : s.edge.power = .up)
    (hstop : ∀ m ∈ domMembers d, blkState s m.1 m.2 ≠ .stopping) (hcool : b = .opt → pairHot s (i / 2) 75 = false) :
    startBlk s b i = setBlk (pwrUp ((nodePath b i).foldl (fun x n => setGate x n false) s) d) b i .starting := by
  have hheld : ((domMembers d).any (fun m => blkState s m.1 m.2 == .stopping) || (b == .opt && pairHot s (i / 2) 75)) =
      false := by
    simp only [Bool.or_eq_false_iff, List.any_eq_false, Bool.and_eq_false_imp, beq_iff_eq]
    exact ⟨hstop, hcool⟩
  simp only [startBlk, hdom, hup, hheld]
  simp

/-- EN written 1 to a block that is OFF or FAILED starts it. -/
theorem opEnOn_of_start {s : State} {mid i d : Nat} {b : Blk} (hdom : domOf b i = some d) (hmay : d < 94 ∨ midOf mid = 0x102)
    (hst : blkState s b i = .off ∨ blkState s b i = .failed) (hcool : tooHot s b i = false) :
    opEnOn s mid b i = startBlk (setEn s b i true) b i := by
  have hown : ¬ (94 ≤ d ∧ midOf mid ≠ 0x102) := by omega
  rcases hst with h | h <;> simp [opEnOn, hdom, hown, h, hcool]

section
variable {s : State} {mid i d : Nat} {b : Blk} (hdom : domOf b i = some d)
include hdom

variable (hreach : hdrReach s mid b i = .yes)
include hreach

theorem execBlkCtlEnOff_of_on (hon : blkState s b i = .on) (hmay : stopRefused s mid b i = none) :
    execBlkCtlEnOff mid b i s = .next (stopBlk (setEn s b i false) b i) := by
  simp only [execBlkCtlEnOff, enAccess_of_reach _ hreach, opEnOff, hdom, hmay, hon]

theorem execBlkCtlEnOff_of_refused {c : Nat} (hst : blkState s b i ≠ .retired) (hno : stopRefused s mid b i = some c) :
    execBlkCtlEnOff mid b i s = .next (wrReg s 0x2070 (w32 (d + 256 * c))) := by
  simp only [execBlkCtlEnOff, enAccess_of_reach _ hreach, opEnOff, hdom, hno, if_neg hst]
  rfl

end

theorem execSrst_of_on {s : State} {mid i : Nat} {b : Blk} (hreach : hdrReach s mid b i = .yes) (hcap : blkSrst b = true)
    (hon : isOn s b i = true) (hnew : s.blk.srst.contains (pageOf b i) = false) : execSrst mid b i s =
      .next (wrBit { s with blk := { s.blk with srst := s.blk.srst ++ [pageOf b i] } } (pageOf b i + 0x0C) 1 true) := by
  simp only [execSrst, hdrAccess_of_reach _ hreach, opSrst, hcap, hon, hnew]
  rfl

/-! ### The held soft reset -/

/-- The held reset is taken off the list, and BLK_CTL.SRST with it. -/
def srstTaken (s : State) (b : Blk) (i : Nat) : State :=
  wrBit { s with blk := { s.blk with srst := s.blk.srst.filter (fun p => p != pageOf b i) } } (pageOf b i + 0x0C) 1 false

section
variable {s : State} {b : Blk} {i : Nat} (hheld : s.blk.srst.contains (pageOf b i) = true) (hidle : blkBusy s b i = false)
  (hon : isOn s b i = true)
include hheld hidle hon

theorem execSoftResetDone_of_nbu (hb : b = .nbu) :
    execSoftResetDone b i s = .next (softBlock (softRegs (srstTaken s b i) b i) b i) := by
  unfold execSoftResetDone
  rw [if_neg (by simp only [hheld, hidle, hon]; decide)]
  exact if_pos (.inl hb)

theorem execSoftResetDone_of_switched (hb : b ≠ .nbu) (hpwr : blkPwr b = true) : execSoftResetDone b i s =
    .next (stopBlk { softRegs (srstTaken s b i) b i with
      blk := { (srstTaken s b i).blk with cycle := s.blk.cycle ++ [pageOf b i] } } b i) := by
  unfold execSoftResetDone
  rw [if_neg (by simp only [hheld, hidle, hon]; decide)]
  exact if_neg (by simp [hb, hpwr])

end

/-- Settles O10, command by command. -/
theorem blockControl : Obligations.BlockControl := by
  refine ⟨?enOn, ?enOff, ?refused, ?srst, ?unit, ?switched⟩
  case enOn =>
    intro mid b i d s hdom hreach hmay hup hst hcool hstop hpair
    have hstart : execBlkCtlEnOn mid b i s = .next (startBlk (setEn s b i true) b i) :=
      congrArg _ ((enAccess_of_reach _ hreach).trans (opEnOn_of_start hdom hmay hst hcool))
    rw [startBlk_of_ready (s := setEn s b i true) hdom hup hstop hpair] at hstart
    exact ⟨_, hstart, isPwr_pwrUp .., ((regsOnly_wrBit ..).trans (foldl_regsOnly (fun x n => regsOnly_setGate x n false) ..)).trans
      (regsOnly_pwrUp ..), blkState_setBlk_of_domOf hdom _⟩
  case enOff =>
    intro mid b i d s hdom hreach hon hmay
    exact ⟨_, execBlkCtlEnOff_of_on hdom hreach hon hmay,
      blkState_setBlk_of_domOf hdom _, by rw [setBlk_deal]; rfl, by rw [setBlk_mem]; rfl, by rw [setBlk_clu]; rfl,
      by rw [setBlk_nbu]; rfl⟩
  case refused =>
    intro mid b i d c s hdom hreach hst hno
    exact execBlkCtlEnOff_of_refused hdom hreach hst hno
  case srst =>
    intro mid b i s hreach hcap hon hnew
    exact ⟨_, execSrst_of_on hreach hcap hon hnew, rfl,
      bit_wrBit _ _ (by decide) _, rfl⟩
  case unit =>
    intro u s hheld hidle hon
    refine ⟨_, execSoftResetDone_of_nbu hheld hidle hon rfl, getU_setU_self .., ?_, rfl⟩
    simp [softBlock, softRegs, srstTaken, setU]
  case switched =>
    intro b i s hheld hidle hon hpwr hnbu hch
    exact ⟨_, execSoftResetDone_of_switched hheld hidle hon hnbu hpwr, blkState_setBlk _ hch hnbu i _,
      by rw [setBlk_cycle]; rfl, by rw [setBlk_deal]; rfl, by rw [setBlk_mem]; rfl, by rw [setBlk_clu]; rfl,
      by rw [setBlk_nbu]; rfl⟩

end Sys2Proof.Machine
end

section
/-!
PROOF. Starts and stops of a power domain, its overcurrent, and gate requests (R357, R361, R364, R365).
-/
namespace Sys2Proof.Machine

/-! ### A start that fails -/

/-- A cluster's or a slice's domain has one member, which has a STATE of its own. -/
theorem domMembers_of_lt {d : Nat} (hd : d < 72) : ∃ b i, domMembers d = [(b, i)] ∧ b ≠ .ch ∧ b ≠ .nbu := by
  rcases Nat.lt_or_ge d 68 with h | h
  · exact ⟨.clu, d, if_pos h, by decide, by decide⟩
  · exact ⟨.llc, d - 68, (if_neg (Nat.not_lt.2 h)).trans (if_pos hd), by decide, by decide⟩

section
variable {s : State} {d : Nat}

/-- What a failed start changes: registers and the blocks' STATE, with the interrupt it raises. -/
theorem failStart_eq (s : State) (b : Blk) (i : Nat) : failStart s b i = { s with
    regs := (failStart s b i).regs, out := (failStart s b i).out, host := (failStart s b i).host
    blk := (failStart s b i).blk } := by
  unfold failStart
  rw [setBlk_eq]

theorem blkState_failStart {b : Blk} (hch : b ≠ .ch) (hnbu : b ≠ .nbu) (i : Nat) :
    blkState (failStart s b i) b i = .failed := blkState_setBlk _ hch hnbu i _

theorem openIfIdle_of_idle (h : ∀ m ∈ domMembers d, live (blkState s m.1 m.2) = false) : openIfIdle s d = pwrOff s d :=
  if_neg (by simpa using h)

theorem domainStarted_of_good {br : Bring} {boot : Bool}
    (hsome : ((domMembers d).filter (fun m => blkState s m.1 m.2 == .starting)).isEmpty = false)
    (hgood : br.badDom.contains d = false) : domainStarted s d true br boot =
      ((domMembers d).filter (fun m => blkState s m.1 m.2 == .starting)).foldl
        (fun x m => finishStart x m.1 m.2 br boot) s := by
  unfold domainStarted
  rw [if_neg (by simp only [hsome]; decide), if_pos ⟨rfl, by simp only [hgood]; rfl⟩]

/-- The only member of a domain does not start: its switch opens. -/
theorem domainStarted_of_single_failed {b : Blk} {i : Nat} (hd : domMembers d = [(b, i)]) (hch : b ≠ .ch) (hnbu : b ≠ .nbu)
    (hst : blkState s b i = .starting) (br : Bring) (boot : Bool) :
    domainStarted s d false br boot = pwrOff (capacity (failStart s b i)) d := by
  have hfailed : blkState (capacity (failStart s b i)) b i = .failed := blkState_failStart hch hnbu i
  rw [← openIfIdle_of_idle (by simp [hd, hfailed, live])]
  simp [domainStarted, hd, hst]

/-! ### A cluster's stop is done -/

/-- The cluster has given its work away and its leaf is gated; it leaves the list of held resets and is OFF. -/
def clusterStopped (s : State) (c : Nat) : State :=
  let y := (leaves .clu c).foldl (fun z n => setGate z n true) (clusterOut s c)
  setBlk { y with blk := { y.blk with srst := y.blk.srst.filter (fun p => p != pageOf .clu c) } } .clu c .off

/-- The way through the leaves changes registers alone. -/
theorem clusterStopped_eq (s : State) (c : Nat) : clusterStopped s c = { clusterOut s c with
    regs := (clusterStopped s c).regs, out := (clusterStopped s c).out, host := (clusterStopped s c).host
    blk := (clusterStopped s c).blk } := by
  have hgates : RegsOnly (clusterOut s c) ((leaves .clu c).foldl (fun z n => setGate z n true) (clusterOut s c)) :=
    foldl_regsOnly (fun x n => regsOnly_setGate x n true) ..
  unfold clusterStopped
  dsimp only
  rw [setBlk_eq, hgates]

theorem execDomainStopDone_of_cluster {c : Nat} (hc : c < 68) (hst : blkState s .clu c = .stopping)
    (hidle : blkBusy s .clu c = false) (hcycle : s.blk.cycle.contains (pageOf .clu c) = false) :
    execDomainStopDone c s = .next (openIfIdle (clusterStopped s c) c) := by
  have hd : domMembers c = [(.clu, c)] := if_pos hc
  have hstops : (domMembers c).filter (fun m => blkState s m.1 m.2 == .stopping || (blkState s m.1 m.2 == .pendingOn &&
      isPwr s c)) = [(.clu, c)] := by simp [hd, hst]
  have hagain : [(Blk.clu, c)].filter (fun m => blkState s m.1 m.2 == .pendingOn || s.blk.cycle.contains
      (pageOf m.1 m.2)) = [] := by
    rw [List.filter_singleton, hst, hcycle]
    rfl
  unfold execDomainStopDone
  simp only [hstops]
  rw [if_neg (by simp [hidle]), hagain]
  rfl

/-! ### An overcurrent (R364) -/

/-- PWR_FAULT names the domain and counts it once the trick that ran has been aborted. -/
def overcurrent (s : State) (d : Nat) : State :=
  bump (orReg (replayTrick s []) (0x2000 + 0x60 + 4 * (d / 32)) (w32 (2 ^ (d % 32)))) (0x2000 + 0x80)

theorem execDomainFault_of_on (hd : d < 96) (hon : isPwr s d = true) : execDomainFault d s =
    .next ((domMembers d).foldl (fun x m => faultMember x m.1 m.2) (pwrOff (overcurrent s d) d)) :=
  if_neg (by simp [hon, Nat.not_le.2 hd])

theorem bit_overcurrent (s : State) (hd : d < 96) :
    bit (rdReg (overcurrent s d) (0x2060 + 4 * (d / 32))) (d % 32) = true := by
  have hmod : d % 32 < 32 := Nat.mod_lt _ (by decide)
  have hbit : (w32 (2 ^ (d % 32))).getLsbD (d % 32) = true := by
    rw [w32_two_pow, BitVec.getLsbD_twoPow]
    simp [hmod]
  rw [overcurrent, rdReg_bump_ne _ (by omega), rdReg_orReg_self, bit, BitVec.getLsbD_or, hbit, Bool.or_true]

end

/-! ### Gate requests (R357) -/

section
variable {mid node : Nat} {s : State} (hmid : midOf mid = 1 ∨ midOf mid = 0x101) (hup : hubUp s = true)
  (hrec : s.boot.recovery = false)
include hmid hup hrec

theorem execClockGate_of_reach : execClockGate mid node s = .next (opGate s (node % 256) true) := by
  simp only [execClockGate, pageAccess, pgReach_pfOrDealer s hmid hup hrec (show Blk.clk ≠ .pcie ∧ Blk.clk ≠ .deal ∧
    Blk.clk ≠ .svc ∧ Blk.clk ≠ .que ∧ Blk.clk ≠ .mbx by decide)]

theorem execClockUngate_of_reach : execClockUngate mid node s = .next (opGate s (node % 256) false) := by
  simp only [execClockUngate, pageAccess, pgReach_pfOrDealer s hmid hup hrec (show Blk.clk ≠ .pcie ∧ Blk.clk ≠ .deal ∧
    Blk.clk ≠ .svc ∧ Blk.clk ≠ .que ∧ Blk.clk ≠ .mbx by decide)]

end

/-- CLK_GATE_STS holds the code and the node that was named. -/
theorem gateSts_mod (s : State) (node code : Nat) :
    gateSts s (node % 256) code = wrReg s 0x1054 (w32 (2 * code + 256 * (node % 256))) := by
  rw [gateSts, Nat.mod_mod]

/-- A request that was carried out: the node's gate is as requested, CLK_GATE_STS says done, no other gate moves. -/
theorem gateDone (s : State) (node : Nat) (g : Bool) :
    gated (gateSts (setGate s (node % 256) g) (node % 256) 0) (node % 256) = g ∧
      rdReg (gateSts (setGate s (node % 256) g) (node % 256) 0) 0x1054 = w32 (256 * (node % 256)) ∧
      gateSts (setGate s (node % 256) g) (node % 256) 0 =
        { s with regs := (gateSts (setGate s (node % 256) g) (node % 256) 0).regs } ∧
      ∀ n, n < 160 → n ≠ node % 256 → gated (gateSts (setGate s (node % 256) g) (node % 256) 0) n = gated s n := by
  refine ⟨?_, ?_, rfl, fun n _ hne => ?_⟩
  · rw [gated_gateSts, gated_setGate_self]
  · rw [gateSts_mod, rdReg_wrReg_self, Nat.mul_zero, Nat.zero_add]
  · rw [gated_gateSts, gated_setGate_ne _ _ _ hne]

/-- Settles O11: the four ends of a domain's course, and the outcomes of a gate request. -/
theorem domainsAndClockGates : Obligations.DomainsAndClockGates := by
  refine ⟨⟨fun d br s hsome hgood => congrArg _ (domainStarted_of_good hsome hgood), ?failed, ?stopped, ?overcurrent⟩,
    fun mid node s hmid hup hrec => ?gates⟩
  case failed =>
    intro d br s hd hst
    obtain ⟨b, i, hmem, hch, hnbu⟩ := domMembers_of_lt hd
    have hoff := regsOnly_pwrOff (capacity (failStart s b i)) d
    refine ⟨_, congrArg Host.Outcome.next (domainStarted_of_single_failed hmem hch hnbu (hst (b, i) (by simp [hmem])) br false),
      fun m hm => ?state, isPwr_pwrOff .., ?deal, ?mem, ?clu⟩
    case state =>
      obtain rfl : m = (b, i) := by simpa [hmem] using hm
      exact (blkState_congr hoff.blk b i).trans (blkState_failStart hch hnbu i)
    case deal => rw [hoff, failStart_eq]; rfl
    case mem => rw [hoff, failStart_eq]; rfl
    case clu => rw [hoff, failStart_eq]; rfl
  case stopped =>
    intro c s hc hst hidle hcycle
    exact ⟨_, execDomainStopDone_of_cluster hc hst hidle hcycle, blkState_setBlk _ (by decide) (by decide) c _,
      by rw [clusterStopped_eq], by rw [clusterStopped_eq]⟩
  case overcurrent =>
    intro d s hd hon
    exact ⟨_, execDomainFault_of_on hd hon, bit_overcurrent s hd, isPwr_pwrOff .., by rw [overcurrent, bump_eq]; rfl⟩
  case gates =>
    have hgate := execClockGate_of_reach (node := node) hmid hup hrec
    have hungate := execClockUngate_of_reach (node := node) hmid hup hrec
    refine ⟨fun hbad => ⟨?_, ?_⟩, fun hok hused => ?_, fun hok hfree => ⟨_, ?_, gateDone s node true⟩,
      fun hok => ⟨_, ?_, gateDone s node false⟩⟩
    · exact hgate.trans (congrArg _ ((opGate_of_bad _ hbad).trans (gateSts_mod ..)))
    · exact hungate.trans (congrArg _ ((opGate_of_bad _ hbad).trans (gateSts_mod ..)))
    · exact hgate.trans (congrArg _ ((opGate_of_used hok hused).trans (gateSts_mod ..)))
    · exact hgate.trans (congrArg _ (opGate_of_done hok (fun _ => hfree)))
    · exact hungate.trans (congrArg _ (opGate_of_done hok nofun))

end Sys2Proof.Machine
end

section
/-!
PROOF. The RAS block's FIFO and what a record sets off (R394).
-/
namespace Sys2Proof.Machine

/-- The record that is made of an event. -/
def rasRecOf (s : State) (kind sev : Nat) (b : Blk) (i elem addr : Nat) : RasRec :=
  { seqno := s.ras.seqno, kind := kind, sev := sev, btype := blkType b, inst := i, elem := elem,
    trick := s.deal.trick % 2 ^ 32, addr := addr, time := s.time }

/-- The RAS block with a record more. -/
def rasKept (s : State) (r : RasRec) : Ras :=
  { s.ras with seqno := (s.ras.seqno + 1) % 2 ^ 32
               fifo := (if decide (1024 ≤ s.ras.fifo.length) = true then s.ras.fifo.drop 1 else s.ras.fifo) ++ [r] }

/-- A record has entered the FIFO: a full one has counted its loss, and the RAS page's event is raised. -/
def rasNoted (s : State) (r : RasRec) : State :=
  raiseIsr (if decide (1024 ≤ s.ras.fifo.length) = true then bump { s with ras := rasKept s r } (0x4000 + 0x070)
    else { s with ras := rasKept s r }) 0x4000 1

/-- What follows a record that has entered: the journal from SEV 2 on, the report from SEV 3 on. -/
theorem rasPut_eq_noted (s : State) (kind sev : Nat) (b : Blk) (i elem addr : Nat) :
    rasPut s kind sev b i elem addr =
      (let r := rasRecOf s kind sev b i elem addr
       let s4 := if 2 ≤ sev then jrnPut (rasNoted s r) ⟨0x0C, 0, rasBytes r⟩ else rasNoted s r
       if 3 ≤ sev then mgmt s4 (.ras kind sev) else s4) := rfl

section
variable (s : State) (r : RasRec)

theorem rasNoted_ras : (rasNoted s r).ras = rasKept s r := by
  rw [rasNoted, raiseIsr_ras]
  split
  · rw [bump_ras]
  · rfl

theorem rasNoted_jrn : (rasNoted s r).jrn = s.jrn := by
  rw [rasNoted, raiseIsr_jrn]
  split
  · rw [bump_jrn]
  · rfl

theorem rasNoted_edge : (rasNoted s r).edge = s.edge := by
  rw [rasNoted, raiseIsr_edge]
  split
  · rw [bump_edge]
  · rfl

theorem bit_rasNoted : bit (rdReg (rasNoted s r) 0x4014) 0 = true := by
  rw [rasNoted, rdReg_raiseIsr_self, bit, BitVec.getLsbD_or]
  exact Bool.or_eq_true_iff.2 (.inr (by decide))

/-- RAS_LOST counts what a full FIFO drops. -/
theorem rdN_rasNoted_lost (hfull : 1024 ≤ s.ras.fifo.length) (hroom : rdN s 0x4070 < 0xFFFFFFFF) :
    rdN (rasNoted s r) 0x4070 = rdN s 0x4070 + 1 := by
  rw [rasNoted, rdN_raiseIsr_ne _ _ (by decide), if_pos (decide_eq_true hfull)]
  exact rdN_bump { s with ras := rasKept s r } hroom

theorem rasKept_of_room (h : s.ras.fifo.length < 1024) : (rasKept s r).fifo = s.ras.fifo ++ [r] := by
  simp [rasKept, Nat.not_le.2 h]

theorem rasKept_of_full (h : 1024 ≤ s.ras.fifo.length) : (rasKept s r).fifo = s.ras.fifo.drop 1 ++ [r] := by
  simp [rasKept, h]

end

/-- While NOT_DURABLE is set the hub's memory holds the record. -/
theorem jrnPut_of_notDurable {s : State} (r : JRec) (h : s.jrn.notDurable = true) :
    (jrnPut s r).jrn.lost = s.jrn.lost ++ [r] := by
  rw [jrnPut, if_pos h]

theorem jrnPut_of_room {s : State} (r : JRec) (h : s.jrn.notDurable = false) (hroom : s.jrn.queue.length < 256) :
    (jrnPut s r).jrn.queue = s.jrn.queue ++ [r] := by
  rw [jrnPut, if_neg (by simp [h]), if_pos hroom]

section
variable (s : State) (kind sev : Nat) (b : Blk) (i elem addr : Nat)

theorem rasPut_ras : (rasPut s kind sev b i elem addr).ras = rasKept s (rasRecOf s kind sev b i elem addr) := by
  rw [rasPut_eq_noted]
  dsimp only
  split <;> split <;> simp only [mgmt_ras, jrnPut_ras, rasNoted_ras]

/-- The journal and the report touch none of the RAS page's registers. -/
theorem rdReg_rasPut {a : Nat} (ha : a ≠ 0x5064) : rdReg (rasPut s kind sev b i elem addr) a =
    rdReg (rasNoted s (rasRecOf s kind sev b i elem addr)) a := by
  have hmgmt : ∀ (x : State) (e : MEvent), rdReg (mgmt x e) a = rdReg x a := fun _ _ => rfl
  rw [rasPut_eq_noted]
  dsimp only
  split <;> split <;> simp only [hmgmt, rdReg_jrnPut_ne _ _ ha]

theorem rasPut_jrn_of_journalled (h : 2 ≤ sev) : (rasPut s kind sev b i elem addr).jrn =
    (jrnPut (rasNoted s (rasRecOf s kind sev b i elem addr))
      ⟨0x0C, 0, rasBytes (rasRecOf s kind sev b i elem addr)⟩).jrn := by
  simp only [rasPut_eq_noted, if_pos h]
  split <;> rfl

theorem rasPut_jrn_of_minor (h : sev < 2) : (rasPut s kind sev b i elem addr).jrn = s.jrn := by
  simp only [rasPut_eq_noted, if_neg (Nat.not_le.2 h), if_neg (show ¬ 3 ≤ sev by omega), rasNoted_jrn]

theorem rasPut_edge_of_reported (h : 3 ≤ sev) : (rasPut s kind sev b i elem addr).edge =
    { s.edge with events := s.edge.events ++ [.ras kind sev] } := by
  simp only [rasPut_eq_noted, if_pos h, if_pos (show 2 ≤ sev by omega), mgmt_edge, jrnPut_edge, rasNoted_edge]

theorem rasPut_edge_of_minor (h : sev < 3) : (rasPut s kind sev b i elem addr).edge = s.edge := by
  simp only [rasPut_eq_noted, if_neg (Nat.not_le.2 h)]
  split <;> simp only [jrnPut_edge, rasNoted_edge]

end

/-- Settles O59, by what the record sets off in turn: the FIFO, the page's event, the journal, the report. -/
theorem rasFifo : Obligations.RasFifo := by
  rintro kd sev i elem a b s t r rfl rfl
  rw [rasPut_ras]
  refine ⟨fun h => rasKept_of_room s _ h, fun h => ⟨rasKept_of_full s _ h.ge, fun hlost => ?lost⟩, fun h => ?bounded,
    (congrArg (bit · 0) (rdReg_rasPut s kd sev b i elem a (by decide))).trans (bit_rasNoted s _), fun h hdur hroom => ?queued,
    fun h hdur => ?held, rasPut_jrn_of_minor s kd sev b i elem a, fun h => ⟨?event, fun hhub => ?alert⟩,
    rasPut_edge_of_minor s kd sev b i elem a⟩
  case lost =>
    rw [rdN, rdReg_rasPut s kd sev b i elem a (by decide)]
    exact rdN_rasNoted_lost s _ h.ge hlost
  case bounded =>
    rcases Nat.lt_or_ge s.ras.fifo.length 1024 with hroom | hfull
    · simp [rasKept_of_room s _ hroom, Nat.succ_le_of_lt hroom]
    · simp [rasKept_of_full s _ hfull]
      omega
  case queued =>
    rw [rasPut_jrn_of_journalled s kd sev b i elem a h, jrnPut_of_room _ (by rwa [rasNoted_jrn]) (by rwa [rasNoted_jrn]),
      rasNoted_jrn]
    rfl
  case held =>
    rw [rasPut_jrn_of_journalled s kd sev b i elem a h, jrnPut_of_notDurable _ (by rwa [rasNoted_jrn]), rasNoted_jrn]
    rfl
  case event => rw [rasPut_edge_of_reported s kd sev b i elem a h]
  case alert =>
    rw [alertN, hubPowered, rasPut_edge_of_reported s kd sev b i elem a h]
    simpa [hubPowered] using hhub

end Sys2Proof.Machine
end

section
/-!
PROOF. The journal's course (R395, R397, R399, R401): programming, compaction and erase.
-/
namespace Sys2Proof.Machine

/-! ### Programming (R397, R401) -/

/-- Nothing has fallen due. -/
theorem jrnDue_of_quiet {s : State} (hfill : s.jrn.fill < 0xC00000) (hdue : s.jrn.due = false)
    (hresync : s.jrn.resync = false) : jrnDue s = s :=
  if_neg (by simp [hdue, hresync, Nat.not_le.2 hfill])

/-- The front record is programmed at the fill, with no RESUME record before it. -/
theorem jrnProgram1_of_front {s : State} {r : JRec} {rest : List JRec} (hqueue : s.jrn.queue = r :: rest)
    (hresume : s.jrn.resume = false) (htype : r.type ≠ 0x0B)
    (hfill : s.jrn.fill + (jrnEnc ((s.jrn.rseq + 1) % 2 ^ 32) r).length < 0xC00000) (hdue : s.jrn.due = false)
    (hresync : s.jrn.resync = false) : jrnProgram1 s = { s with
      flash := fProg s.flash (segBase s.jrn.seg + s.jrn.fill) (jrnEnc ((s.jrn.rseq + 1) % 2 ^ 32) r)
      jrn := { s.jrn with queue := rest, fill := s.jrn.fill + (jrnEnc ((s.jrn.rseq + 1) % 2 ^ 32) r).length
                          rseq := (s.jrn.rseq + 1) % 2 ^ 32 } } := by
  have hat : jrnNext s = s.jrn.fill := if_neg (by simp [hresume])
  have hroom : ¬ segBytes < s.jrn.fill + (jrnEnc ((s.jrn.rseq + 1) % 2 ^ 32) r).length := by
    rw [segBytes]
    omega
  have hplain : ¬ (r.type = 0x0B ∧ leAt r.payload 4 1 = 1) := fun h => htype h.1
  simp only [jrnProgram1, hqueue, hat, hresume, Bool.false_eq_true, if_false, List.nil_append, if_neg hroom, if_neg hplain]
  exact jrnDue_of_quiet hfill hdue hresync

/-- What a journal that can program has. -/
theorem execJournalProgram_of_ready {s : State} (hon : isOn s .jrn 0 = true) (hcfg : s.boot.cfgReady = true)
    (hrec : s.boot.recovery = false) (hdur : s.jrn.notDurable = false) (hqueue : s.jrn.queue ≠ []) (ok : Bool) :
    execJournalProgram ok s = .next (if ok = true then jrnProgram1 s else
      (let s1 := flashTorn s (segBase s.jrn.seg + jrnNext s) (match s.jrn.queue with | r :: _ => jrnLen r | [] => 0)
       jrnFailed { s1 with jrn := { s1.jrn with resume := true, fill := (jrnNext s / 4096 + 1) * 4096 } })) := by
  unfold execJournalProgram
  rw [if_neg (by simp [hon, hcfg, hrec, hdur, hqueue])]
  cases ok <;> rfl

theorem execJournalProgram_of_unready {s : State} (ok : Bool) (h : isOn s .jrn 0 = false ∨ s.boot.cfgReady = false ∨
    s.boot.recovery = true ∨ s.jrn.notDurable = true ∨ s.jrn.queue = []) : execJournalProgram ok s = .next s := by
  refine if_pos ?_
  simpa using h

/-- An element without a threshold has no crossing, and no COUNTER record. -/
theorem winAdd_of_noThr {s : State} {b : Blk} {i : Nat} (elem : Nat) (h : fld (rdN s (pageOf b i + 0x2C)) 23 0 = 0) :
    winAdd s b i elem = ({ s with wear := (winAdd s b i elem).1.wear }, false) := by
  unfold winAdd
  simp [h]

/-- A failure with no threshold on the journal is only counted. -/
theorem jrnFailed_of_noThr {s : State} (h : fld (rdN s 0x502C) 23 0 = 0) : jrnFailed s =
    { errCe (bump s 0x5060) .jrn 0 with wear := (winAdd (errCe (bump s 0x5060) .jrn 0) .jrn 0 0).1.wear } := by
  have hthr : fld (rdN (errCe (bump s 0x5060) .jrn 0) (pageOf .jrn 0 + 0x2C)) 23 0 = 0 := by
    rw [rdN, rdReg_errCe_ne _ _ _ (by decide) (by decide), rdReg_bump_ne _ (by decide)]
    exact h
  unfold jrnFailed
  dsimp only
  rw [winAdd_of_noThr 0 hthr]
  rfl

theorem rdN_jrnFailed_of_noThr {s : State} (h : fld (rdN s 0x502C) 23 0 = 0) (hroom : rdN s 0x5060 < 0xFFFFFFFF) :
    rdN (jrnFailed s) 0x5060 = rdN s 0x5060 + 1 := by
  have hregs : rdN (jrnFailed s) 0x5060 = rdN (errCe (bump s 0x5060) .jrn 0) 0x5060 := by
    rw [jrnFailed_of_noThr h]
    rfl
  rw [hregs, rdN, rdReg_errCe_ne _ _ _ (by decide) (by decide)]
  exact rdN_bump s hroom

/-! ### Compaction and erase (R399) -/

theorem execJrnCompact_of_reach {s : State} {mid : Nat} {v : W32} (hreach : pgReach s mid .jrn = .yes)
    (hon : isOn s .jrn 0 = true) (hv : bit v 0 = true) (hnone : s.jrn.compaction = none) :
    execJrnCompact mid v s = .next (jrnCompactIf s) := by
  simp only [execJrnCompact, pageAccess, hreach, hon, if_true, opJrnCompact, hv, hnone]
  rfl

theorem jrnCompactIf_of_ready {s : State} (hdur : s.jrn.notDurable = false) (hnone : s.jrn.compaction = none)
    (herase : s.jrn.erasing = false) (hfail : s.jrn.eraseFailed = false) : jrnCompactIf s = jrnCompactStart s := by
  simp [jrnCompactIf, hdur, hnone, herase, hfail]

theorem jrnCompactIf_of_erasing {s : State} (hdur : s.jrn.notDurable = false) (hnone : s.jrn.compaction = none)
    (herase : s.jrn.erasing = true) : jrnCompactIf s = { s with jrn := { s.jrn with due := true } } := by
  simp [jrnCompactIf, hdur, hnone, herase]

/-- The segment that is not active has been erased. -/
def otherErased (s : State) : State :=
  { s with flash := fErase s.flash (segBase (1 - s.jrn.seg)) (segBase (1 - s.jrn.seg) + segBytes)
           jrn := { s.jrn with erasing := false, eraseRetried := false, eraseFailed := false } }

theorem execSegmentEraseDone_of_erased {s : State} (herase : s.jrn.erasing = true) :
    execSegmentEraseDone true s = .next (jrnDue (otherErased s)) := by
  simp only [execSegmentEraseDone, herase]
  rfl

/-- Settles O60, event by event. -/
theorem journalCourse : Obligations.JournalCourse := by
  refine ⟨?program, ?clears, ?failed, fun s ok h => execJournalProgram_of_unready ok h, ?compact, ?commit, ?erased⟩
  case program =>
    intro r rest s hon hcfg hrec hdur hqueue hresume htype hfill hdue hresync
    rw [← jrnProgram1_of_front hqueue hresume htype hfill hdue hresync]
    exact execJournalProgram_of_ready hon hcfg hrec hdur (by simp [hqueue]) true
  case clears =>
    refine fun a bs m _ => ⟨fun j hj => ?_, fun i hi => ?_⟩
    · rw [spGet_fProg, if_pos (by omega), Nat.add_sub_cancel_left]
    · rw [spGet_fProg, if_neg (by omega)]
  case failed =>
    intro r rest s hon hcfg hrec hdur hqueue hresume hthr
    have hat : jrnNext s = s.jrn.fill := if_neg (by simp [hresume])
    refine ⟨_, execJournalProgram_of_ready hon hcfg hrec hdur (by simp [hqueue]) false, ?_, fun hroom => ?_⟩
    · simp only [hat, Bool.false_eq_true, if_false]
      rw [jrnFailed_of_noThr (by exact hthr), errCe_jrn, bump_jrn]
      rfl
    · exact rdN_jrnFailed_of_noThr (by exact hthr) hroom
  case compact =>
    intro mid v s hreach hon hv hnone hdur
    have hexec := execJrnCompact_of_reach hreach hon hv hnone
    refine ⟨fun herase hfail => ?_, fun herase => ?_⟩
    · rw [jrnCompactIf_of_ready hdur hnone herase hfail] at hexec
      exact ⟨_, _, hexec, rfl, rfl, rfl, rfl, rfl⟩
    · rw [jrnCompactIf_of_erasing hdur hnone herase] at hexec
      exact hexec
  case commit =>
    intro c s hc
    have hexec : ∃ x : State, execCompactionCommit s = .next (bump x 0x505C) ∧ x.regs = s.regs ∧ x.jrn.seg = c.seg ∧
        x.jrn.segseq = s.jrn.segseq + 1 ∧ x.jrn.compaction = none ∧ x.jrn.erasing = true ∧ x.jrn.queue = s.jrn.queue ∧
        x.jrn.rseq = s.jrn.rseq := by
      simp only [execCompactionCommit, hc]
      exact ⟨_, rfl, rfl, rfl, rfl, rfl, rfl, rfl, rfl⟩
    obtain ⟨x, hexec, hregs, hseg, hsegseq, hnone, herase, hqueue, hrseq⟩ := hexec
    refine ⟨_, hexec, ?_⟩
    rw [bump_jrn, ← rdN_congr hregs]
    exact ⟨hseg, hsegseq, hnone, herase, hqueue, hrseq, rdN_bump x⟩
  case erased =>
    intro s herase hfill hdue hresync
    have hexec := execSegmentEraseDone_of_erased herase
    rw [jrnDue_of_quiet (s := otherErased s) hfill hdue hresync] at hexec
    refine ⟨_, hexec, rfl, fun a hlo hhi => ?_, fun _ a ha => ?_, rfl⟩
    · exact (spGet_fErase ..).trans (if_pos ⟨hlo, hhi⟩)
    · exact (spGet_fErase ..).trans (if_neg (by omega))

end Sys2Proof.Machine
end

section
/-!
PROOF. The security engine's flash commands (R414), the fused security version (R415) and the boot control block (R413).
-/
namespace Sys2Proof.Machine

/-! ### Registers of a block that is ON -/

theorem secAccess_of_reach {s : State} {mid : Nat} (f : State → State) (hreach : pgReach s mid .sec = .yes)
    (hon : isOn s .sec 0 = true) : secAccess s mid f = f s := gatedWrite_of_reach f hreach hon

/-! ### A flash command is taken (R414) -/

/-- FLASH_ADDR. -/
def flashAddr (s : State) : Nat := fld (rdN s 0x6064) 27 0

/-- FLASH_DATA's 64 bytes. -/
def flashData (s : State) : List Byte := (List.range 16).flatMap (fun i => leBytes (rdN s (0x6070 + 4 * i)) 4)

/-- A command is running, with the address and data of its moment. -/
def flashTaken (s : State) (code : Nat) (d : List Byte) : State :=
  { s with sec := { s.sec with flashOp := some (code, flashAddr s, d) } }

theorem length_flashData (s : State) : (flashData s).length = 64 := by
  simp [flashData, List.length_flatMap, length_leBytes]

section
variable {s : State} (hidle : s.sec.flashOp = none)
include hidle

theorem opFlash_program_of_may (hal : flashAddr s % 64 = 0) (hmay : flashMay s (flashAddr s) ≠ none) :
    opFlash s 1 = flashTaken s 1 (flashData s) :=
  (if_neg (by simp [hidle])).trans (if_pos ⟨hal, Option.isSome_iff_ne_none.2 hmay⟩)

theorem opFlash_erase_of_may (hal : flashAddr s % 4096 = 0) (hmay : flashMay s (flashAddr s) ≠ none) :
    opFlash s 2 = flashTaken s 2 [] :=
  (if_neg (by simp [hidle])).trans (if_pos ⟨hal, Option.isSome_iff_ne_none.2 hmay⟩)

theorem opFlash_read : opFlash s 3 = flashTaken s 3 [] := if_neg (by simp [hidle])

/-- A target that is not permitted is refused, to a program and to an erase. -/
theorem opFlash_of_refused (hno : flashMay s (flashAddr s) = none) :
    opFlash s 1 = wrReg s 0x606C 2 ∧ opFlash s 2 = wrReg s 0x606C 2 := by
  have hsome : (flashMay s (flashAddr s)).isSome = false := by rw [hno]; rfl
  exact ⟨(if_neg (by simp [hidle])).trans (if_neg fun h => Bool.noConfusion (hsome.symm.trans h.2)),
    (if_neg (by simp [hidle])).trans (if_neg fun h => Bool.noConfusion (hsome.symm.trans h.2))⟩

end

/-! ### A flash command is done (R414) -/

/-- The command has left, with FLASH_STS 0. -/
def flashDone (s : State) : State := wrReg { s with sec := { s.sec with flashOp := none } } 0x606C 0

section
variable {s : State} {a : Nat}

theorem execFlashCmdDone_of_program {d : List Byte} (hop : s.sec.flashOp = some (1, a, d)) :
    execFlashCmdDone true s = .next { flashDone s with flash := fProg s.flash a d } := by
  simp only [execFlashCmdDone, hop]
  rfl

theorem execFlashCmdDone_of_erase (hop : s.sec.flashOp = some (2, a, [])) :
    execFlashCmdDone true s = .next { flashDone s with flash := fErase s.flash a (a + flashSpan s 2 a) } := by
  simp only [execFlashCmdDone, hop]
  rfl

end

/-- Four bytes of the flash. -/
def flashWord (s : State) (a : Nat) : W32 := w32 (leNat ((List.range 4).map (fun j => spGet 0xFF s.flash (a + j))))

/-- FLASH_DATA takes what was read, word after word. -/
def flashRead (s : State) (a : Nat) : State :=
  (List.range 16).foldl (fun x i => wrReg x (0x6070 + 4 * i) (flashWord s (a + 4 * i))) (flashDone s)

/-- A read within the flash takes no free value. -/
theorem execFlashCmdDone_of_read {s : State} {a : Nat} (hop : s.sec.flashOp = some (3, a, []))
    (hin : a + 63 < 0x10000000) : execFlashCmdDone true s = .next (flashRead s a) := by
  have hpast : decide (0x10000000 ≤ a + 63) = false := by simp; omega
  have hword : ∀ i ∈ List.range 16, w32 (leNat ((List.range 4).map (fun j =>
      if decide (0x10000000 ≤ a + (4 * i + j)) = true then Config.freeByte s.free (4 * i + j)
      else spGet 0xFF s.flash (a + 4 * i + j)))) = flashWord s (a + 4 * i) := by
    intro i hi
    refine congrArg (fun l => w32 (leNat l)) (List.map_congr_left fun j hj => if_neg ?_)
    rw [List.mem_range] at hi hj
    simp
    omega
  simp only [execFlashCmdDone, hop, hpast]
  refine congrArg Host.Outcome.next (List.foldl_ext _ _ _ fun x i hi => ?_)
  rw [hword i hi]
  rfl

theorem regsOnly_flashRead (s : State) (a : Nat) : RegsOnly (flashDone s) (flashRead s a) :=
  foldl_regsOnly (fun x i => regsOnly_wrReg x (0x6070 + 4 * i) (flashWord s (a + 4 * i))) ..

/-- The first word stays in FLASH_DATA's first register. -/
theorem rdReg_flashRead (s : State) (a : Nat) : rdReg (flashRead s a) 0x6070 = flashWord s a := by
  have hrest : ∀ (l : List Nat) (x : State), rdReg (l.foldl (fun x i => wrReg x (0x6070 + 4 * (i + 1))
      (flashWord s (a + 4 * (i + 1)))) x) 0x6070 = rdReg x 0x6070 :=
    foldl_keeps (g := fun x => rdReg x 0x6070) fun x i => rdReg_wrReg_ne _ _ (by omega)
  rw [flashRead, List.range_succ_eq_map, List.foldl_cons, List.foldl_map, hrest]
  exact rdReg_wrReg_self ..

theorem leNat_lt : ∀ l : List Byte, leNat l < 256 ^ l.length
  | [] => by decide
  | b :: l => by
    have hb := b.isLt
    have hl := leNat_lt l
    rw [leNat, List.length_cons, Nat.pow_succ]
    omega

theorem toNat_flashWord (s : State) (a : Nat) :
    (flashWord s a).toNat = leNat ((List.range 4).map (fun j => spGet 0xFF s.flash (a + j))) := by
  rw [flashWord, w32, BitVec.toNat_ofNat]
  exact Nat.mod_eq_of_lt (by simpa using leNat_lt ((List.range 4).map (fun j => spGet 0xFF s.flash (a + j))))

/-! ### The fused security version (R415) -/

section
variable {s : State} {mid : Nat} {v : W32} (hreach : pgReach s mid .sec = .yes) (hon : isOn s .sec 0 = true)
  (hv : bit v 31 = true)
include hreach hon hv

theorem execSvnCommit_of_reach : execSvnCommit mid v s = .next (if s.fuses.svn < v.toNat % 128 ∧
    v.toNat % 128 ≤ s.boot.svn ∧ s.sec.burn.isNone ∧ !s.boot.recovery then
      jrnPut { s with sec := { s.sec with burn := some (v.toNat % 128, false) } } (recRollback s (v.toNat % 128) 1)
    else secErr s 0) := by
  simp only [execSvnCommit, secAccess_of_reach _ hreach hon, opSvnCommit, fld_zero, hv]
  rfl

end

theorem execFuseBurnDone_of_durable {s : State} {x : Nat} (hburn : s.sec.burn = some (x, true)) :
    execFuseBurnDone s = .next (burnEnd s x) := by
  simp only [execFuseBurnDone, hburn]

/-- Settles O13, command by command. -/
theorem flashAndBootControl : Obligations.FlashAndBootControl := by
  refine ⟨⟨?taken, ?programmed, ?erased, ?read⟩, ?commit, ?ignored, ?burned, ?pref, ?confirm⟩
  case taken =>
    intro mid s hreach hon hidle
    have hprogram : execFlashProgram mid s = .next (opFlash s 1) := congrArg _ (secAccess_of_reach _ hreach hon)
    have herase : execFlashErase mid s = .next (opFlash s 2) := congrArg _ (secAccess_of_reach _ hreach hon)
    have hread : execFlashRead mid s = .next (opFlash s 3) := congrArg _ (secAccess_of_reach _ hreach hon)
    refine ⟨fun hal hmay => ⟨flashData s, ?_, length_flashData s⟩, fun hno => ⟨?_, ?_⟩, fun hal hmay => ?_, ?_⟩
    · exact hprogram.trans (congrArg _ (opFlash_program_of_may hidle hal hmay))
    · exact hprogram.trans (congrArg _ (opFlash_of_refused hidle hno).1)
    · exact herase.trans (congrArg _ (opFlash_of_refused hidle hno).2)
    · exact herase.trans (congrArg _ (opFlash_erase_of_may hidle hal hmay))
    · exact hread.trans (congrArg _ (opFlash_read hidle))
  case programmed =>
    intro a d s _ hop
    refine ⟨_, execFlashCmdDone_of_program hop, rfl, rdReg_wrReg_self .., fun k hk => ?_, fun j hj => ?_, rfl⟩
    · exact (spGet_fProg ..).trans (if_neg (by omega))
    · refine (spGet_fProg ..).trans ((if_pos (by omega)).trans ?_)
      rw [Nat.add_sub_cancel_left]
  case erased =>
    intro a s _ hop
    refine ⟨_, execFlashCmdDone_of_erase hop, rfl, rdReg_wrReg_self .., fun k hlo hhi => ?_, fun k hk => ?_, rfl⟩
    · exact (spGet_fErase ..).trans (if_pos ⟨hlo, hhi⟩)
    · exact (spGet_fErase ..).trans (if_neg (by omega))
  case read =>
    intro a s hop hin
    refine ⟨_, execFlashCmdDone_of_read hop hin, by rw [regsOnly_flashRead]; rfl, ?_, by rw [regsOnly_flashRead]; rfl⟩
    rw [rdN, rdReg_flashRead, toNat_flashWord]
  case commit =>
    intro mid v s hreach hon hv hlow hhigh hburn hrec
    exact (execSvnCommit_of_reach hreach hon hv).trans (congrArg _ (if_pos ⟨hlow, hhigh, by simp [hburn], by simp [hrec]⟩))
  case ignored =>
    intro mid v s hreach hon hv hout
    refine ⟨_, (execSvnCommit_of_reach hreach hon hv).trans (congrArg _ (if_neg (by omega))), ?_, rfl⟩
    rw [secErr, show 0x60B8 = sec 0xB8 from rfl, rdReg_orReg_self, bit, BitVec.getLsbD_or]
    exact Bool.or_eq_true_iff.2 (.inr (by decide))
  case burned =>
    intro x s hburn
    exact ⟨_, execFuseBurnDone_of_durable hburn, by rw [burnEnd, jrnPut_fuses], by rw [burnEnd, jrnPut_sec],
      by rw [burnEnd, jrnPut_mem], by rw [burnEnd, jrnPut_flash]⟩
  case pref => exact fun mid v s hreach hon => congrArg Host.Outcome.next (secAccess_of_reach _ hreach hon)
  case confirm =>
    intro mid v s hreach hon hv hready
    exact congrArg Host.Outcome.next ((secAccess_of_reach _ hreach hon).trans (if_pos ⟨hv, hready⟩))

end Sys2Proof.Machine
end

section
/-!
PROOF. Clock loss and return (R359, Table 14-3), the power limiter (R368) and the thermal trips (R370).
-/
namespace Sys2Proof.Machine

/-! ### A source is lost (R359) -/

/-- The source is among those lost. -/
def sourceLost (s : State) (src : ClkSrc) : State := { s with clk := { s.clk with lost := s.clk.lost ++ [src] } }

/-- The source is no longer among those lost. -/
def sourceBack (s : State) (src : ClkSrc) : State :=
  { s with clk := { s.clk with lost := s.clk.lost.filter (fun c => c != src) } }

section
variable {s : State} {src : ClkSrc}

theorem srcOk_of_lossBit {p : Bool × Nat} (h : lossBit src = some p) : srcOk src = true := by
  cases src
  case oclk n => exact absurd h (by simp [lossBit])
  all_goals exact (congrArg Option.isSome h).trans rfl

theorem execClockLoss_of_powered (hok : srcOk src = true) (hnew : s.clk.lost.contains src = false)
    (hpow : hubPowered s = true) : execClockLoss src s = .next (clockOut (noteLoss (sourceLost s src) src) src) :=
  (if_neg (by rw [hok, hnew]; decide)).trans (if_neg (by rw [hpow]; decide))

theorem execClockLoss_of_unpowered (hok : srcOk src = true) (hnew : s.clk.lost.contains src = false)
    (hpow : hubPowered s = false) : execClockLoss src s = .next (sourceLost s src) :=
  (if_neg (by rw [hok, hnew]; decide)).trans (if_pos (by rw [hpow]; rfl))

theorem noteLoss_of_bit {r : Bool} {i : Nat} (h : lossBit src = some (r, i)) (s : State) : noteLoss s src =
    mgmt (orReg s (0x1000 + (if r then 0x4C else 0x48)) (w32 (2 ^ i))) (.clockLoss r i) := by
  simp only [noteLoss, h]

/-! ### A source returns -/

/-- Table 14-3 has the return of REFCLK, of the service clock and of HCLK do nothing. -/
theorem execClockReturn_of_plain (hlost : s.clk.lost.contains src = true) (hsrc : src = .refclk ∨ src = .sclk ∨ src = .hclk)
    (stages : Nat) (br : Bring) : execClockReturn src stages br s = .next (sourceBack s src) := by
  have hplain : src ≠ .crystal ∧ ∀ x, clockBack x src br = x := by
    rcases hsrc with rfl | rfl | rfl <;> exact ⟨by decide, fun _ => rfl⟩
  unfold execClockReturn
  rw [if_neg (by rw [hlost]; decide)]
  dsimp only
  rw [if_pos hplain.1, hplain.2]
  exact ite_self _

theorem execClockReturn_of_crystal (hlost : s.clk.lost.contains .crystal = true) (hup : s.edge.power = .up)
    (stages : Nat) (br : Bring) : execClockReturn .crystal stages br s = .next (bootRun br stages (keepHubOn (noteLosses
      (freshHub (flashCut (burnCut (sourceBack s .crystal))) false)))) := by
  have hpow : hubPowered s = true := by simp [hubPowered, hup]
  unfold execClockReturn
  rw [if_neg (by rw [hlost]; decide)]
  dsimp only
  rw [if_neg (by rw [hpow]; decide), if_neg (fun h => h rfl), if_neg (fun h => h hup)]
  rfl

end

/-- What is cut off keeps the pins and the sources. -/
theorem flashCut_burnCut_edge_clk (s : State) :
    (flashCut (burnCut s)).edge = s.edge ∧ (flashCut (burnCut s)).clk = s.clk := by
  rw [flashCut_eq, burnCut_eq]
  exact ⟨rfl, rfl⟩

/-! ### The power limiter (R368) -/

/-- PWR_NOW and PWR_AVG hold the averages. -/
def averaged (s : State) (now avg1 avg100 : Nat) : State :=
  wrReg (wrReg s (0x2000 + 0x74) (w32 (now % 65536 + 65536 * (avg1 % 65536)))) (0x2000 + 0x78) (w32 (avg100 % 65536))

/-- An average is above its share of the limit. -/
def overLimit (s : State) (avg1 avg100 : Nat) : Prop :=
  95 * fld (rdN s 0x207C) 27 16 < 100 * avg1 ∨ 98 * fld (rdN s 0x207C) 11 0 < 100 * avg100

section
variable {s : State} {now avg1 avg100 : Nat} (hup : hubUp s = true)
include hup

theorem execPowerMeasure_of_over (hover : overLimit s avg1 avg100) (hoff : s.thr.powerOn = false) :
    execPowerMeasure now avg1 avg100 s = .next (raiseLevel { averaged s now avg1 avg100 with
      thr := { s.thr with powerOn := true, powerDemand := min 4 (s.thr.level + 1), powerAt := 0 } }) := by
  have hexceeded : (decide (95 * fld (rdN s 0x207C) 27 16 < 100 * avg1) ||
      decide (98 * fld (rdN s 0x207C) 11 0 < 100 * avg100)) = true := by simpa [overLimit] using hover
  have hfirst : (!s.thr.powerOn) = true ∨ 10 ≤ s.thr.powerAt + 1 := .inl (by rw [hoff]; rfl)
  simp only [execPowerMeasure, hup, hexceeded]
  exact if_pos hfirst

theorem execPowerMeasure_of_within (hunder : ¬ overLimit s avg1 avg100) :
    execPowerMeasure now avg1 avg100 s = .next (thrFell s { averaged s now avg1 avg100 with
      thr := { s.thr with powerOn := false, powerDemand := 0, powerAt := 0 } }) := by
  have hexceeded : (decide (95 * fld (rdN s 0x207C) 27 16 < 100 * avg1) ||
      decide (98 * fld (rdN s 0x207C) 11 0 < 100 * avg100)) = false := by
    simpa [overLimit] using hunder
  simp only [execPowerMeasure, hup, hexceeded]
  rfl

end

theorem toNat_w32_of_lt {n : Nat} (h : n < 2 ^ 32) : (w32 n).toNat = n := by
  rw [w32, BitVec.toNat_ofNat, Nat.mod_eq_of_lt h]

theorem rdN_averaged (s : State) (now avg1 avg100 : Nat) :
    rdN (averaged s now avg1 avg100) 0x2074 = now % 65536 + 65536 * (avg1 % 65536) ∧
      rdN (averaged s now avg1 avg100) 0x2078 = avg100 % 65536 := by
  constructor
  · rw [averaged, rdN_wrReg_ne _ _ (by decide), rdN_wrReg_self, toNat_w32_of_lt (by omega)]
  · rw [averaged, rdN_wrReg_self, toNat_w32_of_lt (by omega)]

/-! ### The thermal trips (R370) -/

/-- The readings have been taken in. -/
def readIn (s : State) (rd : Sensors) : State :=
  thmReadings { s with thr := { s.thr with opt := if rd.optical.isEmpty then s.thr.opt else rd.optical } } rd

/-- The way to the rails' removal writes registers, events and STATE only. -/
theorem railsOff_deal (s : State) : (railsOff s).deal = s.deal := by
  have hremoved : (railsRemoved s).deal = s.deal := by
    rw [railsRemoved, foldl_keeps (g := State.deal) (fun x r => show (emit x (.rail r false)).deal = x.deal from rfl)]
    rfl
  have hmember : ∀ (x : State) (d : Nat), ((domMembers d).foldl (fun y m =>
      if blkState y m.1 m.2 = .retired ∨ blkState y m.1 m.2 = .off then y else setBlk y m.1 m.2 .off) x).deal = x.deal := by
    refine fun x d => foldl_keeps (g := State.deal) (fun y m => ?_) (domMembers d) x
    split
    · rfl
    · rw [setBlk_deal]
  unfold railsOff
  dsimp only
  rw [foldl_keeps (g := State.deal) (fun x d => show (pwrOn x d false).deal = x.deal from rfl),
    foldl_keeps (g := State.deal) hmember, hremoved]

section
variable {s : State} {rd : Sensors} (hup : hubUp s = true)
include hup

theorem execThermalRead_of_compute {i c : Nat} (hover : overAt rd.compute 115 = some (i, c)) :
    execThermalRead rd s = .next (shutdown (readIn s rd) 1 i c) := by
  simp only [execThermalRead, hup, hover]
  rfl

theorem execThermalRead_of_cool (hcomp : overAt rd.compute 115 = none) (hhub : overAt rd.hub 120 = none)
    (hboard : overAt rd.board 110 = none) : execThermalRead rd s = .next (thrFell s (raiseLevel ((List.range 8).foldl pairTherm
      (if rd.compute.isEmpty then tripAll (tripAll (readIn s rd) 1 105 rd.compute) 2 110 rd.hub
       else thermCtl (tripAll (tripAll (readIn s rd) 1 105 rd.compute) 2 110 rd.hub) rd.compute)))) := by
  simp only [execThermalRead, hup, hcomp, hhub, hboard]
  rfl

end

theorem shutdown_of_up {s : State} (hup : s.edge.power = .up) (ty i c : Nat) : shutdown s ty i c =
    { railsOff (dealerStop (tripLog s ty i c true)) with
      edge := { (tripLog s ty i c true).edge with power := .tripped, fatal := true } } :=
  if_neg (by rw [hup]; decide)

/-- Settles O8, event by event. -/
theorem clocksAndHeat : Obligations.ClocksAndHeat := by
  refine ⟨⟨?lost, ?lostOptical, fun src s hok hnew hpow => execClockLoss_of_unpowered hok hnew hpow,
    fun src stages br s hlost hsrc => execClockReturn_of_plain hlost hsrc stages br, ?crystal⟩, ?exceeded, ?within, ?trip, ?cool⟩
  case lost =>
    intro src r i s hbit hnew hpow
    have hexec := execClockLoss_of_powered (srcOk_of_lossBit hbit) hnew hpow
    rw [noteLoss_of_bit hbit] at hexec
    exact ⟨_, hexec, rfl, rfl, rdReg_orReg_self .., rfl, rfl, rfl, rfl⟩
  case lostOptical =>
    intro n s hn hnew hpow
    exact execClockLoss_of_powered (decide_eq_true hn) hnew hpow
  case crystal =>
    intro stages br s hlost hup
    obtain ⟨hedge, hclk⟩ := flashCut_burnCut_edge_clk (sourceBack s .crystal)
    have hback : (sourceBack s .crystal).clk.lost.contains .crystal = false := by simp [sourceBack]
    refine ⟨_, execClockReturn_of_crystal hlost hup stages br, rfl, ?_, ?_, rfl, rfl, rfl, rfl, rfl⟩
    · simp only [freshHub, hedge, hclk, hback]
      exact Bool.and_eq_true_iff.2 ⟨by simp [sourceBack, hup], rfl⟩
    · simp only [freshHub, hclk, hback]
  case exceeded =>
    intro now avg1 avg100 s hover hup hoff
    exact ⟨_, execPowerMeasure_of_over hup hover hoff, rfl, (rdN_averaged s now avg1 avg100).2⟩
  case within =>
    intro now avg1 avg100 s hup h1 h100
    exact ⟨_, execPowerMeasure_of_within hup (not_or.2 ⟨h1, h100⟩), rfl, rdN_averaged s now avg1 avg100⟩
  case trip =>
    intro rd i c s hup hcrystal hover
    have hhub : hubUp s = true := by simp only [hubUp, hubPowered, hup, hcrystal]; rfl
    have hexec := execThermalRead_of_compute hhub hover
    rw [shutdown_of_up (by exact hup)] at hexec
    refine ⟨_, hexec, rfl, by simp [faultN, hubPowered], ?_, ?_, ?_, rfl, rfl, rfl, rfl, rfl⟩
    all_goals
      dsimp only
      rw [railsOff_deal]
      rfl
  case cool =>
    intro rd s hup hcomp hhub hboard
    refine ⟨_, execThermalRead_of_cool hup hcomp hhub hboard, ?_, rfl, rfl, rfl⟩
    exact (rdN_wrReg_self ..).trans (toNat_w32_of_lt (by omega))

end Sys2Proof.Machine
end

section
/-!
PROOF. Channel migration and retraining (R384 to R388, Tables 15-4 and 15-5).
-/
namespace Sys2Proof.Machine

/-! ### Requests (R384, R385, Table 15-4) -/

theorem bitN_toNat (v : W32) (i : Nat) : bitN v.toNat i = bit v i := by
  rw [bit, BitVec.getLsbD, Nat.testBit_eq_decide_div_mod_eq]
  rfl

section
variable {s : State} {k n : Nat}

theorem migRequest_of_idle {j : Nat} {js : List Nat} (hmig : spFind s.wear.mig k = none) (hj : usableJokers s k = j :: js) :
    migRequest s k n = migBegin s k n j := by
  simp only [migRequest, hmig, hj]

theorem migRequest_of_running {m : Mig} {j : Nat} {js : List Nat} (hmig : spFind s.wear.mig k = some m)
    (hj : usableJokers s k = j :: js) (hqueue : spFind s.wear.migQueue k = none) :
    migRequest s k n = { s with wear := { s.wear with migQueue := spSet s.wear.migQueue k n } } := by
  simp only [migRequest, hmig, hj, hqueue]

theorem migRequest_of_noJoker (hj : usableJokers s k = []) : migRequest s k n = retireStack s k := by
  simp only [migRequest, hj]

/-- A request waits already: the stack is retired, joker or none. -/
theorem migRequest_of_waiting {m : Mig} {w : Nat} (hmig : spFind s.wear.mig k = some m)
    (hqueue : spFind s.wear.migQueue k = some w) : migRequest s k n = retireStack s k := by
  rcases hj : usableJokers s k with _ | ⟨j, js⟩
  · exact migRequest_of_noJoker hj
  · simp only [migRequest, hmig, hj, hqueue]

end

/-- MIG_CMD names the stack in its low three bits and the channel above them. -/
theorem execMigCmd_of_reach {s : State} {mid : Nat} {v : W32} (hreach : pgReach s mid .ras = .yes) :
    execMigCmd mid v s = .next (if bit v 8 = true ∧ isOn s .stk (v.toNat % 8) = true then
      migRequest s (v.toNat % 8) (fld v.toNat 7 3) else s) := by
  simp only [execMigCmd, pageAccess, hreach, opMigCmd, bitN_toNat, fld_zero]
  rfl

/-! ### The start (Table 15-5 steps 1 and 2) -/

section
variable {s : State} {k : Nat} {m : Mig} (hmig : spFind s.wear.mig k = some m)
include hmig

theorem execMigrationStart_of_running (hrun : chanRunning s k m.old = true) : execMigrationStart k s = .next s := by
  simp only [execMigrationStart, hmig]
  exact if_pos (.inr hrun)

theorem execMigrationStart_of_idle (hstep : m.step = 1) (hrun : chanRunning s k m.old = false) : execMigrationStart k s =
    .next { wrReg s (pageOf .stk k + 0x80 + 4 * m.ch) (w32 (m.old + 64 + 128 * m.joker)) with
      wear := { s.wear with mig := spSet s.wear.mig k { m with step := 3 } } } := by
  simp only [execMigrationStart, hmig]
  exact if_neg (by simp [hstep, hrun])

end

/-! ### The copy (Table 15-5 steps 3 to 5) -/

theorem unitsOnly_wrReg (s : State) (a : Nat) (v : W32) : UnitsOnly s (wrReg s a v) := rfl
theorem unitsOnly_wrFld (s : State) (a hi lo v : Nat) : UnitsOnly s (wrFld s a hi lo v) := rfl
theorem unitsOnly_setU (s : State) (u : Nat) (x : Nbu) : UnitsOnly s (setU s u x) := rfl

theorem unitsOnly_copyUnit (s : State) (src dst : Nat) : UnitsOnly s (copyUnit s src dst) := by
  unfold copyUnit
  exact ((unitsOnly_setU ..).trans (foldl_unitsOnly (fun x i => unitsOnly_wrReg x (pageOf .nbu dst + 0x110 + 4 * i) _) _ _)).trans
    (unitsOnly_wrReg ..)

/-- The units' state has been copied, and the old units serve no logical pair. -/
def unitsMoved (s : State) (k old joker : Nat) : State :=
  (List.range 8).foldl (fun x p => wrFld x (pageOf .nbu (272 * k + 8 * old + p) + 0x40) 11 0 0xFFF)
    ((List.range 8).foldl (fun x p => copyUnit x (272 * k + 8 * old + p) (272 * k + 8 * joker + p)) s)

theorem unitsOnly_unitsMoved (s : State) (k old joker : Nat) : UnitsOnly s (unitsMoved s k old joker) := by
  unfold unitsMoved
  exact (foldl_unitsOnly (fun x p => unitsOnly_copyUnit x (272 * k + 8 * old + p) (272 * k + 8 * joker + p)) _ _).trans
    (foldl_unitsOnly (fun x p => unitsOnly_wrFld x (pageOf .nbu (272 * k + 8 * old + p) + 0x40) 11 0 0xFFF) _ _)

/-- The joker has taken the channel over: REMAP names it, and the old channel has the joker's entry. -/
def flipped (s : State) (k : Nat) (m : Mig) : State :=
  wrReg (wrReg (unitsMoved (copyChannel s k m.old m.joker) k m.old m.joker) (pageOf .stk k + 0x80 + 4 * m.ch) (w32 m.joker))
    (pageOf .stk k + 0x80 + 4 * (if fld (remap s k 32) 5 0 = m.joker then 32 else 33)) (w32 m.old)

/-- The flip is the migration's fifth step. -/
def migFlipped (s : State) (k : Nat) (m : Mig) : State :=
  { flipped s k m with wear := { s.wear with mig := spSet s.wear.mig k { m with step := 6 } } }

theorem migFlipped_mem (s : State) (k : Nat) (m : Mig) :
    (migFlipped s k m).mem = (copyChannel s k m.old m.joker).mem := by
  rw [migFlipped, flipped, wrReg_mem, wrReg_mem, unitsOnly_unitsMoved]

theorem flipped_wear (s : State) (k : Nat) (m : Mig) : (flipped s k m).wear = s.wear := by
  rw [flipped, wrReg_wear, wrReg_wear, unitsOnly_unitsMoved]
  rfl

theorem execMigrationCopyDone_of_copying {s : State} {k : Nat} {m : Mig} (hmig : spFind s.wear.mig k = some m)
    (hstep : m.step = 3) : execMigrationCopyDone k s = .next (migFlipped s k m) := by
  simp only [execMigrationCopyDone, hmig]
  rw [if_neg (by simp [hstep]), migFlipped, ← flipped_wear s k m]
  rfl

theorem remap_congr {s t : State} (h : t.regs = s.regs) (k n : Nat) : remap t k n = remap s k n := rdN_congr h _

theorem remap_migFlipped (s : State) (k : Nat) {m : Mig} (hch : m.ch < 32) (hjoker : m.joker < 34) :
    remap (migFlipped s k m) k m.ch = m.joker := by
  have hne : pageOf .stk k + 0x80 + 4 * m.ch ≠
      pageOf .stk k + 0x80 + 4 * (if fld (remap s k 32) 5 0 = m.joker then 32 else 33) := by
    split <;> omega
  have hregs : (migFlipped s k m).regs = (flipped s k m).regs := rfl
  rw [remap_congr hregs, remap, flipped, rdN_wrReg_ne _ _ hne, rdN_wrReg_self, toNat_w32_of_lt (by omega)]

theorem place_add (k ch i : Nat) : place k ch 0 i = place k ch 0 0 + i := by
  unfold place
  omega

theorem copyChannel_dram (s : State) (k src dst : Nat) : (copyChannel s k src dst).mem.dram =
    copyBytes s.mem.dram (place k src 0 0) (place k src 0 0 + 2 ^ 31) (place k dst 0 0) := rfl

section
variable {s : State} (hwf : spWf 0 s.mem.dram = true) (k src dst : Nat)
include hwf

/-- The joker's bytes are those of the old channel. -/
theorem spGet_copyChannel_inside {i : Nat} (hi : i < 2 ^ 31) :
    spGet 0 (copyChannel s k src dst).mem.dram (place k dst 0 i) = spGet 0 s.mem.dram (place k src 0 i) := by
  rw [copyChannel_dram, spGet_copyBytes _ _ _ _ hwf, place_add k dst i, place_add k src i, if_pos (by omega),
    Nat.add_sub_cancel_left]

theorem spGet_copyChannel_outside {a : Nat} (ha : a < place k dst 0 0 ∨ place k dst 0 0 + 2 ^ 31 ≤ a) :
    spGet 0 (copyChannel s k src dst).mem.dram a = spGet 0 s.mem.dram a := by
  rw [copyChannel_dram, spGet_copyBytes _ _ _ _ hwf, if_neg (by omega)]

end

/-! ### Retraining (R388) -/

/-- A training record is put into one of a channel's eight slots. -/
theorem trainSlot_lt (s : State) (c : Nat) : trainSlot s c < 8 := by
  unfold trainSlot
  split
  · next i hi => exact List.mem_range.1 (List.mem_of_find?_eq_some hi)
  · refine List.foldlRecOn (motive := fun b : Nat × Nat => b.1 < 8) _ _ (Nat.succ_pos 7) fun b hb i hi => ?_
    split
    · split
      · exact List.mem_range.1 hi
      · exact hb
    · exact hb

/-- Both margins are at or above the limits of MARGIN_LIM. -/
def marginsGood (s : State) (timing voltage : Nat) : Bool :=
  decide (fld (rdN s 0x407C) 7 0 ≤ timing % 256) && decide (fld (rdN s 0x407C) 23 16 ≤ voltage % 256)

section
variable {s : State} {timing voltage : Nat}

theorem marginsGood_of_le (ht : rdN s 0x407C % 256 ≤ timing % 256) (hv : fld (rdN s 0x407C) 23 16 ≤ voltage % 256) :
    marginsGood s timing voltage = true := by
  rw [marginsGood, fld_zero]
  exact Bool.and_eq_true_iff.2 ⟨decide_eq_true ht, decide_eq_true hv⟩

theorem marginsGood_of_lt (h : timing % 256 < rdN s 0x407C % 256 ∨ voltage % 256 < fld (rdN s 0x407C) 23 16) :
    marginsGood s timing voltage = false := by
  rw [marginsGood, fld_zero]
  rcases h with ht | hv
  · exact Bool.and_eq_false_iff.2 (.inl (decide_eq_false (Nat.not_le.2 ht)))
  · exact Bool.and_eq_false_iff.2 (.inr (decide_eq_false (Nat.not_le.2 hv)))

end

section
variable (s : State) (k ch timing voltage : Nat)

/-- The record of a retraining, under the class in force. -/
def trainTaken : Train :=
  { temp := stkTemp s k, low := actLow s k, timing := timing % 256, voltage := voltage % 256, valid := true, used := s.time }

/-- A channel that trained has a fresh record. -/
theorem retrained_good_wear : ∃ j r, j < 8 ∧ r.valid = true ∧ r.timing = timing % 256 ∧ r.voltage = voltage % 256 ∧
    (retrained s k ch timing voltage true).wear =
      { s.wear with train := spSet s.wear.train ((34 * k + ch) * 8 + j) r } := by
  refine ⟨trainSlot s (34 * k + ch), trainTaken s k timing voltage, trainSlot_lt .., rfl, rfl, rfl, ?_⟩
  rw [retrained, if_pos rfl, trainPut, jrnPut_wear]
  rfl

/-- A channel that failed is retired. -/
theorem retrained_bad_wear : (retrained s k ch timing voltage false).wear =
    { s.wear with chRetired := s.wear.chRetired ++ [34 * k + ch] } := by
  rw [retrained, if_neg Bool.false_ne_true, chRetire, rasPut_wear]
  rfl

/-- Retraining leaves the migrations and the channels that retrain in place alone. -/
theorem retrained_mig_retrain (ok : Bool) : (retrained s k ch timing voltage ok).wear.mig = s.wear.mig ∧
    (retrained s k ch timing voltage ok).wear.retrain = s.wear.retrain := by
  cases ok
  · rw [retrained_bad_wear]
    exact ⟨rfl, rfl⟩
  · obtain ⟨j, r, -, -, -, -, hwear⟩ := retrained_good_wear s k ch timing voltage
    rw [hwear]
    exact ⟨rfl, rfl⟩

end

/-- The migration of a stack is over. -/
def migEnded (s : State) (k : Nat) : State :=
  { s with wear := { s.wear with mig := spDel s.wear.mig k, migQueue := spDel s.wear.migQueue k } }

/-- A channel no longer retrains in place. -/
def retrainEnded (s : State) (c : Nat) : State :=
  { s with wear := { s.wear with retrain := s.wear.retrain.filter (fun x => x != c) } }

section
variable {s : State} {k : Nat} (timing voltage : Nat)

/-- The old channel's retraining ends the migration. -/
theorem execRetrainDone_of_migration {m : Mig} (hmig : spFind s.wear.mig k = some m) (hstep : m.step = 6)
    (hqueue : spFind s.wear.migQueue k = none) : ∃ t, execRetrainDone k timing voltage s = .next t ∧
      t.wear = (retrained (migEnded s k) k m.old timing voltage (marginsGood s timing voltage)).wear := by
  refine ⟨jrnRemap (rasPut (retrained (migEnded s k) k m.old timing voltage (marginsGood s timing voltage)) 0x0D 2 .stk k
    m.ch (m.old + 256 * b2n (marginsGood s timing voltage))) k, ?_, ?_⟩
  · simp only [execRetrainDone, hmig, hqueue]
    exact if_neg (by simp [hstep])
  · rw [jrnRemap, jrnPut_wear, rasPut_wear]

theorem execRetrainDone_of_inPlace {c : Nat} (hmig : spFind s.wear.mig k = none)
    (hc : s.wear.retrain.find? (fun c => c / 34 == k) = some c) : execRetrainDone k timing voltage s =
      .next (retrained (retrainEnded s c) k (c % 34) timing voltage (marginsGood s timing voltage)) := by
  simp only [execRetrainDone, hmig, hc]
  rfl

theorem execRetrainDone_of_none (hmig : spFind s.wear.mig k = none)
    (hc : s.wear.retrain = []) : execRetrainDone k timing voltage s = .next s := by
  simp only [execRetrainDone, hmig, hc, List.find?_nil]

end

/-- Settles O57, step by step of a migration. -/
theorem channelMigration : Obligations.ChannelMigration := by
  refine ⟨?request, ?ignored, fun k m s hmig hstep => ⟨execMigrationStart_of_running hmig, fun hrun => ?start⟩, ?copied,
    ?ended, fun k timing voltage s hmig hc => execRetrainDone_of_none timing voltage hmig hc, ?inPlace⟩
  case request =>
    rintro mid v _ _ s hreach hv rfl rfl hon
    have hexec := (execMigCmd_of_reach (v := v) hreach).trans (congrArg Host.Outcome.next (if_pos ⟨hv, hon⟩))
    exact ⟨fun j js hmig hj => hexec.trans (congrArg _ (migRequest_of_idle hmig hj)),
      fun m j js hmig hj hqueue => hexec.trans (congrArg _ (migRequest_of_running hmig hj hqueue)),
      fun m w hmig hqueue => hexec.trans (congrArg _ (migRequest_of_waiting hmig hqueue)),
      fun hj => hexec.trans (congrArg _ (migRequest_of_noJoker hj))⟩
  case ignored =>
    intro mid v s hreach hno
    refine (execMigCmd_of_reach (v := v) hreach).trans (congrArg _ (if_neg ?_))
    rintro ⟨hv, hon⟩
    rcases hno with h | h
    · exact Bool.noConfusion (hv.symm.trans h)
    · exact Bool.noConfusion (hon.symm.trans h)
  case start =>
    exact ⟨_, execMigrationStart_of_idle hmig hstep hrun, rdReg_wrReg_self .., spFind_spSet_self ..,
      fun a ha => rdReg_wrReg_ne s _ ha, rfl⟩
  case copied =>
    intro k m s hmig hstep hch hjoker hwf
    obtain ⟨hdram, -⟩ := hwf
    refine ⟨_, execMigrationCopyDone_of_copying hmig hstep, fun i hi => ?_, fun a ha => ?_,
      remap_migFlipped s k hch hjoker, spFind_spSet_self .., ?_, ?_⟩
    all_goals rw [migFlipped_mem]
    · exact spGet_copyChannel_inside hdram k m.old m.joker hi
    · exact spGet_copyChannel_outside hdram k m.old m.joker ha
    · rfl
    · rfl
  case ended =>
    intro k timing voltage m s hmig hstep hqueue
    obtain ⟨t, hexec, hwear⟩ := execRetrainDone_of_migration timing voltage hmig hstep hqueue
    refine ⟨t, hexec, ?_, fun hbad => ?_, fun ht hv => ?_⟩
    · rw [hwear, (retrained_mig_retrain ..).1]
      exact spFind_spDel_self ..
    · rw [hwear, marginsGood_of_lt hbad, retrained_bad_wear]
      exact List.mem_append_right _ (List.mem_singleton_self _)
    · obtain ⟨j, r, hj, hvalid, htiming, hvoltage, htrain⟩ := retrained_good_wear (migEnded s k) k m.old timing voltage
      rw [hwear, marginsGood_of_le ht hv, htrain]
      exact ⟨rfl, j, r, hj, spFind_spSet_self .., hvalid, htiming, hvoltage⟩
  case inPlace =>
    intro k timing voltage c s hmig hc
    refine ⟨_, execRetrainDone_of_inPlace timing voltage hmig hc, (retrained_mig_retrain ..).2,
      (retrained_mig_retrain ..).1, fun hbad => ?_, fun ht hv => ?_⟩
    · rw [marginsGood_of_lt hbad, retrained_bad_wear]
      rfl
    · obtain ⟨j, r, -, -, -, -, htrain⟩ := retrained_good_wear (retrainEnded s c) k (c % 34) timing voltage
      rw [marginsGood_of_le ht hv, htrain]
      rfl

end Sys2Proof.Machine
end
